-- ==== Sys2Proof/Word.lean ====
section
/-! DEFINITION. The word types of the part and their plainest arithmetic.
Every multi-byte quantity of Rhoit is little-endian (00 R10). -/

namespace Sys2Proof

/-- A 32-bit register or FP32 code. -/
abbrev Word := BitVec 32

/-- A byte of a frame, a packet or a table. -/
abbrev Byte := BitVec 8

/-- A 64-bit quantity: an address, a W64 code, a time. -/
abbrev DWord := BitVec 64

end Sys2Proof
end

