-- ==== Sys2Proof/Syntax.lean ====
section
/-! DEFINITION. The commands: one constructor of `Instr` for each row of the opcode table, with the row's operands. -/

namespace Sys2Proof

/-- What the host's memory answers to the reads of one command. A byte that no segment lists reads 0.
Ranges are (first physical address, bytes). -/
structure HostView where
  /-- Segments: physical address of the first byte, then the bytes. -/
  segs : List (Nat × List Byte)
  /-- Ranges whose accesses end with BUS_ERROR or REFUSED (13 R372). -/
  busErr : List (Nat × Nat)
  /-- Ranges whose accesses receive no response within HAT_TIMEOUT (13 R371). -/
  silent : List (Nat × Nat)
  deriving DecidableEq, Repr

/-- The PLLs of a tile, and the MCLK PLL of the part (14 R387). -/
inductive Pll where
  | cclk | pclk | tbclk | mclk
  deriving DecidableEq, Repr

/-- What boot BIST finds on one tile (19 R497). -/
structure BistFinding where
  tile : BitVec 5
  /-- Logical cores (rank × 64 + file) that fail. -/
  cores : List (BitVec 12)
  /-- Page-memory rows that fail: channel, DRAM layer, bank. -/
  rows : List (BitVec 6 × BitVec 2 × BitVec 4)
  /-- Whether the tile is unrepairable. -/
  unrepairable : Bool
  deriving DecidableEq, Repr

/-- What a DMA descriptor's end is (13 R380). -/
inductive DmaEnd where
  | done | bus | timeout | fault | media
  deriving DecidableEq, Repr

/-- Who issued a host packet: the module that carried it, and its tag (13 R353). -/
structure Req where
  tile : BitVec 5
  module : BitVec 2
  tag : BitVec 12
  deriving DecidableEq, Repr

/-- A logical core (01 R25). -/
structure CoreId where
  tile : BitVec 5
  rank : BitVec 6
  file : BitVec 6
  deriving DecidableEq, Repr

/-- How an access reaches the banks of a quarter (03 R72). -/
inductive PortMode where
  /-- Consecutive 64-bit words. -/
  | linear (words : BitVec 5)
  /-- Consecutive 32-bit words. -/
  | linear32 (words : BitVec 5)
  | plateRow (r : BitVec 4)
  | plateCol (c : BitVec 4)
  deriving DecidableEq, Repr

/-- One access of a port in one cycle (03 R72 to R74): the port by its group and its place in the group, the quarter, the
offset (a plate's base for the plate modes), and whether it writes. -/
structure PortAccess where
  group : BitVec 2
  place : BitVec 2
  quarter : BitVec 2
  off : BitVec 16
  mode : PortMode
  write : Bool
  deriving DecidableEq, Repr

/-- What a core's memories meet while its work runs (03 R75, R82, R92, 04 R111). -/
inductive MemEvent where
  /-- One CCLK cycle of a core, with the accesses that its ports make. -/
  | cycle (core : CoreId) (accs : List PortAccess)
  /-- One step of a shape, with the delay of each feeder that came late. -/
  | delays (core : CoreId) (ds : List (BitVec 16))
  /-- A read that met a corrected error, at a local address. -/
  | corrected (core : CoreId) (addr : BitVec 18)
  /-- A read of the cache that met an uncorrectable error in the line at a local address. -/
  | lineLost (core : CoreId) (addr : BitVec 18)
  deriving DecidableEq, Repr

/-- What BOOT reads and finds (14 R386, 19 R497). -/
structure BootReport where
  /-- A fuse read met an uncorrectable error. -/
  fuseBad : Bool
  /-- Findings of boot BIST, used when fuse BOOT_BIST is set. -/
  bist : List BistFinding
  /-- Tiles whose sealed store does not read back with good ECC (03 R104, 16 R438). -/
  sealBad : List (BitVec 5) := []
  /-- What the memories of the cores meet while the INIT of this start-up runs (03 R76). -/
  met : List MemEvent := []
  deriving DecidableEq, Repr

/-- What a control SRAM bank meets (03 R94 to R96, 16 R438, R456); banks as 16 R444 codes them. -/
inductive SramEvent where
  /-- Cycles in which an access of a port waited for the other port. -/
  | waited (bank : BitVec 3) (port : Bool) (cycles : BitVec 32)
  /-- An operation that collided and took so many attempts in all. -/
  | collided (bank : BitVec 3) (attempts : BitVec 6)
  | corrected (bank : BitVec 3) (word : BitVec 20)
  | uncorrectable (bank : BitVec 3) (word : BitVec 20)
  /-- A word of the intake descriptor store, and whether it was uncorrectable. -/
  | descriptorStore (word : BitVec 23) (lost : Bool)
  deriving DecidableEq, Repr

/-- The source of an interrupt message (11 R320). -/
inductive IrqSrc where
  | ring (r : BitVec 6)
  | faultQueue
  | twin
  | errorLog
  deriving DecidableEq, Repr

/-- What a scrub read meets (16 R438). -/
inductive EccFinding where
  | clean
  | corrected
  | uncorrectable
  deriving DecidableEq, Repr

/-- Where the page-memory scrubber's burst lies (16 R440, R452-R455). -/
inductive ScrubTarget where
  /-- Frame data or sidecar, by local index. -/
  | frame (index : BitVec 19)
  /-- A metadata region held twice (R441): 0 map block, 1 PFT entry, 2 directory entry, 3 cold record,
  4 node, 5 bucket, 6 park slot; `index` names the entry, `both` that both copies are lost. -/
  | metadata (region : BitVec 3) (index : BitVec 24) (both : Bool)
  /-- A wide reduction buffer word. -/
  | wide (index : BitVec 28)
  /-- A master copy of a resident region. -/
  | master
  /-- A spare row. -/
  | spare
  deriving DecidableEq, Repr

/-- One burst of the page-memory scrubber. -/
structure ScrubReport where
  target : ScrubTarget
  finding : EccFinding
  layer : BitVec 2
  bank : BitVec 4
  row : BitVec 15
  /-- The row is failing by R452 (a second pass, or a write-back that reads wrong). -/
  rowFailing : Bool
  /-- The burst ends a pass of the tile. -/
  passEnd : Bool
  deriving DecidableEq, Repr

/-- The instruments of a tile segment of the IEEE 1687 network (19 R492). -/
inductive Instrument where
  | bist (cmd : BitVec 32)
  | repair (entry : BitVec 32)
  | ucie (module : BitVec 2) (shift : Nat)
  | sensors
  | worlek (shift : Nat)
  deriving DecidableEq, Repr

/-- The end of a BIST run (19 R493, R495). -/
structure BistResult where
  pass : Bool
  errors : BitVec 24
  failAddr : BitVec 64
  signature : BitVec 64
  /-- What the memories under test met (03 R76). -/
  met : List MemEvent := []
  deriving DecidableEq, Repr

/-- A HELLO message (15 R412). -/
structure Hello where
  keyId : BitVec 32
  nonce : List Byte
  serial : BitVec 64
  config : BitVec 4
  linkLevel : BitVec 8
  pageFmtLevel : BitVec 8
  np : BitVec 2
  pairing : BitVec 2
  partnerPct : BitVec 8
  flags : BitVec 8
  coldSlots : BitVec 24
  bandCrc : BitVec 32
  half : Bool
  holdsRows : Bool
  epoch : BitVec 32
  deriving DecidableEq, Repr

/-- A delta body of the ledger (15 R419). Frame, block and record numbers are the sender's. -/
inductive Delta where
  | row (row : BitVec 14) (bytes : List Byte)
  | dir (row : BitVec 14) (stream : BitVec 8) (entry : BitVec 64)
  | map (tile : BitVec 5) (block : BitVec 20) (slot : BitVec 8) (entry : BitVec 32)
  | frame (frame : BitVec 24) (word0 : BitVec 32) (refcnt : BitVec 16)
  | bytes (frame : BitVec 24) (off : BitVec 17) (data : List Byte)
  | copy (src dst : BitVec 24) (rows : BitVec 11)
  | evict (frame : BitVec 24) (tile : BitVec 5) (record : BitVec 23) (block : BitVec 20) (slot : BitVec 8)
  | recall (frame : BitVec 24) (tile : BitVec 5) (record : BitVec 23) (block : BitVec 20) (slot : BitVec 8)
  deriving DecidableEq, Repr

/-- The group a delta belongs to: its context's handle, and the ring and sequence number of its job (15 R419). -/
structure GroupId where
  handle : BitVec 32
  ring : BitVec 6
  seq : BitVec 32
  deriving DecidableEq, Repr

/-- A compare-and-count step that met an uncorrectable word (03 R89): the page of the run, and the core compared in. -/
structure BadCompare where
  page : Nat
  core : CoreId
  deriving DecidableEq, Repr

/-- What a tree operation reads: the host's memory, and the compares that met a bad word. -/
structure TreeRead where
  host : HostView
  bad : List BadCompare
  deriving DecidableEq, Repr

/-- A turn of a tile's controller: the tile, and what its control SRAM banks have met since the last. -/
structure TileTurn where
  tile : BitVec 5
  srams : List SramEvent
  deriving DecidableEq, Repr

/-- The end of an item's run: its index in the job, and what the memories of its cores have met. -/
structure ItemEnd where
  index : Nat
  met : List MemEvent
  deriving DecidableEq, Repr

/-- One command of the block: one row of the opcode table. -/
inductive Instr where
  | resetNLow | resetNRise | pwrOkFall
  | pllLockTimeout (tile : BitVec 5) (pll : Pll)
  | bootDone (report : BootReport)
  | nvmBurst (bytes : List Byte)
  | nvmTimeout
  | verify
  | init
  | pairTimeout
  | tamper
  | trstN
  | bypass (code : BitVec 8)
  | idcode
  | samplePreload (bits : Nat)
  | extest (bits : Nat)
  | ijtag (tile : BitVec 5) (instrument : Instrument)
  | mgtAccess (word : BitVec 16) (write : Bool) (data : BitVec 32)
  | scan (bits : Nat)
  | lcStep (code : BitVec 8)
  | keyWrite (slot : BitVec 8) (image : List Byte)
  | dbell (q : Req) (aux : BitVec 32) (addr : BitVec 64)
  | mgrd (q : Req) (addr : BitVec 64)
  | registerWrite (q : Req) (addr : BitVec 64) (value : BitVec 32)
  | hostPacket (q : Req) (word0 : BitVec 32) (aux : BitVec 32) (addr : BitVec 64)
  | cpl (q : Req) (status : BitVec 4) (payload : List Byte)
  | wack (q : Req) (status : BitVec 4)
  | inval (q : Req) (aux : BitVec 32) (addr : BitVec 64)
  | invalAck (q : Req)
  | requestTimeout (q : Req)
  | ucieModuleUp (tile : BitVec 5) (module : BitVec 2) (degraded : Bool)
  | ucieModuleDown (tile : BitVec 5) (module : BitVec 2)
  | ringEnable (q : Req) (ring : BitVec 6) (value : BitVec 32)
  | ringDisable (q : Req) (ring : BitVec 6) (value : BitVec 32)
  | jobRingTail (q : Req) (ring : BitVec 6) (value : BitVec 32)
  | jobCplHead (q : Req) (ring : BitVec 6) (value : BitVec 32)
  | descriptorIntake (hv : HostView)
  | descriptorAged (ring : BitVec 6)
  | openCtx (job : Nat) (hv : HostView)
  | close (job : Nat)
  | fork (job : Nat)
  | forkBinding (job : Nat)
  | park (job : Nat)
  | unpark (job : Nat) (hv : HostView)
  | append (job item : Nat) (hv : HostView)
  | attendDecode (job item : Nat) (hv : HostView)
  | attendPrefill (job item : Nat) (hv : HostView)
  | attendPartial (job item : Nat) (hv : HostView)
  | attendBackward (job item : Nat) (hv : HostView)
  | prefixLookup (job : Nat) (hv : TreeRead)
  | prefixPublish (job : Nat) (hv : TreeRead)
  | prefixDrop (job : Nat) (hv : TreeRead)
  | evict (job : Nat)
  | prefetch (job : Nat)
  | truncate (job : Nat) (hv : HostView)
  | tableLoad (job : Nat) (hv : HostView)
  | tableLoadProceed (job : Nat) (hv : HostView)
  | barrier (job : Nat)
  | phaseSwitch (job : Nat)
  | nop (job : Nat)
  | workItemDispatch (tile : TileTurn)
  | itemAged (job item : Nat)
  | workItemComplete (job : Nat) (item : ItemEnd)
  | completionRecord (job : Nat)
  | interruptMessage (src : IrqSrc)
  | batchRoundClose (tile : BitVec 5) (frame : BitVec 24)
  | batchWindowAdapt (tile : BitVec 5)
  | remoteRead (job item : Nat) (core : CoreId) (quarter : BitVec 2) (off : BitVec 16) (words : BitVec 16)
  | credit (receiver : CoreId) (window : BitVec 3) (units : BitVec 10)
  | wdata (receiver : CoreId) (window : BitVec 3) (flit : List Byte)
  | wfence (receiver : CoreId) (window : BitVec 3)
  | creditHoldTimeout (sender : CoreId)
  | mergeNode (job item target lo n : Nat)
  | atomicAdd (job item row source : Nat)
  | waveFold (job target wave : Nat)
  | hatWalk (tile : BitVec 5) (va : BitVec 48) (hv : HostView)
  | hatFqHead (q : Req) (value : BitVec 32)
  | retry (q : Req) (fault : BitVec 24)
  | fail (q : Req) (fault : BitVec 24)
  | hatTimeout (tile : BitVec 5) (place : BitVec 8)
  | hatEnable (q : Req)
  | hatDisable (q : Req)
  | dmaDescriptorEnd (tile : BitVec 5) (channel : BitVec 4) (how : DmaEnd)
  | backgroundEviction (tile : BitVec 5)
  | evictionDone (slot : Nat)
  | evictionWriteFail (slot : Nat)
  | recallDone (slot : Nat)
  | recallFail (slot : Nat)
  | cfgCommit (q : Req) (value : BitVec 32)
  | commitAdoption (unit : BitVec 6)
  | reqDrain (q : Req)
  | reqMaint (q : Req)
  | reqResume (q : Req)
  | hltTileRetain (q : Req) (value : BitVec 32)
  | hltTileGate (q : Req) (value : BitVec 32)
  | tileWake (tile : BitVec 5)
  | sramRetention (tile : BitVec 5) (bank : BitVec 3)
  | sramWake (tile : BitVec 5) (bank : BitVec 3)
  | sramBackgroundTest (tile : BitVec 5) (bank : BitVec 3) (bad : List (BitVec 8))
  | spdScrub (core : CoreId) (bank : BitVec 6) (finding : EccFinding)
  | scrubClaim (core : CoreId) (bank : BitVec 6)
  | pageMemoryScrub (tile : BitVec 5) (channel : BitVec 6) (report : ScrubReport)
  | coreFault (core : CoreId) (kind : BitVec 2)
  | coreStallTimeout (core : CoreId)
  | coreSubstitution (core : CoreId) (pass : Bool)
  | relocationDone (tile : BitVec 5)
  | anchorTakeover
  | spareAnchorBuilt
  | errLogPop (q : Req) (value : BitVec 32)
  | bistStart (q : Req) (value : BitVec 32)
  | bistDone (tile : BitVec 5) (result : BistResult)
  | burn (q : Req) (value : BitVec 32)
  | burnDone (good : Bool)
  | stepWindow (tile : BitVec 5)
  | cclkPllLock (tile : BitVec 5)
  | pllUnlock (tile : BitVec 5)
  | tempReading (tile : BitVec 5) (values : List Int)
  | voltReading (tile : BitVec 5) (values : List (BitVec 16)) (nominal : BitVec 16)
  | processReading (tile : BitVec 5) (values : List (BitVec 16))
  | sensorFail (tile : BitVec 5) (kind : BitVec 2) (sensor : BitVec 5)
  | ppsEdge (falling : Bool)
  | ppsMiss
  | linkUp (restartsSeq : Bool) (nonce : List Byte)
  | linkRetrain
  | laneLoss (lane : BitVec 5)
  | linkFrame (bytes : List Byte) (good : Bool)
  | nak (seq : BitVec 24)
  | replayTimeout
  | hello (msg : Hello)
  | auth (code : List Byte)
  | helloTimeout
  | helloRetry (nonce : List Byte)
  | heartbeatSend
  | heartbeat (time : BitVec 64) (state : BitVec 4) (epoch : BitVec 32)
  | heartbeatMiss
  | twnAutoTimeout
  | dying
  | twnFence (q : Req) (value : BitVec 32)
  | castled
  | attach (q : Req) (nonce : List Byte)
  | detach (q : Option Req)
  | detachTimeout
  | rowDelta (g : GroupId) (row : BitVec 14) (bytes : List Byte)
  | dirDelta (g : GroupId) (row : BitVec 14) (stream : BitVec 8) (entry : BitVec 64)
  | mapDelta (g : GroupId) (tile : BitVec 5) (block : BitVec 20) (slot : BitVec 8) (entry : BitVec 32)
  | frameDelta (g : GroupId) (frame : BitVec 24) (word0 : BitVec 32) (refcnt : BitVec 16)
  | bytesDelta (g : GroupId) (frame : BitVec 24) (off : BitVec 17) (data : List Byte)
  | copyDelta (g : GroupId) (src dst : BitVec 24) (rows : BitVec 11)
  | evictDelta (g : GroupId) (frame : BitVec 24) (tile : BitVec 5) (record : BitVec 23) (block : BitVec 20)
      (slot : BitVec 8)
  | recallDelta (g : GroupId) (frame : BitVec 24) (tile : BitVec 5) (record : BitVec 23) (block : BitVec 20)
      (slot : BitVec 8)
  | commitDelta (g : GroupId)
  | groupAck (g : GroupId)
  | evictAck (frame : BitVec 24)
  | evictNak (frame : BitVec 24)
  | refetch (frame : BitVec 24)
  | refetchData (frame : BitVec 24) (data : List Byte)
  | resend (frame : BitVec 24)
  | resendData (frame : BitVec 24) (data : List Byte)
  | repairTestDone (frame : BitVec 24) (pass : Bool)
  | evictBudgetElapsed (job item : Nat)
  deriving DecidableEq, Repr

end Sys2Proof
end

