-- ==== Sys2Proof/Decode.lean ====
section
/-! DEFINITION. Commands from words. The table gives no row any bits (the spec names commands by what happens, not by
a code), so no word spells a command. -/

namespace Sys2Proof

/-- The command that a word spells by the table's bits: none, for no row gives bits. -/
def decodeTableWord (_nbits _w : Nat) : Option Instr := none

end Sys2Proof
end

