-- ==== Sys2Proof/Machine/Bytes.lean ====
section
/-! DEFINITION. Byte strings and little-endian fields (00 R10). -/

namespace Sys2Proof.Machine

/-- The `n` bytes of a number, lowest address first. -/
def leBytes (n : Nat) (v : Nat) : List Byte := (List.range n).map (fun i => BitVec.ofNat 8 (v >>> (8 * i)))

/-- The number that bytes spell, lowest address first. -/
def ofLe : List Byte → Nat
  | [] => 0
  | b :: bs => b.toNat + 256 * ofLe bs

/-- Bytes `off` to `off + n - 1`, zero beyond the end. -/
def bytesAt (bs : List Byte) (off n : Nat) : List Byte :=
  let t := (bs.drop off).take n
  t ++ List.replicate (n - t.length) 0#8

/-- The little-endian field of `n` bytes at `off`. -/
def fieldAt (bs : List Byte) (off n : Nat) : Nat := ofLe (bytesAt bs off n)

/-- Bits `hi` to `lo` of a number. -/
def bits (v hi lo : Nat) : Nat := (v >>> lo) % 2 ^ (hi + 1 - lo)

/-- Bit `i` of a number. -/
def bit (v i : Nat) : Bool := v.testBit i

/-- Zero bytes. -/
def zeroBytes (n : Nat) : List Byte := List.replicate n 0#8

/-- Pads or cuts to exactly `n` bytes. -/
def padTo (n : Nat) (bs : List Byte) : List Byte := bytesAt bs 0 n

/-- A boolean as a number. -/
def b2n (b : Bool) : Nat := if b then 1 else 0

/-- Whether every byte of a range is zero. -/
def allZero (bs : List Byte) : Bool := bs.all (fun b => b == 0#8)

/-- Packs codes of `w` bits without gaps, bits numbered little-endian (02 R41). -/
def packCodes (w : Nat) (cs : List Nat) : Nat :=
  cs.foldr (fun c acc => c % 2 ^ w + 2 ^ w * acc) 0

/-- Bytes of packed codes. -/
def packBytes (w : Nat) (cs : List Nat) : List Byte := leBytes ((w * cs.length + 7) / 8) (packCodes w cs)

/-- Unpacks `n` codes of `w` bits from a number. -/
def unpackCodes (w : Nat) : Nat → Nat → List Nat
  | 0, _ => []
  | n + 1, v => v % 2 ^ w :: unpackCodes w n (v / 2 ^ w)

/-- Unpacks `n` codes of `w` bits from bytes (02 R41). -/
def unpackBytes (w n : Nat) (bs : List Byte) : List Nat := unpackCodes w n (ofLe (bs.take ((w * n + 7) / 8)))

/-- Round up to a multiple. -/
def roundUp (n m : Nat) : Nat := (n + m - 1) / m * m

/-- Division rounded up. -/
def ceilDiv (n m : Nat) : Nat := (n + m - 1) / m

end Sys2Proof.Machine
end

