-- ==== Sys2Proof/Config.lean ====
section
/-! DEFINITION. The free values of the model: what the spec leaves open.
Each is an opaque constant, so no proof can see what it is. -/

namespace Sys2Proof.Config

/-- The NP2 result of special function `fn` (05 R133 code) on the 32-bit input `x`, result number `k`.
05 R140 bounds it; inside the bound it is free (log entry 10). -/
opaque np2 (fn : Nat) (x : Word) (k : Nat) : Word

/-- The bits that a scan chain, an instrument or a burned cell answers where the spec gives none
(19 R488, R492), for the `n`-th such question of a run (log entry 11). -/
opaque freeBits (n : Nat) : Nat

/-- The rows of a SELECT section (12 R332): the spec names the key and the nest, and gives the rows no layout. Each row
is [kind, stage, format of A, format of B, head dimension, span, shape, offset of the nest]. Free (log entry 30). -/
opaque selectRows (bytes : List Byte) : List (List Nat)

/-- The conversion chains that an image holds (02 R53): each is the list of its steps' target formats as chain codes, the
FINAL one last. The spec gives chains no place in the image. Free (log entry 32). -/
opaque chains (image : List Byte) : List (List Nat)

/-- The spare DRAM rows that a tile is built with: the spec gives each bank 32 (16 R452) and does not count the banks.
Free (log entry 33). -/
opaque rowSpares (tile : Nat) : Nat

/-- The value that the scheduler fills into word `i` of a nest template (12 R332): which regions a work item's data occupies, and
which levels follow its rows or pages, the spec leaves to the image. The facts are the job kind, stage, shape, tile, context row,
stream, query block, first row, number of rows, and the page or row of the run. Free (log entry 30). -/
opaque nestFill (facts : List Nat) (i : Nat) : Nat

end Sys2Proof.Config
end

