-- ==== Sys2Proof/Machine/Formats.lean ====
section
/-! DEFINITION. Number formats, decoding to exact values, and the rounding functions of 02 R34 to R55. -/

namespace Sys2Proof.Machine

/-- The sticky flags of 02 R63: bit 0 INEXACT, 1 UNDERFLOW, 2 OVERFLOW, 3 INVALID, 4 INT_SAT, 5 REPEAT. -/
abbrev Flags := BitVec 6

def flInexact : Flags := 1#6
def flUnderflow : Flags := 2#6
def flOverflow : Flags := 4#6
def flInvalid : Flags := 8#6
def flIntSat : Flags := 16#6
def flRepeat : Flags := 32#6

/-- What a numeric computation leaves beside its value: the sticky flags of 02 R63 and the events that
the Cuboid counters of 04 R132 count. -/
structure Acc where
  flags : Flags := 0#6
  repeats : Nat := 0
  satTiles : Nat := 0
  spills : Nat := 0
  /-- Spill slots written (04 R121): the nest's first slot, and the word the slot holds at the end of the reduction. -/
  slots : List (Nat × DWord) := []
  deriving DecidableEq, Repr

/-- A computation that sets sticky flags (02 R63) and counts Cuboid events (04 R132). -/
abbrev FM := StateM Acc

/-- Sets sticky flags. -/
def setFlag (f : Flags) : FM Unit := modify (fun g => { g with flags := g.flags ||| f })

/-- Runs a computation from clear flags. -/
def runFM {α : Type} (c : FM α) : α × Acc := Id.run (StateT.run c {})

/-- Runs a computation whose flags the spec discards (02 R57, R62). -/
def quiet {α : Type} (c : FM α) : FM α := pure (runFM c).1

/-- Joins what two computations left. -/
def joinAcc (a b : Acc) : Acc :=
  { flags := a.flags ||| b.flags, repeats := a.repeats + b.repeats
    satTiles := a.satTiles + b.satTiles, spills := a.spills + b.spills
    slots := a.slots ++ b.slots }

/-- Adds what a finished computation left (04 R64: the flags of the execution that counts). -/
def addAcc (a : Acc) : FM Unit := modify (fun g => joinAcc g a)

/-- The floating-point formats of 02 R34; INT8 and INT32 are integer roles. -/
inductive Fmt where
  | e2m1 | e2m3 | e3m2 | e4m3 | e5m2 | fp16 | bf16 | fp32 | w64 | ue4m3 | ue8m0
  deriving DecidableEq, Repr

/-- How a format codes infinities and NaNs (02 R37). -/
inductive Specials where
  | none
  | nanOnly
  | ieee
  deriving DecidableEq, Repr

/-- One row of the table of 02 R37. -/
structure FmtInfo where
  width : Nat
  ebits : Nat
  mbits : Nat
  bias : Nat
  signed : Bool
  specials : Specials
  deriving DecidableEq, Repr

def fmtInfo : Fmt → FmtInfo
  | .e2m1 => ⟨4, 2, 1, 1, true, .none⟩
  | .e2m3 => ⟨6, 2, 3, 1, true, .none⟩
  | .e3m2 => ⟨6, 3, 2, 3, true, .none⟩
  | .e4m3 => ⟨8, 4, 3, 7, true, .nanOnly⟩
  | .e5m2 => ⟨8, 5, 2, 15, true, .ieee⟩
  | .fp16 => ⟨16, 5, 10, 15, true, .ieee⟩
  | .bf16 => ⟨16, 8, 7, 127, true, .ieee⟩
  | .fp32 => ⟨32, 8, 23, 127, true, .ieee⟩
  | .w64 => ⟨64, 11, 52, 1023, true, .ieee⟩
  | .ue4m3 => ⟨8, 4, 3, 7, false, .nanOnly⟩
  | .ue8m0 => ⟨8, 8, 0, 127, false, .nanOnly⟩

/-- A decoded value: a NaN (quiet or signalling), an infinity, or exactly `(-1)^neg * man * 2^exp`. -/
inductive Val where
  | nan (signalling : Bool)
  | inf (neg : Bool)
  | fin (neg : Bool) (man : Nat) (exp : Int)
  deriving DecidableEq, Repr

/-- Code of the largest finite magnitude of a format (02 R40). -/
def maxCode (f : Fmt) : Nat :=
  let i := fmtInfo f
  match i.specials with
  | .none => 2 ^ (i.ebits + i.mbits) - 1
  | .nanOnly => 2 ^ (i.ebits + i.mbits) - 2
  | .ieee => (2 ^ i.ebits - 1) * 2 ^ i.mbits - 1

/-- Magnitude code of the infinity of an IEEE-like format (02 R40). -/
def infCode (f : Fmt) : Nat := maxCode f + 1

/-- The canonical NaN of a format (02 R40), sign 0. -/
def nanCode (f : Fmt) : Nat :=
  let i := fmtInfo f
  match f with
  | .e5m2 => 0x7F
  | _ =>
    match i.specials with
    | .ieee => infCode f + 2 ^ (i.mbits - 1)
    | _ => 2 ^ (i.ebits + i.mbits) - 1

/-- The weight of the least significant mantissa bit of the subnormals. -/
def minQuantum (f : Fmt) : Int := 1 - ((fmtInfo f).bias : Int) - ((fmtInfo f).mbits : Int)

/-- Exponent of the least normal value (02 R37). -/
def minNormalExp (f : Fmt) : Int := 1 - ((fmtInfo f).bias : Int)

/-- Value of a finite magnitude code: normal and subnormal formulas of chapter 02. -/
def decodeMag (f : Fmt) (c : Nat) : Nat × Int :=
  let i := fmtInfo f
  let e := c / 2 ^ i.mbits
  let m := c % 2 ^ i.mbits
  if e = 0 then (m, minQuantum f) else (2 ^ i.mbits + m, minQuantum f + (e : Int) - 1)

/-- Decodes a code exactly (02 R37, R39, R49). UE8M0 has no subnormal and no zero. -/
def decode (f : Fmt) (code : Nat) : Val :=
  let i := fmtInfo f
  match f with
  | .ue8m0 => if code % 256 = 255 then .nan false else .fin false 1 ((code % 256 : Nat) - 127)
  | .ue4m3 =>
    -- 02 R38: a byte with bit 7 set, or 7Fh, is a NaN scale
    if code % 256 ≥ 127 then .nan false
    else let d := decodeMag f (code % 128); .fin false d.1 d.2
  | _ =>
    let mag := code % 2 ^ (i.ebits + i.mbits)
    let neg := decide ((code / 2 ^ (i.ebits + i.mbits)) % 2 = 1)
    if mag ≤ maxCode f then let d := decodeMag f mag; .fin neg d.1 d.2
    else
      match i.specials with
      | .ieee =>
        if mag = infCode f then .inf neg
        else .nan (decide (16 ≤ i.width) && decide ((mag / 2 ^ (i.mbits - 1)) % 2 = 0))
      | _ => .nan false

/-- floor(log2(num/den * 2^e)) for positive num and den. -/
def log2Ratio (num den : Nat) (e : Int) : Int :=
  let k : Int := (Nat.log2 num : Int) - (Nat.log2 den : Int)
  let lhs := num * 2 ^ (-k).toNat
  let rhs := den * 2 ^ k.toNat
  (if lhs ≥ rhs then k else k - 1) + e

/-- floor(num/den * 2^sh) and whether a remainder is left, and how twice it compares with the divisor. -/
def scaleDiv (num den : Nat) (sh : Int) : Nat × Nat × Nat :=
  let n := num * 2 ^ sh.toNat
  let d := den * 2 ^ (-sh).toNat
  (n / d, n % d, d)

/-- Quotient rounded to nearest, ties to even. -/
def rneDiv (num den : Nat) (sh : Int) : Nat :=
  let r := scaleDiv num den sh
  if 2 * r.2.1 > r.2.2 ∨ (2 * r.2.1 = r.2.2 ∧ r.1 % 2 = 1) then r.1 + 1 else r.1

/-- The quantum exponent at which `num/den * 2^e` is rounded in format `f`. -/
def quantumOf (f : Fmt) (num den : Nat) (e : Int) : Int :=
  max (log2Ratio num den e - ((fmtInfo f).mbits : Int)) (minQuantum f)

/-- Magnitude code of `n * 2^q`, with `n` at most one binade above the mantissa. -/
def packMag (f : Fmt) (n : Nat) (q : Int) : Nat :=
  (q - minQuantum f).toNat * 2 ^ (fmtInfo f).mbits + n

/-- Adds the sign bit to a magnitude code. -/
def withSign (f : Fmt) (neg : Bool) (mag : Nat) : Nat :=
  let i := fmtInfo f
  if neg && i.signed then 2 ^ (i.ebits + i.mbits) + mag else mag

/-- Result of rounding a positive ratio: the magnitude code, whether it is inexact, whether the
exact value lies below the least normal, and whether the rounded value passes the largest finite. -/
structure Rounded where
  mag : Nat
  inexact : Bool
  tiny : Bool
  past : Bool
  deriving DecidableEq, Repr

/-- Rounds `num/den * 2^e` (num, den positive) to nearest even in `f` with an unbounded upper range (02 R51). -/
def roundRatio (f : Fmt) (num den : Nat) (e : Int) : Rounded :=
  let q := quantumOf f num den e
  let n := rneDiv num den (e - q)
  let r := scaleDiv num den (e - q)
  let mag := packMag f n q
  { mag := mag
    inexact := decide (r.2.1 ≠ 0)
    tiny := decide (log2Ratio num den e < minNormalExp f)
    past := decide (maxCode f < mag) }

/-- Flags that a rounding to `f` sets, saturating or not (02 R63). -/
def roundFlags (r : Rounded) : Flags :=
  (if r.inexact || r.past then flInexact else 0#6) |||
  (if r.tiny && r.inexact then flUnderflow else 0#6) |||
  (if r.past then flOverflow else 0#6)

/-- rne_f of a finite ratio with its sign (02 R51): overflow gives infinity, or NaN where f has none. -/
def rneRatio (f : Fmt) (neg : Bool) (num den : Nat) (e : Int) : FM Nat :=
  if num = 0 then pure (withSign f neg 0) else do
    let r := roundRatio f num den e
    setFlag (roundFlags r)
    pure (if r.past then
        (if (fmtInfo f).specials = .ieee then withSign f neg (infCode f) else nanCode f)
      else withSign f neg r.mag)

/-- rne_sat_f of a finite ratio (02 R46, R51): overflow gives the largest finite value. -/
def rneSatRatio (f : Fmt) (neg : Bool) (num den : Nat) (e : Int) : FM Nat :=
  if num = 0 then pure (withSign f neg 0) else do
    let r := roundRatio f num den e
    setFlag (roundFlags r)
    pure (withSign f neg (if r.past then maxCode f else r.mag))

/-- rne_f of any value (02 R51, R60). -/
def rneVal (f : Fmt) (v : Val) : FM Nat :=
  match v with
  | .nan sig => do
    if sig then setFlag flInvalid
    pure (nanCode f)
  | .inf neg =>
    if (fmtInfo f).specials = .ieee then pure (withSign f neg (infCode f))
    else do setFlag flInvalid; pure (nanCode f)
  | .fin neg m e => rneRatio f neg m 1 e

/-- rne_sat_f of any value (02 R47, R51, R60): infinity in E5M2 stays, in E4M3 becomes NaN with INVALID. -/
def rneSatVal (f : Fmt) (v : Val) : FM Nat :=
  match v with
  | .fin neg m e => rneSatRatio f neg m 1 e
  | w => rneVal f w

/-- rto_f (02 R51): truncation with the last bit forced; no flag. -/
def rtoVal (f : Fmt) (v : Val) : Nat :=
  match v with
  | .nan _ => nanCode f
  | .inf neg => if (fmtInfo f).specials = .ieee then withSign f neg (infCode f) else nanCode f
  | .fin neg m e =>
    if m = 0 then withSign f neg 0 else
      let q := quantumOf f m 1 e
      let r := scaleDiv m 1 (e - q)
      let t := if r.2.1 ≠ 0 ∧ r.1 % 2 = 0 then r.1 + 1 else r.1
      let mag := packMag f r.1 q
      withSign f neg (if mag > maxCode f ∨ (mag = maxCode f ∧ r.2.1 ≠ 0) then maxCode f else packMag f t q)

/-- ru_ue4m3 (02 R44, R51): the least UE4M3 value not below a ratio of at most 448. -/
def ruUe4m3 (num den : Nat) (e : Int) : Nat :=
  if num = 0 then 0 else
    let q := quantumOf .ue4m3 num den e
    let r := scaleDiv num den (e - q)
    packMag .ue4m3 (if r.2.1 ≠ 0 then r.1 + 1 else r.1) q

/-- Whether a value is a NaN. -/
def Val.isNan : Val → Bool
  | .nan _ => true
  | _ => false

/-- Whether a value is finite. -/
def Val.isFinite : Val → Bool
  | .fin _ _ _ => true
  | _ => false

/-- flush_f (02 R51) of a decoded value. -/
def flushVal (f : Fmt) (v : Val) : Val :=
  match v with
  | .fin neg m e => if m ≠ 0 ∧ log2Ratio m 1 e < minNormalExp f then .fin neg 0 0 else v
  | w => w

/-- Decodes an operand of an operation under the job's mode (02 R55): FP32 and W64 inputs are flushed in fast mode. -/
def operand (strict : Bool) (f : Fmt) (code : Nat) : Val :=
  if !strict && (f = .fp32 || f = .w64) then flushVal f (decode f code) else decode f code

/-- An FP32 operand. -/
def operand32 (strict : Bool) (w : Word) : Val := operand strict .fp32 w.toNat

/-- Rounds a result to FP32 or W64 under the job's mode (02 R55): fast mode flushes exact results below the least normal. -/
def roundMode (strict : Bool) (f : Fmt) (v : Val) : FM Nat :=
  match v with
  | .fin neg m e =>
    if !strict && m ≠ 0 && decide (log2Ratio m 1 e < minNormalExp f) then do
      setFlag (flInexact ||| flUnderflow)
      pure (withSign f neg 0)
    else rneRatio f neg m 1 e
  | w => rneVal f w

/-- rne_fp32 under the job's mode. -/
def round32 (strict : Bool) (v : Val) : FM Word := do
  let n ← roundMode strict .fp32 v
  pure (BitVec.ofNat 32 n)

/-- rne_w64 under the job's mode. -/
def round64 (strict : Bool) (v : Val) : FM DWord := do
  let n ← roundMode strict .w64 v
  pure (BitVec.ofNat 64 n)

/-- Exact sum of two dyadic values, as a signed integer over the lesser exponent. -/
def addFin (na : Bool) (ma : Nat) (ea : Int) (nb : Bool) (mb : Nat) (eb : Int) : Val :=
  let e := min ea eb
  let a : Int := (if na then -1 else 1) * (ma * 2 ^ (ea - e).toNat : Nat)
  let b : Int := (if nb then -1 else 1) * (mb * 2 ^ (eb - e).toNat : Nat)
  let t := a + b
  if t = 0 then
    -- 02 R60: an exact zero is +0 unless both terms are -0
    .fin (na && nb && decide (ma = 0) && decide (mb = 0)) 0 0
  else .fin (decide (t < 0)) t.natAbs e

/-- Raises INVALID for a signalling NaN operand (02 R60). -/
def consume (v : Val) : FM Unit :=
  match v with
  | .nan true => setFlag flInvalid
  | _ => pure ()

/-- Exact sum of two values (02 R60). -/
def addVal (a b : Val) : FM Val := do
  consume a
  consume b
  match a, b with
  | .nan _, _ => pure (.nan false)
  | _, .nan _ => pure (.nan false)
  | .inf x, .inf y => if x = y then pure (.inf x) else do setFlag flInvalid; pure (.nan false)
  | .inf x, .fin _ _ _ => pure (.inf x)
  | .fin _ _ _, .inf y => pure (.inf y)
  | .fin na ma ea, .fin nb mb eb => pure (addFin na ma ea nb mb eb)

/-- Exact product of two values (02 R60). -/
def mulVal (a b : Val) : FM Val := do
  consume a
  consume b
  match a, b with
  | .nan _, _ => pure (.nan false)
  | _, .nan _ => pure (.nan false)
  | .inf x, .inf y => pure (.inf (x ^^ y))
  | .inf x, .fin y m _ => if m = 0 then do setFlag flInvalid; pure (.nan false) else pure (.inf (x ^^ y))
  | .fin x m _, .inf y => if m = 0 then do setFlag flInvalid; pure (.nan false) else pure (.inf (x ^^ y))
  | .fin na ma ea, .fin nb mb eb => pure (.fin (na ^^ nb) (ma * mb) (ea + eb))

/-- The negative of a value. -/
def negVal : Val → Val
  | .nan s => .nan s
  | .inf n => .inf (!n)
  | .fin n m e => .fin (!n) m e

/-- Multiplies a value by a power of two, exactly. -/
def scaleVal (v : Val) (k : Int) : Val :=
  match v with
  | .fin n m e => .fin n m (e + k)
  | w => w

/-- FP32 sum (02 R52). -/
def fadd (strict : Bool) (a b : Word) : FM Word := do
  let v ← addVal (operand32 strict a) (operand32 strict b)
  round32 strict v

/-- FP32 difference. -/
def fsub (strict : Bool) (a b : Word) : FM Word := do
  let v ← addVal (operand32 strict a) (negVal (operand32 strict b))
  round32 strict v

/-- FP32 product. -/
def fmul (strict : Bool) (a b : Word) : FM Word := do
  let v ← mulVal (operand32 strict a) (operand32 strict b)
  round32 strict v

/-- Fused multiply-add of the vector lanes, one rounding (02 R52): a * b + c. -/
def ffma (strict : Bool) (a b c : Word) : FM Word := do
  let p ← mulVal (operand32 strict a) (operand32 strict b)
  let v ← addVal p (operand32 strict c)
  round32 strict v

/-- Negation is a sign change of the code. -/
def fneg (a : Word) : Word := a ^^^ 0x80000000#32

/-- W64 sum (02 R52). -/
def wadd (strict : Bool) (a b : DWord) : FM DWord := do
  let v ← addVal (operand strict .w64 a.toNat) (operand strict .w64 b.toNat)
  round64 strict v

/-- Exact promotion FP32 to W64 (02 R52), a data move: it raises no flag and keeps a NaN canonical. -/
def toW64 (a : Word) : DWord := BitVec.ofNat 64 (rtoVal .w64 (decode .fp32 a.toNat))

/-- W64 to FP32, one rounding. -/
def w64To32 (strict : Bool) (a : DWord) : FM Word := round32 strict (operand strict .w64 a.toNat)

/-- Order of two values, none when either is a NaN. -/
def cmpVal (a b : Val) : Option Ordering :=
  match a, b with
  | .nan _, _ => none
  | _, .nan _ => none
  | .inf x, .inf y => some (if x = y then .eq else if x then .lt else .gt)
  | .inf x, .fin _ _ _ => some (if x then .lt else .gt)
  | .fin _ _ _, .inf y => some (if y then .gt else .lt)
  | .fin na ma ea, .fin nb mb eb =>
    let e := min ea eb
    let x : Int := (if na then -1 else 1) * (ma * 2 ^ (ea - e).toNat : Nat)
    let y : Int := (if nb then -1 else 1) * (mb * 2 ^ (eb - e).toNat : Nat)
    some (if x < y then .lt else if x = y then .eq else .gt)

/-- Ordered comparison a < b of FP32 values: false when either is a NaN, INVALID for a signalling one (02 R60). -/
def flt (strict : Bool) (a b : Word) : FM Bool := do
  let x := operand32 strict a
  let y := operand32 strict b
  consume x
  consume y
  pure (decide (cmpVal x y = some .lt))

/-- Maximum of two FP32 values (02 R60): a NaN propagates, +0 beats -0. -/
def fmax (strict : Bool) (a b : Word) : FM Word := do
  let x := operand32 strict a
  let y := operand32 strict b
  consume x
  consume y
  match cmpVal x y with
  | none => pure 0x7FC00000#32
  | some .lt => round32 strict y
  | some .gt => round32 strict x
  | some .eq =>
    match x, y with
    | .fin na 0 _, .fin nb 0 _ => pure (if na && nb then 0x80000000#32 else 0#32)
    | _, _ => round32 strict x

/-- A conversion step marked FINAL (02 R52): saturating for formats of 8 bits and under. -/
def convertFinal (f : Fmt) (v : Val) : FM Nat :=
  if (fmtInfo f).width ≤ 8 then rneSatVal f v else rneVal f v

/-- An INT8 operand as its integer value, exactly (02 R49, R50). -/
def decodeInt8 (b : BitVec 8) : Val := .fin (decide (b.toInt < 0)) b.toInt.natAbs 0

/-- Conversion to INT8 (02 R60): round to nearest even, then saturate: a value above 127 that rounds to 127 only sets INEXACT
(log entry 225). -/
def toInt8 (v : Val) : FM (BitVec 8) :=
  match v with
  | .nan _ => do setFlag flInvalid; pure 0#8
  | .inf neg => do setFlag flIntSat; pure (if neg then 0x80#8 else 0x7F#8)
  | .fin neg m e =>
    let n := rneDiv m 1 e
    let r := scaleDiv m 1 e
    if neg && decide (n > 128) then do setFlag flIntSat; pure 0x80#8
    else if !neg && decide (n > 127) then do setFlag flIntSat; pure 0x7F#8
    else do
      if r.2.1 ≠ 0 then setFlag flInexact
      pure (BitVec.ofInt 8 (if neg then -(n : Int) else n))

/-- Significand bits of a format (02 R49). -/
def sigBits (f : Fmt) : Nat := (fmtInfo f).mbits + 1

/-- Exponent of the least positive value of a format (02 R53). -/
def leastExp (f : Fmt) : Int := if f = .ue8m0 then -127 else minQuantum f

/-- Whether `mid` may stand before `fin` in a conversion chain (02 R53). -/
def chainStepOk (mid fin : Fmt) : Bool :=
  decide (sigBits mid ≥ sigBits fin + 2) &&
  (let a := decodeMag mid (maxCode mid)
   let b := decodeMag fin (maxCode fin)
   decide (a.1 * 2 ^ (a.2 - min a.2 b.2).toNat ≥ b.1 * 2 ^ (b.2 - min a.2 b.2).toNat)) &&
  decide (leastExp mid ≤ leastExp fin - 2)

end Sys2Proof.Machine
end

