-- ==== Sys2Proof/Machine/Cuboid.lean ====
section
/-! DEFINITION. The Cuboid: modes, summation by configuration class, spill points, the overflow repeat,
multipass products, the integer path, and the combination of several cores' results (02 R54 to R59, 04 R114 to R131). -/

namespace Sys2Proof.Machine

/-- Numerics control of a job together with the class of the part (02 R56, 04 R118). `passes` is 1, 2 or 3. -/
structure NumCtl where
  passes : Nat
  strict : Bool
  chunked : Bool
  /-- native mode of 12 R341; false is the any-size mode of NP1 -/
  native : Bool := true
  deriving DecidableEq, Repr

/-- One Cuboid operand: its decoded value and whether it arrived in FP32 (02 R57). -/
structure Opnd where
  val : Val
  wide : Bool
  deriving DecidableEq, Repr

/-- An FP32 operand of the Cuboid. -/
def opnd32 (c : NumCtl) (w : Word) : Opnd := { val := operand32 c.strict w, wide := true }

/-- The high half of an operand (02 R57). -/
def splitHi (x : Opnd) : Val :=
  if x.wide then
    match x.val with
    | .fin neg m e =>
      let r := (runFM (rneVal .bf16 (.fin neg m e))).1
      decode .bf16 (if r % 0x8000 = 0x7F80 then withSign .bf16 neg 0x7F7F else r)
    | v => v
  else x.val

/-- The low half of an operand (02 R57). -/
def splitLo (x : Opnd) : Val :=
  if x.wide then
    match x.val with
    | .fin neg m e =>
      match (runFM (addVal (.fin neg m e) (negVal (splitHi x)))).1 with
      | .fin n k d => decode .bf16 (runFM (rneVal .bf16 (.fin n k d))).1
      | _ => .fin false 0 0
    | _ => .fin false 0 0
  else .fin false 0 0

/-- A rounded product term (02 R54). -/
def prodTerm (c : NumCtl) (a b : Val) : FM Word := do
  let p ← mulVal a b
  round32 c.strict p

/-- A cross product of a multipass job: +0 without a flag when a factor is not finite (02 R57). -/
def crossTerm (c : NumCtl) (a b : Val) : FM Word :=
  if a.isFinite && b.isFinite then prodTerm c a b else pure 0#32

/-- The gated terms that native mode forms to fill the last B entry of `e` elements (12 R341, R511). -/
def fillEntry (c : NumCtl) (e : Nat) (gate : Word) (ts : List Word) : List Word :=
  if c.native && !ts.isEmpty then ts ++ List.replicate ((e - ts.length % e) % e) gate else ts

/-- Pairs consecutive terms into leaves (04 R114). A last single term is a leaf by itself, as any-size mode has it (12 R341);
native mode has filled the entry before. -/
def pairLeaves (c : NumCtl) (comb : Word → Word → FM Word) : List Word → FM (List Word)
  | [] => pure []
  | [t] => pure [t]
  | t :: u :: rest => do
    let l ← comb t u
    let ls ← pairLeaves c comb rest
    pure (l :: ls)

/-- Inserts a value of a level into the partial-register stack (04 R116): equal levels merge upward. -/
def stackInsert (c : NumCtl) (lvl : Nat) (v : Word) : List (Nat × Word) → FM (List (Nat × Word))
  | [] => pure [(lvl, v)]
  | (l, p) :: rest =>
    if l = lvl then do
      let w ← fadd c.strict p v
      stackInsert c (lvl + 1) w rest
    else pure ((lvl, v) :: (l, p) :: rest)

/-- Builds the partial registers of one block (04 R116). -/
def stackBuild (c : NumCtl) (leaves : List Word) : FM (List (Nat × Word)) :=
  leaves.foldlM (fun st v => stackInsert c 0 v st) []

/-- The sum of a block: the root, or the fold of the valid levels in ascending order (04 R117). -/
def blockSum (c : NumCtl) (leaves : List Word) : FM Word := do
  let st ← stackBuild c leaves
  match st with
  | [] => pure 0#32
  | (_, b) :: rest => rest.foldlM (fun b lp => fadd c.strict b lp.2) b

/-- Cuts a list into blocks of `n` (fuel: the list's length). -/
def chunksOf {α : Type} (n : Nat) : Nat → List α → List (List α)
  | 0, _ => []
  | fuel + 1, xs => if xs.isEmpty then [] else xs.take n :: chunksOf n fuel (xs.drop n)

/-- Running state of the chunked class over the blocks after the first, with the spill points of 04 R121:
the slot receives the total and gives it back unchanged. -/
def chunkedFold (c : NumCtl) (total : DWord) (bs : List Word) : FM DWord :=
  bs.foldlM (fun t b => wadd c.strict t (toW64 b)) total

/-- One Kahan step of the compensated class (04 R118). -/
def kahanStep (c : NumCtl) (sc : Word × Word) (b : Word) : FM (Word × Word) := do
  let y ← fsub c.strict b sc.2
  let t ← fadd c.strict sc.1 y
  let d ← fsub c.strict t sc.1
  let c' ← fsub c.strict d y
  pure (t, c')

/-- How a nest sums and writes: the spill interval in blocks and its first slot, if it spills (04 R121): a local address, or
2^31 + a word of the wide reduction buffers; the elements of one B entry (12 R338, R511); the output columns of one repeat tile
(04 R123), 0 for all of a row's. -/
structure NestSum where
  spill : Option Nat := none
  slot : Nat := 0
  entry : Nat := 8
  tile : Nat := 0
  deriving DecidableEq, Repr

/-- Spill and resume of the compensated class (04 R121): the slot's word, then s and c read back from it. -/
def spillCompensated (c : NumCtl) (sc : Word × Word) : FM (DWord × Word × Word) := do
  let slot ← wadd c.strict (toW64 sc.1) (toW64 (fneg sc.2))
  let s ← w64To32 c.strict slot
  let d ← wadd c.strict (toW64 s) (slot ^^^ 0x8000000000000000#64)
  let c' ← w64To32 c.strict d
  pure (slot, s, c')

/-- Keeps the last word of a cell's spill slot. -/
def keepSlot (ns : NestSum) (w : DWord) : FM Unit :=
  if ns.spill.isSome then modify (fun g => { g with slots := g.slots ++ [(ns.slot, w)] }) else pure ()

/-- Counts a spill point (04 R132 HLT_SUM_SPILL), once for each output cell and pass (log entry 226). -/
def countSpill : FM Unit := modify (fun g => { g with spills := g.spills + 1 })

/-- Whether a spill point follows block number `b` (from 0) of `n`, for an interval of `iv` blocks (04 R121). -/
def spillAfter (iv : Option Nat) (b n : Nat) : Bool :=
  match iv with
  | none => false
  | some k => (b + 1) % k = 0 || b + 1 = n

/-- The state of a compensated reduction after block `b` (from 0) of `n`: spilled and resumed at a spill point. -/
def spillPoint (c : NumCtl) (ns : NestSum) (n b : Nat) (sc : Word × Word) : FM (Word × Word) :=
  if spillAfter ns.spill b n then do
    countSpill
    let r ← spillCompensated c sc
    if b + 1 = n then keepSlot ns r.1
    pure r.2
  else pure sc

/-- Kahan combination with spill points (04 R118, R121). -/
def compensatedFold (c : NumCtl) (ns : NestSum) (n : Nat) : Nat → Word × Word → List Word → FM (Word × Word)
  | _, sc, [] => pure sc
  | b, sc, x :: xs => do
    let sc ← kahanStep c sc x
    let sc ← spillPoint c ns n b sc
    compensatedFold c ns n (b + 1) sc xs

/-- Combination of block sums by the configuration class (04 R118). -/
def combineBlocks (c : NumCtl) (ns : NestSum) (bs : List Word) : FM Word :=
  match bs with
  | [] => pure 0#32
  | b :: rest =>
    let n := bs.length
    if c.chunked then do
      let t ← chunkedFold c (toW64 b) rest
      let pts := ((List.range n).filter (fun i => spillAfter ns.spill i n)).length
      modify (fun g => { g with spills := g.spills + pts })
      keepSlot ns t
      w64To32 c.strict t
    else do
      let sc ← spillPoint c ns n 0 (b, (0#32 : Word))
      let sc ← compensatedFold c ns n 1 sc rest
      if n = 1 then pure sc.1 else fsub c.strict sc.1 sc.2

/-- Leaves per block (04 R116). -/
def blockSize (c : NumCtl) : Nat := if c.chunked then 64 else 256

/-- Summation of leaves (04 R116 to R118). -/
def sumLeaves (c : NumCtl) (ns : NestSum) (leaves : List Word) : FM Word := do
  let bs ← (chunksOf (blockSize c) leaves.length leaves).mapM (blockSum c)
  combineBlocks c ns bs

/-- tree_sum of 02 R57: the summation of terms by the configuration class, or sequentially in strict mode (04 R119). -/
def sumTerms (c : NumCtl) (ns : NestSum) (ts0 : List Word) : FM Word :=
  let ts := fillEntry c ns.entry 0#32 ts0
  if c.strict then
    match ts with
    | [] => pure 0#32
    | t :: rest => rest.foldlM (fun s u => fadd c.strict s u) t
  else do
    let leaves ← pairLeaves c (fadd c.strict) ts
    sumLeaves c ns leaves

/-- One attempt of a MULADD cell with every pass (02 R57), operand B scaled by 2^sh (04 R125). -/
def mulAddAttempt (c : NumCtl) (ns : NestSum) (sh : Int) (a b : List Opnd) : FM Word :=
  if c.passes ≤ 1 then do
    let ts ← (a.zip b).mapM (fun p => prodTerm c p.1.val (scaleVal p.2.val sh))
    sumTerms c ns ts
  else do
    let hh ← (a.zip b).mapM (fun p => prodTerm c (splitHi p.1) (scaleVal (splitHi p.2) sh))
    let sHH ← sumTerms c ns hh
    let hl ← (a.zip b).mapM (fun p => crossTerm c (splitHi p.1) (scaleVal (splitLo p.2) sh))
    let sHL ← sumTerms c ns hl
    if c.passes = 2 then fadd c.strict sHH sHL
    else do
      let lh ← (a.zip b).mapM (fun p => crossTerm c (splitLo p.1) (scaleVal (splitHi p.2) sh))
      let sLH ← sumTerms c ns lh
      let small ← fadd c.strict sHL sLH
      fadd c.strict sHH small

/-- One attempt of a DISTANCE cell (04 R114), both operands scaled by 2^sh. -/
def distanceAttempt (c : NumCtl) (ns : NestSum) (sh : Int) (a b : List Val) : FM Word := do
  let ts ← (a.zip b).mapM (fun p => do
    let d ← addVal (scaleVal p.1 sh) (negVal (scaleVal p.2 sh))
    let d ← round32 c.strict d
    fmul c.strict d d)
  sumTerms c ns ts

/-- One attempt of a MAXPLUS cell (04 R114). -/
def maxPlusAttempt (c : NumCtl) (sh : Int) (a b : List Val) : FM Word := do
  let ts ← (a.zip b).mapM (fun p => do
    let d ← addVal (scaleVal p.1 sh) (scaleVal p.2 sh)
    round32 c.strict d)
  match fillEntry c 8 0xFF800000#32 ts with
  | [] => pure 0#32
  | t :: rest => rest.foldlM (fun m u => fmax c.strict m u) t

/-- One attempt of a SELSUM cell (04 R114): hi and lo are the two columns of B. -/
def selSumAttempt (c : NumCtl) (ns : NestSum) (sh : Int) (a hi lo : List Val) : FM Word := do
  let ts ← (a.zip (hi.zip lo)).mapM (fun p => do
    let x ← prodTerm c p.1 (scaleVal p.2.1 sh)
    let y ← prodTerm c p.1 (scaleVal p.2.2 sh)
    fmax c.strict x y)
  sumTerms c ns ts

/-- What a cell of a tile ends with: the value it keeps, the attempts its tile needed for it, whether it is saturated. -/
structure CellOut where
  value : Word
  attempts : Nat
  saturated : Bool
  deriving DecidableEq, Repr

/-- Rescales a cell (04 R125); a result of infinity saturates with OVERFLOW. -/
def rescaleCell (c : NumCtl) (w : Word) (sh : Int) : FM (Word × Bool) := do
  let v := operand32 c.strict w
  let r ← round32 c.strict (scaleVal v sh)
  match v, decode .fp32 r.toNat with
  | .fin _ _ _, .inf n => pure (if n then 0xFF7FFFFF#32 else 0x7F7FFFFF#32, true)
  | _, _ => pure (r, false)

/-- Whether an attempt met the condition of 04 R123: an infinity produced while every operand of the cell is finite. -/
def metOverflow (finite : Bool) (a : Acc) : Bool := finite && decide (a.flags &&& flOverflow ≠ 0#6)

/-- What a cell's kept attempt leaves: of its passes' spills into one slot, the last stands. -/
def cellAcc (a : Acc) : Acc := { a with slots := a.slots.getLast?.toList }

/-- The repeat machine for one cell (04 R124, R125): the lowest attempt that met no condition is kept. -/
def repeatCell (c : NumCtl) (finite : Bool) (attempt : Nat → FM Word) : FM CellOut := do
  let r0 := runFM (attempt 0)
  if c.strict || !metOverflow finite r0.2 then do
    addAcc (cellAcc r0.2)
    pure ⟨r0.1, 0, false⟩
  else
    let r1 := runFM (attempt 1)
    if !metOverflow finite r1.2 then do
      addAcc (cellAcc r1.2)
      let w ← rescaleCell c r1.1 16
      pure ⟨w.1, 1, w.2⟩
    else
      let r2 := runFM (attempt 2)
      if !metOverflow finite r2.2 then do
        addAcc (cellAcc r2.2)
        let w ← rescaleCell c r2.1 32
        pure ⟨w.1, 2, w.2⟩
      else do
        addAcc (cellAcc r2.2)
        setFlag flOverflow
        match decode .fp32 r2.1.toNat with
        | .nan _ => do setFlag flInvalid; pure ⟨0x7FC00000#32, 2, false⟩
        | .inf n => pure ⟨if n then 0xFF7FFFFF#32 else 0x7F7FFFFF#32, 2, true⟩
        | .fin n _ _ => pure ⟨if n then 0xFF7FFFFF#32 else 0x7F7FFFFF#32, 2, true⟩

/-- What one repeat tile counts (04 R124, R126): its attempts beyond the first, and once if a cell of it is saturated. -/
def tileCount (outs : List CellOut) : FM Unit := do
  let n := outs.foldl (fun m o => max m o.attempts) 0
  if n > 0 then do
    setFlag flRepeat
    modify (fun g => { g with repeats := g.repeats + n })
  if outs.any (fun o => o.saturated) then
    modify (fun g => { g with satTiles := g.satTiles + 1 })

/-- The repeat tiles of a row of output cells (04 R123): so many columns each, or the whole row. -/
def tilesCount (ns : NestSum) (outs : List CellOut) : FM Unit :=
  (chunksOf (if ns.tile = 0 then outs.length else ns.tile) outs.length outs).forM tileCount

/-- Writes a row of output cells (04 R123, R126), with what its tiles count. -/
def tileOuts (ns : NestSum) (cells : List (FM CellOut)) : FM (List CellOut) := do
  let outs ← cells.mapM id
  tilesCount ns outs
  pure outs

/-- The values of a row of output cells. -/
def tileCells (ns : NestSum) (cells : List (FM CellOut)) : FM (List Word) := do
  let outs ← tileOuts ns cells
  pure (outs.map (fun o => o.value))

/-- Whether every operand is finite. -/
def allFinite (xs : List Val) : Bool := xs.all Val.isFinite

/-- A MULADD cell with its repeats. `post` is the drain's own scale factor (04 R126). -/
def cellMulAdd (c : NumCtl) (ns : NestSum) (a b : List Opnd) : FM CellOut :=
  repeatCell c (allFinite (a.map Opnd.val) && allFinite (b.map Opnd.val))
    (fun k => mulAddAttempt c ns (-(16 * k : Nat)) a b)

/-- A DISTANCE cell with its repeats. -/
def cellDistance (c : NumCtl) (ns : NestSum) (a b : List Val) : FM CellOut :=
  repeatCell c (allFinite a && allFinite b) (fun k => distanceAttempt c ns (-(8 * k : Nat)) a b)

/-- A MAXPLUS cell with its repeats. -/
def cellMaxPlus (c : NumCtl) (a b : List Val) : FM CellOut :=
  repeatCell c (allFinite a && allFinite b) (fun k => maxPlusAttempt c (-(16 * k : Nat)) a b)

/-- A SELSUM cell with its repeats. -/
def cellSelSum (c : NumCtl) (ns : NestSum) (a hi lo : List Val) : FM CellOut :=
  repeatCell c (allFinite a && allFinite hi && allFinite lo)
    (fun k => selSumAttempt c ns (-(16 * k : Nat)) a hi lo)

/-- A product divided by a power of two, to nearest even (04 R125, integer path). -/
def roundShift (p : Int) (k : Nat) : Int :=
  let n := rneDiv p.natAbs (2 ^ k) 0
  if p < 0 then -(n : Int) else n

/-- Whether an exact total fits INT32. -/
def fitsInt32 (t : Int) : Bool := decide (-2147483648 ≤ t) && decide (t ≤ 2147483647)

/-- An integer cell (04 R124, R125): the INT32 total, the attempts its tile needed for it and with them the power of two it
stands for, whether it is saturated. -/
structure IntOut where
  total : Int
  attempts : Nat
  saturated : Bool
  deriving DecidableEq, Repr

/-- An INT32 total saturated, with its flags (02 R50, 04 R124). -/
def saturateInt (t : Int) (k : Nat) : FM IntOut := do
  setFlag (flIntSat ||| flOverflow)
  pure ⟨if t < 0 then -2147483648 else 2147483647, k, true⟩

/-- The exact total of attempt k (04 R120, R125). -/
def intTotal (a b : List (BitVec 8)) (k : Nat) : Int := ((a.zip b).map (fun p => roundShift (p.1.toInt * p.2.toInt) k)).sum

/-- The integer path of one cell (02 R50, 04 R120, R123 to R125). -/
def cellInt (strict : Bool) (a b : List (BitVec 8)) : FM IntOut :=
  if fitsInt32 (intTotal a b 0) then pure ⟨intTotal a b 0, 0, false⟩
  else if strict then do
    setFlag flInexact
    saturateInt (intTotal a b 0) 0
  else if fitsInt32 (intTotal a b 1) then pure ⟨intTotal a b 1, 1, false⟩
  else if fitsInt32 (intTotal a b 2) then pure ⟨intTotal a b 2, 2, false⟩
  else saturateInt (intTotal a b 2) 2

/-- The result of an integer cell: its total times 2^k, multiplied once by the tensor's FP32 scale (02 R50, 04 R125). -/
def intResult (strict : Bool) (o : IntOut) (scale : Word) : FM Word := do
  let p ← mulVal (.fin (decide (o.total < 0)) o.total.natAbs o.attempts) (operand32 strict scale)
  round32 strict p

/-- A row of integer cells (04 R123, R126), with what its tiles count. -/
def tileInts (ns : NestSum) (strict : Bool) (scale : Word) (cells : List (FM IntOut)) : FM (List Word) := do
  let outs ← cells.mapM id
  tilesCount ns (outs.map (fun o => ⟨0#32, o.attempts, o.saturated⟩))
  outs.mapM (fun o => intResult strict o scale)

/-- Largest power of two below `n`, for n of at least 2 (04 R127). -/
def splitPoint (n : Nat) : Nat := 2 ^ Nat.log2 (n - 1)

/-- The split tree of 04 R127 over a list of contributions, with fuel. -/
def splitTree {α : Type} (add : α → α → FM α) : Nat → List α → FM (Option α)
  | 0, _ => pure none
  | _ + 1, [] => pure none
  | _ + 1, [x] => pure (some x)
  | fuel + 1, xs => do
    let h := splitPoint xs.length
    let l ← splitTree add fuel (xs.take h)
    let r ← splitTree add fuel (xs.drop h)
    match l, r with
    | some a, some b => do
      let c ← add a b
      pure (some c)
    | some a, none => pure (some a)
    | none, o => pure o

/-- The split tree of FP32 partials (04 R128). -/
def splitSum32 (c : NumCtl) (xs : List Word) : FM Word := do
  let r ← splitTree (fadd c.strict) (xs.length + 1) xs
  pure (r.getD 0#32)

/-- The split tree of W64 partials (04 R130). -/
def splitSum64 (c : NumCtl) (xs : List DWord) : FM DWord := do
  let r ← splitTree (wadd c.strict) (xs.length + 1) xs
  pure (r.getD 0#64)

/-- Logical reductions (04 R131). They set no flag. -/
inductive LogicOp where
  | and | or | xor | popcnt
  deriving DecidableEq, Repr

/-- Set bits of a word. -/
def popCount (w : Word) : Nat := ((List.range 32).filter (fun i => w.getLsbD i)).length

/-- Combines two results of a logical reduction. -/
def logicJoin (op : LogicOp) (a b : Word) : Word :=
  match op with
  | .and => a &&& b
  | .or => a ||| b
  | .xor => a ^^^ b
  | .popcnt => a + b

/-- The words of one core's lanes. -/
def logicLanes (op : LogicOp) (ws : List Word) : Word :=
  match op with
  | .and => ws.foldl (logicJoin .and) 0xFFFFFFFF#32
  | .popcnt => BitVec.ofNat 32 ((ws.map popCount).sum)
  | _ => ws.foldl (logicJoin op) 0#32

/-- A logical reduction: each core's lanes, then the cores of the set by the split tree over their contribution indices
(04 R127, R131). -/
def logicReduce (op : LogicOp) (cores : List (List Word)) : Word :=
  let r := (runFM (splitTree (fun a b => pure (logicJoin op a b)) (cores.length + 1) (cores.map (logicLanes op)))).1
  r.getD (logicLanes op [])

/-- A list of truth values as 32-bit mask words. -/
def maskWords (bs : List Bool) : List Word :=
  (chunksOf 32 bs.length bs).map (fun c => BitVec.ofNat 32 ((c.zipIdx.map (fun p => if p.1 then 2 ^ p.2 else 0)).sum))

/-- Feeder delays of one step (04 R112): what is absorbed and for how long the core holds. -/
def feederDelays (ds : List Nat) : Nat × Nat :=
  let mx := ds.foldl max 0
  ((ds.map (fun d => min d 3)).sum, mx - 3)

end Sys2Proof.Machine
end

