-- ==== Sys2Proof/Machine/Sfu.lean ====
section
/-! DEFINITION. The special function unit: the special operands and bounds of 05 R133 to R140, and NP1's kernels (05 R141 to R144).
Real functions are evaluated in fixed point with 160 fraction bits by their series; the error of a series is far below the
distance of any rounding decision the spec asks for (log entry 12). -/

namespace Sys2Proof.Machine

/-- Fraction bits of the fixed-point evaluation. -/
def fxBits : Nat := 160

/-- One in fixed point. -/
def fxOne : Int := 2 ^ fxBits

/-- Fixed-point product, rounded down. -/
def fxMul (a b : Int) : Int := (a * b) / fxOne

/-- Fixed-point quotient, rounded down. -/
def fxDiv (a b : Int) : Int := (a * fxOne) / b

/-- Sum of z^(2k+1)/(2k+1) from term number `k`, `p` being z^(2k+1): the series of atanh. -/
def atanhSeries (z2 : Int) : Nat → Nat → Int → Int
  | 0, _, _ => 0
  | fuel + 1, k, p => p / (2 * k + 1 : Nat) + atanhSeries z2 fuel (k + 1) (fxMul p z2)

/-- atanh of a fixed-point number of magnitude at most 1/3. -/
def fxAtanh (z : Int) : Int := atanhSeries (fxMul z z) 54 0 z

/-- ln 2, as 2 atanh(1/3). -/
def fxLn2 : Int := 2 * fxAtanh (fxOne / 3)

/-- Sum of (-1)^k z^(2k+1)/(2k+1): the series of arctan. -/
def fxAtanInv (n : Nat) : Int :=
  let z := fxOne / (n : Int)
  atanhSeries (-(fxMul z z)) 72 0 z

/-- π, by Machin's formula. -/
def fxPi : Int := 4 * (4 * fxAtanInv 5 - fxAtanInv 239)

/-- Taylor series of exp: the term `t` is y^k/k!. -/
def expSeries (y : Int) : Nat → Nat → Int → Int
  | 0, _, _ => 0
  | fuel + 1, k, t => t + expSeries y fuel (k + 1) (fxMul t y / (k + 1 : Nat))

/-- 2^r for r in [0, 1]. -/
def fxExp2 (r : Int) : Int := expSeries (fxMul r fxLn2) 46 0 fxOne

/-- log2(1 + f) for f in [0, 1]. -/
def fxLog2 (f : Int) : Int := fxDiv (2 * fxAtanh (fxDiv f (2 * fxOne + f))) fxLn2

/-- Alternating series of sine and cosine: the term `t` is y^k/k!, stepping k by two. -/
def sinSeries (y2 : Int) : Nat → Nat → Int → Int
  | 0, _, _ => 0
  | fuel + 1, k, t => t + sinSeries y2 fuel (k + 2) (-(fxMul t y2 / ((k + 1) * (k + 2) : Nat)))

/-- sin(π r / 2) for r in [0, 1]. -/
def fxSin (r : Int) : Int :=
  let y := fxMul r (fxPi / 2)
  sinSeries (fxMul y y) 26 1 y

/-- cos(π r / 2) for r in [0, 1]. -/
def fxCos (r : Int) : Int :=
  let y := fxMul r (fxPi / 2)
  sinSeries (fxMul y y) 26 0 fxOne

/-- Integer square root by Newton's iteration from above, with fuel. -/
def isqrtLoop (n : Nat) : Nat → Nat → Nat
  | 0, x => x
  | fuel + 1, x =>
    let y := (x + n / x) / 2
    if y < x then isqrtLoop n fuel y else x

/-- Floor of the square root. -/
def isqrt (n : Nat) : Nat := if n = 0 then 0 else isqrtLoop n 600 (2 ^ (Nat.log2 n / 2 + 1))

/-- 1/√(num/den) in fixed point, for a positive ratio. -/
def fxRsqrt (num den : Nat) : Int := (isqrt (den * 2 ^ (2 * fxBits) / num) : Int)

/-- The function codes of 05 R133. -/
inductive SfuFn where
  | sincosT | exp2 | rcp | rsqrt | log2
  deriving DecidableEq, Repr

def SfuFn.code : SfuFn → Nat
  | .sincosT => 0 | .exp2 => 1 | .rcp => 2 | .rsqrt => 3 | .log2 => 4

/-- The numerics profiles (02 R36, 05 R135). -/
inductive Profile where
  | np1 | np2
  deriving DecidableEq, Repr

/-- A real number near `num * 2^exp`, signed; `exact` says that the value is that number. -/
structure Approx where
  neg : Bool
  num : Nat
  exp : Int
  deriving DecidableEq, Repr

def approxOfFx (x : Int) (sh : Int) : Approx := ⟨decide (x < 0), x.natAbs, sh - (fxBits : Int)⟩

/-- Splits a positive finite value m * 2^e into exponent E and fixed-point fraction f, value = 2^E (1 + f). -/
def splitExp (m : Nat) (e : Int) : Int × Int :=
  let l := Nat.log2 m
  ((l : Int) + e, ((m * 2 ^ fxBits / 2 ^ l : Nat) : Int) - fxOne)

/-- Floor and fixed-point fraction of a finite value. -/
def floorFrac (neg : Bool) (m : Nat) (e : Int) : Int × Int :=
  let x : Int := if e + (fxBits : Int) ≥ 0 then (m * 2 ^ (e + fxBits).toNat : Nat) else (m / 2 ^ (-(e + fxBits)).toNat : Nat)
  let y : Int := if neg then -x else x
  (y / fxOne, y % fxOne)

/-- The exact value of an ordinary function on a finite non-special input (05 R133). -/
def sfuExact (fn : SfuFn) (neg : Bool) (m : Nat) (e : Int) : Approx :=
  match fn with
  | .exp2 =>
    let fr := floorFrac neg m e
    approxOfFx (fxExp2 fr.2) fr.1
  | .rcp =>
    -- a quotient with enough bits beyond FP32
    ⟨neg, 2 ^ (fxBits + Nat.log2 m) / m, -(fxBits : Int) - (Nat.log2 m : Int) - e⟩
  | .rsqrt =>
    if e % 2 = 0 then approxOfFx (fxRsqrt m 1) (-(e / 2))
    else approxOfFx (fxRsqrt (2 * m) 1) (-((e - 1) / 2))
  | .log2 =>
    let s := splitExp m e
    approxOfFx (s.1 * fxOne + fxLog2 s.2) 0
  | .sincosT => ⟨false, 0, 0⟩

/-- Sine and cosine of a 32-bit turn fraction, in fixed point, by quadrant. -/
def sincosFx (u : Nat) : Int × Int :=
  let r : Int := ((u % 2 ^ 30) * 2 ^ (fxBits - 30) : Nat)
  let s := if u % 2 ^ 30 = 0 then 0 else fxSin r
  let c := if u % 2 ^ 30 = 0 then fxOne else fxCos r
  match (u / 2 ^ 30) % 4 with
  | 0 => (s, c)
  | 1 => (c, -s)
  | 2 => (-s, -c)
  | _ => (-c, s)

/-- Nearest FP32 code of an approximation, zeros of R138 applied. -/
def approxTo32 (keepSign : Bool) (a : Approx) : Word :=
  if a.num = 0 then 0#32
  else
    let r := roundRatio .fp32 a.num 1 a.exp
    if r.mag < 0x800000 then (if keepSign && a.neg then 0x80000000#32 else 0#32)
    else BitVec.ofNat 32 (withSign .fp32 a.neg (min r.mag (infCode .fp32)))

/-- Whether an FP32 code lies within `ulps` of the spacing at the exact value plus `2^absExp` of it (05 R140).
The spacing is that at the larger side when the value is a power of two. -/
def withinBound (w : Word) (a : Approx) (ulps : Nat) (absExp : Option Int) : Bool :=
  match decode .fp32 w.toNat with
  | .fin neg m e =>
    let ulpExp : Int := if a.num = 0 then -149 else max (log2Ratio a.num 1 a.exp - 23) (-149)
    let base := min (min e a.exp) (min ulpExp (absExp.getD 0))
    let x : Int := (if neg then -1 else 1) * (m * 2 ^ (e - base).toNat : Nat)
    let y : Int := (if a.neg then -1 else 1) * (a.num * 2 ^ (a.exp - base).toNat : Nat)
    let bound : Nat := ulps * 2 ^ (ulpExp - base).toNat +
      (match absExp with | none => 0 | some t => 2 ^ (t - base).toNat)
    decide ((x - y).natAbs ≤ bound)
  | _ => false

/-- The NP2 result: the free value where it keeps the bound of 05 R140, and the nearest value otherwise. -/
def np2Choose (free : Word) (a : Approx) (ulps : Nat) (absExp : Option Int) (keepSign : Bool) : Word :=
  if withinBound free a ulps absExp then
    (if decide (free.toNat % 2 ^ 31 < 0x800000) then (if keepSign && a.neg then 0x80000000#32 else 0#32) else free)
  else approxTo32 keepSign a

/-- EXP2 under NP2: of the two FP32 values around the exact one, the upper from a free place within the gap on. Every function
within the bound of 05 R140 that never decreases (R139) has this form, and no other (log entry 10). -/
def np2Exp2 (a : Approx) : Word :=
  let q := quantumOf .fp32 a.num 1 a.exp
  let r := scaleDiv a.num 1 (a.exp - q)
  let low := packMag .fp32 r.1 q
  let place := (Config.np2 1 (BitVec.ofNat 32 low) 0).toNat
  BitVec.ofNat 32 (if decide (r.2.1 ≠ 0) && decide (place * r.2.2 ≤ 2 ^ 32 * r.2.1) then min (low + 1) (maxCode .fp32) else low)

/-- Rounds a fixed-point number times 2^30 to the nearest integer, ties to even (05 R141). -/
def rnd30 (x : Int) : Int :=
  let n := rneDiv x.natAbs 1 (30 - (fxBits : Int))
  if x < 0 then -(n : Int) else n

/-- The NP1 kernels (05 R141). -/
inductive Kernel where
  | exp | log | rcp | rsq0 | rsq1 | sin | cos
  deriving DecidableEq, Repr

/-- g(k/256) of a kernel in fixed point; RCP is rounded once from its exact ratio. -/
def kernelAt (g : Kernel) (k : Nat) : Int :=
  let r : Int := (k * 2 ^ (fxBits - 8) : Nat)
  match g with
  | .exp => fxExp2 r
  | .log => fxLog2 r
  | .rcp => fxDiv (256 * fxOne) ((256 + k : Nat) * fxOne)
  | .rsq0 => fxRsqrt (256 + k) 256
  | .rsq1 => fxRsqrt (2 * (256 + k)) 256
  | .sin => fxSin r
  | .cos => fxCos r

/-- Evaluation of a kernel in units of 2^-30 (05 R142). -/
def kernelEval (g : Kernel) (i t : Nat) : Int :=
  let f0 := kernelAt g (2 * i)
  let fh := kernelAt g (2 * i + 1)
  let f1 := kernelAt g (2 * i + 2)
  let c0 := rnd30 f0
  let c1 := rnd30 (4 * fh - 3 * f0 - f1)
  let c2 := rnd30 (2 * f0 - 4 * fh + 2 * f1)
  c0 + (c1 * t) / 2 ^ 17 + ((c2 * t) / 2 ^ 17 * t) / 2 ^ 17

/-- An NP1 result assembled from an integer and a power of two (05 R143). -/
def np1Assemble (keepSign : Bool) (neg : Bool) (y : Int) (e : Int) : Word :=
  approxTo32 keepSign ⟨neg != decide (y < 0), y.natAbs, e⟩

/-- NP1 on a finite non-special input (05 R143). -/
def np1 (fn : SfuFn) (neg : Bool) (m : Nat) (e : Int) : Word :=
  match fn with
  | .exp2 =>
    let fr := floorFrac neg m e
    let r24 := (fr.2 / 2 ^ (fxBits - 24)).toNat
    np1Assemble true false (kernelEval .exp (r24 / 2 ^ 17) (r24 % 2 ^ 17)) (fr.1 - 30)
  | .log2 =>
    let s := splitExp m e
    let r24 := (s.2 / 2 ^ (fxBits - 24)).toNat
    np1Assemble false false (s.1 * 2 ^ 30 + kernelEval .log (r24 / 2 ^ 17) (r24 % 2 ^ 17)) (-30)
  | .rcp =>
    let s := splitExp m e
    let r24 := (s.2 / 2 ^ (fxBits - 24)).toNat
    np1Assemble true neg (kernelEval .rcp (r24 / 2 ^ 17) (r24 % 2 ^ 17)) (-s.1 - 30)
  | .rsqrt =>
    let s := splitExp m e
    let r24 := (s.2 / 2 ^ (fxBits - 24)).toNat
    let k := s.1 / 2
    let g := if s.1 - 2 * k = 0 then Kernel.rsq0 else Kernel.rsq1
    np1Assemble true false (kernelEval g (r24 / 2 ^ 17) (r24 % 2 ^ 17)) (-k - 30)
  | .sincosT => 0#32

/-- Whether a finite non-special input has an exact result (05 R139), and that result. -/
def sfuExactCase (fn : SfuFn) (neg : Bool) (m : Nat) (e : Int) : Option Word :=
  let l := Nat.log2 m
  let pow := decide (m = 2 ^ l)
  let k : Int := (l : Int) + e
  match fn with
  | .exp2 =>
    let fr := floorFrac neg m e
    if e + (fxBits : Int) ≥ 0 ∧ fr.2 = 0 then some (approxTo32 true ⟨false, 1, fr.1⟩) else none
  | .rcp => if pow then some (approxTo32 true ⟨neg, 1, -k⟩) else none
  | .rsqrt => if pow ∧ k % 2 = 0 then some (approxTo32 true ⟨false, 1, -(k / 2)⟩) else none
  | .log2 => if pow then some (approxTo32 false ⟨decide (k < 0), k.natAbs, 0⟩) else none
  | .sincosT => none

/-- A finite input that the rows of 05 R137 leave to "other". -/
def sfuOther (p : Profile) (fn : SfuFn) (w : Word) (neg : Bool) (m : Nat) (e : Int) : Word :=
  match sfuExactCase fn neg m e with
  | some r => r
  | none =>
    match p with
    | .np1 => np1 fn neg m e
    | .np2 =>
      let a := sfuExact fn neg m e
      if fn = .exp2 then np2Exp2 a else
      let free := Config.np2 fn.code w 0
      let near := decide (fn = .log2) && decide (log2Ratio m 1 e = -1 ∨ log2Ratio m 1 e = 0)
      np2Choose free a 1 (if near then some (-30) else none) (decide (fn ≠ .log2))

/-- One SFU request other than SINCOS_T (05 R137, R138, R139). -/
def sfu (p : Profile) (fn : SfuFn) (w : Word) : FM Word :=
  let v := flushVal .fp32 (decode .fp32 w.toNat)
  match v with
  | .nan sig => do
    if sig then setFlag flInvalid
    pure 0x7FC00000#32
  | .inf neg =>
    match fn with
    | .exp2 => pure (if neg then 0#32 else 0x7F800000#32)
    | .rcp => pure (if neg then 0x80000000#32 else 0#32)
    | .rsqrt => if neg then do setFlag flInvalid; pure 0x7FC00000#32 else pure 0#32
    | .log2 => if neg then do setFlag flInvalid; pure 0x7FC00000#32 else pure 0x7F800000#32
    | .sincosT => pure 0#32
  | .fin neg m e =>
    if m = 0 then
      match fn with
      | .exp2 => pure 0x3F800000#32
      | .rcp => pure (if neg then 0xFF800000#32 else 0x7F800000#32)
      | .rsqrt => pure (if neg then 0xFF800000#32 else 0x7F800000#32)
      | .log2 => pure 0xFF800000#32
      | .sincosT => pure 0#32
    else
      let l := log2Ratio m 1 e
      match fn with
      | .exp2 =>
        if !neg && decide (l ≥ 7) then do setFlag flOverflow; pure 0x7F800000#32
        else if neg && cmpVal (.fin true m e) (.fin true 126 0) = some .lt then pure 0#32
        else pure (sfuOther p .exp2 w neg m e)
      | .rcp => if l ≥ 126 then pure (if neg then 0x80000000#32 else 0#32) else pure (sfuOther p .rcp w neg m e)
      | .rsqrt => if neg then do setFlag flInvalid; pure 0x7FC00000#32 else pure (sfuOther p .rsqrt w neg m e)
      | .log2 => if neg then do setFlag flInvalid; pure 0x7FC00000#32 else pure (sfuOther p .log2 w neg m e)
      | .sincosT => pure 0#32

/-- One result of SINCOS_T. -/
def sincosOne (p : Profile) (u : Nat) (k : Nat) (fx : Int) (np1v : Int) : Word :=
  if u % 2 ^ 30 = 0 then approxTo32 false (approxOfFx fx 0)
  else
    match p with
    | .np1 => np1Assemble false false np1v (-30)
    | .np2 => np2Choose (Config.np2 0 (BitVec.ofNat 32 u) k) (approxOfFx fx 0) 0 (some (-24)) false

/-- SINCOS_T (05 R133, R139, R143): the sine and the cosine of u turns of 2^-32. -/
def sincosT (p : Profile) (u : BitVec 32) : Word × Word :=
  let n := u.toNat
  let fx := sincosFx n
  let v := n % 2 ^ 30
  let i := v / 2 ^ 23
  let t := (v / 2 ^ 6) % 2 ^ 17
  let s := if p = .np1 then kernelEval .sin i t else 0
  let c := if p = .np1 then kernelEval .cos i t else 0
  let sc : Int × Int :=
    match n / 2 ^ 30 with
    | 0 => (s, c)
    | 1 => (c, -s)
    | 2 => (-s, -c)
    | _ => (-c, s)
  (sincosOne p n 0 fx.1 sc.1, sincosOne p n 1 fx.2 sc.2)

end Sys2Proof.Machine
end

