-- ==== Sys2Proof/Machine/RowOps.lean ====
section
/-! DEFINITION. Rotary rotation from the turn table and QK-normalization (05 R145 to R157). -/

namespace Sys2Proof.Machine

/-- A turn table (05 R145). -/
structure TurnTable where
  rotDims : Nat := 0
  halves : Bool := false
  freq : List DWord := []
  deriving DecidableEq, Repr

/-- A QK-norm table (05 R153): kind 0 none, 1 RMS, 2 LAYER. -/
structure NormTable where
  kind : Nat := 0
  dim : Nat := 0
  eps : Word := 0#32
  gain : List Word := []
  deriving DecidableEq, Repr

/-- Reads a turn table; none where it breaks 05 R145. -/
def parseTurn (bs : List Byte) : Option TurnTable :=
  let rot := fieldAt bs 0 2
  let lay := fieldAt bs 2 1
  if rot % 2 = 1 ∨ rot > 256 ∨ lay > 1 ∨ allZero (bytesAt bs 3 13) = false then none
  else some { rotDims := rot, halves := decide (lay = 1)
              freq := (List.range (rot / 2)).map (fun i => BitVec.ofNat 64 (fieldAt bs (16 + 8 * i) 8)) }

/-- The head dimensions of 05 R153 and 10. -/
def headDimOk (d : Nat) : Bool := d = 64 || d = 96 || d = 128 || d = 192 || d = 256

/-- Whether a word is a positive normal FP32 value. -/
def positiveNormal (w : Word) : Bool := decide (0x800000 ≤ w.toNat) && decide (w.toNat < 0x7F800000)

/-- Reads a QK-norm table; none where it breaks 05 R153. -/
def parseNorm (bs : List Byte) : Option NormTable :=
  let kind := fieldAt bs 0 1
  let dim := fieldAt bs 2 2
  let eps : Word := BitVec.ofNat 32 (fieldAt bs 4 4)
  if kind > 2 ∨ allZero (bytesAt bs 1 1) = false ∨ allZero (bytesAt bs 8 8) = false then none
  else if kind = 0 then some {}
  else if headDimOk dim && positiveNormal eps then
    some { kind := kind, dim := dim, eps := eps
           gain := (List.range dim).map (fun i => BitVec.ofNat 32 (fieldAt bs (16 + 4 * i) 4)) }
  else none

/-- The SINCOS_T input of position `p` and frequency `f` (05 R146). -/
def turnAngle (p : Nat) (f : DWord) : BitVec 32 :=
  let frac := (p % 2 ^ 32 * f.toNat) % 2 ^ 64
  let u := frac / 2 ^ 32
  let rem := frac % 2 ^ 32
  if rem > 0x80000000 ∨ (rem = 0x80000000 ∧ u % 2 = 1) then BitVec.ofNat 32 (u + 1) else BitVec.ofNat 32 u

/-- Rotates one pair (05 R147). -/
def rotatePair (strict : Bool) (s c x y : Word) : FM (Word × Word) := do
  let pm ← fmul strict y s
  let x' ← ffma strict x c (fneg pm)
  let qm ← fmul strict y c
  let y' ← ffma strict x s qm
  pure (x', y')

/-- Indices of the two elements of pair `i` (05 R145 LAYOUT). -/
def pairIndex (t : TurnTable) (i : Nat) : Nat × Nat :=
  if t.halves then (i, i + t.rotDims / 2) else (2 * i, 2 * i + 1)

/-- Rotates a row at position `p` (05 R147). Elements at and above ROT_DIMS pass. -/
def rotateRow (pf : Profile) (strict : Bool) (t : TurnTable) (p : Nat) (row : List Word) : FM (List Word) :=
  (List.range (t.rotDims / 2)).foldlM (fun (r : List Word) i => do
    let ij := pairIndex t i
    let sc := sincosT pf (turnAngle p (t.freq.getD i 0#64))
    let xy ← rotatePair strict sc.1 sc.2 (r.getD ij.1 0#32) (r.getD ij.2 0#32)
    pure ((r.set ij.1 xy.1).set ij.2 xy.2)) row

/-- The constant inv of 05 R154. -/
def normInv (dim : Nat) : Word :=
  if dim = 64 then 0x3C800000#32 else if dim = 96 then 0x3C2AAAAB#32 else if dim = 128 then 0x3C000000#32
  else if dim = 192 then 0x3BAAAAAB#32 else 0x3B800000#32

/-- A one-cell tile of the Cuboid. -/
def oneCell (c : FM CellOut) : FM Word := do
  let ws ← tileCells {} [c]
  pure (ws.headD 0#32)

/-- RMS normalization of a row (05 R155). -/
def normRms (pf : Profile) (c : NumCtl) (ns : NestSum) (t : NormTable) (x : List Word) : FM (List Word) := do
  let xs := x.map (operand32 c.strict)
  let ss ← oneCell (cellDistance c ns xs (xs.map (fun _ => .fin false 0 0)))
  let inv := normInv t.dim
  let ms ← fmul c.strict ss inv
  let me ← fadd c.strict ms t.eps
  let r ← sfu pf .rsqrt me
  (x.zip t.gain).mapM (fun p => do
    let a ← fmul c.strict p.1 r
    fmul c.strict a p.2)

/-- LAYER normalization of a row, the shifted two-pass method (05 R156). -/
def normLayer (pf : Profile) (c : NumCtl) (ns : NestSum) (t : NormTable) (x : List Word) : FM (List Word) := do
  let c1 := { c with passes := 1 }
  let xs := x.map (operand32 c.strict)
  let zeros : List Val := xs.map (fun _ => .fin false 0 0)
  let mx ← oneCell (cellMaxPlus c xs zeros)
  let nm ← oneCell (cellMaxPlus c (xs.map negVal) zeros)
  let mn := fneg nm
  let inv := normInv t.dim
  let same := decide (cmpVal (operand32 c.strict mx) (operand32 c.strict mn) = some .eq)
  let mv ← (if same then pure (x.headD 0#32, (0#32 : Word)) else do
    let invs := x.map (fun _ => opnd32 c inv)
    let mu ← oneCell (cellMulAdd c1 ns (x.map (opnd32 c)) invs)
    let dlt ← x.mapM (fun e => fsub c.strict e mu)
    let s1 ← oneCell (cellMulAdd c1 ns (dlt.map (opnd32 c)) (x.map (fun _ => opnd32 c 0x3F800000#32)))
    let s2 ← oneCell (cellDistance c ns xs (xs.map (fun _ => operand32 c.strict mu)))
    let q ← fmul c.strict s1 s1
    let q ← fmul c.strict q inv
    let d ← fsub c.strict s2 q
    let v ← fmul c.strict d inv
    let neg ← flt c.strict v 0#32
    pure (mu, if neg then 0#32 else v))
  let ve ← fadd c.strict mv.2 t.eps
  let r ← sfu pf .rsqrt ve
  (x.zip t.gain).mapM (fun p => do
    let a ← fsub c.strict p.1 mv.1
    let b ← fmul c.strict a r
    fmul c.strict b p.2)

/-- QK-normalization of a row (05 R153): kind none passes it through. -/
def normRow (pf : Profile) (c : NumCtl) (ns : NestSum) (t : NormTable) (x : List Word) : FM (List Word) :=
  if t.kind = 1 then normRms pf c ns t x
  else if t.kind = 2 then normLayer pf c ns t x
  else pure x

end Sys2Proof.Machine
end

