-- ==== Sys2Proof/Machine/PageFormat.lean ====
section
/-! DEFINITION. Pages: formats and layouts, quantization and decoding of rows, coarse scales and re-encoding,
summaries, the bytes of a frame and its sidecar, and the checksum (02 R41 to R48, 08 R215 to R225, 09 R245 to R249). -/

namespace Sys2Proof.Machine

/-- Element format of an FMT code (08 R218). -/
def elemFmt (code : Nat) : Option Fmt :=
  match code with
  | 0 => some .bf16 | 1 => some .e4m3 | 2 => some .e5m2 | 3 => some .e2m3 | 4 => some .e3m2 | 5 => some .e2m1
  | _ => none

/-- How the rows of a context are stored: the codes of 08 R218 and the head dimension. -/
structure PageFmt where
  fmt : Nat := 0
  layout : Nat := 0
  block : Nat := 0
  hd : Nat := 0
  deriving DecidableEq, Repr

/-- The element format (BF16 where the code is reserved, which no checked context has). -/
def PageFmt.elem (p : PageFmt) : Fmt := (elemFmt p.fmt).getD .bf16

/-- Element width in bits. -/
def PageFmt.width (p : PageFmt) : Nat := (fmtInfo p.elem).width

/-- Whether the layout has fine scales (02 R42). -/
def PageFmt.fine (p : PageFmt) : Bool := p.layout = 2 || p.layout = 3

/-- Fine block size in values. -/
def PageFmt.blockSize (p : PageFmt) : Nat := 16 * 2 ^ p.block

/-- Fine scales per row; 0 when the layout has none. -/
def PageFmt.blocks (p : PageFmt) : Nat := if p.fine then p.hd / p.blockSize else 0

/-- Bytes of one K or V row. -/
def PageFmt.rowBytes (p : PageFmt) : Nat := p.hd * p.width / 8

/-- Whether layout, element format and block size stand in the table of 02 R42 and 08 R218, R273. -/
def PageFmt.pairOk (p : PageFmt) : Bool :=
  match p.layout with
  | 0 => p.fmt = 0 && p.block = 0
  | 1 => (p.fmt = 1 || p.fmt = 2) && p.block = 0
  | 2 => decide (1 ≤ p.fmt) && decide (p.fmt ≤ 5) && decide (p.block ≤ 3) && p.hd % p.blockSize = 0
  | 3 => decide (1 ≤ p.fmt) && decide (p.fmt ≤ 5) && p.block = 1 && p.hd % p.blockSize = 0
  | _ => false

/-- Whether a span meets the two conditions of 08 R219. -/
def spanOk (p : PageFmt) (t : Nat) : Bool :=
  decide (2 * t * p.rowBytes ≤ 65536) && decide (64 + 8 * p.hd + 2 * t * p.blocks ≤ 8192)

/-- The token span: the largest power of two that meets 08 R219. -/
def tokenSpan (p : PageFmt) : Nat :=
  ((List.range 17).map (fun i => 2 ^ (16 - i))).find? (spanOk p) |>.getD 1

/-- One stored K or V row: element codes and fine-scale bytes. -/
structure Row where
  codes : List Nat := []
  scales : List Nat := []
  deriving DecidableEq, Repr

/-- A page as a frame and its sidecar hold it (08 R215 to R217). Rows are listed from slot 0; bytes of rows never
written read as zero (log entry 14). -/
structure Page where
  fmt : PageFmt := {}
  tspan : Nat := 0
  reencodes : Nat := 0
  index : Nat := 0
  ck : Word := 0x3F800000#32
  cv : Word := 0x3F800000#32
  qflags : Flags := 0#6
  isSealed : Bool := false
  published : Bool := false
  sealGen : Word := 0#32
  prefixHash : DWord := 0#64
  checksum : Word := 0#32
  khi : List Word := []
  klo : List Word := []
  k : List Row := []
  v : List Row := []
  deriving DecidableEq, Repr

/-- VALID_ROWS of the sidecar (08 R217). -/
def Page.rows (p : Page) : Nat := p.k.length

/-- Magnitude comparison of finite values; a value that is not finite counts as zero. -/
def magLt (a b : Val) : Bool :=
  match a, b with
  | .fin _ m e, .fin _ n f => cmpVal (.fin false m e) (.fin false n f) = some .lt
  | .fin _ _ _, _ => false
  | _, .fin _ n _ => decide (n ≠ 0)
  | _, _ => false

/-- The largest finite magnitude among values, as a dyadic number. -/
def maxMag (vs : List Val) : Nat × Int :=
  vs.foldl (fun a v =>
    match v with
    | .fin _ m e => if magLt (.fin false a.1 a.2) (.fin false m e) then (m, e) else a
    | _ => a) (0, 0)

/-- The largest finite magnitude F of an element format (02 R44). -/
def fmtMax (f : Fmt) : Nat × Int := decodeMag f (maxCode f)

/-- The value of a coarse scale, a positive normal FP32 code. -/
def scaleOf (c : Word) : Nat × Int :=
  match decode .fp32 c.toNat with
  | .fin _ m e => (m, e)
  | _ => (1, 0)

/-- ceil(log2(num/den * 2^e)) of a positive ratio. -/
def ceilLog2 (num den : Nat) (e : Int) : Int :=
  let l := log2Ratio num den e
  let k := l - e
  if num * 2 ^ (-k).toNat = den * 2 ^ k.toNat then l else l + 1

/-- FP32 code of 2^k, for k in -126 to 127. -/
def pow2Code (k : Int) : Word := BitVec.ofNat 32 ((k + 127).toNat * 2 ^ 23)

/-- The exponent k of the coarse scale that a row chooses (09 R246). -/
def coarseExp (p : PageFmt) (row : List Val) : Int :=
  let a := maxMag row
  if a.1 = 0 then 0 else
    let f := fmtMax p.elem
    let k := ceilLog2 a.1 f.1 (a.2 - f.2) + (if p.layout = 1 then 8 else 0)
    max (-126) (min 127 k)

/-- Whether a layout carries a coarse scale. -/
def PageFmt.hasCoarse (p : PageFmt) : Bool := p.layout = 1 || p.layout = 2

/-- The coarse scale that the row at slot 0 chooses; 1.0 where the layout has none. -/
def chooseCoarse (p : PageFmt) (row : List Val) : Word :=
  if p.hasCoarse then pow2Code (coarseExp p row) else 0x3F800000#32

/-- Exponent of a power-of-two coarse scale. -/
def coarseExpOf (c : Word) : Int := ((c.toNat / 2 ^ 23 % 256 : Nat) : Int) - 127

/-- Whether q = amax / (c * F) exceeds 448 (02 R44). -/
def headroomExceeded (p : PageFmt) (c : Word) (amax : Nat × Int) : Bool :=
  let f := fmtMax p.elem
  let s := scaleOf c
  let e := amax.2 - f.2 - s.2
  decide (amax.1 * 2 ^ e.toNat > 448 * (f.1 * s.1) * 2 ^ (-e).toNat)

/-- Whether the largest magnitude divided by c exceeds F (09 R247, COARSE). -/
def coarseExceeded (p : PageFmt) (c : Word) (amax : Nat × Int) : Bool :=
  let f := fmtMax p.elem
  let s := scaleOf c
  let e := amax.2 - f.2 - s.2
  decide (amax.1 * 2 ^ e.toNat > f.1 * s.1 * 2 ^ (-e).toNat)

/-- The re-encoding test of 09 R247, for a row at a slot above 0. -/
def needsReencode (p : PageFmt) (c : Word) (row : List Val) : Bool :=
  match p.layout with
  | 1 => coarseExceeded p c (maxMag row)
  | 2 => (chunksOf p.blockSize row.length row).any (fun b => b.all Val.isFinite && headroomExceeded p c (maxMag b))
  | _ => false

/-- Quantizes one element by the divisor `dm * 2^de` (02 R46, R47). -/
def quantElem (f : Fmt) (dm : Nat) (de : Int) (v : Val) : FM Nat :=
  match v with
  | .fin neg m e => rneSatRatio f neg m dm (e - de)
  | w => rneSatVal f w

/-- Quantizes one TWO_LEVEL block (02 R44, R46): elements and the UE4M3 scale. -/
def quantTwoLevel (p : PageFmt) (c : Word) (b : List Val) : FM (List Nat × Nat) :=
  if b.all Val.isFinite then
    let a := maxMag b
    if a.1 = 0 then
      pure (b.map (fun v => match v with | .fin neg _ _ => withSign p.elem neg 0 | _ => 0), 0)
    else do
      let f := fmtMax p.elem
      let cs := scaleOf c
      let s := if headroomExceeded p c a then 0x7E else ruUe4m3 a.1 (f.1 * cs.1) (a.2 - f.2 - cs.2)
      let sv := decodeMag .ue4m3 s
      let es ← b.mapM (quantElem p.elem (cs.1 * sv.1) (cs.2 + sv.2))
      pure (es, s)
  else do
    setFlag flInvalid
    pure (b.map (fun _ => 0), 0x7F)

/-- Largest element exponent of the MX formats (02 R45). -/
def emaxElem (f : Fmt) : Int := let m := fmtMax f; log2Ratio m.1 1 m.2

/-- Quantizes one MX block (02 R45, R46): elements and the UE8M0 scale. -/
def quantMx (p : PageFmt) (b : List Val) : FM (List Nat × Nat) :=
  if b.all Val.isFinite then do
    let a := maxMag b
    let code : Nat := if a.1 = 0 then 0 else (max 0 (min 254 (log2Ratio a.1 1 a.2 - emaxElem p.elem + 127))).toNat
    let es ← b.mapM (quantElem p.elem 1 ((code : Int) - 127))
    pure (es, code)
  else do
    setFlag flInvalid
    pure (b.map (fun _ => 0), 0xFF)

/-- Quantizes a row under coarse scale `c` (02 R44 to R47). -/
def quantRow (p : PageFmt) (c : Word) (row : List Val) : FM Row :=
  match p.layout with
  | 0 => do
    let cs ← row.mapM (rneVal .bf16)
    pure { codes := cs }
  | 1 => do
    let s := scaleOf c
    let cs ← row.mapM (quantElem p.elem s.1 s.2)
    pure { codes := cs }
  | 2 => do
    let bs ← (chunksOf p.blockSize row.length row).mapM (quantTwoLevel p c)
    pure { codes := bs.flatMap Prod.fst, scales := bs.map Prod.snd }
  | _ => do
    let bs ← (chunksOf p.blockSize row.length row).mapM (quantMx p)
    pure { codes := bs.flatMap Prod.fst, scales := bs.map Prod.snd }

/-- The fine scale of element `i` of a row. -/
def fineScale (p : PageFmt) (r : Row) (i : Nat) : Val :=
  match p.layout with
  | 2 => decode .ue4m3 (r.scales.getD (i / p.blockSize) 0)
  | 3 => decode .ue8m0 (r.scales.getD (i / p.blockSize) 0)
  | _ => .fin false 1 0

/-- Decoded element × fine scale (02 R48), exact and without a flag. -/
def decodeElem (p : PageFmt) (r : Row) (i : Nat) : Val :=
  let e := decode p.elem (r.codes.getD i 0)
  match e with
  | .nan _ => .nan (match e with | .nan s => s | _ => false)
  | w => (runFM (mulVal w (fineScale p r i))).1

/-- A decoded row, coarse scale not applied. -/
def decodeRow (p : PageFmt) (r : Row) : List Val := (List.range p.hd).map (decodeElem p r)

/-- A decoded row with its coarse scale (02 R48), the values that a re-encoding starts from. -/
def decodeRowFull (p : PageFmt) (c : Word) (r : Row) : List Val :=
  (decodeRow p r).map (fun v => (runFM (mulVal v (decode .fp32 c.toNat))).1)

/-- Outward rounding of a decoded value into a summary (08 R220). -/
def summaryOf (hi : Bool) (v : Val) : Word :=
  match v with
  | .nan _ => 0x7FC00000#32
  | .inf n => if n then 0xFF800000#32 else 0x7F800000#32
  | .fin n m e =>
    if m = 0 then (if n then 0x80000000#32 else 0#32)
    else if log2Ratio m 1 e < -126 then
      (if hi then (if n then 0x80000000#32 else 0x00800000#32) else (if n then 0x80800000#32 else 0#32))
    else BitVec.ofNat 32 (runFM (rneVal .fp32 v)).1

/-- Summaries of a page without valid rows (08 R220). -/
def emptyHi (hd : Nat) : List Word := List.replicate hd 0xFF800000#32
def emptyLo (hd : Nat) : List Word := List.replicate hd 0x7F800000#32

/-- Takes a decoded row into the upper summary (08 R220). -/
def raiseHi (khi : List Word) (row : List Val) : List Word :=
  (khi.zip row).map (fun p => (runFM (fmax true p.1 (summaryOf true p.2))).1)

/-- Takes a decoded row into the lower summary (08 R220): min(+0, -0) = -0. -/
def lowerLo (klo : List Word) (row : List Val) : List Word :=
  (klo.zip row).map (fun p =>
    let m := (runFM (fmax true (fneg p.1) (fneg (summaryOf false p.2)))).1
    if m = 0x7FC00000#32 then m else fneg m)

/-- Rebuilds both summaries from every row (08 R220). -/
def rebuildSummaries (p : Page) : Page :=
  let rows := p.k.map (decodeRow p.fmt)
  { p with khi := rows.foldl raiseHi (emptyHi p.fmt.hd), klo := rows.foldl lowerLo (emptyLo p.fmt.hd) }

/-- Re-encodes the rows of one side under a new coarse scale (09 R248). -/
def reencodeRows (p : PageFmt) (cOld cNew : Word) (rows : List Row) : FM (List Row) :=
  rows.mapM (fun r => quantRow p cNew (decodeRowFull p cOld r))

/-- A re-encoding of K (09 R248). -/
def reencodeK (p : Page) (c : Word) : FM Page := do
  let rows ← reencodeRows p.fmt p.ck c p.k
  pure (rebuildSummaries { p with k := rows, ck := c, reencodes := min 0xFFFF (p.reencodes + 1) })

/-- A re-encoding of V (09 R248). -/
def reencodeV (p : Page) (c : Word) : FM Page := do
  let rows ← reencodeRows p.fmt p.cv c p.v
  pure { p with v := rows, cv := c, reencodes := min 0xFFFF (p.reencodes + 1) }

/-- What staging one row did to its page. -/
structure Staged where
  page : Page
  reencodes : Nat
  deriving DecidableEq, Repr

/-- Steps 3 and 4 of 09 R245 for K: the coarse scale at slot 0, the re-encoding test above it. -/
def prepareK (p : Page) (row : List Val) : FM Staged :=
  if p.rows = 0 then pure ⟨{ p with ck := chooseCoarse p.fmt row }, 0⟩
  else if needsReencode p.fmt p.ck row && decide (coarseExp p.fmt row > coarseExpOf p.ck) then do
    let q ← reencodeK p (pow2Code (coarseExp p.fmt row))
    pure ⟨q, 1⟩
  else pure ⟨p, 0⟩

/-- Steps 3 and 4 of 09 R245 for V. -/
def prepareV (p : Page) (row : List Val) : FM Staged :=
  if p.rows = 0 then pure ⟨{ p with cv := chooseCoarse p.fmt row }, 0⟩
  else if needsReencode p.fmt p.cv row && decide (coarseExp p.fmt row > coarseExpOf p.cv) then do
    let q ← reencodeV p (pow2Code (coarseExp p.fmt row))
    pure ⟨q, 1⟩
  else pure ⟨p, 0⟩

/-- Steps 3 to 7 of 09 R245 for one row, on a staged copy: sealing is the commit's. The rows hold no subnormal that 02 R55
flushes: FP32 host elements were flushed as they were read, results as they were rounded. -/
def stageRow (p : Page) (k v : List Word) : FM Staged := do
  let kv := k.map (fun w => decode .fp32 w.toNat)
  let vv := v.map (fun w => decode .fp32 w.toNat)
  let work : FM (Page × Nat) := do
    let a ← prepareK p kv
    let b ← prepareV a.page vv
    let kr ← quantRow p.fmt b.page.ck kv
    let vr ← quantRow p.fmt b.page.cv vv
    let dec := decodeRow p.fmt kr
    pure ({ b.page with k := b.page.k ++ [kr], v := b.page.v ++ [vr]
                        khi := raiseHi b.page.khi dec, klo := lowerLo b.page.klo dec }, a.reencodes + b.reencodes)
  let r := runFM work
  addAcc r.2
  pure ⟨{ r.1.1 with qflags := r.1.1.qflags ||| r.2.flags }, r.1.2⟩

/-- A new page before its first row (08 R215, R216). -/
def freshPage (f : PageFmt) (index : Nat) : Page :=
  { fmt := f, tspan := tokenSpan f, index := index, khi := emptyHi f.hd, klo := emptyLo f.hd }

/-- Bytes of one row (02 R41). -/
def rowToBytes (p : PageFmt) (r : Row) : List Byte := padTo p.rowBytes (packBytes p.width r.codes)

/-- The 64 KiB of frame data (08 R215). -/
def Page.dataBytes (p : Page) : List Byte :=
  let half := p.tspan * p.fmt.rowBytes
  padTo 65536 (padTo half (p.k.flatMap (rowToBytes p.fmt)) ++ padTo half (p.v.flatMap (rowToBytes p.fmt)))

/-- Sidecar bytes 0 to 31 (08 R217). -/
def Page.headBytes (p : Page) : List Byte :=
  leBytes 1 p.fmt.fmt ++ leBytes 1 p.fmt.layout ++ leBytes 1 p.fmt.block ++ leBytes 1 0 ++
  leBytes 2 p.fmt.hd ++ leBytes 2 p.tspan ++ leBytes 2 p.rows ++ leBytes 2 p.reencodes ++
  leBytes 4 p.index ++ leBytes 4 p.ck.toNat ++ leBytes 4 p.cv.toNat ++ leBytes 4 p.qflags.toNat ++ leBytes 4 0

/-- Sidecar bytes 32 to 63, the seal fields (08 R217). -/
def Page.sealBytes (p : Page) : List Byte :=
  leBytes 1 (b2n p.isSealed + 2 * b2n p.published) ++ zeroBytes 3 ++ leBytes 4 p.sealGen.toNat ++
  leBytes 8 p.prefixHash.toNat ++ zeroBytes 12 ++ leBytes 4 p.checksum.toNat

/-- Sidecar bytes 64 to 8,191: summaries and fine scales (08 R216). -/
def Page.bodyBytes (p : Page) : List Byte :=
  let n := p.tspan * p.fmt.blocks
  padTo 8128 ((p.khi.flatMap (fun w => leBytes 4 w.toNat)) ++ (p.klo.flatMap (fun w => leBytes 4 w.toNat)) ++
    padTo n (p.k.flatMap (fun r => r.scales.map (BitVec.ofNat 8))) ++
    padTo n (p.v.flatMap (fun r => r.scales.map (BitVec.ofNat 8))))

/-- The 8 KiB sidecar (08 R216). -/
def Page.sidecarBytes (p : Page) : List Byte := p.headBytes ++ p.sealBytes ++ p.bodyBytes

/-- One row read back from frame bytes and scales. -/
def rowOfBytes (f : PageFmt) (data scales : List Byte) : Row :=
  { codes := unpackBytes f.width f.hd data, scales := scales.map BitVec.toNat }

/-- Reads a page back from its 65,536 data bytes and 8,192 sidecar bytes (08 R215 to R217). -/
def Page.ofBytes (data side : List Byte) : Page :=
  let f : PageFmt := { fmt := fieldAt side 0 1, layout := fieldAt side 1 1, block := fieldAt side 2 1, hd := fieldAt side 4 2 }
  let t := fieldAt side 6 2
  let rows := fieldAt side 8 2
  let rb := f.rowBytes
  let n := f.blocks
  let so := 64 + 8 * f.hd
  let krow (j : Nat) : Row := rowOfBytes f (bytesAt data (j * rb) rb) (bytesAt side (so + j * n) n)
  let vrow (j : Nat) : Row := rowOfBytes f (bytesAt data (t * rb + j * rb) rb) (bytesAt side (so + t * n + j * n) n)
  { fmt := f, tspan := t, reencodes := fieldAt side 10 2, index := fieldAt side 12 4
    ck := BitVec.ofNat 32 (fieldAt side 16 4), cv := BitVec.ofNat 32 (fieldAt side 20 4)
    qflags := BitVec.ofNat 6 (fieldAt side 24 4), isSealed := bit (fieldAt side 32 1) 0
    published := bit (fieldAt side 32 1) 1, sealGen := BitVec.ofNat 32 (fieldAt side 36 4)
    prefixHash := BitVec.ofNat 64 (fieldAt side 40 8), checksum := BitVec.ofNat 32 (fieldAt side 60 4)
    khi := (List.range f.hd).map (fun i => BitVec.ofNat 32 (fieldAt side (64 + 4 * i) 4))
    klo := (List.range f.hd).map (fun i => BitVec.ofNat 32 (fieldAt side (64 + 4 * f.hd + 4 * i) 4))
    k := (List.range rows).map krow, v := (List.range rows).map vrow }

/-- One bit step of CRC-32C, reflected (08 R222). -/
def crcBit (c : Nat) : Nat := if c % 2 = 1 then (c / 2) ^^^ 0x82F63B78 else c / 2

/-- Takes one byte into a CRC-32C register. -/
def crcByte (c : Nat) (b : Byte) : Nat :=
  let x := c ^^^ b.toNat
  crcBit (crcBit (crcBit (crcBit (crcBit (crcBit (crcBit (crcBit x)))))))

/-- CRC-32C of a byte string (08 R222). -/
def crc32c (bs : List Byte) : Word := BitVec.ofNat 32 ((bs.foldl crcByte 0xFFFFFFFF) ^^^ 0xFFFFFFFF)

/-- CHECKSUM of a page (08 R222): data, sidecar bytes 0 to 31, then 64 to 8,191. -/
def pageChecksum (p : Page) : Word := crc32c (p.dataBytes ++ p.headBytes ++ p.bodyBytes)

/-- The same over bytes as they arrived from outside (08 R223). -/
def checksumOfBytes (data side : List Byte) : Word :=
  crc32c (padTo 65536 data ++ bytesAt side 0 32 ++ bytesAt side 64 8128)

/-- Sets the seal of a page (08 R221 steps 2 to 4). -/
def sealPage (gen : Word) (hash : Option DWord) (p : Page) : Page :=
  let q := { p with isSealed := true, sealGen := gen, prefixHash := hash.getD p.prefixHash }
  { q with checksum := pageChecksum q }

end Sys2Proof.Machine
end

