-- ==== Sys2Proof/Machine/Attention.lean ====
section
/-! DEFINITION. The attention chain on plain values: liveness, the page leaf, the canonical merge tree, the epilogue,
page skipping and partial records (06 R159 to R189), and the backward leaf and reductions (07 R197 to R210). -/

namespace Sys2Proof.Machine

/-- M_NEG = -2^126 (chapter 02). -/
def mNeg : Word := 0xFE800000#32

/-- Mask and parameter fields that a row's liveness and scores use (06 R159, R166). -/
structure MaskCtl where
  causal : Bool := false
  window : Bool := false
  segment : Bool := false
  padding : Bool := false
  win : Nat := 0
  scale2 : Word := 0#32
  deriving DecidableEq, Repr

/-- One query row as the chain sees it: the operand of stage 4, its position, its limits and its bias row. -/
structure QRow where
  op : List Opnd := []
  pos : Nat := 0
  len : Nat := 0
  klen : Nat := 0
  segs : List Nat := []
  bias : Option (List Word) := none
  /-- A saturated cell of its QK-normalization fed the operand (07 R210). -/
  sat : Bool := false
  deriving DecidableEq, Repr

/-- Distance bucket (06 R164). -/
def distBucket (d : Nat) : Nat :=
  if d < 64 then d else
    let e := Nat.log2 d
    64 + 4 * (e - 6) + (d >>> (e - 2)) % 4

/-- Distance between two positions. -/
def posDist (a b : Nat) : Nat := if a ≤ b then b - a else a - b

/-- The conditions of 06 R166 that depend on positions, segments and lengths only. -/
def liveAt (mc : MaskCtl) (r : QRow) (k : Nat) : Bool :=
  decide (k < r.len) &&
  (!mc.causal || decide (k ≤ r.pos)) &&
  (!mc.window || decide (r.pos < k + mc.win)) &&
  (!mc.segment || decide (r.segs.getD k 0 = r.segs.getD r.pos 0)) &&
  (!mc.padding || decide (k < r.klen))

/-- The horizon of a row plus one, 0 for a row without leaves (06 R167). -/
def horizonEnd (mc : MaskCtl) (r : QRow) : Nat :=
  if mc.causal then r.pos + 1 else if mc.padding then min r.len r.klen else r.len

/-- Number of leaves of a row (06 R167). -/
def leafCount (mc : MaskCtl) (r : QRow) (t : Nat) : Nat := ceilDiv (horizonEnd mc r) t

/-- The mask summary of a leaf (04 R131): the OR over the mask words of its positions. -/
def maskSummary (mc : MaskCtl) (r : QRow) (t i : Nat) : Word :=
  logicReduce .or [maskWords ((List.range t).map (fun j => liveAt mc r (i * t + j)))]

/-- Whether leaf `i` is null by 06 R168: no position of it is live. -/
def isNullLeaf (mc : MaskCtl) (r : QRow) (t i : Nat) : Bool := maskSummary mc r t i = 0#32

/-- The partial result of some leaves (06 R171). -/
structure Leaf where
  m : Word
  l : Word
  o : List Word
  deriving DecidableEq, Repr

/-- The null leaf (05 R150, 06 R168). -/
def nullLeaf (hd : Nat) : Leaf := ⟨mNeg, 0#32, List.replicate hd 0#32⟩

/-- Decoded page rows as Cuboid operands: elements of 16 bits and under are never split (02 R57). -/
def narrow (v : Val) : Opnd := { val := v, wide := false }

/-- The bias of a row at key position `k` (06 R163 to R165). -/
def biasAt (r : QRow) (k : Nat) : Word :=
  match r.bias with
  | none => 0#32
  | some b => b.getD (distBucket (posDist r.pos k)) 0#32

/-- Elements of one B entry by the streamed format (12 R338). -/
def entryLen (f : Fmt) : Nat :=
  match f with
  | .e4m3 | .e5m2 => 16
  | .e2m3 | .e3m2 | .e2m1 => 32
  | _ => 8

/-- How the nests of the stages of a row sum (12 R332): QK-normalization, scores, skip test, weighted sum, dq leaf, dV and dK. -/
structure StageSums where
  norm : NestSum := {}
  score : NestSum := {}
  skip : NestSum := {}
  out : NestSum := {}
  dq : NestSum := {}
  dv : NestSum := {}
  dk : NestSum := {}
  deriving DecidableEq, Repr

/-- A nest over B entries of a page's own format (12 R511). -/
def NestSum.over (ns : NestSum) (p : Page) : NestSum := { ns with entry := entryLen p.fmt.elem }

/-- Cells of the scores of the live slots of one page (06 R163, R170). -/
def scoreDots (c : NumCtl) (ns : NestSum) (r : QRow) (p : Page) (slots : List Nat) : List (FM CellOut) :=
  slots.map (fun j => cellMulAdd c (ns.over p) r.op ((decodeRow p.fmt (p.k.getD j {})).map narrow))

/-- A score from its dot product (06 R163, R148). -/
def finishScore (c : NumCtl) (mc : MaskCtl) (r : QRow) (ck dot : Word) (k : Nat) : FM Word := do
  let raw ← fmul c.strict dot ck
  let s ← ffma c.strict raw mc.scale2 (biasAt r k)
  match decode .fp32 s.toNat with
  | .fin _ _ _ =>
    let low := cmpVal (decode .fp32 s.toNat) (decode .fp32 mNeg.toNat) = some .lt
    pure (if low then mNeg else s)
  | _ => pure s

/-- One score with what its cell and its own operations leave: none where it is -∞, which makes the slot not live; then it
leaves nothing (05 R148, R149). -/
def liveScore (c : NumCtl) (mc : MaskCtl) (r : QRow) (ck : Word) (k : Nat) (cell : CellOut × Acc) : FM (Option (Word × Bool)) := do
  let s := runFM (finishScore c mc r ck cell.1.value k)
  if s.1 = 0xFF800000#32 then pure none
  else do
    addAcc cell.2
    addAcc s.2
    pure (some (s.1, cell.1.saturated))

/-- Scores of the live slots of a page, with whether a saturated cell formed them (06 R169). -/
def liveScores (c : NumCtl) (ns : NestSum) (mc : MaskCtl) (r : QRow) (p : Page) (i t : Nat) : FM (List (Nat × Word × Bool)) := do
  let slots := (List.range t).filter (fun j => liveAt mc r (i * t + j) && decide (j < p.rows))
  let cells := (scoreDots c ns r p slots).map runFM
  tilesCount ns (cells.map Prod.fst)
  let ss ← (slots.zip cells).mapM (fun jd => do
    let s ← liveScore c mc r p.ck (i * t + jd.1) jd.2
    pure (s.map (fun x => (jd.1, x))))
  pure (ss.filterMap id)

/-- Scores of the live slots of a page. -/
def leafScores (c : NumCtl) (ns : NestSum) (mc : MaskCtl) (r : QRow) (p : Page) (i t : Nat) : FM (List (Nat × Word)) := do
  let ss ← liveScores c ns mc r p i t
  pure (ss.map (fun x => (x.1, x.2.1)))

/-- Value of a slot in a sparse list, +0 where the slot is not live. -/
def slotVal (xs : List (Nat × Word)) (j : Nat) : Word := ((xs.find? (fun p => p.1 = j)).map Prod.snd).getD 0#32

/-- The per-slot list of a sparse list. -/
def slotList (xs : List (Nat × Word)) (t : Nat) : List Word := (List.range t).map (slotVal xs)

/-- A BF16 weight of the chain as an FP32 code. -/
def toBf16 (strict : Bool) (w : Word) : FM Word := do
  let b ← rneVal .bf16 (operand32 strict w)
  pure (BitVec.ofNat 32 (b * 65536))

/-- Column `d` of a page side over all slots; a slot that is not live gives +0 (06 R169). -/
def pageColumn (f : PageFmt) (rows : List Row) (live : List Nat) (t d : Nat) : List Opnd :=
  (List.range t).map (fun j =>
    if live.contains j then narrow (decodeElem f (rows.getD j {}) d) else narrow (.fin false 0 0))

/-- Cells multiplied by the page's coarse scale at the drain (06 R169, R170). -/
def scaledCells (c : NumCtl) (ns : NestSum) (cs : Word) (cells : List (FM CellOut)) : FM (List Word) := do
  let ws ← tileCells ns cells
  ws.mapM (fun w => fmul c.strict w cs)

/-- The page leaf of a row (06 R169). -/
def pageLeaf (pf : Profile) (c : NumCtl) (sm : StageSums) (mc : MaskCtl) (r : QRow) (p : Page) (i t hd : Nat) : FM Leaf := do
  let ss ← leafScores c sm.score mc r p i t
  let m ← ss.foldlM (fun m js => fmax c.strict m js.2) mNeg
  let pb ← ss.mapM (fun js => do
    let d ← fsub c.strict js.2 m
    let e ← sfu pf .exp2 d
    let b ← toBf16 c.strict e
    pure (js.1, b))
  let live := pb.map Prod.fst
  let ws := (slotList pb t).map (fun w => narrow (operand32 c.strict w))
  let l ← oneCell (cellMulAdd c {} ws (ws.map (fun _ => narrow (.fin false 1 0))))
  let o ← scaledCells c sm.out p.cv ((List.range hd).map (fun d => cellMulAdd c (sm.out.over p) ws (pageColumn p.fmt p.v live t d)))
  pure ⟨m, l, o⟩

/-- merge of 06 R171. -/
def mergeLeaf (pf : Profile) (strict : Bool) (x y : Leaf) : FM Leaf := do
  let m ← fmax strict x.m y.m
  let dx ← fsub strict x.m m
  let dy ← fsub strict y.m m
  let ax ← sfu pf .exp2 dx
  let ay ← sfu pf .exp2 dy
  let yl ← fmul strict y.l ay
  let l ← ffma strict x.l ax yl
  let o ← (x.o.zip y.o).mapM (fun p => do
    let t ← fmul strict p.2 ay
    ffma strict p.1 ax t)
  pure ⟨m, l, o⟩

/-- The root of a list of leaves by the canonical merge tree (06 R172). -/
def mergeTree (pf : Profile) (strict : Bool) (hd : Nat) (leaves : List Leaf) : FM Leaf := do
  let r ← splitTree (mergeLeaf pf strict) (leaves.length + 1) leaves
  pure (r.getD (nullLeaf hd))

/-- Output formats of ACTL.OFMT (06 R159). -/
def ofmtOf (code : Nat) : Option Fmt :=
  match code with
  | 0 => some .bf16 | 1 => some .fp16 | 2 => some .e4m3 | 3 => some .e5m2 | 4 => some .fp32
  | _ => none

/-- Rounding to an output format (02 R52, 06 R173). -/
def roundOut (strict : Bool) (f : Fmt) (v : Val) : FM Nat :=
  if f = .fp32 then roundMode strict .fp32 v else convertFinal f v

/-- What the epilogue of a row gives: element codes, the LSE, and whether the row is fully masked. -/
structure RowOut where
  o : List Nat
  lse : Word
  masked : Bool
  deriving DecidableEq, Repr

/-- The epilogue (06 R173, 05 R151, R152). -/
def epilogue (pf : Profile) (strict : Bool) (f : Fmt) (nat : Bool) (root : Leaf) : FM RowOut :=
  if root.l = 0#32 ∧ root.m = mNeg then
    pure ⟨root.o.map (fun _ => 0), 0xFF800000#32, true⟩
  else do
    let r ← sfu pf .rcp root.l
    let o ← root.o.mapM (fun x => do
      let v ← mulVal (operand32 strict x) (operand32 strict r)
      roundOut strict f v)
    let lg ← sfu pf .log2 root.l
    let lse2 ← fadd strict root.m lg
    let lse ← (if nat then fmul strict lse2 0x3F317218#32 else pure lse2)
    pure ⟨o, lse, false⟩

/-- Stage 4 of 06 R162: the query operand. The row holds no subnormal that 02 R55 flushes. -/
def queryOperand (c : NumCtl) (q : List Word) : FM (List Opnd) :=
  if c.passes ≤ 2 then q.mapM (fun w => do
    let b ← rneVal .bf16 (decode .fp32 w.toNat)
    pure (narrow (decode .bf16 b)))
  else pure (q.map (fun w => { val := decode .fp32 w.toNat, wide := true }))

/-- Stages 2 to 4 of 06 R162 on a query row already decoded to FP32. -/
def prepareQuery (pf : Profile) (c : NumCtl) (ns : NestSum) (norm : NormTable) (turn : TurnTable) (pos : Nat) (q : List Word) :
    FM (List Opnd) := do
  let n ← normRow pf c ns norm q
  let r ← rotateRow pf c.strict turn pos n
  queryOperand c r

/-- Anchors of a row with `n` leaves (06 R184). -/
def isAnchor (n i : Nat) : Bool := decide (n ≤ 3) || i = 0 || i = n - 2 || i = n - 1

/-- Largest bias over the buckets between the distances to a page's first and last key positions (06 R184). -/
def biasMax (r : QRow) (first last : Nat) : FM Word :=
  match r.bias with
  | none => pure 0#32
  | some b =>
    let x := distBucket (posDist r.pos first)
    let y := distBucket (posDist r.pos last)
    let lo := min x y
    let bs := (List.range (max x y + 1 - lo)).map (fun i => b.getD (lo + i) 0#32)
    match bs with
    | [] => pure 0#32
    | w :: ws => ws.foldlM (fun m u => fmax true m u) w

/-- The value of a query operand: hi + lo under three passes, the BF16 value otherwise (06 R184). -/
def operandValue (x : Opnd) : Val :=
  if x.wide then (runFM (addVal (splitHi x) (splitLo x))).1 else x.val

/-- Magnitude of a value. -/
def absVal : Val → Val
  | .fin _ m e => .fin false m e
  | .inf _ => .inf false
  | v => v

/-- The page-skip test (06 R184): `ma` is the largest m of the anchor leaves. -/
def skipTest (c : NumCtl) (ns : NestSum) (mc : MaskCtl) (theta : Word) (r : QRow) (p : Page) (i t : Nat) (ma : Word) : FM Bool := do
  let theta2 ← fmul c.strict theta 0x3FB8AA3B#32
  let q := r.op.map operandValue
  let hi := p.khi.map (operand32 c.strict)
  let lo := p.klo.map (operand32 c.strict)
  let u ← oneCell (cellSelSum c ns q hi lo)
  let mag ← (p.khi.zip p.klo).mapM (fun hl => fmax c.strict (hl.1 &&& 0x7FFFFFFF#32) (hl.2 &&& 0x7FFFFFFF#32))
  let magv := mag.map (operand32 c.strict)
  let w ← oneCell (cellSelSum c ns (q.map absVal) magv magv)
  let bmax ← biasMax r (i * t) (i * t + t - 1)
  let uc ← fmul c.strict u p.ck
  let ub ← ffma c.strict uc mc.scale2 bmax
  let wc ← fmul c.strict w p.ck
  let ws ← fmul c.strict wc mc.scale2
  let wb ← fadd c.strict ws (bmax &&& 0x7FFFFFFF#32)
  -- g: the error bound times 2^-16, exactly (06 R184)
  let av ← addVal (operand32 c.strict ub) (scaleVal (operand32 c.strict wb) (-16))
  let a ← round32 c.strict av
  let b ← fadd c.strict a theta2
  flt c.strict b ma

/-- Bytes of a partial record (06 R188). -/
def partialBytes (l : Leaf) : List Byte :=
  leBytes 4 l.m.toNat ++ leBytes 4 l.l.toNat ++ l.o.flatMap (fun w => leBytes 4 w.toNat)

/-- Reads an external partial (06 R189): an M below M_NEG is taken as M_NEG. -/
def partialOfBytes (hd : Nat) (bs : List Byte) : Leaf :=
  let m : Word := BitVec.ofNat 32 (fieldAt bs 0 4)
  let low := cmpVal (decode .fp32 m.toNat) (decode .fp32 mNeg.toNat) = some .lt
  ⟨if low then mNeg else m, BitVec.ofNat 32 (fieldAt bs 4 4),
   (List.range hd).map (fun d => BitVec.ofNat 32 (fieldAt bs (8 + 4 * d) 4))⟩

/-- The list of partials with the engine's own at `self` (06 R189). -/
def insertSelf (self : Nat) (own : Leaf) (ext : List Leaf) : List Leaf := ext.take self ++ own :: ext.drop self

/-! ### Backward -/

/-- Outcome class of a backward row (07 R202). -/
inductive BwdClass where
  | masked
  | nan
  | computed
  deriving DecidableEq, Repr

/-- One backward row with what the prologue formed (07 R197). -/
structure BwdRow where
  q : QRow := {}
  doOp : List Opnd := []
  lse2 : Word := 0#32
  dd : Word := 0#32
  /-- A saturated cell formed dd (07 R210). -/
  ddSat : Bool := false
  cls : BwdClass := .computed
  /-- group member of the row within its stream -/
  member : Nat := 0
  deriving DecidableEq, Repr

/-- The prologue of a row (07 R197, R202). -/
def bwdPrologue (c : NumCtl) (lseNat : Bool) (q : QRow) (member : Nat) (dO oIn : List Val) (wideDo : Bool) (lse : Word) :
    FM BwdRow :=
  if lse = 0xFF800000#32 then pure { q := q, cls := .masked, member := member }
  else do
    let lse2 ← (if lseNat then fmul c.strict lse 0x3FB8AA3B#32 else pure lse)
    let dd ← tileOuts {} [cellMulAdd { c with passes := 1 } {} (dO.map (fun v => { val := v, wide := wideDo })) (oIn.map narrow)]
    let dop ← (if c.passes ≤ 2 then dO.mapM (fun v => do
        let b ← rneVal .bf16 v
        pure (narrow (decode .bf16 b)))
      else pure (dO.map (fun v => { val := v, wide := wideDo })))
    let bad := dO.any Val.isNan || oIn.any Val.isNan || (decode .fp32 lse2.toNat).isNan
    pure { q := q, doOp := dop, lse2 := lse2, dd := (dd.map CellOut.value).headD 0#32, ddSat := dd.any CellOut.saturated, cls := if bad then .nan else .computed, member := member }

/-- One slot of a backward leaf: weight, gradient, and whether a saturated cell fed them. -/
structure BwdSlot where
  slot : Nat
  p : Word
  ds : Word
  satP : Bool
  satDs : Bool
  deriving DecidableEq, Repr

/-- Canonical FP32 NaN. -/
def nan32 : Word := 0x7FC00000#32

/-- The weights and gradients of one row on one page (07 R198). A row of class NaN spreads NaN (07 R202); what its scores left
counts, only masked positions being exempt (02 R62, 07 R209). -/
def bwdSlots (pf : Profile) (c : NumCtl) (ns : NestSum) (mc : MaskCtl) (r : BwdRow) (p : Page) (i t : Nat) : FM (List BwdSlot) :=
  match r.cls with
  | .masked => pure []
  | .nan => do
    let ss ← liveScores c ns mc r.q p i t
    pure (ss.map (fun js => ⟨js.1, nan32, nan32, js.2.2 || r.q.sat, js.2.2 || r.q.sat || r.ddSat⟩))
  | .computed => do
    let ss ← liveScores c ns mc r.q p i t
    let dps ← tileOuts ns (ss.map (fun js => cellMulAdd c (ns.over p) r.doOp ((decodeRow p.fmt (p.v.getD js.1 {})).map narrow)))
    (ss.zip dps).mapM (fun jd => do
      let x ← fsub c.strict jd.1.2.1 r.lse2
      let e ← sfu pf .exp2 x
      let w ← toBf16 c.strict e
      let dp ← fmul c.strict jd.2.value p.cv
      let df ← fsub c.strict dp r.dd
      let ds ← fmul c.strict w df
      let sat := jd.1.2.2 || r.q.sat
      pure ⟨jd.1.1, w, ds, sat, sat || jd.2.saturated || r.ddSat⟩)

/-- Whether a live score of a row on one page is a NaN (07 R202). -/
def bwdScoreNan (c : NumCtl) (ns : NestSum) (mc : MaskCtl) (r : BwdRow) (p : Page) (i t : Nat) : Bool :=
  ((runFM (liveScores c ns mc r.q p i t)).1).any (fun js => (decode .fp32 js.2.1.toNat).isNan)

/-- ds_op: BF16 under one pass, the FP32 value as streamed operand otherwise (07 R198). -/
def dsOperand (c : NumCtl) (w : Word) : FM Opnd :=
  if c.passes ≤ 1 then do
    let b ← rneVal .bf16 (operand32 c.strict w)
    pure (narrow (decode .bf16 b))
  else pure (opnd32 c w)

/-- The value of a slot's ds operand, +0 where the slot is not live. -/
def dsAt (ops : List (Nat × Opnd)) (j : Nat) : Opnd :=
  ((ops.find? (fun p => p.1 = j)).map Prod.snd).getD (narrow (.fin false 0 0))

/-- A gradient value and whether a saturated cell contributed to it (07 R210). -/
structure Grad where
  val : Word
  sat : Bool
  deriving DecidableEq, Repr

/-- The dQ leaf of a row on page `i` (07 R198). -/
def dqLeaf (c : NumCtl) (ns : NestSum) (p : Page) (slots : List BwdSlot) (t hd : Nat) : FM (List Grad) := do
  let ops ← slots.mapM (fun s => do
    let o ← dsOperand c s.ds
    pure (s.slot, o))
  let live := slots.map BwdSlot.slot
  let satIn := slots.any BwdSlot.satDs
  let b := (List.range t).map (dsAt ops)
  let outs ← tileOuts ns ((List.range hd).map (fun d => cellMulAdd c ns (pageColumn p.fmt p.k live t d) b))
  outs.mapM (fun o => do
    let w ← fmul c.strict o.value p.ck
    pure ⟨w, o.saturated || satIn⟩)

/-- One contribution of a query row to a key row: the factors of 07 R199. -/
structure KeyTerm where
  p : Word
  ds : Word
  doOp : List Opnd
  qOp : List Opnd
  satP : Bool
  satDs : Bool
  deriving DecidableEq, Repr

/-- The term of a row that is not live at the key: gated to +0 (07 R198). -/
def zeroTerm (hd : Nat) : KeyTerm :=
  ⟨0#32, 0#32, List.replicate hd (narrow (.fin false 0 0)), List.replicate hd (narrow (.fin false 0 0)), false, false⟩

/-- The block sum of dV of one key row (07 R199, R203). -/
def dvBlock (c : NumCtl) (ns : NestSum) (ts : List KeyTerm) (hd : Nat) : FM (List Grad) := do
  let a := ts.map (fun t => narrow (operand32 c.strict t.p))
  let sat := ts.any KeyTerm.satP
  let outs ← tileOuts ns ((List.range hd).map (fun d =>
    cellMulAdd c ns a (ts.map (fun t => t.doOp.getD d (narrow (.fin false 0 0))))))
  pure (outs.map (fun o => ⟨o.value, o.saturated || sat⟩))

/-- The block sum of dK of one key row (07 R199, R203). -/
def dkBlock (c : NumCtl) (ns : NestSum) (ts : List KeyTerm) (hd : Nat) : FM (List Grad) := do
  let b ← ts.mapM (fun t => dsOperand c t.ds)
  let sat := ts.any KeyTerm.satDs
  let outs ← tileOuts ns ((List.range hd).map (fun d =>
    cellMulAdd c ns (ts.map (fun t => t.qOp.getD d (narrow (.fin false 0 0)))) b))
  pure (outs.map (fun o => ⟨o.value, o.saturated || sat⟩))

/-- Combination of block sums or leaves over contribution indices (07 R204, R205): FP32 split tree, or W64 fold. -/
def combineGrads (c : NumCtl) (canon : Bool) (parts : List (List Grad)) (hd : Nat) : FM (List Grad) :=
  (List.range hd).mapM (fun d => do
    let xs := parts.map (fun p => (p.getD d ⟨0#32, false⟩).val)
    let sat := parts.any (fun p => (p.getD d ⟨0#32, false⟩).sat)
    if canon then do
      let t ← splitSum64 c (xs.map toW64)
      let w ← w64To32 c.strict t
      pure ⟨w, sat⟩
    else do
      let w ← splitSum32 c xs
      pure ⟨w, sat⟩)

/-- Transpose rotation of a gradient row (07 R201). -/
def unrotateRow (pf : Profile) (strict : Bool) (t : TurnTable) (p : Nat) (row : List Word) : FM (List Word) :=
  (List.range (t.rotDims / 2)).foldlM (fun (r : List Word) i => do
    let ij := pairIndex t i
    let sc := sincosT pf (turnAngle p (t.freq.getD i 0#64))
    let x := r.getD ij.1 0#32
    let y := r.getD ij.2 0#32
    let pm ← fmul strict y sc.1
    let gx ← ffma strict x sc.2 pm
    let qm ← fmul strict x sc.1
    let gy ← ffma strict y sc.2 (fneg qm)
    pure ((r.set ij.1 gx).set ij.2 gy)) row

/-- Both elements of a rotated pair carry the saturated cells of either (07 R201, R210). -/
def pairSats (t : TurnTable) (g : List Grad) : List Grad :=
  (List.range (t.rotDims / 2)).foldl (fun r i =>
    let ij := pairIndex t i
    let x := r.getD ij.1 ⟨0#32, false⟩
    let y := r.getD ij.2 ⟨0#32, false⟩
    (r.set ij.1 { x with sat := x.sat || y.sat }).set ij.2 { y with sat := x.sat || y.sat }) g

/-- A gradient row with the saturation of its written elements. -/
def writtenSats (rot : Option (TurnTable × Nat)) (g : List Grad) : List Grad :=
  match rot with
  | some tp => pairSats tp.1 g
  | none => g

/-- From a gradient sum to the written codes (07 R199): GSCALE, inverse rotation, GFMT. -/
def finishGrad (pf : Profile) (c : NumCtl) (gscale : Option Word) (rot : Option (TurnTable × Nat)) (bf16 : Bool)
    (g : List Grad) : FM (List Nat) := do
  let ws ← g.mapM (fun x => match gscale with
    | none => pure x.val
    | some s => fmul c.strict x.val s)
  let rs ← (match rot with
    | none => pure ws
    | some tp => unrotateRow pf c.strict tp.1 tp.2 ws)
  rs.mapM (fun w => if bf16 then rneVal .bf16 (operand32 c.strict w) else roundMode c.strict .fp32 (operand32 c.strict w))

/-- The gradient statistics of one output (07 R210). -/
structure GradStat where
  maxAbs : Word := 0#32
  nonFinite : Nat := 0
  saturated : Nat := 0
  deriving DecidableEq, Repr

/-- Takes written codes into the statistics (07 R210). -/
def addStat (s : GradStat) (bf16 : Bool) (codes : List Nat) (g : List Grad) : GradStat :=
  let f := if bf16 then Fmt.bf16 else Fmt.fp32
  let s := codes.foldl (fun s c =>
    match decode f c with
    | .fin _ m e =>
      let w : Word := BitVec.ofNat 32 (rtoVal .fp32 (.fin false m e))
      { s with maxAbs := if s.maxAbs.toNat < w.toNat then w else s.maxAbs }
    | _ => { s with nonFinite := s.nonFinite + 1 }) s
  { s with saturated := s.saturated + (g.filter Grad.sat).length }

end Sys2Proof.Machine
end

