-- ==== Sys2Proof/Machine/Tab.lean ====
section
/-! DEFINITION. Sparse tables in one canonical form: keys strictly rising, and no entry equal to what an
unlisted key reads as. Equal tables are equal data. -/

namespace Sys2Proof.Machine

/-- A sparse table from numbers to `α`. -/
abbrev Tab (α : Type) := List (Nat × α)

/-- The value at a key; `d` is what an unlisted key reads as. -/
def tget {α : Type} (d : α) : Tab α → Nat → α
  | [], _ => d
  | (i, v) :: rest, k => if i = k then v else if k < i then d else tget d rest k

/-- Writes a key, keeping the canonical form: writing `d` removes the entry. -/
def tset {α : Type} [DecidableEq α] (d : α) : Tab α → Nat → α → Tab α
  | [], k, v => if v = d then [] else [(k, v)]
  | (i, w) :: rest, k, v =>
    if k < i then (if v = d then (i, w) :: rest else (k, v) :: (i, w) :: rest)
    else if k = i then (if v = d then rest else (k, v) :: rest)
    else (i, w) :: tset d rest k v

/-- Applies a function at a key. -/
def tmod {α : Type} [DecidableEq α] (d : α) (t : Tab α) (k : Nat) (f : α → α) : Tab α :=
  tset d t k (f (tget d t k))

/-- The keys listed. -/
def tkeys {α : Type} (t : Tab α) : List Nat := t.map Prod.fst

/-- The canonical form: keys strictly rising, no entry equal to the default. -/
def tabOk {α : Type} [DecidableEq α] (d : α) : Tab α → Bool
  | [] => true
  | [(_, v)] => decide (v ≠ d)
  | (i, v) :: (j, w) :: rest => decide (v ≠ d) && decide (i < j) && tabOk d ((j, w) :: rest)

/-- Removes a key whatever the default. -/
def terase {α : Type} (t : Tab α) (k : Nat) : Tab α := t.filter (fun p => p.1 != k)

/-- The least number of `from` to `from + fuel - 1` that `p` accepts. -/
def findFrom (p : Nat → Bool) : Nat → Nat → Option Nat
  | 0, _ => none
  | fuel + 1, k => if p k then some k else findFrom p fuel (k + 1)

/-- The lowest of bits 0 to n - 1 of a mask that is clear. -/
def lowestClear (n mask : Nat) : Option Nat := (List.range n).find? (fun i => !mask.testBit i)

/-- A mask with a bit set. -/
def withBit (mask i : Nat) : Nat := if mask.testBit i then mask else mask + 2 ^ i

/-- The least key at or above `k` that a rising key list does not hold: it walks the list once. -/
def firstFree : List Nat → Nat → Nat
  | [], k => k
  | i :: rest, k => if i < k then firstFree rest k else if i = k then firstFree rest (k + 1) else k

end Sys2Proof.Machine
end

