-- ==== Sys2Proof/Machine/State.lean ====
section
/-! DEFINITION. The state of the part: every register, table, queue, frame and pin that the spec names, as plain data;
the reasons a step can stop; and the machine right after reset. -/

namespace Sys2Proof.Machine

/-- The configurations of 01 R26. -/
inductive Part where
  | aeS | ae1 | ae4 | ae8 | ae16 | ae32
  deriving DecidableEq, Repr

/-- Device states (14 R385). -/
inductive Mode where
  | off | boot | load | verify | init | pair | ready | drain | maint | halted
  deriving DecidableEq, Repr

/-- A packet that Rhoit sends on a host module (13 R353, R354). -/
structure Pkt where
  typ : Nat
  tile : Nat
  module : Nat
  tag : Nat
  status : Nat := 0
  intr : Bool := false
  aux : Nat := 0
  addr : Nat := 0
  payload : List Byte := []
  deriving DecidableEq, Repr

/-- For whom a host request is made (13 R372). -/
inductive Owner where
  | item (job item row : Nat)
  | mig (slot : Nat)
  | record (job : Nat)
  | park (job : Nat)
  | irq (src : IrqSrc)
  | faultQueue
  | castle
  | handles (job : Nat)
  | tokens (job : Nat)
  | stats (job : Nat)
  | table (job : Nat)
  deriving DecidableEq, Repr

/-- A host request awaiting its response (13 R355). `off` is the offset of its bytes within what its owner moves,
`page` the 4 KiB virtual page its translation covers (none where the address is physical). -/
structure HReq where
  tile : Nat
  module : Nat
  tag : Nat
  write : Bool
  addr : Nat
  bytes : Nat
  off : Nat
  page : Option Nat
  owner : Owner
  /-- Timed out: the tag is held back until the late response arrives (13 R355). -/
  dead : Bool := false
  deriving DecidableEq, Repr

/-- An entry of the HAT look-aside (13 R362); pages are in units of the entry's page size. -/
structure LookEntry where
  size : Nat
  first : Nat
  run : Nat
  pa : Nat
  r : Bool
  w : Bool
  a : Bool
  deriving DecidableEq, Repr

/-- Who waits for a translation or a fault (13 R372). -/
inductive Waiter where
  | item (job item : Nat)
  | mig (slot : Nat)
  | record (job : Nat)
  | intake (ring : Nat)
  | irq (ring : Nat)
  | castle
  deriving DecidableEq, Repr

/-- A page-table walk in flight (13 R364). -/
structure Walk where
  tile : Nat
  page : Nat
  acc : Nat
  /-- The access needs both rights: a pool (13 R361). -/
  both : Bool
  /-- The requesters, each with the deadline of its first fault, none before one (13 R371). -/
  who : List (Waiter × Option Nat)
  deriving DecidableEq, Repr

/-- A translation that a requester holds until its submission has every one it needs (13 R365). -/
structure Carry where
  who : Waiter
  tile : Nat
  page : Nat
  acc : Nat
  both : Bool
  pa : Nat
  deriving DecidableEq, Repr

/-- An open fault (13 R369, R370). -/
structure HatFault where
  tile : Nat
  place : Nat
  gen : Nat
  acc : Nat
  both : Bool
  cause : Nat
  level : Nat
  page : Nat
  who : List (Waiter × Nat)
  opened : Nat
  ring : Option Nat
  kind : Nat
  seq : Nat
  ctx : Nat
  written : Bool := false
  deriving DecidableEq, Repr

/-- An INVAL that has not been acknowledged (13 R367). -/
structure Inval where
  q : Req
  first : Nat
  pages : Nat
  deriving DecidableEq, Repr

/-- A DMA descriptor (13 R378) as far as anything outside the block sees it: spaces (0 host virtual, 1 page memory, 2
scratchpad), host address, bytes, owner, whether end of count is signalled, and the host address of the first failure
(log entry 65). -/
structure DmaDesc where
  srcSpace : Nat
  dstSpace : Nat
  srcW : Nat := 2
  dstW : Nat := 2
  host : Nat
  count : Nat
  owner : Owner
  eoc : Bool := true
  failAddr : Option Nat := none
  deriving DecidableEq, Repr

/-- The host port, the translator and the DMA engines (13). Module and counter registers stand in the register table. -/
structure HostPort where
  /-- Modules up and degraded, by tile (bit m: module m). -/
  up : Tab Nat := []
  degraded : Tab Nat := []
  reqs : List HReq := []
  /-- Requests that wait for a free tag (13 R355). -/
  waiting : List (HReq × List Byte) := []
  tx : List Pkt := []
  look : List (Nat × LookEntry) := []
  walks : List Walk := []
  /-- Translations that walks have given to requesters whose others are not complete. -/
  carried : List Carry := []
  faults : List HatFault := []
  /-- Generation of each fault place (tile × 256 + place). -/
  gens : Tab Nat := []
  /-- Faults that wait for a free place or for room in the fault queue, oldest first. -/
  faultWait : List Walk := []
  /-- Accesses that failed: requester and status code (40h, 41h). -/
  failed : List (Waiter × Nat) := []
  invals : List Inval := []
  /-- Descriptors of each channel (tile × 16 + channel), in submission order. -/
  dma : Tab (List DmaDesc) := []
  deriving DecidableEq, Repr

/-- An error log entry (16 R444). -/
structure LogEntry where
  severity : Nat
  cause : Nat
  unit : Nat
  tile : Nat := 0
  index : Nat := 0
  addr : Nat := 0
  ctx : Nat := 0xFFFFFFFF
  ring : Option Nat := none
  seq : Nat := 0
  time : Nat := 0
  count : Nat := 1
  escalated : Bool := false
  deriving DecidableEq, Repr

/-- A unit instance with errors unfinished (16 R447). -/
structure Unfinished where
  unit : Nat
  tile : Nat
  index : Nat
  severity : Nat
  /-- What ends the handling: a frame number, or 2^32 + a core's key. -/
  ref : Nat
  deriving DecidableEq, Repr

/-- The error handler (16). -/
structure Errors where
  fifo : List LogEntry := []
  lostSev : Nat := 0
  lost : Bool := false
  alertLog : Bool := false
  alertFallback : Bool := false
  alertMonitor : Bool := false
  thermTrip : Bool := false
  unfinished : List Unfinished := []
  /-- Interrupt messages waiting for their holdoff: of the error log, the fault queue and the twin. -/
  irqLog : Bool := false
  irqFault : Bool := false
  irqTwin : Bool := false
  /-- When the last message of each source was issued (absent: none). -/
  lastIrq : Tab Nat := []
  /-- Quarantined tiles; bit t of ERR_TILE_OUT. -/
  tileOut : List Nat := []
  /-- HLT_TILE_STATE of each quarantined tile: 1 relocating, 2 quarantined. -/
  tileState : Tab Nat := []
  bandOut : List Nat := []
  relocating : List Nat := []
  /-- Tiles that placement no longer names (16 R459). -/
  relocated : List Nat := []
  anchor : Nat := 0
  spare : Nat := 1
  spareValid : Bool := true
  spareBuilding : Bool := false
  takeover : Bool := false
  /-- Logical cores out of service, as tile × 4096 + rank × 64 + file; a second list for those redirected for good. -/
  coresOut : List Nat := []
  coresRetired : List Nat := []
  /-- Spare cores taken, bit i for spare i, key tile × 64 + rank. -/
  sparesUsed : Tab Nat := []
  /-- The spare bound to a logical core, key tile × 4096 + rank × 64 + file (01 R25); none: its own core. -/
  bound : Tab (Option Nat) := []
  /-- Spare rows used, key of tile, channel, layer and bank. -/
  rowsUsed : Tab Nat := []
  retired : List Nat := []
  repairTests : List Nat := []
  /-- Spare regions taken, bit i for spare i, key tile × 8 + bank. -/
  sramSpares : Tab Nat := []
  /-- Frames refetched: the BAD frame and the target. Mirror frames that wait for a RESEND (16 R453). -/
  refetching : List (Nat × Nat) := []
  resending : List Nat := []
  deriving DecidableEq, Repr

/-- Fuses (14 R406, 17 R475, 20 R506). -/
structure Fuses where
  bootBist : Bool := false
  minMajor : Nat := 0
  keyHash : List Byte := []
  serial : Nat := 0
  alertPct : Nat := 0
  tripPct : Nat := 0
  roFloor : Nat := 0
  deriving DecidableEq, Repr

/-- One tile's sealed store (03 R100), without the reserved region. -/
structure Seal where
  lc : Nat := 1
  wipePending : Bool := false
  tamperSeen : Bool := false
  wipeCount : Nat := 0
  /-- Key slots in use: slot, KEY_ID, key bytes. -/
  keys : List (Nat × Nat × List Byte) := []
  hashes : List (List Byte) := []
  /-- The store read back with good ECC at BOOT (03 R104). -/
  good : Bool := true
  deriving DecidableEq, Repr

/-- The header of an image that passed its checks (14 R390). -/
structure ImageHdr where
  length : Nat := 0
  np : Nat := 0
  pairing : Nat := 0
  version : Nat := 0
  linkLevel : Nat := 0
  pageFmtLevel : Nat := 0
  partnerPct : Nat := 0
  flags : Nat := 0
  salt : Nat := 0
  deriving DecidableEq, Repr

/-- A loop nest as its 48 words (12 R333 to R335), with its offset in quarter 2. -/
structure Nest where
  off : Nat
  words : List Nat
  deriving DecidableEq, Repr

/-- A row of the selection table: the key of 12 R332 and the nest it names. -/
structure Select where
  kind : Nat
  stage : Nat
  fmtA : Nat
  fmtB : Nat
  hd : Nat
  span : Nat
  shape : Nat
  nest : Nat
  deriving DecidableEq, Repr

/-- A declared table (14 R392, R402): its two copies, generation and the items bound. -/
structure TableDef where
  kind : Nat
  num : Nat
  size : Nat
  bands : Nat
  base0 : Nat
  base1 : Nat
  gen : Nat := 0
  copy0 : List Byte := []
  copy1 : List Byte := []
  refsCur : Nat := 0
  refsOld : Nat := 0
  /-- Jobs that load the table, in acceptance order (14 R403). -/
  loading : List Nat := []
  deriving DecidableEq, Repr

/-- Configuration and start-up (14). -/
structure Cfg where
  mode : Mode := .boot
  haltCause : Nat := 0
  /-- DRAIN was entered by a request for MAINT. -/
  toMaint : Bool := false
  pwrOk : Bool := true
  resetN : Bool := true
  check : Nat := 0
  sectionIdx : Nat := 0
  bootMs : Nat := 0
  fuses : Fuses := {}
  /-- The staging area: bytes of the image read so far (14 R389), and repeats of the present burst. -/
  staged : List Byte := []
  repeats : Nat := 0
  image : ImageHdr := {}
  /-- What the memories of the cores will meet in INIT, as start-up reported (03 R76). -/
  initMet : List MemEvent := []
  /-- The image authenticated by VERIFY, which INIT builds the tables from. -/
  verified : List Byte := []
  nests : List Nest := []
  selects : List Select := []
  tables : List TableDef := []
  /-- Resident regions: local address, band mask, bytes. -/
  resident : List (Nat × Nat × List Byte) := []
  /-- Shadow values of LIVE registers; adopted copies by unit (tile number, 32 the global units). -/
  shadow : Tab Word := []
  adopted : Tab (Tab Word) := []
  pendingUnits : List Nat := []
  seq : Nat := 0
  /-- Commits written while another is pending (14 R401). -/
  commitAgain : Nat := 0
  /-- Held low words and captured high words of 64-bit pairs: key offset, and requester × 2^18 + offset, the host being
  requester 0 and the TAP requester 1 (00 R13). -/
  heldLow : Tab (Option Word) := []
  highCap : Tab (Option Word) := []
  deriving DecidableEq, Repr

/-- Status of a ring pair beside its registers (11 R299, R303). -/
structure Ring where
  heldTrk : Bool := false
  heldCpl : Bool := false
  aged : Bool := false
  draining : Bool := false
  /-- The held descriptor has been counted in HOLD_CNT. -/
  counted : Bool := false
  /-- Order in which held descriptors aged; 0 none. -/
  agedAt : Nat := 0
  /-- Tiles the held descriptor needs entries on. -/
  needs : List (Nat × Nat) := []
  /-- The words of the next descriptor, when it has been read and its lists have not. -/
  reading : List Nat := []
  reserved : Nat := 0
  irqWant : Bool := false
  deriving DecidableEq, Repr

/-- A frame an item has acquired (09 R250): for a new page, a copy on write or a re-encoding. -/
inductive AcqUse where
  | fresh | copy | reencode
  deriving DecidableEq, Repr

structure Acq where
  stream : Nat
  page : Nat
  frame : Nat
  use : AcqUse
  reserve : Bool := false
  deriving DecidableEq, Repr

/-- A page staged by an append item (09 R245): the stream, the page, and its re-encodings. -/
structure StagedPage where
  stream : Nat
  index : Nat
  page : Page
  fresh : Bool
  reencodes : Nat
  deriving DecidableEq, Repr

/-- A node of a row's merge tree (06 R172): leaves lo to lo + n - 1. -/
structure TreeNode where
  lo : Nat
  n : Nat
  leaf : Leaf
  deriving DecidableEq, Repr

/-- One query row of a forward item. -/
structure FwdRow where
  stream : Nat
  member : Nat
  row : Nat
  pos : Nat
  leaves : Nat := 0
  nodes : List TreeNode := []
  ext : List Leaf := []
  skipped : Nat := 0
  deriving DecidableEq, Repr

/-- A node of a backward reduction (07 R204, R205): contribution indices lo to lo + n - 1 of one part, with FP32 codes or W64 values
and whether a saturated cell contributed. The parts are the tiles of the band for the default mode's dQ, the pages for dK and dV. -/
structure GradNode where
  part : Nat := 0
  lo : Nat
  n : Nat
  vals : List (DWord × Bool)
  deriving DecidableEq, Repr

/-- One query row of a backward item: its outcome (07 R202), its dQ leaves and the tile index that holds each, and its
atomic target with the tile indices applied (07 R205). -/
structure BwdWork where
  member : Nat
  row : Nat
  cls : BwdClass
  leaves : Nat := 0
  held : List Nat := []
  nodes : List GradNode := []
  target : List (DWord × Bool) := []
  applied : List Nat := []
  deriving DecidableEq, Repr

/-- A Context Table row (10 R270). -/
structure CtxRow where
  state : Nat := 0
  cls : Nat := 0
  gen : Nat := 0
  reserveRight : Bool := false
  streams : Nat := 0
  fmt : Nat := 0
  layout : Nat := 0
  block : Nat := 0
  group : Nat := 0
  hd : Nat := 0
  tspan : Nat := 0
  turn : Nat := 0
  qn : Nat := 0
  kn : Nat := 0
  lostPage : Nat := 0
  modelKey : Nat := 0
  shape : Nat := 0
  parent : Nat := 0
  rowIdx : Nat := 0
  buildValid : Bool := false
  buildFirst : Nat := 0
  buildLast : Nat := 0
  deriving DecidableEq, Repr

/-- A stream directory entry (08 R234). -/
structure DirEntry where
  root : Nat := 0
  depth : Bool := false
  layer : Nat := 0
  kvHead : Nat := 0
  bias : Nat := 0
  pages : Nat := 0
  valid : Bool := false
  /-- Whether the stream holds a root block: the model's own field (log entry 21). -/
  hasRoot : Bool := false
  deriving DecidableEq, Repr

/-- What an item bound at its start (06 R161). -/
structure Binding where
  /-- The context's row and the directory entry of the item's stream: CLOSE does not reach them (10 R276). -/
  ctx : CtxRow := {}
  dir : DirEntry := {}
  lens : List Nat := []
  commit : Tab Word := []
  /-- (kind, number, generation) of each table read. -/
  gens : List (Nat × Nat × Nat) := []
  /-- Frame of page i of each stream: (stream, page, frame). -/
  pages : List (Nat × Nat × Nat) := []
  /-- The tile that holds each page of the item's stream at its start, resident or cold (07 R205). -/
  tiles : List Nat := []
  deriving DecidableEq, Repr

/-- Where an item stands. -/
inductive ItemSt where
  | waiting | evictWait | running | computed | done | aborted
  deriving DecidableEq, Repr

/-- A work item: its tracker entry and what it holds (11 R313). -/
structure Item where
  tile : Nat
  entry : Nat
  stream : Nat := 0
  block : Nat := 0
  st : ItemSt := .waiting
  status : Nat := 0
  flags : Flags := 0#6
  /-- Repeat attempts 1 and 2 (04 R124). -/
  repeats : Nat := 0
  started : Bool := false
  /-- Its service has been counted (12 R343). -/
  served : Bool := false
  retries : Nat := 0
  aged : Nat := 0
  budgetOut : Bool := false
  trans : List (Nat × Nat) := []
  bind : Binding := {}
  pins : List Nat := []
  acq : List Acq := []
  blocks : List (Nat × Nat) := []
  charge : Nat := 0
  staging : Nat := 0
  staged : List StagedPage := []
  rows : List FwdRow := []
  bwd : List BwdWork := []
  /-- dK and dV of the item's query block by page: for each key row its dK, then for each its dV; and nodes over blocks. -/
  grads : List GradNode := []
  /-- Key positions that some row of the item reaches. -/
  reached : List Nat := []
  masked : Nat := 0
  skippedPages : Nat := 0
  reencodes : Nat := 0
  /-- The merge core of its rows, chosen at its start (12 R331); the core of the batching round that held its leaf of each frame (12
  R330); the cores that it has run a step on (16 R450). Core keys. -/
  merge : Option Nat := none
  leafAt : List (Nat × Nat) := []
  ran : List Nat := []
  /-- When it was first found ready (12 R344). -/
  readyAt : Option Nat := none
  /-- Wide reduction buffer words that it holds, by tile (07 R207). -/
  wide : List (Nat × Nat) := []
  /-- Spill points of this run, and the most that an earlier run of it has counted (04 R122). -/
  spills : Nat := 0
  spillMax : Nat := 0
  /-- Writes awaiting a response that the item's effect waits for, and the first failure's status (0 none). -/
  writesLeft : Nat := 0
  writeStatus : Nat := 0
  deriving DecidableEq, Repr

/-- A batch entry with its length entry (11 R309, R310). -/
structure Entry where
  handle : Nat
  first : Nat
  count : Nat
  slots : List Nat
  rows : Nat
  pos0 : Nat
  klen : Nat
  kspan : Nat
  /-- The entry's own append under QT (06 R179): 0 not made, 1 committed, 256 + status failed. -/
  app : Nat := 0
  deriving DecidableEq, Repr

/-- Where a job stands: accepted; every item complete with its status settled; its record issued. -/
inductive JobSt where
  | accepted | settled | recording
  deriving DecidableEq, Repr

/-- A job: its descriptor, entries, items and result (11). -/
structure Job where
  id : Nat
  ring : Nat
  seq : Nat
  desc : List Nat
  entries : List Entry := []
  items : List Item := []
  st : JobSt := .accepted
  status : Nat := 0
  r0 : Nat := 0
  r1 : Nat := 0
  r2 : Nat := 0
  /-- Not accepted: a record without a work item (11 R303). -/
  refused : Bool := false
  outLeft : Nat := 0
  /-- Statistics of dQ, dK and dV written, dK rows written, and whether the record has been issued (07 R210). -/
  statQ : GradStat := {}
  statK : GradStat := {}
  statV : GradStat := {}
  keysOut : Nat := 0
  statsDone : Bool := false
  /-- Groups the partner has not acknowledged (15 R422). -/
  groups : List GroupId := []
  /-- Migrations the job started and has not seen end; pages evicted or recalled; passed over. -/
  migs : List Nat := []
  pagesDone : Nat := 0
  pagesPassed : Nat := 0
  /-- The first host failure among the pages, by page order: (page order, status). -/
  hostFail : Option (Nat × Nat) := none
  /-- Nodes the job has locked, in page order, and the nodes a PREFIX_PUBLISH builds: (page, node, hash). -/
  locked : List Nat := []
  build : List (Nat × Nat × Nat) := []
  /-- LIVE nodes that a PREFIX_PUBLISH removes when it ends well, in order (10 R291). -/
  doomed : List Nat := []
  /-- Whether its tree operation has begun (10 R296). -/
  begun : Bool := false
  /-- The park slot a PARK or UNPARK uses; the row an UNPARK keeps for itself, its record, and the cold records it
  moves: (old key, new key). -/
  slot : Nat := 0
  claim : List Nat := []
  parkRec : List Byte := []
  moves : List (Nat × Nat) := []
  /-- Next page, by order, that an EVICT or PREFETCH handles. -/
  pageNext : Nat := 0
  deriving DecidableEq, Repr

/-- An open batching round (12 R345): the frame and generation, the core that placement named for the leaf task that opened it, and
the rows placed as (job, item). -/
structure Round where
  tile : Nat
  frame : Nat
  gen : Nat
  core : Nat
  rows : List (Nat × Nat)
  opened : Nat
  closeAt : Nat
  deriving DecidableEq, Repr

/-- Jobs, rings and the scheduler (11, 12). -/
structure Sched where
  rings : Tab Ring := []
  jobs : List Job := []
  nextJob : Nat := 0
  /-- Ring intake served last, and the ring whose descriptor is under way (11 R302). -/
  lastRing : Nat := 63
  intakeOf : Option Nat := none
  /-- Jobs whose records wait, in the order in which they completed (11 R319). -/
  completed : List Nat := []
  agedSeq : Nat := 0
  /-- Service counts: tile × 4 + class (12 R343), and the classes that had a ready item at the tile's last choice. -/
  service : Tab Nat := []
  wasReady : Tab Nat := []
  /-- Batching window of each tile, and the open rounds. -/
  window : Tab Nat := []
  rounds : List Round := []
  /-- Rounds closed and rows placed since the last adaptation of each tile (12 R346). -/
  adaptRounds : Tab Nat := []
  adaptRows : Tab Nat := []
  deriving DecidableEq, Repr

/-- A map entry (08 R235). -/
inductive MapEntry where
  | empty
  | frame (f : Nat)
  /-- Key of `Store.cold`: tile × 2^23 + record index. -/
  | cold (r : Nat)
  | inner (b : Nat)
  /-- A partner page without mirror, marked lost in the ledger (15 R417). -/
  | lost
  deriving DecidableEq, Repr

/-- A cold record (08 R232): the PFT fields it keeps and its host address. -/
structure Cold where
  page : PageFmt := {}
  rows : Nat := 0
  cls : Nat := 0
  reserve : Bool := false
  addr : Nat := 0
  deriving DecidableEq, Repr

/-- Frame states (08 R225). -/
inductive FrameSt where
  | free | priv | shared | isSealed | cold | moving | reserved | mirror | bad
  deriving DecidableEq, Repr

/-- A frame: its PFT entry (08 R224) and its data and sidecar as a page. -/
structure Frame where
  st : FrameSt := .free
  cls : Nat := 0
  reserve : Bool := false
  refcnt : Nat := 0
  pincnt : Nat := 0
  gen : Nat := 0
  lastUse : Nat := 0
  published : Bool := false
  /-- Whether PGS_USED counts the frame (09 R254): the model's own field. -/
  charged : Bool := false
  page : Page := {}
  /-- Bytes received for a MIRROR frame that form no page yet, by offset (15 R420). -/
  raw : Tab Byte := []
  /-- The mirror shadow (15 R418): the partner's state, REFCNT and VALID_ROWS. -/
  shadowSt : FrameSt := .free
  shadowRef : Nat := 0
  shadowRows : Nat := 0
  deriving DecidableEq, Repr

/-- A prefix node (10 R287). -/
structure Node where
  parent : Nat := 0
  rooted : Bool := false
  locked : Nat := 0
  state : Nat := 0
  next : Option Nat := none
  hash : Nat := 0
  modelKey : Nat := 0
  shape : Nat := 0
  pageIndex : Nat := 0
  children : Nat := 0
  listBlock : Nat := 0
  entered : Nat := 0
  owner : Nat := 0
  lastUse : Nat := 0
  deriving DecidableEq, Repr

/-- A park slot (10 R284). -/
structure ParkSlot where
  valid : Bool := false
  gen : Nat := 0
  crc : Nat := 0
  /-- The tile that holds each stream's map blocks: the model's own field, for a relocation while parked (log entry 63). -/
  homes : List Nat := []
  deriving DecidableEq, Repr

/-- What a migration is for. -/
inductive MigWhy where
  | background
  | item (job item : Nat)
  | job (job : Nat)
  /-- An EVICT or RECALL of the partner, by the partner's frame number (15 R419, R423). -/
  | mirror (frame : Nat)
  deriving DecidableEq, Repr

/-- A migration of one page (09 R258 to R264). -/
structure Mig where
  slot : Nat
  evict : Bool
  frame : Nat
  /-- The map entry that names the page: key of `Store.map`. -/
  loc : Nat
  stream : Nat
  page : Nat
  /-- Home tile, whose cold table holds the record. -/
  home : Nat
  record : Nat
  host : Nat
  why : MigWhy
  waiters : List (Nat × Nat) := []
  /-- Order of the page among the pages of an EVICT or PREFETCH job. -/
  order : Nat := 0
  /-- Requests whose responses are outstanding; bytes a recall has received, by offset. -/
  left : Nat := 0
  got : List (Nat × List Byte) := []
  /-- Writes that failed and are to be repeated, and how often the write at each offset has failed (13 R373). -/
  redo : List (Nat × Nat) := []
  fails : Tab Nat := []
  module : Nat := 0
  status : Nat := 0
  issued : Bool := false
  acked : Bool := false
  /-- The page was released while in flight (09 R266). -/
  released : Bool := false
  trans : List (Nat × Nat) := []
  deriving DecidableEq, Repr

/-- A LAB entry (08 R239). -/
structure LabEntry where
  ctx : Nat
  stream : Nat
  leaf : Nat
  first : Nat
  run : Nat
  frame : Nat
  deriving DecidableEq, Repr

/-- Contexts, frames and the prefix tree (08 to 10). Frame f, node n and so on are keys. -/
structure Store where
  rows : Tab CtxRow := []
  /-- Directory entries, key row × 256 + stream. -/
  dir : Tab DirEntry := []
  /-- Map blocks taken, key tile × 2^20 + block; map entries, key (tile × 2^20 + block) × 256 + slot. -/
  blocks : List Nat := []
  map : Tab MapEntry := []
  /-- Cold records, key tile × 2^23 + record. -/
  cold : Tab (Option Cold) := []
  frames : Tab Frame := []
  /-- Free lists and reserves by tile. The free list is frames freed since INIT, most recent first, then every
  frame from `next` up that INIT put on it. -/
  freed : Tab (List Nat) := []
  next : Tab Nat := []
  reserve : Tab (List Nat) := []
  /-- Frames acquired by items, which read FREE (08 R227). -/
  held : List Nat := []
  /-- Needs that wait at a tile's allocator for an eviction, in arrival order, and the frames that evictions have given them (09
  R266). -/
  allocWait : List (Nat × MigWhy) := []
  granted : List (MigWhy × Nat) := []
  used : Tab Nat := []
  /-- GEN of the frames at and above N_own that no entry lists: changes of MIRROR and back (15 R417). -/
  mirrorGen : Nat := 0
  nodes : Tab Node := []
  buckets : Tab (Option Nat) := []
  slots : Tab ParkSlot := []
  /-- What each entry of the prefix hash cache holds (03 R93): 2 × node for a node's header, 2 × bucket + 1 for a bucket
  head; the contents are the node's and the bucket's own. -/
  hashCache : Tab (Option Nat) := []
  /-- Nodes whose removal waits for a lookup to end (10 R294). -/
  removing : List Nat := []
  migs : List Mig := []
  nextMig : Nat := 0
  /-- Tiles whose background eviction is under way, until the free frames reach HIGH (09 R260). -/
  bg : List Nat := []
  lab : List (Nat × LabEntry) := []
  /-- Words of the wide reduction buffers that spill points have written (04 R121, 08 R214), key tile × 2^28 + word. -/
  wide : Tab DWord := []
  deriving DecidableEq, Repr

/-- A receive window of a core (03 R84). -/
structure Window where
  base : Nat := 0
  size : Nat := 0
  sender : Nat := 0
  pos : Nat := 0
  credits : Nat := 0
  unread : Nat := 0
  fenced : Bool := false
  opened : Bool := false
  /-- The work item that opened it: job and item. -/
  owner : Option (Nat × Nat) := none
  deriving DecidableEq, Repr

/-- A cache line by its tag (03 R81): frame number, line number, frame generation. -/
structure CacheLine where
  frame : Nat
  line : Nat
  gen : Nat
  /-- The way that holds it, 0 to 7. -/
  way : Nat
  deriving DecidableEq, Repr

/-- Cores and scratchpads (03). Core keys are tile × 4096 + rank × 64 + file. Scratchpad words written since INIT or
a power-up have the key core × 2^16 + quarter × 2^14 + offset / 4; any other word holds its resident content or 0. -/
structure Cores where
  spd : Tab (Option Word) := []
  /-- Receive windows, key core × 8 + window. -/
  windows : Tab Window := []
  /-- The words the last remote read returned (03 R83). -/
  remote : List Word := []
  /-- Scrub pointers of scratchpad banks, key core × 64 + quarter × 16 + bank (03 R92, 16 R439). -/
  scrub : Tab Nat := []
  /-- Control SRAM banks at retention voltage (tile × 8 + bank), wake requests, and next region to test. -/
  retained : List Nat := []
  region : Tab Nat := []
  regionAt : Tab Nat := []
  /-- Regions served from the shadow (tile × 8 + bank, region). -/
  shadowed : List (Nat × Nat) := []
  /-- Sticky flags of each core, by core key (02 R63). -/
  flags : Tab Flags := []
  /-- Cycles in a row that each port has lost, key core × 16 + port (03 R75). -/
  losses : Tab Nat := []
  /-- Cores in their recovery window (03 R76). -/
  recovering : List Nat := []
  /-- Cores under test that have met a scratchpad conflict (03 R76). -/
  conflicts : List Nat := []
  /-- The cache size each core has applied (03 R80), and its sets, youngest line first, key core × 128 + set. -/
  cacheSize : Tab Nat := []
  cache : Tab (List CacheLine) := []
  deriving DecidableEq, Repr

/-- A twin group being staged (15 R420). -/
structure Group where
  id : GroupId
  deltas : List Delta := []
  deriving DecidableEq, Repr

/-- Twin states (15 R425). -/
inductive TwinSt where
  | unpaired | pending | syncing | paired | suspect | castling | castled | yielded
  deriving DecidableEq, Repr

/-- A message on the link's control channel, or a group or page message, as sent. -/
inductive TwinMsg where
  | hello (h : Hello)
  | auth (code : List Byte)
  | heartbeat (time : Nat) (state : Nat) (epoch : Nat)
  | dying
  | detach
  | delta (g : GroupId) (d : Delta)
  | commit (g : GroupId)
  | groupAck (g : GroupId)
  | evictAck (frame : Nat)
  | evictNak (frame : Nat)
  | refetch (frame : Nat)
  | refetchData (frame : Nat) (data : List Byte)
  | resend (frame : Nat)
  | resendData (frame : Nat) (data : List Byte)
  | ack (seq : Nat) (nak : Bool)
  deriving DecidableEq, Repr

/-- The twin link controller (15). -/
structure Twin where
  st : TwinSt := .unpaired
  /-- State before SUSPECT. -/
  before : TwinSt := .unpaired
  /-- Mode in force: 0 SOLO, 1 LEDGER, 2 MIRROR. -/
  mode : Nat := 0
  role : Bool := false
  fallback : Bool := false
  auto : Bool := false
  level : Nat := 0
  linkUp : Bool := false
  /-- Lanes lost, and lanes that carry traffic. -/
  badLanes : List Nat := []
  lanes : List Nat := []
  epoch : Nat := 0
  peerEpoch : Nat := 0
  txSeq : Nat := 0
  rxSeq : Nat := 0
  /-- Sequenced frames sent and not acknowledged, oldest first: SEQ and what the frame carries. -/
  replay : List (Nat × TwinMsg) := []
  /-- Sequenced messages that wait for the link or for room in the replay buffer, oldest first. -/
  unsent : List TwinMsg := []
  /-- Messages sent. -/
  tx : List TwinMsg := []
  /-- Hello in progress: own message, the partner's message, and whether its AUTH passed. -/
  mine : Option Hello := none
  peer : Option Hello := none
  helloing : Bool := false
  retryAt : Bool := false
  groups : List Group := []
  /-- Last applied job of each partner row: key row, ring × 2^32 + seq + 2^38. -/
  lastSeq : Tab Nat := []
  /-- Rows still to synchronize: own rows, partner rows not yet applied. -/
  syncLeft : List Nat := []
  peerSynced : List Nat := []
  /-- The group of the first own row still to synchronize is under way (15 R435). -/
  syncOut : Bool := false
  discarded : Nat := 0
  castleTime : Nat := 0
  castleCause : Nat := 0
  hbLast : Nat := 0
  peerOffset : Int := 0
  detaching : Bool := false
  /-- Tiles out of service whose mirrored partner pages have lost their mirror until the next ATTACH (16 R458). -/
  deadTiles : List Nat := []
  deriving DecidableEq, Repr

/-- Clocks, monitors and power of one tile (17). -/
structure TileHealth where
  cur : Nat := 9
  target : Nat := 9
  fmaxAged : Nat := 9
  switching : Bool := false
  locked : Bool := false
  /-- Items that ran when the idle PLL locked: their cores still run on the other one (17 R468). -/
  holders : List (Nat × Nat) := []
  temps : List Int := []
  volts : List Nat := []
  procs : List Nat := []
  tempOut : List Nat := []
  otherOut : List Nat := []
  /-- The present window has seen a hot reading; how many windows in a row were cool. -/
  hotWindow : Bool := false
  cool : Nat := 0
  tempAlert : Bool := false
  voltAlert : Bool := false
  voltUntil : Nat := 0
  procAlert : Bool := false
  /-- Readings in a row that each voltage sensor has been outside the trip band. -/
  voltRun : List Nat := []
  agedAt : Option Nat := none
  /-- Power state: 0 ACTIVE, 1 RETAIN, 2 GATED, 3 waking. -/
  power : Nat := 0
  deriving DecidableEq, Repr

/-- Time base and health (17). -/
structure Health where
  now : Nat := 0
  holdNs : Nat := 0
  /-- TBCLK cycles since the last accepted edge. -/
  sincePps : Option Nat := none
  ppsOffset : Int := 0
  tiles : Tab TileHealth := []
  deriving DecidableEq, Repr

/-- Test access (19). -/
structure Test where
  ir : Nat := 0x02
  bypassBit : Bool := false
  boundary : Nat := 0
  /-- What the last data-register scan shifted out. -/
  out : Nat := 0
  /-- DATA, DONE and REFUSED of the last management access. -/
  mgtData : Nat := 0
  mgtDone : Bool := false
  mgtRefused : Bool := false
  /-- Segment and instrument bits open: tile × 8 + instrument. -/
  segments : List Nat := []
  /-- Runs under way: by tile, the command with its START bit. -/
  running : Tab Nat := []
  bistState : Nat := 0
  bistRefused : Bool := false
  bistTile : Nat := 0
  bistErrors : Nat := 0
  bistFail : Nat := 0
  bistSig : Nat := 0
  bistExp : Nat := 0
  repair : Tab (List Nat) := []
  /-- The tile last named to TST_REPAIR_CMD since reset, none before one. -/
  repairTile : Option Nat := none
  /-- A burn under way: tile and entry. -/
  repairBusy : Option (Nat × Nat) := none
  repairFail : Bool := false
  /-- How many free-value questions have been asked (log entry 11): the model's own field. -/
  asked : Nat := 0
  deriving DecidableEq, Repr

/-- The whole machine. -/
structure State where
  part : Part
  stepping : Nat
  /-- Stored values of the management registers by offset, counters included. Computed registers are not listed. -/
  regs : Tab Word
  cfg : Cfg
  seals : List Seal
  /-- MGT_SEAL_STATUS fields loaded in BOOT. -/
  lcState : Nat
  wiped : Bool
  tamperSeen : Bool
  wipeCount : Nat
  errs : Errors
  host : HostPort
  sched : Sched
  store : Store
  cores : Cores
  twin : Twin
  health : Health
  test : Test
  /-- Commands waiting, first in, first out. -/
  pending : List Instr
  deriving DecidableEq, Repr

/-- Why a step stops. -/
inductive Fault where
  /-- Raised by a command that names a tile above MGT_ID.TILE_MAX, which the configuration does not have (01 R26).
  Safe: no such event exists on that part. -/
  | noSuchTile
  deriving DecidableEq, Repr

/-- Why a command has no meaning. -/
inductive Refusal where
  /-- Raised only by an arm of `exec` that has no meaning yet, by the command's mnemonic. Safe. -/
  | notModelled (mnemonic : String)
  deriving DecidableEq, Repr

/-- Registers whose reset value is stated and not zero: ERR_ALERT_MASK (16 R463), HLT_CLK_LIMIT, HLT_TEMP_THR,
HLT_PWR_CTL and TIM_CTL (17 R475). -/
def resetRegs : Tab Word :=
  [(0xF010, 4#32), (0x10010, 0x3E#32), (0x14000, 9#32), (0x14004, 0x6E64055A#32), (0x1400C, 0x03E80000#32)]

/-- The error handler after reset: AE-S and AE1 have no spare anchor (01 R24, 16 R463). -/
def Part.errors : Part → Errors
  | .aeS | .ae1 => { spare := 0, spareValid := false }
  | _ => {}

/-- The machine right after reset: state BOOT (14 R406), every register at its Reset value, every table empty. -/
def State.resetOf (p : Part) : State where
  part := p
  stepping := 0
  regs := resetRegs
  cfg := { shadow := [(0x14000, 9#32), (0x14004, 0x6E64055A#32), (0x1400C, 0x03E80000#32)] }
  seals := List.replicate 32 {}
  lcState := 0
  wiped := false
  tamperSeen := false
  wipeCount := 0
  errs := p.errors
  host := {}
  sched := {}
  store := {}
  cores := {}
  twin := {}
  health := {}
  test := {}
  pending := []

/-- The machine right after reset. The part is a first-stepping AE32 (01 R1, log entry 1). -/
def State.reset : State := State.resetOf .ae32

end Sys2Proof.Machine
end

