-- ==== Sys2Proof/Machine/Ops.lean ====
section
/-! DEFINITION. The operations every family shares: the constants of a configuration, stored registers and counters,
packets, the error log, HALTED. -/

namespace Sys2Proof.Machine

/-- The step's answer. -/
abbrev Out := Host.Outcome State Fault Refusal

/-! ### Configurations (01 R26, R28) -/

def Part.code : Part → Nat
  | .aeS => 0 | .ae1 => 1 | .ae4 => 2 | .ae8 => 3 | .ae16 => 4 | .ae32 => 5

/-- Highest tile number. -/
def Part.tileMax : Part → Nat
  | .aeS => 0 | .ae1 => 0 | .ae4 => 3 | .ae8 => 7 | .ae16 => 15 | .ae32 => 31

/-- Tiles that have a window (20 R501: AE-S presents the window of tile 0). -/
def Part.tiles (p : Part) : Nat := p.tileMax + 1

/-- Whether the part is of the chunked class (00 R2). -/
def Part.chunked : Part → Bool
  | .ae8 | .ae16 | .ae32 => true
  | _ => false

def Part.rings : Part → Nat
  | .aeS => 8
  | _ => 64

def Part.contexts : Part → Nat
  | .aeS => 1024
  | _ => 16384

def Part.nodes : Part → Nat
  | .aeS => 16384 | .ae1 => 131072 | .ae4 => 524288 | .ae8 => 1048576 | .ae16 => 2097152 | .ae32 => 4194304

/-- Job Tracker entries of one tile (01 R26, 11 R305). -/
def Part.trackers : Part → Nat
  | .aeS => 1024
  | _ => 8192

/-- Logical cores of one tile. -/
def Part.cores : Part → Nat
  | .aeS => 64
  | _ => 2560

/-- Frames of one tile (08 R213). -/
def Part.frames : Part → Nat
  | .aeS => 65536
  | _ => 524288

/-- Modules of one tile (13 R350). -/
def Part.modules : Part → Nat
  | .aeS => 1
  | _ => 4

/-- Active Worlek lanes (15 R407, R410). -/
def Part.lanes : Part → Nat
  | .aeS => 0 | .ae1 => 4 | .ae4 => 8 | _ => 16

/-- MGT_ID (01 R28). -/
def State.mgtId (s : State) : Nat :=
  s.part.code + 16 * b2n s.part.chunked + 256 * s.part.tileMax + 65536 * s.stepping + 2 * 2 ^ 24

/-! ### Stored registers -/

/-- The stored value of a register. -/
def State.reg (s : State) (off : Nat) : Nat := (tget 0#32 s.regs off).toNat

/-- Sets a stored register. -/
def State.setReg (s : State) (off v : Nat) : State := { s with regs := tset 0#32 s.regs off (BitVec.ofNat 32 v) }

/-- Offset of window register `w` of tile `t` (20 R508). -/
def win (t w : Nat) : Nat := 0x20000 + 0x1000 * t + w

/-- A saturating counter rises by `n`. -/
def State.bump (s : State) (off n : Nat) : State := s.setReg off (min 0xFFFFFFFF (s.reg off + n))

/-- A counter of a tile's window rises by `n`. -/
def State.bumpTile (s : State) (t w n : Nat) : State := s.bump (win t w) n

/-- A 64-bit quantity of two registers (20 R504). -/
def State.reg64 (s : State) (off : Nat) : Nat := s.reg off + 2 ^ 32 * s.reg (off + 4)

/-- Offset of register `o` of ring pair `r` (11 R299). -/
def ringReg (r o : Nat) : Nat := 0x2000 + r * 0x40 + o

/-- The value of a LIVE register as unit `u` has adopted it (14 R400): tile numbers, 32 for the global units. -/
def State.liveFor (s : State) (u off : Nat) : Nat :=
  if s.cfg.pendingUnits.contains u then (tget 0#32 (tget [] s.cfg.adopted u) off).toNat else s.reg off

/-- The value the global units use. -/
def State.live (s : State) (off : Nat) : Nat := s.liveFor 32 off

/-! ### Time -/

/-- TIM_NOW (17 R469). -/
def State.now (s : State) : Nat := s.health.now % 2 ^ 64

/-- TIM_NOW[51:20], the unit of LAST_USE (08 R224). -/
def State.use (s : State) : Nat := bits s.health.now 51 20

/-- One TBCLK cycle (17 R469): TIM_NOW counts one nanosecond, or holds still after a PPS edge that came early (R470).
In OFF nothing counts. -/
def State.tick (s : State) : State :=
  if s.cfg.mode = .off then s else
  let s : State := { s with health := { s.health with sincePps := s.health.sincePps.map (· + 1) } }
  if 0 < s.health.holdNs then { s with health := { s.health with holdNs := s.health.holdNs - 1 } }
  else { s with health := { s.health with now := (s.health.now + 1) % 2 ^ 64 } }

/-! ### Packets to the host (13 R353, R354) -/

/-- Sends a packet. -/
def State.send (s : State) (p : Pkt) : State := { s with host := { s.host with tx := s.host.tx ++ [p] } }

/-- Answers a management access on the module that carried it: STATUS 0h OK, 2h REFUSED (13 R356). -/
def State.answer (s : State) (q : Req) (ok : Bool) (value : Nat) : State :=
  s.send { typ := 0x13, tile := q.tile.toNat, module := q.module.toNat, tag := q.tag.toNat,
           status := if ok then 0 else 2, aux := value }

/-! ### The twin's control channel -/

/-- Sends a message to the twin, when the link is up. -/
def State.tell (s : State) (m : TwinMsg) : State :=
  if s.twin.linkUp then { s with twin := { s.twin with tx := s.twin.tx ++ [m] } } else s

/-! ### The error log (16 R443 to R446) -/

/-- Severity codes (16 R443). -/
def sevNote : Nat := 0
def sevDegrade : Nat := 1
def sevJob : Nat := 2
def sevContext : Nat := 3
def sevTile : Nat := 4
def sevBlock : Nat := 5

/-- Whether a report merges into an entry (16 R446 rule 3): causes ECC_CORRECTED and SPD_CONFLICT. -/
def mergesInto (e f : LogEntry) : Bool :=
  (e.cause = 0x01 || e.cause = 0x11) && e.cause = f.cause && e.unit = f.unit && e.tile = f.tile && e.index = f.index

/-- Raises the COUNT of the first entry that the report merges into. -/
def mergeEntry (e : LogEntry) : List LogEntry → List LogEntry
  | [] => []
  | f :: fs => if mergesInto e f then { f with count := min 127 (f.count + 1) } :: fs else f :: mergeEntry e fs

/-- Sets the alert bit and wants an interrupt message, by the masks (16 R446 rules 4 and 5). `quiet` is an
IRQ_DROPPED entry of the error log's own message, which leads to no message (11 R320). -/
def Errors.signal (x : Errors) (alertMask irqMask sev : Nat) (logged quiet : Bool) : Errors :=
  { x with alertLog := x.alertLog || bit alertMask sev
           irqLog := x.irqLog || (logged && !quiet && bit irqMask sev) }

/-- One report reaches the FIFO (16 R446 rules 1 to 3, 5). The last part is the count of dropped entries. -/
def Errors.add (x : Errors) (alertMask irqMask : Nat) (e : LogEntry) (quiet : Bool) : Errors × Nat :=
  if x.fifo.any (mergesInto e) then ({ x with fifo := mergeEntry e x.fifo }, 0)
  else if 64 ≤ x.fifo.length then
    (({ x with lost := true, lostSev := max x.lostSev e.severity }).signal alertMask irqMask e.severity false quiet, 1)
  else (({ x with fifo := x.fifo ++ [e] }).signal alertMask irqMask e.severity true quiet, 0)

/-- Reports an error (16 R446). -/
def State.report (s : State) (e : LogEntry) (quiet : Bool := false) : State :=
  let r := s.errs.add (s.reg 0x10010) (s.reg 0x10014) { e with time := s.now } quiet
  ({ s with errs := r.1 }).bump 0x10004 r.2

/-- A rejected management access (00 R6, 20 R500): a JOB-severity entry with the offset. -/
def State.rejected (s : State) (off : Nat) : State :=
  s.report { severity := sevJob, cause := 0x15, unit := 0x0A, addr := off }

/-- Refuses a register write by 00 R6 and answers it. -/
def State.refuse (s : State) (q : Req) (off : Nat) : State := (s.rejected off).answer q false 0

/-! ### HALTED (14 R386) -/

/-- Enters HALTED with a cause: from any state but OFF, once. DYING goes out three times (15 R428). -/
def State.halt (s : State) (cause : Nat) : State :=
  if s.cfg.mode = .off ∨ s.cfg.mode = .halted then s else
  (({ s with cfg := { s.cfg with mode := .halted, haltCause := cause } }).tell .dying).tell .dying |>.tell .dying

/-- A BLOCK-severity error: logged, then HALTED (16 R446 rule 6). -/
def State.block (s : State) (e : LogEntry) (cause : Nat) : State :=
  (s.report { e with severity := sevBlock }).halt cause

/-! ### Scratchpad words and wide reduction buffers (03 R67, 08 R214) -/

/-- Key of a word of a core's scratchpad. -/
def spdKey (core q off : Nat) : Nat := 65536 * core + q * 16384 + off / 4

/-- Writes a word of a scratchpad. -/
def State.setSpd (s : State) (core q off : Nat) (w : Word) : State :=
  { s with cores := { s.cores with spd := tset none s.cores.spd (spdKey core q off) (some w) } }

/-- Writes a word of a tile's wide reduction buffers. -/
def State.setWide (s : State) (t i : Nat) (w : DWord) : State :=
  { s with store := { s.store with wide := tset 0#64 s.store.wide (t * 268435456 + i) w } }

/-- Writes a spill slot of a core (04 R121): an 8-byte word at a local address, or, from 2^31 up, a word of the wide reduction buffers
of its tile. -/
def State.putSlot (s : State) (core slot : Nat) (w : DWord) : State :=
  if 2 ^ 31 ≤ slot then s.setWide (core / 4096) (slot - 2 ^ 31) w
  else (s.setSpd core (slot / 65536) (slot % 65536) (w.setWidth 32)).setSpd core (slot / 65536) (slot % 65536 + 4) ((w >>> 32).setWidth 32)

/-- Spill slots that a run leaves: each output cell has its own, in the order of the cells (log entry 228). -/
def State.spillSlots (s : State) (core : Nat) (l : List (Nat × DWord)) : State :=
  (l.zipIdx).foldl (fun s p => s.putSlot core (p.1.1 + (if 2 ^ 31 ≤ p.1.1 then p.2 else 8 * p.2)) p.1.2) s

/-! ### Tiles -/

/-- Whether the configuration has the tile. -/
def State.hasTile (s : State) (t : Nat) : Bool := decide (t < s.part.tiles)

/-- Whether a tile is in service: it exists and is not quarantined (16 R457). -/
def State.inService (s : State) (t : Nat) : Bool := s.hasTile t && !s.errs.tileOut.contains t

/-- Runs a command of tile `t`, or stops where the configuration has no such tile. -/
def onTile (s : State) (t : Nat) (s' : State) : Out := if s.hasTile t then .next s' else .fault .noSuchTile

/-- An event that cannot occur in the present state leaves it unchanged (log entry 2). -/
def State.whenever (s : State) (c : Bool) (s' : State) : State := if c then s' else s

end Sys2Proof.Machine
end

