-- ==== Sys2Proof/Machine/Operands.lean ====
section
/-! DEFINITION. Operands of jobs: the fields of a descriptor, what the host's memory answers, and host addresses
translated through a tile's look-aside (13 R358 to R365). -/

namespace Sys2Proof.Machine

/-! ### Host memory -/

/-- Whether a range [a, a + n) meets a listed range. -/
def rangeMeets (a n : Nat) (r : Nat × Nat) : Bool := decide (a < r.1 + r.2) && decide (r.1 < a + n) && decide (0 < n)

/-- A byte of host memory; unlisted bytes read 0. -/
def hostByte (segs : List (Nat × List Byte)) (a : Nat) : Byte :=
  match segs.find? (fun p => decide (p.1 ≤ a) && decide (a < p.1 + p.2.length)) with
  | some p => p.2.getD (a - p.1) 0#8
  | none => 0#8

/-- The answer to a read: bytes, or the status of a failed access (13 R372): 41h a bus error, 40h no response. -/
inductive Answer where
  | ok (bytes : List Byte)
  | fail (status : Nat)
  deriving DecidableEq, Repr

/-- Bytes of a range, taken from one segment where it holds them all. -/
def hostBytes (segs : List (Nat × List Byte)) (a n : Nat) : List Byte :=
  match segs.find? (fun p => decide (p.1 ≤ a) && decide (a + n ≤ p.1 + p.2.length)) with
  | some p => (p.2.drop (a - p.1)).take n
  | none => (List.range n).map (fun i => hostByte segs (a + i))

/-- Reads `n` bytes at a physical address. -/
def readPhys (h : HostView) (a n : Nat) : Answer :=
  if h.busErr.any (rangeMeets a n) then .fail 0x41
  else if h.silent.any (rangeMeets a n) then .fail 0x40
  else .ok (hostBytes h.segs a n)

/-- Joins answers, the first failure winning. -/
def Answer.join : List Answer → Answer
  | [] => .ok []
  | .fail e :: _ => .fail e
  | .ok b :: rest =>
    match Answer.join rest with
    | .fail e => .fail e
    | .ok c => .ok (b ++ c)

/-! ### Pages -/

/-- The 4 KiB pages that [va, va + n) touches. -/
def pagesOf (va n : Nat) : List Nat :=
  if n = 0 then [] else (List.range ((n + va - 1) / 4096 - va / 4096 + 1)).map (· + va / 4096)

/-- The pieces of [va, va + n), one per page: (page, offset in page, bytes). -/
def piecesOf (va n : Nat) : List (Nat × Nat × Nat) :=
  (pagesOf va n).map (fun p =>
    let lo := max va (4096 * p)
    let hi := min (n + va) (4096 + 4096 * p)
    (p, lo - 4096 * p, hi - lo))

/-- An access needed: page, kind (0 read, 1 write, 2 atomic) and whether both R and W are needed (13 R361). -/
structure Need where
  page : Nat
  acc : Nat
  both : Bool := false
  deriving DecidableEq, Repr

/-- Accesses of one kind to a range. -/
def needs (va n acc : Nat) (both : Bool := false) : List Need := (pagesOf va n).map (fun p => ⟨p, acc, both⟩)

/-- Page size of a look-aside entry, in 4 KiB pages. -/
def LookEntry.span (e : LookEntry) : Nat := 512 ^ e.size

/-- Whether an entry covers a page (13 R362). -/
def LookEntry.covers (e : LookEntry) (page : Nat) : Bool :=
  decide (e.first ≤ page) && decide (page < e.first + e.run * e.span)

/-- Whether an entry grants an access (13 R361). -/
def LookEntry.grants (e : LookEntry) (n : Need) : Bool :=
  match n.acc with
  | 0 => e.r && (!n.both || e.w)
  | 1 => e.w && (!n.both || e.r)
  | _ => e.r && e.w && e.a

/-- The physical page of a page an entry covers. -/
def LookEntry.phys (e : LookEntry) (page : Nat) : Nat := e.pa + (page - e.first)

/-- The set of an entry (13 R362): ((VA >> sh) ^ SIZE) % 1,024, with sh 21, 30, 39. -/
def lookSet (size page : Nat) : Nat := ((page >>> (9 * (size + 1))) ^^^ size) % 1024

/-- The look-aside entry of a tile that covers a page and grants the access. -/
def HostPort.find (h : HostPort) (tile : Nat) (n : Need) : Option LookEntry :=
  (h.look.find? (fun p => p.1 = tile && p.2.covers n.page && p.2.grants n)).map Prod.snd

/-- The physical page of an access that a walk has given to a requester. -/
def HostPort.carry (h : HostPort) (tile : Nat) (w : Waiter) (n : Need) : Option Nat :=
  (h.carried.find? (fun c => c.who = w && c.tile = tile && c.page = n.page && c.acc = n.acc && c.both = n.both)).map (fun c => c.pa)

/-- The physical page of an access of a requester: one it carries, else by the look-aside of the tile. -/
def State.translate (s : State) (tile : Nat) (w : Waiter) (n : Need) : Option Nat :=
  match s.host.carry tile w n with
  | some p => some p
  | none => (s.host.find tile n).map (fun e => e.phys n.page)

/-- A requester gives up the translations it carries. -/
def HostPort.dropCarried (h : HostPort) (w : Waiter) : HostPort := { h with carried := h.carried.filter (fun c => c.who != w) }

/-- Moves the entry hit to the front: most recently used (13 R362). -/
def touch (tile : Nat) (n : Need) (l : List (Nat × LookEntry)) : List (Nat × LookEntry) :=
  match l.find? (fun p => p.1 = tile && p.2.covers n.page && p.2.grants n) with
  | some p => p :: l.erase p
  | none => l

/-- A translated list of pages: (page, physical page). -/
abbrev Trans := List (Nat × Nat)

/-- Physical address of a virtual one by a list of translations. -/
def Trans.phys (t : Trans) (va : Nat) : Nat :=
  match t.find? (fun p => p.1 = va / 4096) with
  | some p => 4096 * p.2 + va % 4096
  | none => va

/-- Whether every page of a list is translated. -/
def Trans.hasAll (t : Trans) (ns : List Need) : Bool := ns.all (fun n => t.any (fun p => p.1 = n.page))

/-- Reads a virtual range through carried translations. -/
def readVirt (h : HostView) (t : Trans) (va n : Nat) : Answer :=
  Answer.join ((piecesOf va n).map (fun p => readPhys h (t.phys (4096 * p.1 + p.2.1)) p.2.2))

/-- What translating some accesses gives: all translations, or an access that failed, or a wait. -/
inductive Translated where
  | ok (t : Trans) (s : State)
  | wait (s : State)
  | failed (status : Nat) (s : State)

/-- Whether a requester waits for a walk, an open fault or a free fault place. -/
def HostPort.blocked (h : HostPort) (w : Waiter) : Bool :=
  h.walks.any (fun k => k.who.any (fun p => p.1 = w)) || h.faults.any (fun f => f.who.any (fun p => p.1 = w)) ||
  h.faultWait.any (fun k => k.who.any (fun p => p.1 = w))

/-- Joins a walk in flight for the page and access, or starts one; at most 64 per tile (13 R364). -/
def HostPort.walk (h : HostPort) (tile : Nat) (n : Need) (w : Waiter) : HostPort :=
  if h.walks.any (fun k => k.tile = tile && k.page = n.page && k.acc = n.acc && k.both = n.both) then
    { h with walks := h.walks.map (fun k =>
        if k.tile = tile && k.page = n.page && k.acc = n.acc && k.both = n.both && !k.who.any (fun p => p.1 = w) then
          { k with who := k.who ++ [(w, none)] } else k) }
  else if 64 ≤ (h.walks.filter (fun k => k.tile = tile)).length then h
  else { h with walks := h.walks ++ [{ tile := tile, page := n.page, acc := n.acc, both := n.both, who := [(w, none)] }] }

/-- Whether a walk for the access is in flight. -/
def HostPort.walking (h : HostPort) (tile : Nat) (n : Need) : Bool :=
  h.walks.any (fun k => k.tile = tile && k.page = n.page && k.acc = n.acc && k.both = n.both)

/-- Looks up one access: a hit counts and is touched; a miss starts a walk and counts (13 R362, R363, R382). -/
def State.lookOne (s : State) (tile : Nat) (w : Waiter) (n : Need) : State :=
  if (s.host.carry tile w n).isSome then s else
  match s.host.find tile n with
  | some _ => ({ s with host := { s.host with look := touch tile n s.host.look } }).bumpTile tile 0x18C 1
  | none =>
    let started := !s.host.walking tile n && decide ((s.host.walks.filter (fun k => k.tile = tile)).length < 64)
    let s := { s with host := s.host.walk tile n w }
    if started then s.bumpTile tile 0x190 1 else s

/-- Translates every access at submission (13 R365): all, or a wait on the walks started, or the status of an access
of this requester that failed. -/
def State.translateAll (s : State) (tile : Nat) (w : Waiter) (ns : List Need) : Translated :=
  match s.host.failed.find? (fun p => p.1 = w) with
  | some p => .failed p.2 { s with host := { s.host.dropCarried w with failed := s.host.failed.filter (fun q => q.1 != w) } }
  | none =>
    if s.host.blocked w then .wait s
    else
      let s' := ns.foldl (fun s n => s.lookOne tile w n) s
      match ns.mapM (fun n => (s.translate tile w n).map (fun p => (n.page, p))) with
      | some t => .ok t { s' with host := s'.host.dropCarried w }
      | none => .wait s'

/-! ### Element widths of a transfer (13 R378, R379) -/

/-- Bits of an element by the code of its width (13 R378). -/
def widthBits : Nat → Nat
  | 0 => 4 | 1 => 6 | 2 => 8 | 3 => 16 | _ => 32

/-- Moves the elements of a byte string from one width to another: the low bits of a narrowed one, a widened one filled above
(13 R379). -/
def dmaMove (srcW dstW : Nat) (sext : Bool) (bs : List Byte) : List Byte :=
  if srcW = dstW then bs else
  let sw := widthBits srcW
  let dw := widthBits dstW
  let all := ofLe bs
  let n := 8 * bs.length / sw
  let elem (k : Nat) : Nat :=
    let x := all / 2 ^ (sw * k) % 2 ^ sw
    if sext && bit x (sw - 1) && decide (sw < dw) then x + 2 ^ dw - 2 ^ sw else x % 2 ^ dw
  leBytes (n * dw / 8) ((List.range n).foldl (fun a k => a + elem k * 2 ^ (dw * k)) 0)

/-- A host range that a transfer reads, with the widths of its elements there and where it lands. -/
structure Fetch where
  va : Nat
  bytes : Nat
  srcW : Nat := 2
  dstW : Nat := 2
  deriving DecidableEq, Repr

/-! ### Descriptors (11 R306 to R312) -/

/-- Word `i` of a descriptor. -/
def Job.word (j : Job) (i : Nat) : Nat := j.desc.getD i 0

/-- The 64-bit field at words `i` and `i + 1`. -/
def Job.dword (j : Job) (i : Nat) : Nat := j.word i + 2 ^ 32 * j.word (i + 1)

def Job.kind (j : Job) : Nat := bits (j.word 0) 7 0
def Job.cls (j : Job) : Nat := bits (j.word 0) 9 8
def Job.irq (j : Job) : Bool := bit (j.word 0) 10
def Job.nonblock (j : Job) : Bool := bit (j.word 0) 11
def Job.nctl (j : Job) : Nat := bits (j.word 0) 15 12

/-- The batch kinds (11 R308). -/
def isBatch (kind : Nat) : Bool := [0x10, 0x11, 0x12, 0x13, 0x14].contains kind

/-- The ATTEND kinds of the forward chain. -/
def isAttend (kind : Nat) : Bool := [0x11, 0x12, 0x14].contains kind

/-- ACTL.QT (06 R159): quantize-through of a forward kind that allows it. -/
def Job.qt (j : Job) : Bool := isAttend j.kind && bit (j.word 10) 9

/-- Words of a byte string. -/
def wordsOf (bs : List Byte) (n : Nat) : List Nat := (List.range n).map (fun i => fieldAt bs (4 * i) 4)

/-- A batch list entry and its length entry (11 R309, R310). -/
def parseEntry (bs ls : List Byte) : Entry :=
  { handle := fieldAt bs 0 4, first := bits (fieldAt bs 4 4) 7 0, count := bits (fieldAt bs 4 4) 16 8
    slots := (List.range 7).map (fun i => fieldAt bs (8 + 8 * i) 8)
    rows := fieldAt ls 0 4, pos0 := fieldAt ls 4 4, klen := fieldAt ls 8 4, kspan := fieldAt ls 12 4 }

/-- Address slot A`i` of an entry. -/
def Entry.slot (e : Entry) (i : Nat) : Nat := e.slots.getD i 0

end Sys2Proof.Machine
end

