-- ==== Sys2Proof/Machine/Pages.lean ====
section
/-! DEFINITION. The page store (08): frames and their Page Frame Table entries, free lists and reserves, the stream
directory, map blocks, the walker and its LAB. -/

namespace Sys2Proof.Machine

/-! ### Pairing limits (15 R415 to R417) -/

/-- Whether the limits of 15 R415 hold: also while castling runs, until its step 6 lifts them (15 R429, log entry 74). -/
def State.limited (s : State) : Bool :=
  match s.twin.st with
  | .pending | .syncing | .paired | .suspect | .castling => true
  | _ => false

/-- N_m, the mirror frames of one tile (15 R415). -/
def State.mirrorFrames (s : State) : Nat := s.part.frames * s.cfg.image.partnerPct / 6400 * 64

/-- N_own of a MIRROR image. -/
def State.ownFrames (s : State) : Nat := s.part.frames - s.mirrorFrames

/-- Whether frames are set aside for the partner. -/
def State.mirrored (s : State) : Bool := s.limited && s.twin.mode = 2

/-- Frames of a tile the allocator draws on. -/
def State.frameLimit (s : State) : Nat := if s.mirrored then s.ownFrames else s.part.frames

/-- Map blocks of a tile the walker draws on. -/
def State.blockLimit (s : State) : Nat := if s.mirrored then 524288 else 1048576

/-- PGS_COLD_SLOTS. -/
def State.coldSlots (s : State) : Nat := s.reg 0x8048

/-- Cold records of a tile in use by the part itself. -/
def State.coldLimit (s : State) : Nat := if s.mirrored then s.coldSlots / 2 else s.coldSlots

/-! ### Frames (08 R213, R224 to R229) -/

/-- Tile and local index of a frame number (08 R213). -/
def frameTile (f : Nat) : Nat := f / 524288
def frameLocal (f : Nat) : Nat := f % 524288
def frameNum (t i : Nat) : Nat := 524288 * t + i

/-- A frame: listed, or FREE, or MIRROR where it is set aside. -/
def State.frame (s : State) (f : Nat) : Frame :=
  match s.store.frames.find? (fun p => p.1 = f) with
  | some p => p.2
  | none =>
    if s.cfg.image.pairing = 2 ∧ s.ownFrames ≤ frameLocal f then
      { st := if s.mirrored then .mirror else .free, gen := s.store.mirrorGen }
    else {}

/-- The table with an entry for a frame, whatever its value. -/
def putFrame (t : Tab Frame) (f : Nat) (x : Frame) : Tab Frame :=
  match t with
  | [] => [(f, x)]
  | (i, y) :: rest => if f < i then (f, x) :: (i, y) :: rest else if f = i then (f, x) :: rest else (i, y) :: putFrame rest f x

def State.setFrame (s : State) (f : Nat) (x : Frame) : State :=
  { s with store := { s.store with frames := putFrame s.store.frames f x } }

/-- One PFT update that changes STATE, VALID_ROWS, PUBLISHED, data or sidecar: GEN rises by 1 (08 R227). -/
def Frame.next (x : Frame) : Frame := { x with gen := (x.gen + 1) % 2 ^ 32 }

/-- Raises and lowers PGS_USED of a class (09 R254). -/
def State.charge (s : State) (c n : Nat) : State :=
  { s with store := { s.store with used := tset 0 s.store.used c (tget 0 s.store.used c + n) } }

def State.discharge (s : State) (c n : Nat) : State :=
  { s with store := { s.store with used := tset 0 s.store.used c (tget 0 s.store.used c - n) } }

/-- Charges a frame to a class (09 R254). -/
def State.chargeFrame (s : State) (f c : Nat) : State :=
  (s.charge c 1).setFrame f { s.frame f with cls := c, charged := true }

/-- Releases a frame's charge. -/
def State.uncharge (s : State) (f : Nat) : State :=
  let x := s.frame f
  if x.charged then (s.discharge x.cls 1).setFrame f { x with charged := false } else s

/-- Frames in the reserve of a tile. -/
def State.reserveOf (s : State) (t : Nat) : List Nat := tget [] s.store.reserve t

/-- A frame that has just become FREE enters the reserve where it is short, else the front of the free list
(09 R253, R266). -/
def State.shelve (s : State) (f : Nat) : State :=
  let t := frameTile f
  if (s.reserveOf t).length < s.reg 0x8014 then
    let s := s.setFrame f { (s.frame f).next with st := .reserved }
    { s with store := { s.store with reserve := tset [] s.store.reserve t (s.reserveOf t ++ [f]) } }
  else if frameLocal f < tget 0 s.store.next t then
    { s with store := { s.store with freed := tset [] s.store.freed t (f :: tget [] s.store.freed t) } }
  else s

/-- A frame that has just become FREE refills a short reserve, else goes to the need that has waited longest at the tile's
allocator, else to the free list (09 R253, R266). -/
def State.offer (s : State) (f : Nat) : State :=
  let t := frameTile f
  if (s.reserveOf t).length < s.reg 0x8014 then s.shelve f else
  match s.store.allocWait.find? (fun p => p.1 = t) with
  | some p => { s with store := { s.store with allocWait := s.store.allocWait.erase p, granted := s.store.granted ++ [(p.2, f)] } }
  | none => s.shelve f

/-- A frame returns to FREE (08 R226): its counts, page, LAST_USE and CLASS read zero (log entry 232). -/
def State.freeFrame (s : State) (f : Nat) : State :=
  let x := s.frame f
  (s.setFrame f { gen := x.next.gen }).offer f

/-- The freeing condition of 08 R229. -/
def Frame.freeable (x : Frame) : Bool :=
  x.refcnt = 0 && x.pincnt = 0 && !x.published &&
  (match x.st with | .priv | .shared | .isSealed => true | _ => false)

/-- Whether a BAD frame becomes FREE (08 R226): its repair test has passed and nothing names it. -/
def State.repaired (s : State) (f : Nat) : Bool :=
  let x := s.frame f
  x.st = .bad && x.refcnt = 0 && x.pincnt = 0 && !s.errs.repairTests.contains f && !s.errs.retired.contains f

/-- Frees the frame where the condition holds, releasing its class charge (09 R254). -/
def State.settle (s : State) (f : Nat) : State :=
  if (s.frame f).freeable || s.repaired f then (s.uncharge f).freeFrame f else s

/-- A frame gains references; a PRIVATE one with two becomes SHARED (08 R226). -/
def State.refFrame (s : State) (f n : Nat) : State :=
  let x := s.frame f
  let y := { x with refcnt := x.refcnt + n }
  s.setFrame f (if x.st = .priv ∧ 2 ≤ y.refcnt then { y.next with st := .shared } else y)

/-- A frame loses one reference (08 R226, R229). -/
def State.unrefFrame (s : State) (f : Nat) : State :=
  let x := s.frame f
  let y := { x with refcnt := x.refcnt - 1 }
  (s.setFrame f (if x.st = .shared ∧ y.refcnt = 1 then { y.next with st := .priv } else y)).settle f

def State.pinFrame (s : State) (f : Nat) : State :=
  let x := s.frame f
  s.setFrame f { x with pincnt := x.pincnt + 1 }

/-- Releases a pin: LAST_USE is set (08 R224). -/
def State.unpinFrame (s : State) (f : Nat) : State :=
  let x := s.frame f
  (s.setFrame f { x with pincnt := x.pincnt - 1, lastUse := s.use }).settle f

/-- Whether a pin request is refused (08 R228), the generation check apart. -/
def Frame.unpinnable (x : Frame) : Bool :=
  match x.st with
  | .free | .moving | .reserved | .mirror => true
  | _ => false

/-- The least local index from `n` on whose frame is FREE, by the listed frames of a tile that are not. -/
def State.nextFree (s : State) (t n : Nat) : Nat :=
  firstFree ((s.store.frames.filter (fun p => decide (frameTile p.1 = t) && decide (p.2.st ≠ .free))).map (fun p => frameLocal p.1)) n

/-- Step 1 of 09 R252: the tile's free list, most recently freed first, then the frames INIT put on it. -/
def State.takeFree (s : State) (t : Nat) : Option (Nat × State) :=
  let l := tget [] s.store.freed t
  match l.find? (fun f => decide (frameLocal f < s.frameLimit)) with
  | some f => some (f, { s with store := { s.store with freed := tset [] s.store.freed t (l.erase f) } })
  | none =>
    let n := s.nextFree t (tget 0 s.store.next t)
    if n < s.frameLimit then some (frameNum t n, { s with store := { s.store with next := tset 0 s.store.next t (n + 1) } })
    else none

/-- Frames on the free list of a tile (HLT_FRAME_FREE). -/
def State.freeCount (s : State) (t : Nat) : Nat :=
  ((tget [] s.store.freed t).filter (fun f => decide (frameLocal f < s.frameLimit))).length +
  (s.frameLimit - tget 0 s.store.next t) -
  (s.store.frames.filter (fun p => decide (frameTile p.1 = t) && decide (p.2.st ≠ .free) &&
    decide (tget 0 s.store.next t ≤ frameLocal p.1) && decide (frameLocal p.1 < s.frameLimit))).length

/-! ### Bands and placement (12 R327 to R330, 16 R459) -/

/-- Band of a layer, when it exists. -/
def State.layerBand (s : State) (layer : Nat) : Option Nat :=
  let w := s.reg (0x1200 + 4 * (layer / 4))
  let k := layer % 4
  if layer < 256 ∧ bit w (8 * k + 7) then some (bits w (8 * k + 4) (8 * k)) else none

/-- Tiles of a band by CFG_BAND. -/
def State.bandTiles (s : State) (b : Nat) : List Nat :=
  (List.range (bits (s.reg (0x1100 + 4 * b)) 10 5)).map (· + bits (s.reg (0x1100 + 4 * b)) 4 0)

/-- Tiles that serve a band: those whose bit of ERR_TILE_OUT is clear (12 R327, 16 R459). -/
def State.servingTiles (s : State) (b : Nat) : List Nat := (s.bandTiles b).filter (fun t => !s.errs.tileOut.contains t)

/-- Tiles that hold a band's directory entries, map blocks and cold records: until its relocation has moved them, a
quarantined tile is among them (16 R459). -/
def State.homingTiles (s : State) (b : Nat) : List Nat :=
  let l := (s.bandTiles b).filter (fun t => !s.errs.relocated.contains t)
  if l = [] then s.bandTiles b else l

/-- The `k`-th position of a list of tiles, modulo its length. -/
def nthTile (l : List Nat) (k : Nat) : Nat := l.getD (k % max 1 l.length) 0

/-- The tile that the `k`-th position of a layer's band names. -/
def State.bandTile (s : State) (layer k : Nat) : Nat := ((s.layerBand layer).map (fun b => nthTile (s.servingTiles b) k)).getD 0

/-- Home tile of a stream (08 R233). -/
def State.homeTile (s : State) (layer row stream : Nat) : Nat :=
  ((s.layerBand layer).map (fun b => nthTile (s.homingTiles b) (row + stream))).getD 0

/-- Whether the contents of a tile of a layer's band are on their way to other tiles: its items wait (16 R459). -/
def State.bandMoves (s : State) (layer : Nat) : Bool :=
  match s.layerBand layer with
  | some b => (s.bandTiles b).any s.errs.relocating.contains
  | none => false

/-- page_tile (12 R329). -/
def State.pageTile (s : State) (layer row stream page : Nat) : Nat := s.bandTile layer (row + stream + 1 + page / 256)

/-- page_core (12 R329). -/
def State.pageCore (s : State) (row stream page : Nat) : Nat := (61 * row + 37 * stream + page) % s.part.cores

/-- Whether a logical core of a tile (rank × 64 + file) is in service. -/
def State.coreIn (s : State) (t i : Nat) : Bool := !s.errs.coresOut.contains (4096 * t + i)

/-- The order in which the work of a core out of service looks for another: the files of its rank after it, with
wrap-around, then the files of the next ranks (16 R451). -/
def State.detours (s : State) (i : Nat) : List Nat :=
  let n := s.part.cores / 64
  (List.range 64).map (fun k => i / 64 * 64 + (i + k) % 64) ++
  (List.range (n - 1)).flatMap (fun d => (List.range 64).map (fun f => (i / 64 + 1 + d) % n * 64 + f))

/-- The core that runs what placement names for a logical core (16 R451). -/
def State.serving (s : State) (t i : Nat) : Nat :=
  if s.coreIn t i then i else ((s.detours i).find? (s.coreIn t)).getD i

/-! ### Directory and map blocks (08 R233 to R237) -/

def State.row (s : State) (r : Nat) : CtxRow := tget {} s.store.rows r
def State.setRow (s : State) (r : Nat) (x : CtxRow) : State := { s with store := { s.store with rows := tset {} s.store.rows r x } }
def dirKey (row stream : Nat) : Nat := row * 256 + stream
def State.dirOf (s : State) (row stream : Nat) : DirEntry := tget {} s.store.dir (dirKey row stream)
def State.setDir (s : State) (row stream : Nat) (d : DirEntry) : State :=
  { s with store := { s.store with dir := tset {} s.store.dir (dirKey row stream) d } }

/-- Key of entry `i` of block `b` of tile `t`. -/
def mapKey (t b i : Nat) : Nat := (1048576 * t + b) * 256 + i
def State.mapAt (s : State) (k : Nat) : MapEntry := tget .empty s.store.map k
def State.setMapAt (s : State) (k : Nat) (e : MapEntry) : State :=
  { s with store := { s.store with map := tset .empty s.store.map k e } }

/-- The home tile of a stream by its directory entry. -/
def State.homeOf (s : State) (row stream : Nat) : Nat := s.homeTile (s.dirOf row stream).layer row stream

/-- Key of the map entry of page `i`, where its leaf block exists (08 R236). -/
def State.pageKey (s : State) (row stream page : Nat) : Option Nat :=
  let d := s.dirOf row stream
  let h := s.homeOf row stream
  if !d.valid || !d.hasRoot then none
  else if !d.depth then (if page < 256 then some (mapKey h d.root page) else none)
  else match s.mapAt (mapKey h d.root (page / 256)) with
    | .inner b => some (mapKey h b (page % 256))
    | _ => none

/-- The map entry of page `i` (08 R238): empty where it resolves to none. -/
def State.pageEntry (s : State) (row stream page : Nat) : MapEntry :=
  if (s.dirOf row stream).pages ≤ page then .empty else
  match s.pageKey row stream page with
  | some k => s.mapAt k
  | none => .empty

/-- Rows a mapped page holds. -/
def State.entryRows (s : State) (e : MapEntry) : Nat :=
  match e with
  | .frame f => (s.frame f).page.rows
  | .cold r => match tget none s.store.cold r with | some c => c.rows | none => 0
  | _ => 0

/-- Stream length (09 R244). -/
def State.streamLen (s : State) (row stream : Nat) : Nat :=
  let d := s.dirOf row stream
  if d.pages = 0 then 0
  else (d.pages - 1) * (s.row row).tspan + s.entryRows (s.pageEntry row stream (d.pages - 1))

/-- Inserts a key into a rising list. -/
def insertKey (k : Nat) : List Nat → List Nat
  | [] => [k]
  | i :: rest => if k < i then k :: i :: rest else if k = i then i :: rest else i :: insertKey k rest

/-- The lowest free map block of a tile (log entry 22). -/
def State.freeBlock (s : State) (t : Nat) : Option Nat :=
  let base := 1048576 * t
  let mine := s.store.blocks.filter (fun k => decide (base ≤ k) && decide (k < 1048576 + base))
  let k := firstFree mine base
  if k - base < s.blockLimit then some (k - base) else none

def State.takeBlock (s : State) (t b : Nat) : State :=
  { s with store := { s.store with blocks := insertKey (1048576 * t + b) s.store.blocks } }

/-- Takes `n` blocks of a tile, all or nothing. -/
def State.takeBlocks : Nat → Nat → State → Option (List Nat × State)
  | 0, _, s => some ([], s)
  | n + 1, t, s =>
    match s.freeBlock t with
    | none => none
    | some b =>
      match (s.takeBlock t b).takeBlocks n t with
      | none => none
      | some (l, s') => some (b :: l, s')

/-- A block returns to its free list, its entries empty. -/
def State.giveBlock (s : State) (t b : Nat) : State :=
  let k := 1048576 * t + b
  { s with store := { s.store with
      blocks := s.store.blocks.filter (· != k)
      map := s.store.map.filter (fun p => p.1 / 256 != k) } }

/-- Blocks that mapping pages `p0` to `p1 - 1` needs (08 R236, 09 R250). -/
def State.blocksFor (s : State) (row stream p0 p1 : Nat) : Nat :=
  if p1 ≤ p0 then 0 else
  let d := s.dirOf row stream
  let groups := (List.range ((p1 - 1) / 256 - p0 / 256 + 1)).map (· + p0 / 256)
  let missing := groups.filter (fun g => (s.pageKey row stream (g * 256)).isNone)
  missing.length + (if !d.depth ∧ 256 < p1 then 1 else 0)

/-- Gives the stream the blocks that page `i` needs, from a supply; what is left of it (08 R236). -/
def State.growMap (s : State) (row stream page : Nat) (supply : List Nat) : State × List Nat :=
  let d := s.dirOf row stream
  let h := s.homeOf row stream
  -- a root leaf block for the first page
  let r1 : State × List Nat := if d.hasRoot then (s, supply) else
    match supply with
    | b :: rest => (s.setDir row stream { d with root := b, hasRoot := true }, rest)
    | [] => (s, [])
  let s := r1.1
  let d := s.dirOf row stream
  -- page 256: the old root becomes entry 0 of an interior block
  let r2 : State × List Nat := if d.depth ∨ page < 256 then (s, r1.2) else
    match r1.2 with
    | b :: rest => ((s.setMapAt (mapKey h b 0) (.inner d.root)).setDir row stream { d with root := b, depth := true }, rest)
    | [] => (s, [])
  let s := r2.1
  let d := s.dirOf row stream
  if d.depth ∧ s.mapAt (mapKey h d.root (page / 256)) = .empty then
    match r2.2 with
    | b :: rest => (s.setMapAt (mapKey h d.root (page / 256)) (.inner b), rest)
    | [] => (s, [])
  else (s, r2.2)

/-! ### The walker and the LAB (08 R238 to R241) -/

/-- Set of a LAB entry (08 R239). -/
def labSet (row stream leaf : Nat) : Nat := (row + 257 * stream + 131 * leaf) % 512

def LabEntry.hits (e : LabEntry) (row stream page : Nat) : Bool :=
  e.ctx = row && e.stream = stream && e.leaf = page / 256 && decide (e.first ≤ page % 256) && decide (page % 256 < e.first + e.run)

/-- The run around a page in which consecutive pages map consecutive frames (08 R240). -/
def labRun (entries : Nat → MapEntry) (i f : Nat) : Nat × Nat :=
  let down := ((List.range i).takeWhile (fun k => entries (i - 1 - k) = .frame (f - 1 - k) && decide (k < f))).length
  let up := ((List.range (255 - i)).takeWhile (fun k => entries (i + 1 + k) = .frame (f + 1 + k))).length
  (down, up)

/-- Fills the LAB with a run, dropping the least recently used entry of a full set. -/
def fillLab (tile : Nat) (e : LabEntry) (l : List (Nat × LabEntry)) : List (Nat × LabEntry) :=
  let here := l.filter (fun p => p.1 = tile && labSet p.2.ctx p.2.stream p.2.leaf = labSet e.ctx e.stream e.leaf)
  let l := if 8 ≤ here.length then (match here.getLast? with | some v => l.erase v | none => l) else l
  (tile, e) :: l

/-- One lookup of the home walker, with its counters (08 R238, R243). -/
def State.resolve (s : State) (row stream page : Nat) : MapEntry × State :=
  let h := s.homeOf row stream
  match s.store.lab.find? (fun p => p.1 = h && p.2.hits row stream page) with
  | some p =>
    (.frame (p.2.frame + (page % 256 - p.2.first)),
     ({ s with store := { s.store with lab := p :: s.store.lab.erase p } }).bumpTile h 0x13C 1)
  | none =>
    let e := s.pageEntry row stream page
    let s := s.bumpTile h 0x140 1
    match e, s.pageKey row stream page with
    | .frame f, some k =>
      let r := labRun (fun i => s.mapAt (k / 256 * 256 + i)) (page % 256) f
      let x : LabEntry := { ctx := row, stream := stream, leaf := page / 256, first := page % 256 - r.1,
                            run := r.1 + r.2 + 1, frame := f - r.1 }
      (e, { s with store := { s.store with lab := fillLab h x s.store.lab } })
    | _, _ => (e, s)

/-- Invalidates every LAB entry of a stream (08 R241). -/
def State.dropLab (s : State) (row stream : Nat) : State :=
  { s with store := { s.store with lab := s.store.lab.filter (fun p => !(p.2.ctx = row && p.2.stream = stream)) } }

/-- Invalidates the LAB entries that name a frame. -/
def State.dropLabFrame (s : State) (f : Nat) : State :=
  { s with store := { s.store with lab := s.store.lab.filter (fun p =>
      !(decide (p.2.frame ≤ f) && decide (f < p.2.frame + p.2.run))) } }

/-- Invalidates the LAB entries that cover a page of a stream (08 R241). -/
def State.dropLabPage (s : State) (row stream page : Nat) : State :=
  { s with store := { s.store with lab := s.store.lab.filter (fun p => !p.2.hits row stream page) } }

/-- Changes the map entry of a page of a live stream. -/
def State.setPage (s : State) (row stream page : Nat) (e : MapEntry) : State :=
  match s.pageKey row stream page with
  | some k => (s.setMapAt k e).dropLabPage row stream page
  | none => s

/-! ### Where a frame is mapped -/

/-- The map entries that name a frame. -/
def State.mapsOf (s : State) (f : Nat) : List Nat := (s.store.map.filter (fun p => p.2 = .frame f)).map Prod.fst

/-- The streams whose map a block belongs to: (row, stream, first page of the block), where the row is in use. -/
def State.blockOwner (s : State) (key : Nat) : Option (Nat × Nat × Nat) :=
  let t := key / 1048576
  let b := key % 1048576
  s.store.dir.findSome? (fun p =>
    let row := p.1 / 256
    let st := p.1 % 256
    let d := p.2
    if !d.valid || !d.hasRoot || s.homeTile d.layer row st ≠ t then none
    else if !d.depth then (if d.root = b then some (row, st, 0) else none)
    else ((List.range 64).find? (fun g => s.mapAt (mapKey t d.root g) = .inner b)).map (fun g => (row, st, g * 256)))

/-- The (row, stream, page) of a map entry, where a row in use holds it. -/
def State.locOwner (s : State) (k : Nat) : Option (Nat × Nat × Nat) :=
  (s.blockOwner (k / 256)).map (fun o => (o.1, o.2.1, o.2.2 + k % 256))

end Sys2Proof.Machine
end

