-- ==== Sys2Proof/Machine/Layouts.lean ====
section
/-! DEFINITION. The byte layouts that leave the part: Context Table rows (10 R270), directory entries (08 R234), map
entries (08 R235) and PFT words (08 R224), as PARK and the twin's ledger carry them. -/

namespace Sys2Proof.Machine

/-- A Context Table row as 256 bytes (10 R270). -/
def CtxRow.bytes (x : CtxRow) : List Byte :=
  leBytes 1 x.state ++ leBytes 1 x.cls ++ leBytes 2 x.gen ++ leBytes 2 (b2n x.reserveRight) ++ leBytes 2 x.streams ++
  leBytes 1 x.fmt ++ leBytes 1 x.layout ++ leBytes 1 x.block ++ leBytes 1 x.group ++ leBytes 2 x.hd ++ leBytes 2 x.tspan ++
  leBytes 1 x.turn ++ leBytes 1 x.qn ++ leBytes 1 x.kn ++ zeroBytes 1 ++ leBytes 4 x.lostPage ++ leBytes 8 x.modelKey ++
  leBytes 8 x.shape ++ leBytes 4 x.parent ++ leBytes 2 x.rowIdx ++ zeroBytes 2 ++
  leBytes 4 (x.buildFirst + 2 ^ 31 * b2n x.buildValid) ++ leBytes 4 x.buildLast ++ zeroBytes 200

/-- Reads a row (10 R270). -/
def ctxRowOfBytes (b : List Byte) : CtxRow :=
  { state := fieldAt b 0 1, cls := fieldAt b 1 1, gen := fieldAt b 2 2, reserveRight := bit (fieldAt b 4 2) 0
    streams := fieldAt b 6 2, fmt := fieldAt b 8 1, layout := fieldAt b 9 1, block := fieldAt b 10 1
    group := fieldAt b 11 1, hd := fieldAt b 12 2, tspan := fieldAt b 14 2, turn := fieldAt b 16 1, qn := fieldAt b 17 1
    kn := fieldAt b 18 1, lostPage := fieldAt b 20 4, modelKey := fieldAt b 24 8, shape := fieldAt b 32 8
    parent := fieldAt b 40 4, rowIdx := fieldAt b 44 2, buildFirst := bits (fieldAt b 48 4) 13 0
    buildValid := bit (fieldAt b 48 4) 31, buildLast := bits (fieldAt b 52 4) 21 0 }

/-- A directory entry as 64 bits (08 R234). -/
def DirEntry.word (d : DirEntry) : Nat :=
  d.root + 2 ^ 20 * b2n d.depth + 2 ^ 24 * d.layer + 2 ^ 32 * d.kvHead + 2 ^ 40 * d.bias + 2 ^ 48 * d.pages + 2 ^ 63 * b2n d.valid

/-- Reads a directory entry. Whether it holds a root block is the model's own field: where it maps pages, or names a
root or a depth (log entry 21). -/
def dirOfWord (v : Nat) : DirEntry :=
  { root := bits v 19 0, depth := bit v 20, layer := bits v 31 24, kvHead := bits v 39 32, bias := bits v 47 40
    pages := bits v 62 48, valid := bit v 63, hasRoot := decide (bits v 62 48 ≠ 0 ∨ bits v 20 0 ≠ 0) }

/-- A map entry as 32 bits (08 R235). -/
def MapEntry.word : MapEntry → Nat
  | .empty | .lost => 0
  | .frame f => 2 ^ 24 + f
  | .cold r => 2 ^ 25 + 2 ^ 24 + r % 8388608
  | .inner b => 2 ^ 24 + b

/-- Codes of frame states (08 R225). -/
def FrameSt.code : FrameSt → Nat
  | .free => 0 | .priv => 1 | .shared => 2 | .isSealed => 3 | .cold => 4 | .moving => 5 | .reserved => 6
  | .mirror => 7 | .bad => 8

def frameStOf (c : Nat) : FrameSt :=
  match c with
  | 1 => .priv | 2 => .shared | 3 => .isSealed | 4 => .cold | 5 => .moving | 6 => .reserved | 7 => .mirror | 8 => .bad
  | _ => .free

/-- The state of a frame as its mirror shadow has it (15 R418): a frame that no map names reads FREE, an eviction's
source SEALED. -/
def Frame.shadowOf (x : Frame) : FrameSt :=
  match x.st with
  | .priv | .shared | .isSealed | .bad => x.st
  | .moving => if x.refcnt = 0 then .free else .isSealed
  | _ => .free

/-- Word 0 of a PFT entry (08 R224), as a shadow carries it. -/
def Frame.word0 (x : Frame) : Nat :=
  x.shadowOf.code + 16 * x.page.fmt.fmt + 256 * x.page.fmt.layout + 1024 * x.page.fmt.block + 4096 * x.page.rows +
  2 ^ 23 * b2n x.published + 2 ^ 24 * x.cls + 2 ^ 26 * b2n x.reserve

/-- The page number where a listed map key's block lies: block key and slot. -/
def blockOf (k : Nat) : Nat × Nat × Nat := (k / 268435456, k / 256 % 1048576, k % 256)

/-! ### Deltas (15 R419) -/

/-- The byte ranges in which two byte strings of one length differ: (offset, bytes of the second). -/
def byteRuns (a b : List Byte) : List (Nat × List Byte) :=
  let step (acc : List (Nat × List Byte) × Nat) (p : Byte × Byte) : List (Nat × List Byte) × Nat :=
    let i := acc.2
    if p.1 = p.2 then (acc.1, i + 1) else
    match acc.1 with
    | (o, l) :: rest => if o + l.length = i then ((o, l ++ [p.2]) :: rest, i + 1) else ((i, [p.2]) :: acc.1, i + 1)
    | [] => ([(i, [p.2])], i + 1)
  ((a.zip b).foldl step ([], 0)).1.reverse

/-- Keys listed by either table. -/
def eitherKeys {α β : Type} (a : Tab α) (b : Tab β) : List Nat :=
  (a.map Prod.fst ++ b.map Prod.fst).eraseDups.mergeSort (· ≤ ·)

/-- `n` bytes from offset `k` of a table of bytes. -/
def rawFrom : Nat → Nat → Tab Byte → List Byte
  | 0, _, _ => []
  | n + 1, k, [] => 0#8 :: rawFrom n (k + 1) []
  | n + 1, k, (i, b) :: rest => if i = k then b :: rawFrom n (k + 1) rest else 0#8 :: rawFrom n (k + 1) ((i, b) :: rest)

/-- Bytes of a frame with its sidecar (08 R213). -/
def frameBytes : Nat := 73728

/-- The bytes of a frame: 65,536 of data, then 8,192 of sidecar. A MIRROR frame holds the bytes it has received. -/
def Frame.bytes (x : Frame) : List Byte :=
  if x.st = .mirror then rawFrom frameBytes 0 x.raw
  else if x.page = {} then zeroBytes frameBytes
  else x.page.dataBytes ++ x.page.sidecarBytes

/-- Whether a row belongs to the half a part owns (15 R413): role 0 rows 0 to 8,191. -/
def ownRow (role : Bool) (row : Nat) : Bool := if role then decide (8192 ≤ row) else decide (row < 8192)

/-- A frame whose bytes the receiver makes itself (COPY, RECALL): the delta that says so, and the page it gives. -/
structure Base where
  frame : Nat
  delta : Delta
  page : Page

/-- A table of bytes from bytes. -/
def rawOf (bs : List Byte) : Tab Byte := (bs.zipIdx.filter (fun p => p.1 ≠ 0#8)).map (fun p => (p.2, p.1))

/-- Writes bytes at an offset. -/
def putRaw (t : Tab Byte) (off : Nat) (bs : List Byte) : Tab Byte := bs.zipIdx.foldl (fun t p => tset 0#8 t (off + p.2) p.1) t

/-- The page that the bytes of a frame spell. -/
def pageOfBytes (bs : List Byte) : Page := Page.ofBytes (bs.take 65536) ((bs.drop 65536).take 8192)

/-- Whether the bytes of a frame pass the checksum of 08 R223. -/
def bytesGood (bs : List Byte) : Bool :=
  checksumOfBytes (bs.take 65536) ((bs.drop 65536).take 8192) = BitVec.ofNat 32 (fieldAt bs (65536 + 60) 4)

/-- A MIRROR frame whose shadow is FREE: nothing of the page is left (15 R418). -/
def Frame.clearMirror (x : Frame) : Frame := { st := .mirror, gen := x.next.gen, pincnt := x.pincnt }

/-- The deltas of one frame's change. A frame that takes a new page is FREE with zero bytes before it. -/
def frameDeltas (f : Nat) (base : Option Base) (x y : Frame) : List Delta :=
  let num := BitVec.ofNat 24 f
  let pre : List Delta := match base with
    | some z => [z.delta]
    | none => if x.page = {} ∧ y.page ≠ {} then [.frame num 0#32 0#16] else []
  let old : List Byte := match base with | some z => ({ y with page := z.page } : Frame).bytes | none => x.bytes
  let now := y.bytes
  let page := match base with | some z => z.page | none => x.page
  let bytes := if page = y.page ∨ y.page = {} then [] else (byteRuns old now).map (fun r => Delta.bytes num (BitVec.ofNat 17 r.1) r.2)
  let pft := if x.word0 = y.word0 ∧ x.refcnt = y.refcnt ∧ pre = [] then [] else
    [Delta.frame num (BitVec.ofNat 32 y.word0) (BitVec.ofNat 16 y.refcnt)]
  pre ++ bytes ++ pft

/-- The deltas of the changes between two stores, as the mode in force carries them. Frames without mirror are carried as
in LEDGER (15 R417), and `lists`, the frame lists of prefix nodes, are not carried (R414). -/
def storeDeltas (mode : Nat) (role : Bool) (own : Nat) (lists : List Nat) (bases : List Base) (a b : Store) : List Delta :=
  let rows := (eitherKeys a.rows b.rows).filterMap (fun r =>
    if ownRow role r && decide (tget {} a.rows r ≠ tget {} b.rows r) then
      some (.row (BitVec.ofNat 14 r) (tget {} b.rows r).bytes) else none)
  let dirs := (eitherKeys a.dir b.dir).filterMap (fun k =>
    if ownRow role (k / 256) && decide (tget {} a.dir k ≠ tget {} b.dir k) then
      let d := tget {} b.dir k
      let d := if mode = 2 then d else { d with root := 0, pages := 0 }
      some (.dir (BitVec.ofNat 14 (k / 256)) (BitVec.ofNat 8 (k % 256)) (BitVec.ofNat 64 d.word)) else none)
  if mode ≠ 2 then rows ++ dirs else
  let maps := (eitherKeys a.map b.map).filterMap (fun k =>
    let o := blockOf k
    if decide (o.2.1 < 524288) && !lists.contains (k / 256) && decide (tget .empty a.map k ≠ tget .empty b.map k) then
      some (.map (BitVec.ofNat 5 o.1) (BitVec.ofNat 20 o.2.1) (BitVec.ofNat 8 o.2.2)
        (BitVec.ofNat 32 (tget .empty b.map k).word)) else none)
  let frames := (eitherKeys a.frames b.frames).flatMap (fun f =>
    if frameLocal f < own then frameDeltas f (bases.find? (fun z => z.frame = f)) (tget {} a.frames f) (tget {} b.frames f) else [])
  frames ++ rows ++ dirs ++ maps

/-- Whether the ledger runs: LEDGER or MIRROR in SYNCING or PAIRED; in SUSPECT groups are formed and wait (15 R427). -/
def State.ledgerOn (s : State) : Bool :=
  decide (s.twin.mode ≠ 0) && (s.twin.st = .syncing || s.twin.st = .paired || s.twin.st = .suspect)

/-- Whether a sequenced frame may go out: the link is up and the replay buffer holds fewer than 8,192 (15 R409). -/
def Twin.room (x : Twin) : Bool := x.linkUp && decide (x.replay.length < 8192)

/-- Sends one sequenced message as the next frame. -/
def Twin.sendFrame (x : Twin) (m : TwinMsg) : Twin :=
  { x with tx := x.tx ++ [m], replay := x.replay ++ [(x.txSeq, m)], txSeq := (x.txSeq + 1) % 2 ^ 24 }

/-- A sequenced message goes out, or waits behind those that wait (15 R409). -/
def Twin.push (x : Twin) (m : TwinMsg) : Twin :=
  if x.room && x.unsent.isEmpty then x.sendFrame m else { x with unsent := x.unsent ++ [m] }

/-- Sends what waits, while there is room. -/
def Twin.drain : Nat → Twin → Twin
  | 0, x => x
  | n + 1, x =>
    match x.unsent with
    | m :: rest => if x.room then (({ x with unsent := rest } : Twin).sendFrame m).drain n else x
    | [] => x

/-- Sends messages of the ledger, in order. -/
def State.ledgerSend (s : State) (l : List TwinMsg) : State := { s with twin := l.foldl Twin.push s.twin }

/-- Sends deltas as one group of its own with its COMMIT (15 R419). -/
def State.sendDeltas (s : State) (ds : List Delta) (g : GroupId) : State :=
  if !s.ledgerOn || decide (ds = []) then s else s.ledgerSend (ds.map (fun d => TwinMsg.delta g d) ++ [.commit g])

/-- The frame lists of prefix nodes, as keys tile × 2^20 + block. -/
def nodeLists (tiles : Nat) (x : Store) : List Nat :=
  (x.nodes.filter (fun p => p.2.state ≠ 0)).map (fun p => 1048576 * (p.1 % tiles) + p.2.listBlock)

/-- The deltas of the changes since a store. -/
def State.deltasSince (s : State) (bases : List Base) (before : Store) : List Delta :=
  if !s.ledgerOn then [] else
  storeDeltas s.twin.mode s.twin.role s.mirrorFrames (nodeLists s.part.tiles before ++ nodeLists s.part.tiles s.store) bases before s.store

/-- Sends the group of the changes that a background action made. -/
def State.sendGroup (s : State) (bases : List Base) (before : Store) (g : GroupId) : State :=
  s.sendDeltas (s.deltasSince bases before) g

/-- Sends changes of a job for one context: part of a group that `commitGroups` ends. The job then waits for the
partner's acknowledgement (15 R419, R422). -/
def State.sendPart (s : State) (bases : List Base) (before : Store) (g : GroupId) (id : Nat) : State :=
  match s.deltasSince bases before with
  | [] => s
  | ds =>
    let s := s.ledgerSend (ds.map (fun d => TwinMsg.delta g d))
    { s with sched := { s.sched with jobs := s.sched.jobs.map (fun j =>
        if j.id = id ∧ !j.groups.contains g then { j with groups := j.groups ++ [g] } else j) } }

/-- Ends groups with their COMMITs (15 R419). -/
def State.commitGroups (s : State) (gs : List GroupId) : State := s.ledgerSend (gs.map TwinMsg.commit)

/-- The group of a background action (15 R419): ring 3Fh, sequence FFFF_FFFFh. -/
def backgroundGroup (handle : Nat) : GroupId := ⟨BitVec.ofNat 32 handle, 0x3F#6, 0xFFFFFFFF#32⟩

/-- The group that synchronizes a row (15 R435): ring 3Fh, sequence FFFF_FFFEh (log entry 70). -/
def syncGroup (handle : Nat) : GroupId := ⟨BitVec.ofNat 32 handle, 0x3F#6, 0xFFFFFFFE#32⟩

/-- Whether a group is one of these two, which name no job. -/
def isBackground (g : GroupId) : Bool := g.ring = 0x3F#6 && (g.seq = 0xFFFFFFFF#32 || g.seq = 0xFFFFFFFE#32)
def isSync (g : GroupId) : Bool := g.ring = 0x3F#6 && g.seq = 0xFFFFFFFE#32

/-- The row that a group's context has. -/
def rowOf (g : GroupId) : Nat := bits g.handle.toNat 13 0

end Sys2Proof.Machine
end

