-- ==== Sys2Proof/Machine/Prefix.lean ====
section
/-! DEFINITION. The prefix tree's operations (10 R286 to R295): the chained hash, links, entry of a sealed page, removal. -/

namespace Sys2Proof.Machine

/-! ### SipHash-2-4 (10 R288) -/

/-- Rotates 64 bits left. -/
def rotl64 (v n : Nat) : Nat := (v * 2 ^ n) % 2 ^ 64 + v / 2 ^ (64 - n)

/-- The four words of a SipHash state. -/
structure Sip where
  v0 : Nat
  v1 : Nat
  v2 : Nat
  v3 : Nat
  deriving DecidableEq, Repr

/-- One SipRound. -/
def Sip.round (x : Sip) : Sip :=
  let v0 := (x.v0 + x.v1) % 2 ^ 64
  let v1 := rotl64 x.v1 13 ^^^ v0
  let v0 := rotl64 v0 32
  let v2 := (x.v2 + x.v3) % 2 ^ 64
  let v3 := rotl64 x.v3 16 ^^^ v2
  let v0 := (v0 + v3) % 2 ^ 64
  let v3 := rotl64 v3 21 ^^^ v0
  let v2 := (v2 + v1) % 2 ^ 64
  let v1 := rotl64 v1 17 ^^^ v2
  let v2 := rotl64 v2 32
  ⟨v0, v1, v2, v3⟩

/-- Absorbs one message word with two rounds. -/
def Sip.absorb (x : Sip) (m : Nat) : Sip :=
  let y := ({ x with v3 := x.v3 ^^^ m }).round.round
  { y with v0 := y.v0 ^^^ m }

/-- The 64-bit words of a message, the last one carrying the length. -/
def sipWords (n : Nat) : Nat → List Byte → List Nat
  | 0, _ => []
  | fuel + 1, bs =>
    if bs.length < 8 then [ofLe bs + 2 ^ 56 * (n % 256)] else ofLe (bs.take 8) :: sipWords n fuel (bs.drop 8)

/-- SipHash-2-4 with 64-bit output. -/
def siphash24 (key msg : List Byte) : Nat :=
  let k0 := ofLe (key.take 8)
  let k1 := ofLe ((key.drop 8).take 8)
  let i : Sip := ⟨k0 ^^^ 0x736F6D6570736575, k1 ^^^ 0x646F72616E646F6D, k0 ^^^ 0x6C7967656E657261, k1 ^^^ 0x7465646279746573⟩
  let x := (sipWords msg.length (msg.length + 1) msg).foldl Sip.absorb i
  let y := ({ x with v2 := x.v2 ^^^ 0xFF }).round.round.round.round
  y.v0 ^^^ y.v1 ^^^ y.v2 ^^^ y.v3

/-- The shape word of a context (10 R288). -/
def CtxRow.shapeWord (x : CtxRow) : Nat :=
  x.fmt + 2 ^ 4 * x.layout + 2 ^ 6 * x.block + 2 ^ 8 * x.hd + 2 ^ 17 * x.tspan + 2 ^ 28 * x.streams + 2 ^ 37 * x.group +
  2 ^ 42 * x.turn + 2 ^ 50 * x.kn

/-- The chained hashes of pages 0 to n - 1 of a token run of `t` tokens a page (10 R288). -/
def chainHashes (salt key shape t : Nat) : Nat → Nat → List Byte → List Nat
  | 0, _, _ => []
  | n + 1, h, toks =>
    let x := siphash24 (leBytes 8 salt ++ leBytes 8 key) (leBytes 8 h ++ leBytes 8 shape ++ padTo (4 * t) toks)
    x :: chainHashes salt key shape t n x (toks.drop (4 * t))

/-! ### Nodes -/

def State.node (s : State) (n : Nat) : Node := tget {} s.store.nodes n
def State.setNode (s : State) (n : Nat) (x : Node) : State := { s with store := { s.store with nodes := tset {} s.store.nodes n x } }

/-- Tile of a node's frame list (10 R287). -/
def State.listTile (s : State) (n : Nat) : Nat := n % s.part.tiles

/-- The frames a node lists: (stream, frame). -/
def State.nodeFrames (s : State) (n : Nat) : List (Nat × Nat) :=
  (List.range 256).filterMap (fun st =>
    match s.mapAt (mapKey (s.listTile n) (s.node n).listBlock st) with
    | .frame f => some (st, f)
    | _ => none)

def bucketOf (hash : Nat) : Nat := hash % 0x800000

/-- Nodes of a bucket chain from a node on. -/
def State.chain (s : State) : Nat → Option Nat → List Nat
  | 0, _ => []
  | _, none => []
  | fuel + 1, some n => n :: s.chain fuel (s.node n).next

/-- Nodes in use. -/
def State.liveNodes (s : State) : List Nat := (s.store.nodes.filter (fun p => p.2.state ≠ 0)).map Prod.fst

/-- Nodes of the chain of a hash's bucket. -/
def State.bucketChain (s : State) (hash : Nat) : List Nat :=
  s.chain (s.liveNodes.length + 1) (tget none s.store.buckets (bucketOf hash))

/-- Links a node at the head of its bucket. -/
def State.linkNode (s : State) (n : Nat) : State :=
  let b := bucketOf (s.node n).hash
  let s := s.setNode n { s.node n with next := tget none s.store.buckets b }
  { s with store := { s.store with buckets := tset none s.store.buckets b (some n) } }

/-- Unlinks a node from its bucket. -/
def State.unlinkNode (s : State) (n : Nat) : State :=
  let b := bucketOf (s.node n).hash
  let nx := (s.node n).next
  if tget none s.store.buckets b = some n then { s with store := { s.store with buckets := tset none s.store.buckets b nx } }
  else match (s.bucketChain (s.node n).hash).find? (fun m => (s.node m).next = some n) with
    | some m => s.setNode m { s.node m with next := nx }
    | none => s

/-- A frame leaves the tree: PUBLISHED is cleared in its PFT entry and sidecar in one update (10 R294). -/
def State.unpublish (s : State) (f : Nat) : State :=
  let x := s.frame f
  if !x.published then s else
  (s.setFrame f { x.next with published := false, page := { x.page with published := false, prefixHash := 0#64 } }).settle f

/-- Handle of a row (10 R269). -/
def State.handle (s : State) (r : Nat) : Nat := 65536 * (s.row r).gen + r

/-- The handle of the context whose map holds an entry; FFFF_FFFFh for a parked one. -/
def State.locHandle (s : State) (k : Nat) : Nat :=
  match s.locOwner k with
  | some o => s.handle o.1
  | none => 0xFFFFFFFF

/-- BUILD_FIRST and BUILD_LAST of a row, from the BUILDING nodes it owns (10 R270). -/
def State.refreshBuild (s : State) (r : Nat) : State :=
  match s.store.nodes.filter (fun p => p.2.state = 1 && p.2.owner = s.handle r) with
  | [] => s.setRow r { s.row r with buildValid := false, buildFirst := 0, buildLast := 0 }
  | p :: ps =>
    let top := ps.foldl (fun q x => if q.2.pageIndex < x.2.pageIndex then x else q) p
    s.setRow r { s.row r with buildValid := true, buildLast := top.1
                              buildFirst := ps.foldl (fun m x => min m x.2.pageIndex) p.2.pageIndex }

/-- The row that owns a BUILDING node has changed nodes. -/
def State.ownerChanged (s : State) (x : Node) : State :=
  if x.state = 1 ∧ s.handle (x.owner % 16384) = x.owner then s.refreshBuild (x.owner % 16384) else s

/-- Removes one node (10 R294). -/
def State.removeNode (s : State) (n : Nat) : State :=
  let x := s.node n
  let fs := s.nodeFrames n
  let s := fs.foldl (fun s p => s.unpublish p.2) s
  let s := s.giveBlock (s.listTile n) x.listBlock
  let s := s.unlinkNode n
  let s := if x.rooted then s else s.setNode x.parent { s.node x.parent with children := (s.node x.parent).children - 1 }
  (s.setNode n { owner := 0xFFFFFFFF }).ownerChanged x

/-- A node and every node below it, parents first. -/
def State.subtree (s : State) : Nat → List Nat → List Nat
  | 0, _ => []
  | fuel + 1, ns =>
    if ns = [] then [] else
    ns ++ s.subtree fuel (s.liveNodes.filter (fun m => !(s.node m).rooted && ns.contains (s.node m).parent))

/-- The order of a removal: deepest first, ascending node number at each depth (10 R294). -/
def State.removalOrder (s : State) (n : Nat) : List Nat :=
  (s.subtree (s.liveNodes.length + 1) [n]).mergeSort (fun a b =>
    decide ((s.node b).pageIndex < (s.node a).pageIndex) || ((s.node a).pageIndex = (s.node b).pageIndex && decide (a ≤ b)))

/-- Whether a node or a descendant is LOCKED, which delays the removal. -/
def State.treeLocked (s : State) (n : Nat) : Bool := (s.removalOrder n).any (fun m => decide (0 < (s.node m).locked))

/-- Removes a node with its descendants. -/
def State.removeTree (s : State) (n : Nat) : State :=
  if (s.node n).state = 0 then s else (s.removalOrder n).foldl State.removeNode s

/-- Removes a node and those below, or leaves the removal to the end of the lookup that locks one of them. -/
def State.removeOrWait (s : State) (n : Nat) : State :=
  if s.treeLocked n then { s with store := { s.store with removing := s.store.removing ++ [n] } } else s.removeTree n

/-- Ends the locks of a lookup, then performs the removals that waited (10 R296). -/
def State.unlock (s : State) (ns : List Nat) : State :=
  let s := ns.foldl (fun s n => s.setNode n { s.node n with locked := (s.node n).locked - 1 }) s
  let ready := s.store.removing.filter (fun n => !s.treeLocked n)
  let s := { s with store := { s.store with removing := s.store.removing.filter (fun n => s.treeLocked n) } }
  ready.foldl State.removeTree s

/-- Enters a sealed page of a context's stream into its BUILDING node (10 R292). `fresh` is the seal's own update, whose
GEN step has been made. -/
def State.enterNode (s : State) (n stream f : Nat) (fresh : Bool) : State :=
  let x := s.frame f
  let y := if fresh then x else x.next
  let nd := s.node n
  let s := s.setFrame f { y with published := true, page := { y.page with published := true, prefixHash := BitVec.ofNat 64 nd.hash } }
  let s := s.setMapAt (mapKey (s.listTile n) nd.listBlock stream) (.frame f)
  let e := nd.entered + 1
  let done := decide ((nd.shape / 2 ^ 28) % 512 ≤ e)
  let s := s.setNode n { nd with entered := e, lastUse := s.use, state := if done then 2 else nd.state,
                                 owner := if done then 0xFFFFFFFF else nd.owner }
  if done then s.ownerChanged nd else s

/-- The BUILDING node of a page that a context owns, from BUILD_LAST by PARENT (10 R292). -/
def State.buildNode (s : State) (r page : Nat) : Option Nat :=
  if !(s.row r).buildValid then none else
  let rec climb : Nat → Nat → Option Nat
    | 0, _ => none
    | fuel + 1, n =>
      let x := s.node n
      if x.state = 0 then none
      else if x.pageIndex = page then (if x.state = 1 ∧ x.owner = s.handle r then some n else none)
      else if x.rooted ∨ x.pageIndex < page then none else climb fuel x.parent
  climb 16385 (s.row r).buildLast

/-- Drops the BUILDING nodes a context owns from a page on (10 R276, R282, R284). -/
def State.dropBuilding (s : State) (r first : Nat) : State :=
  let mine := (s.store.nodes.filter (fun p => p.2.state = 1 && p.2.owner = s.handle r && decide (first ≤ p.2.pageIndex))).map Prod.fst
  mine.foldl State.removeOrWait s

/-- Lowest FREE nodes, `k` of them, below NODE_MAX. -/
def State.freeNodes (s : State) (k : Nat) : List Nat :=
  let used := (s.store.nodes.filter (fun p => p.2.state ≠ 0)).map Prod.fst
  let rec go : Nat → Nat → List Nat
    | 0, _ => []
    | j + 1, n => let m := firstFree used n; if m < s.reg 0xA000 then m :: go j (m + 1) else []
  go k 0

end Sys2Proof.Machine
end

