-- ==== Sys2Proof/Machine/Regs.lean ====
section
/-! DEFINITION. The management register space: which offsets are occupied, the access type of every field, reserved
encodings, and the effect of a write by access type and device state (00 R12 to R18, 14 R398, 20 R500 to R510). -/

namespace Sys2Proof.Machine

/-- Access types (00 R14, R15). `cnt` is an RW counter that a write of any value clears. -/
inductive AccT where
  | ro | rw | wo | w1c | rwl | rws | maint | cnt
  deriving DecidableEq, Repr

/-- A field: bits hi to lo, its access, and the ranges of reserved encodings (first, last). -/
structure Fld where
  hi : Nat
  lo : Nat
  acc : AccT
  resv : List (Nat × Nat) := []
  deriving DecidableEq, Repr

/-- A register that is one 32-bit field. -/
def whole (a : AccT) : List Fld := [⟨31, 0, a, []⟩]

/-- Reserved encodings of a LOG2_SIZE field: all but 4 to 16. -/
def sizeResv : List (Nat × Nat) := [(0, 3), (17, 31)]

/-- Fields of the registers of a ring pair (11 R299). -/
def ringFields (o : Nat) : Option (List Fld) :=
  match o with
  | 0x00 => some [⟨31, 6, .rw, []⟩]
  | 0x04 => some (whole .rw)
  | 0x08 => some [⟨0, 0, .rw, []⟩, ⟨5, 1, .rw, sizeResv⟩, ⟨10, 6, .rw, sizeResv⟩, ⟨11, 11, .rw, []⟩]
  | 0x0C => some (whole .rw)
  | 0x10 => some (whole .ro)
  | 0x14 => some [⟨31, 5, .rw, []⟩]
  | 0x18 => some (whole .rw)
  | 0x1C => some (whole .ro)
  | 0x20 => some (whole .rw)
  | 0x24 => some [⟨31, 2, .rw, []⟩]
  | 0x28 => some (whole .rw)
  | 0x2C => some (whole .rw)
  | 0x30 => some [⟨15, 0, .rw, []⟩]
  | 0x34 => some (whole .ro)
  | 0x38 => some (whole .cnt)
  | 0x3C => some (whole .ro)
  | _ => none

/-- Window registers that read only (20 R510). -/
def windowRo : List Nat :=
  [0x000, 0x170, 0x174, 0x178, 0x17C, 0x194, 0x1A4, 0x1B8, 0x1BC, 0x1C0, 0x1C8, 0x1CC, 0x1D4, 0x1D8, 0x1DC, 0x1E0,
   0x1E4, 0x1E8, 0x1EC, 0x1F0, 0x1F4, 0x1F8, 0x1FC, 0x200]

/-- Fields of the registers of a tile's window (20 R509, R510): every occupied one is RO or a counter. -/
def windowFields (w : Nat) : Option (List Fld) :=
  if windowRo.contains w then some (whole .ro)
  else if (0x010 ≤ w ∧ w ≤ 0x024) ∨ (0x100 ≤ w ∧ w ≤ 0x1D0) then
    if w % 4 = 0 then some (whole .cnt) else none
  else none

/-- Global registers outside rings and windows (20 R507), in blocks so that each match stays small. -/
def mgtFields (off : Nat) : Option (List Fld) :=
  match off with
  | 0x0000 | 0x0004 | 0x000C | 0x0010 | 0x0018 | 0x001C => some (whole .ro)
  | 0x0008 => some [⟨1, 0, .wo, []⟩]
  | 0x0040 => some [⟨4, 4, .w1c, []⟩, ⟨5, 5, .w1c, []⟩]
  | _ => none

def cfgFields (off : Nat) : Option (List Fld) :=
  match off with
  | 0x1000 => some [⟨0, 0, .wo, []⟩]
  | 0x1004 | 0x1010 | 0x1014 | 0x1024 | 0x1028 => some (whole .ro)
  | 0x1008 => some (whole .cnt)
  | 0x1020 => some [⟨1, 0, .rw, [(3, 3)]⟩, ⟨15, 8, .rw, []⟩]
  | 0x1040 => some [⟨1, 0, .rwl, []⟩, ⟨3, 2, .rws, []⟩]
  | _ =>
    if 0x1100 ≤ off ∧ off ≤ 0x117C then some [⟨4, 0, .rwl, []⟩, ⟨10, 5, .rwl, []⟩]
    else if 0x1200 ≤ off ∧ off ≤ 0x12FC then
      some [⟨4, 0, .rwl, []⟩, ⟨7, 7, .rwl, []⟩, ⟨12, 8, .rwl, []⟩, ⟨15, 15, .rwl, []⟩,
            ⟨20, 16, .rwl, []⟩, ⟨23, 23, .rwl, []⟩, ⟨28, 24, .rwl, []⟩, ⟨31, 31, .rwl, []⟩]
    else none

def jobFields (off : Nat) : Option (List Fld) :=
  match off with
  | 0x3000 => some (whole .ro)
  | 0x3004 | 0x3108 => some [⟨15, 0, .rws, []⟩]
  | 0x3008 | 0x300C => some (whole .cnt)
  | 0x3100 => some [⟨7, 0, .rws, []⟩, ⟨15, 8, .rws, []⟩, ⟨23, 16, .rws, []⟩, ⟨31, 24, .rws, []⟩]
  | 0x3104 => some [⟨15, 0, .rws, []⟩, ⟨31, 16, .rws, []⟩]
  | 0x310C => some [⟨0, 0, .rws, []⟩]
  | _ => none

def storeFields (off : Nat) : Option (List Fld) :=
  match off with
  | 0x4000 | 0x4004 | 0x4008 => some (whole .ro)
  | 0x400C | 0x4010 | 0x4014 => some (whole .cnt)
  | 0x8000 => some [⟨0, 0, .rws, []⟩, ⟨1, 1, .rws, []⟩]
  | 0x8004 | 0x8008 => some [⟨15, 0, .rws, []⟩]
  | 0x800C => some [⟨3, 0, .rws, []⟩]
  | 0x8010 => some [⟨15, 0, .rws, []⟩, ⟨31, 16, .rws, []⟩]
  | 0x8014 => some [⟨12, 0, .rwl, []⟩]
  | 0x8020 | 0x8024 | 0x8028 | 0x802C => some [⟨24, 0, .rws, []⟩]
  | 0x8030 | 0x8034 | 0x8038 | 0x803C => some (whole .ro)
  | 0x8040 => some [⟨31, 12, .rwl, []⟩]
  | 0x8044 => some (whole .rwl)
  | 0x8048 => some [⟨23, 0, .rwl, []⟩]
  | 0xA000 => some [⟨22, 0, .rwl, []⟩]
  | 0xA008 | 0xA00C | 0xA018 | 0xA01C => some (whole .ro)
  | 0xA010 => some [⟨31, 12, .rwl, []⟩]
  | 0xA014 => some (whole .rwl)
  | 0xA020 | 0xA024 | 0xA028 | 0xA030 | 0xA034 => some (whole .cnt)
  | _ => none

def hatFields (off : Nat) : Option (List Fld) :=
  match off with
  | 0xC000 => some [⟨0, 0, .rw, []⟩]
  | 0xC008 => some [⟨31, 12, .rw, []⟩]
  | 0xC00C | 0xC01C | 0xC034 => some [⟨19, 0, .rw, []⟩]
  | 0xC010 => some [⟨15, 0, .rws, []⟩]
  | 0xC018 => some [⟨31, 5, .rw, []⟩]
  | 0xC020 => some [⟨0, 0, .rw, []⟩, ⟨5, 1, .rw, sizeResv⟩, ⟨6, 6, .rw, []⟩]
  | 0xC024 | 0xC044 => some (whole .ro)
  | 0xC028 => some (whole .rw)
  | 0xC030 => some [⟨31, 2, .rw, []⟩]
  | 0xC038 => some (whole .rw)
  | 0xC040 => some [⟨23, 0, .wo, []⟩, ⟨24, 24, .wo, []⟩]
  | 0xC048 | 0xC04C | 0xD000 => some (whole .cnt)
  | 0xD004 => some [⟨31, 31, .w1c, []⟩]
  | 0xD008 | 0xD00C => some (whole .ro)
  | _ => none

def twnFields (off : Nat) : Option (List Fld) :=
  match off with
  | 0xE000 => some [⟨1, 0, .wo, [(3, 3)]⟩, ⟨2, 2, .rw, []⟩, ⟨3, 3, .rw, []⟩]
  | 0xE004 => some [⟨15, 0, .wo, []⟩]
  | 0xE008 | 0xE024 | 0xE028 | 0xE02C | 0xE030 | 0xE034 | 0xE038 | 0xE048 | 0xE054 => some (whole .ro)
  | 0xE00C => some [⟨15, 0, .rws, []⟩]
  | 0xE010 => some [⟨31, 6, .rwl, []⟩]
  | 0xE014 => some (whole .rwl)
  | 0xE018 => some [⟨31, 2, .rw, []⟩]
  | 0xE01C => some [⟨19, 0, .rw, []⟩]
  | 0xE020 => some (whole .rw)
  | 0xE03C | 0xE040 | 0xE044 | 0xE04C | 0xE050 => some (whole .cnt)
  | 0xF000 | 0xF004 | 0xF014 => some (whole .ro)
  | 0xF008 | 0xF00C => some (whole .rw)
  | 0xF010 => some [⟨0, 0, .rw, []⟩, ⟨1, 1, .rw, []⟩, ⟨2, 2, .rw, []⟩]
  | 0xF018 | 0xF01C => some (whole .cnt)
  | _ => none

def errFields (off : Nat) : Option (List Fld) :=
  match off with
  | 0x10000 => some [⟨11, 11, .w1c, []⟩]
  | 0x10004 => some (whole .cnt)
  | 0x10008 => some [⟨0, 0, .wo, []⟩]
  | 0x1000C => some [⟨0, 0, .w1c, []⟩, ⟨2, 2, .w1c, []⟩, ⟨3, 3, .w1c, []⟩]
  | 0x10010 | 0x10014 => some [⟨5, 0, .rw, []⟩]
  | 0x10018 => some [⟨31, 2, .rw, []⟩]
  | 0x1001C => some [⟨19, 0, .rw, []⟩]
  | 0x10020 => some (whole .rw)
  | 0x10024 | 0x10028 => some (whole .ro)
  | 0x14000 => some [⟨3, 0, .rws, [(10, 15)]⟩, ⟨7, 4, .rws, []⟩]
  | 0x14004 => some [⟨7, 0, .rws, []⟩, ⟨15, 8, .rws, []⟩, ⟨23, 16, .rws, []⟩, ⟨31, 24, .ro, []⟩]
  | 0x14008 | 0x14018 => some (whole .ro)
  | 0x1400C => some [⟨0, 0, .rws, []⟩, ⟨31, 16, .rws, []⟩]
  | 0x14010 | 0x14014 => some (whole .maint)
  | 0x18000 => some [⟨2, 0, .wo, [(6, 7)]⟩, ⟨7, 3, .wo, []⟩, ⟨19, 8, .wo, []⟩, ⟨20, 20, .wo, []⟩, ⟨31, 31, .wo, []⟩]
  | 0x18004 => some [⟨2, 2, .w1c, []⟩]
  | 0x18008 | 0x1800C | 0x18010 | 0x18014 | 0x18018 | 0x1801C => some (whole .ro)
  | 0x18020 => some (whole .rw)
  | 0x18024 => some [⟨0, 0, .wo, []⟩, ⟨5, 1, .wo, []⟩]
  | 0x18028 => some [⟨14, 14, .w1c, []⟩]
  | _ => if 0x10040 ≤ off ∧ off ≤ 0x1005C then some (whole .ro) else none

/-- The fields of an aligned offset below 04_0000h; none where it is unoccupied (20 R501). -/
def State.fields (s : State) (off : Nat) : Option (List Fld) :=
  if off % 4 ≠ 0 then none
  else if off < 0x1000 then mgtFields off
  else if off < 0x2000 then cfgFields off
  else if off < 0x3000 then
    if (off - 0x2000) / 0x40 < s.part.rings then ringFields (off % 0x40) else none
  else if off < 0x4000 then jobFields off
  else if off < 0xC000 then storeFields off
  else if off < 0xE000 then hatFields off
  else if off < 0x10000 then twnFields off
  else if off < 0x20000 then errFields off
  else if off < 0x40000 then
    if s.hasTile ((off - 0x20000) / 0x1000) then windowFields (off % 0x1000) else none
  else none

/-- The bits of a field in a word. -/
def Fld.get (f : Fld) (v : Nat) : Nat := bits v f.hi f.lo

/-- A word with the field's bits replaced by those of `v`. -/
def Fld.put (f : Fld) (old v : Nat) : Nat :=
  old - f.get old * 2 ^ f.lo + f.get v * 2 ^ f.lo

/-- Whether a written value places a reserved encoding into a defined field (00 R17). -/
def Fld.reserved (f : Fld) (v : Nat) : Bool :=
  f.resv.any (fun r => decide (r.1 ≤ f.get v) && decide (f.get v ≤ r.2))

/-- Low words of the writable 64-bit pairs (20 R504). -/
def pairLow (off : Nat) : Bool :=
  [0x8040, 0xA010, 0xC008, 0xC018, 0xC030, 0xE010, 0xE018, 0xF008, 0x10018].contains off ||
  (decide (0x2000 ≤ off) && decide (off < 0x3000) && [0x00, 0x14, 0x24].contains (off % 0x40))

/-- Whether the offset is the high word of a writable pair. -/
def pairHigh (off : Nat) : Bool := decide (4 ≤ off) && pairLow (off - 4)

/-- High words whose pair is a host virtual address of 48 bits (13 R358). -/
def vaHigh (off : Nat) : Bool :=
  [0x8044, 0xA014, 0xE014].contains off ||
  (decide (0x2000 ≤ off) && decide (off < 0x3000) && [0x04, 0x18, 0x28].contains (off % 0x40))

/-- Counts one write that carries another value for a locked field (00 R15, 14 R398). -/
def State.lockedWrite (s : State) (off : Nat) : State :=
  (s.report { severity := sevNote, cause := 0x30, unit := 0x0A, addr := off }).bump 0x1008 1

/-- Whether RWL fields and the shadow-and-live rule of 14 R398 hold: before READY. -/
def State.early (s : State) : Bool := s.cfg.mode = .init || s.cfg.mode = .pair

/-- What one write does to a register's stored value and shadow, and whether it meets a locked field. -/
structure RegEffect where
  value : Nat
  shadow : Nat
  locked : Bool
  deriving DecidableEq, Repr

/-- The write of one field (00 R14, R15, 14 R398). WO and W1C fields act in their own rows. -/
def applyField (early maint : Bool) (v : Nat) (e : RegEffect) (f : Fld) : RegEffect :=
  match f.acc with
  | .ro | .wo | .w1c => e
  | .cnt => { e with value := 0 }
  | .rw => { e with value := f.put e.value v }
  | .rwl => if early then { e with value := f.put e.value v }
            else { e with locked := e.locked || decide (f.get e.value ≠ f.get v) }
  | .rws => if early then { e with value := f.put e.value v, shadow := f.put e.shadow v }
            else { e with shadow := f.put e.shadow v }
  | .maint => if maint then { e with value := f.put e.value v }
              else { e with locked := e.locked || decide (f.get e.value ≠ f.get v) }

/-- Applies the fields of a register in turn. -/
def State.applyWrite (s : State) (fs : List Fld) (off v : Nat) : State :=
  let e0 : RegEffect := ⟨s.reg off, (tget 0#32 s.cfg.shadow off).toNat, false⟩
  let e := fs.foldl (applyField s.early (s.cfg.mode = .maint) v) e0
  let s1 := { s with regs := tset 0#32 s.regs off (BitVec.ofNat 32 e.value)
                     cfg := { s.cfg with shadow := if e.shadow = e0.shadow then s.cfg.shadow
                                           else tset 0#32 s.cfg.shadow off (BitVec.ofNat 32 e.shadow) } }
  if e.locked then s1.lockedWrite off else s1

/-- Whether the device state refuses a write (14 R385, R398): BOOT to VERIFY, and HALTED outside ERR and TST. -/
def State.writeRefused (s : State) (off : Nat) : Bool :=
  match s.cfg.mode with
  | .off | .boot | .load | .verify => true
  | .halted => !((decide (0x10000 ≤ off) && decide (off < 0x14000)) || (decide (0x18000 ≤ off) && decide (off < 0x20000)))
  | _ => false

/-- Outcome of the common checks of a register write. -/
inductive WriteCheck where
  | refused
  | reserved
  | take (fs : List Fld)
  deriving DecidableEq, Repr

/-- The checks of 00 R6, R12, R17, 14 R398 and 20 R500, R501, in order. -/
def State.checkWrite (s : State) (off v : Nat) : WriteCheck :=
  if off % 4 ≠ 0 ∨ 0x40000 ≤ off then .refused
  else if s.writeRefused off then .refused
  else match s.fields off with
    | none => .refused
    | some fs => if fs.any (fun f => f.reserved v) then .reserved else .take fs

/-- Logs a write of a reserved encoding (00 R17). -/
def State.reservedWrite (s : State) (off : Nat) : State :=
  s.report { severity := sevNote, cause := 0x32, unit := 0x0A, addr := off }

/-- Holds the low word of a pair (00 R13). -/
def State.holdLow (s : State) (off v : Nat) : State :=
  { s with cfg := { s.cfg with heldLow := tset none s.cfg.heldLow off (some (BitVec.ofNat 32 v)) } }

/-- Low words of the pairs that are RWL, not RW (20 R504). -/
def pairLocked (low : Nat) : Bool := [0x8040, 0xA010, 0xE010].contains low

/-- Whether a high word comes without the low word that the driver must write first (00 R6, 20 R504). -/
def State.lowMissing (s : State) (off : Nat) : Bool :=
  !pairLocked (off - 4) && (tget none s.cfg.heldLow (off - 4)).isNone

/-- The low word that a write of the high word completes: the held one, else, for an RWL pair, the low word as it stands
(log entry 90). -/
def State.lowFor (s : State) (off : Nat) : Nat :=
  match tget none s.cfg.heldLow (off - 4) with
  | some w => w.toNat
  | none => s.reg (off - 4)

/-- Takes both words of a pair, together, at the write of the high word (00 R13). -/
def State.applyPair (s : State) (fs : List Fld) (off v : Nat) : State :=
  let low := s.lowFor off
  let s := { s with cfg := { s.cfg with heldLow := tset none s.cfg.heldLow (off - 4) none } }
  match s.fields (off - 4) with
  | some fl => (s.applyWrite fl (off - 4) low).applyWrite fs off v
  | none => s

end Sys2Proof.Machine
end

