-- ==== Sys2Proof/Machine/HostPort.lean ====
section
/-! DEFINITION. The host port and the translator (13): modules, requests and their packets, page-table walks, faults,
invalidations. -/

namespace Sys2Proof.Machine

/-! ### Rings, and holding their descriptors (11 R303, R304) -/

def State.ring (s : State) (r : Nat) : Ring := tget {} s.sched.rings r
def State.setRing (s : State) (r : Nat) (x : Ring) : State :=
  { s with sched := { s.sched with rings := tset {} s.sched.rings r x } }

/-- A descriptor held for JOB_HOLD_AGE gains ageing priority (R304). -/
def State.ageRing (s : State) (r : Nat) : State :=
  let x := s.ring r
  if (x.heldTrk || x.heldCpl) && !x.aged then
    { s with sched := { s.sched with agedSeq := s.sched.agedSeq + 1 } }.setRing r { x with aged := true, agedAt := s.sched.agedSeq + 1 }
  else s

/-- Holds a ring's next descriptor; it is counted once, and ages at once when JOB_HOLD_AGE is 0 (R303, R326). -/
def State.hold (s : State) (r : Nat) (trk : Bool) (needs : List (Nat × Nat)) : State :=
  let x := s.ring r
  let s := if x.counted then s else s.bump (ringReg r 0x38) 1
  let s : State := { s with sched := { s.sched with intakeOf := none } }
  let s := s.setRing r { x with heldTrk := trk, heldCpl := !trk, needs := needs, counted := true }
  if s.live 0x3004 % 65536 = 0 then s.ageRing r else s

/-! ### Modules and requests (13 R351, R355, R376) -/

/-- Modules of a tile that are up, ascending. -/
def HostPort.modulesUp (h : HostPort) (t : Nat) : List Nat := (List.range 4).filter (fun m => bit (tget 0 h.up t) m)

/-- The tile whose modules carry a tile's host traffic: itself, else the neighbour below, else the one above (R351). -/
def HostPort.via (h : HostPort) (tiles t : Nat) : Nat :=
  if (h.modulesUp t) ≠ [] then t
  else if 0 < t ∧ h.modulesUp (t - 1) ≠ [] then t - 1
  else if t + 1 < tiles ∧ h.modulesUp (t + 1) ≠ [] then t + 1
  else t

/-- The module that carries a request to a physical address: by address, modulo the modules up (R376). -/
def HostPort.moduleFor (h : HostPort) (t pa : Nat) : Nat :=
  let up := h.modulesUp t
  up.getD ((((pa >>> 12) ^^^ (pa >>> 21)) % 4) % max 1 up.length) 0

/-- Tags in use on a module. -/
def HostPort.tags (h : HostPort) (t m : Nat) : List Nat :=
  (h.reqs.filter (fun r => r.tile = t && r.module = m)).map (fun r => r.tag)

/-- The lowest free tag of a module; none when 4,096 requests wait for responses (R355). -/
def HostPort.freeTag (h : HostPort) (t m : Nat) : Option Nat :=
  let used := h.tags t m
  if 4096 ≤ used.length then none else findFrom (fun k => !used.contains k) 4096 0

/-- AUX of an MWR: FIRST and LAST (R354). -/
def mwrAux (addr n : Nat) : Nat := addr % 64 + 256 * ((addr + n - 1) % 64)

/-- 64 B units that a range touches. -/
def unitsOf (addr n : Nat) : Nat := if n = 0 then 0 else (addr + n - 1) / 64 - addr / 64 + 1

/-- The packet of a request (R353, R354). -/
def HReq.packet (r : HReq) (data : List Byte) (intr : Bool) : Pkt :=
  if r.write then
    { typ := 0x02, tile := r.tile, module := r.module, tag := r.tag, intr := intr, aux := mwrAux r.addr r.bytes
      addr := r.addr / 64 * 64
      payload := padTo (64 * unitsOf r.addr r.bytes) (zeroBytes (r.addr % 64) ++ data) }
  else
    { typ := 0x01, tile := r.tile, module := r.module, tag := r.tag, aux := unitsOf r.addr r.bytes
      addr := r.addr / 64 * 64 }

/-- The fields of a packet header (R353). -/
structure Header where
  typ : Nat
  tag : Nat
  status : Nat
  len : Nat
  intr : Bool
  aux : Nat
  addr : Nat
  deriving DecidableEq, Repr

/-- The header that a packet's first words spell. -/
def headerOf (w0 aux addr : Nat) : Header :=
  { typ := bits w0 7 0, tag := bits w0 19 8, status := bits w0 23 20, len := bits w0 27 24, intr := bit w0 28, aux := aux, addr := addr }

/-- The 16 bytes of a header. -/
def Header.bytes (h : Header) : List Byte :=
  leBytes 4 (h.typ + 2 ^ 8 * h.tag + 2 ^ 20 * h.status + 2 ^ 24 * h.len + 2 ^ 28 * b2n h.intr) ++ leBytes 4 h.aux ++ leBytes 8 h.addr

/-- A packet that Rhoit sends, as its bytes: the header, then LEN units of payload. -/
def Pkt.bytes (p : Pkt) : List Byte :=
  ({ typ := p.typ, tag := p.tag, status := p.status, len := p.payload.length / 64, intr := p.intr, aux := p.aux, addr := p.addr
     : Header }).bytes ++ p.payload

/-- Whether a packet of the host is one to discard: of a type that it does not send, a request with a STATUS, or a doorbell whose
reserved bits are not zero (R354). -/
def Header.bad (h : Header) : Bool :=
  !([0x04, 0x05, 0x10, 0x11, 0x12, 0x20].contains h.typ) || ([0x10, 0x11, 0x12, 0x20].contains h.typ && h.status ≠ 0) ||
  (h.typ = 0x10 && bits h.aux 31 6 ≠ 0)

/-- Whether a request is an interrupt message, which sets INTR (R353). -/
def Owner.isIrq : Owner → Bool
  | .irq _ => true
  | _ => false

/-- Sends a request on its module, or holds it until a tag is free (R355). -/
def State.place (s : State) (r : HReq) (data : List Byte) : State :=
  match s.host.freeTag r.tile r.module with
  | some g =>
    let r := { r with tag := g }
    { s with host := { s.host with reqs := s.host.reqs ++ [r], tx := s.host.tx ++ [r.packet data r.owner.isIrq] } }
  | none => { s with host := { s.host with waiting := s.host.waiting ++ [(r, data)] } }

/-- The module of a request: the one its channel names while it is up, else by address (R376). -/
def HostPort.choose (h : HostPort) (tile t pa : Nat) (mod : Option Nat) : Nat :=
  match mod with
  | some m => if t = tile && (h.modulesUp t).contains m then m else h.moduleFor t pa
  | none => h.moduleFor t pa

/-- Issues a request. -/
def State.issue (s : State) (tile : Nat) (write : Bool) (owner : Owner) (pa off : Nat) (page : Option Nat)
    (n : Nat) (data : List Byte) (mod : Option Nat := none) : State :=
  let t := s.host.via s.part.tiles tile
  s.place { tile := t, module := s.host.choose tile t pa mod, tag := 0, write := write, addr := pa, bytes := n, off := off
            page := page, owner := owner } data

/-- Splits a range at 512 B boundaries: 8 units at most per packet (R353). -/
def chunks : Nat → Nat → Nat → List (Nat × Nat)
  | 0, _, _ => []
  | fuel + 1, a, n =>
    if n = 0 then [] else
    let k := min n (a / 64 * 64 + 512 - a)
    (a, k) :: chunks fuel (a + k) (n - k)

/-- Moves a physical range, in packets; returns how many were made. -/
def State.movePhys (s : State) (tile : Nat) (write : Bool) (owner : Owner) (page : Option Nat) (pa off : Nat)
    (n : Nat) (data : List Byte) (mod : Option Nat := none) : State × Nat :=
  let cs := chunks (n + 1) pa n
  (cs.foldl (fun s c => s.issue tile write owner c.1 (off + (c.1 - pa)) page c.2 ((data.drop (c.1 - pa)).take c.2) mod) s,
   cs.length)

/-- The channels that serve an owner (R376): work items 0 to 5, a migration the two of its module, park records, moves
and tokens 14, table sources 15; none where the request goes out directly. -/
def dmaChannels (owner : Owner) (mod : Option Nat) : List Nat :=
  match owner with
  | .item _ _ _ | .handles _ | .stats _ => [0, 1, 2, 3, 4, 5]
  | .mig _ => let m := mod.getD 0; [6 + 2 * m, 7 + 2 * m]
  | .park _ | .tokens _ => [14]
  | .table _ => [15]
  | _ => []

/-- The channel of a list that holds the fewest descriptors, the lowest of several (log entry 65). -/
def HostPort.leastBusy (h : HostPort) (tile : Nat) (cs : List Nat) : Option Nat :=
  cs.foldl (fun (a : Option Nat) c =>
    match a with
    | none => some c
    | some d => if (tget [] h.dma (tile * 16 + c)).length < (tget [] h.dma (tile * 16 + d)).length then some c else some d) none

/-- Submits the descriptor of a transfer (R377, R378). -/
def State.describe (s : State) (tile : Nat) (write : Bool) (owner : Owner) (f : Fetch) (mod : Option Nat) : State :=
  match s.host.leastBusy tile (dmaChannels owner mod) with
  | none => s
  | some c =>
    let near := match owner with | .mig _ => 1 | .park _ | .tokens _ => 1 | _ => 2
    let d : DmaDesc := { srcSpace := if write then near else 0, dstSpace := if write then 0 else near, srcW := f.srcW
                         dstW := f.dstW, host := f.va, count := f.bytes, owner := owner }
    { s with host := { s.host with dma := tset [] s.host.dma (tile * 16 + c) (tget [] s.host.dma (tile * 16 + c) ++ [d]) } }

/-- Submits the descriptors of a transfer that reads host ranges, each of 131,072 bytes at most (R378). -/
def State.fetch (s : State) (tile : Nat) (owner : Owner) (fs : List Fetch) : State :=
  (fs.flatMap (fun f => (List.range (ceilDiv f.bytes 131072)).map (fun k =>
    ({ f with va := f.va + 131072 * k, bytes := min 131072 (f.bytes - 131072 * k) } : Fetch)))).foldl
    (fun s f => s.describe tile false owner f none) s

/-- Moves a virtual range through translations; returns how many requests were made. -/
def State.moveVirt (s : State) (tile : Nat) (write : Bool) (owner : Owner) (t : Trans) (va off n : Nat)
    (data : List Byte) (mod : Option Nat := none) : State × Nat :=
  let s := s.describe tile write owner { va := va, bytes := n } mod
  (piecesOf va n).foldl (fun sn p =>
    let v := 4096 * p.1 + p.2.1
    let r := sn.1.movePhys tile write owner (some p.1) (t.phys v) (off + (v - va)) p.2.2 ((data.drop (v - va)).take p.2.2) mod
    (r.1, sn.2 + r.2)) (s, 0)

/-- The request that a response answers: its tag on the module that carried it (R355). -/
def HostPort.match (h : HostPort) (q : Req) : Option HReq :=
  h.reqs.find? (fun r => r.tile = q.tile.toNat && r.module = q.module.toNat && r.tag = q.tag.toNat)

/-- Removes a request, and gives its tag to the oldest request that waits for one on that module. -/
def HostPort.release (h : HostPort) (r : HReq) : HostPort :=
  let h := { h with reqs := h.reqs.erase r }
  match h.waiting.find? (fun p => p.1.tile = r.tile && p.1.module = r.module) with
  | some p =>
    let n := { p.1 with tag := r.tag }
    { h with waiting := h.waiting.erase p, reqs := h.reqs ++ [n], tx := h.tx ++ [n.packet p.2 n.owner.isIrq] }
  | none => h

/-- A response whose tag names no waiting request is discarded and logged (R355). -/
def State.strayResponse (s : State) (q : Req) : State :=
  s.report { severity := sevNote, cause := 0x21, unit := 0x07, tile := q.tile.toNat, index := q.module.toNat,
             addr := q.tag.toNat }

/-- A host packet of another type, or a request with a reserved STATUS, is discarded and logged (R354). -/
def State.badPacket (s : State) (q : Req) : State :=
  s.report { severity := sevNote, cause := 0x20, unit := 0x07, tile := q.tile.toNat, index := q.module.toNat }

/-! ### Page-table walks (13 R359 to R364) -/

/-- A page-table entry's fields (R359). -/
def ptePresent (e : Nat) : Bool := bit e 0
def pteAddr (e : Nat) : Nat := bits e 51 12
def pteRights (e : Nat) : Nat := bits e 3 1

/-- Whether an entry is a leaf at a level. -/
def pteLeaf (level e : Nat) : Bool := level = 1 || (level ≠ 4 && bit e 7)

/-- Whether an entry is malformed at a level (R360). -/
def pteBad (level e : Nat) : Bool :=
  decide (bits e 6 4 ≠ 0) || (level = 4 && bit e 7) ||
  (pteLeaf level e && decide (pteAddr e % 512 ^ (level - 1) ≠ 0))

/-- Whether a leaf lacks a right an access needs (R361). -/
def pteDenies (e acc : Nat) (both : Bool) : Bool :=
  match acc with
  | 0 => !bit e 1 || (both && !bit e 2)
  | 1 => !bit e 2 || (both && !bit e 1)
  | _ => !(bit e 1 && bit e 2 && bit e 3)

/-- The end of a walk. -/
inductive WalkEnd where
  | leaf (level entry table : Nat)
  | fault (cause level : Nat)
  | bus
  | silent
  deriving DecidableEq, Repr

/-- Index of a page in the table of a level. -/
def pteIndex (level page : Nat) : Nat := (page >>> (9 * (level - 1))) % 512

/-- Walks from a level's table down (R360). -/
def walkFrom (h : HostView) (page acc : Nat) (both : Bool) : Nat → Nat → WalkEnd
  | 0, _ => .fault 2 0
  | level + 1, table =>
    match readPhys h (4096 * table + 8 * pteIndex (level + 1) page) 8 with
    | .fail 0x41 => .bus
    | .fail _ => .silent
    | .ok bs =>
      let e := ofLe bs
      if !ptePresent e then .fault 0 level
      else if pteBad (level + 1) e then .fault 2 level
      else if pteLeaf (level + 1) e then
        if pteDenies e acc both then .fault 1 level else .leaf (level + 1) e table
      else walkFrom h page acc both level (pteAddr e)

/-- The entries of the 64 B line that holds a page's leaf: (page, physical page, rights), absent ones left out. -/
def leafLine (h : HostView) (level table page : Nat) : List (Nat × Nat × Nat) :=
  let i := pteIndex level page / 8 * 8
  let span := 512 ^ (level - 1)
  let first := page / span * span - pteIndex level page % 8 * span
  (List.range 8).filterMap (fun k =>
    match readPhys h (4096 * table + 8 * (i + k)) 8 with
    | .ok bs =>
      let e := ofLe bs
      if ptePresent e && pteLeaf level e && !pteBad level e then some (first + k * span, pteAddr e, pteRights e) else none
    | .fail _ => none)

/-- Grows a run upward from page `p` with physical page `a`. -/
def runUp (line : List (Nat × Nat × Nat)) (span rights : Nat) : Nat → Nat → Nat → Nat
  | 0, _, _ => 0
  | fuel + 1, p, a =>
    if line.contains (p + span, a + span, rights) then 1 + runUp line span rights fuel (p + span) (a + span) else 0

/-- Grows a run downward. -/
def runDown (line : List (Nat × Nat × Nat)) (span rights : Nat) : Nat → Nat → Nat → Nat
  | 0, _, _ => 0
  | fuel + 1, p, a =>
    if span ≤ p ∧ span ≤ a ∧ line.contains (p - span, a - span, rights) then
      1 + runDown line span rights fuel (p - span) (a - span) else 0

/-- The run around the missed page within the line of its leaf (R363). -/
def leafRun (h : HostView) (level entry table page : Nat) : LookEntry :=
  let span := 512 ^ (level - 1)
  let first := page / span * span
  let line := leafLine h level table page
  let r := pteRights entry
  let up := runUp line span r 8 first (pteAddr entry)
  let down := runDown line span r 8 first (pteAddr entry)
  { size := level - 1, first := first - down * span, run := down + up + 1, pa := pteAddr entry - down * span
    r := bit r 0, w := bit r 1, a := bit r 2 }

/-- Whether two entries lie within one table and have equal size and rights. -/
def sameTable (a b : LookEntry) : Bool :=
  a.size = b.size && a.r = b.r && a.w = b.w && a.a = b.a &&
  decide (a.first / (512 * a.span) = b.first / (512 * b.span))

/-- Whether two entries map the pages they share, or would share, alike, and overlap or touch. -/
def continues (a b : LookEntry) : Bool :=
  decide (b.pa + a.first = a.pa + b.first) && decide (b.first ≤ a.first + a.run * a.span) &&
  decide (a.first ≤ b.first + b.run * b.span)

/-- Extends an entry by a run that continues it, when it may (R363: within one level-1 or level-2 table). A run that the
entry holds already leaves it as it is; the walk of page 10 in the example of the chapter shows that a run overlapping
the entry extends it. -/
def extendEntry (e run : LookEntry) : Option LookEntry :=
  if !sameTable e run || !continues e run then none
  else if 2 ≤ e.size then (if decide (e.first ≤ run.first) && decide (run.first + run.run * run.span ≤ e.first + e.run * e.span) then some e else none)
  else
    let first := min e.first run.first
    let last := max (e.first + e.run * e.span) (run.first + run.run * run.span)
    some { e with first := first, run := (last - first) / e.span, pa := min e.pa run.pa }

/-- Fills the look-aside: extends an entry held, or adds one, dropping the least recently used of a full set. -/
def fillLook (tile : Nat) (run : LookEntry) (l : List (Nat × LookEntry)) : List (Nat × LookEntry) :=
  match l.find? (fun p => p.1 = tile && (extendEntry p.2 run).isSome) with
  | some p => (tile, (extendEntry p.2 run).getD run) :: l.erase p
  | none =>
    let here := l.filter (fun p => p.1 = tile && lookSet p.2.size p.2.first = lookSet run.size run.first)
    let l := if 8 ≤ here.length then (match here.getLast? with | some v => l.erase v | none => l) else l
    (tile, run) :: l

/-! ### Faults (13 R369 to R372) -/

/-- Fails requesters with a status. -/
def HostPort.failAll (h : HostPort) (ws : List Waiter) (status : Nat) : HostPort :=
  { h with failed := h.failed ++ ws.map (fun w => (w, status)) }

/-- HAT_TIMEOUT in nanoseconds (13 R381). -/
def State.hatTimeoutNs (s : State) : Nat := s.live 0xC010 * 1000

/-- What a fault record says of a requester: ring, kind, sequence number, context (R370). -/
structure FaultInfo where
  ring : Option Nat := none
  kind : Nat := 0xFF
  seq : Nat := 0xFFFFFFFF
  ctx : Nat := 0xFFFFFFFF
  deriving DecidableEq, Repr

/-- The FaultInfo of a requester. -/
def State.faultInfo (s : State) (w : Waiter) : FaultInfo :=
  let ofJob (id : Nat) (ctx : Nat) : FaultInfo :=
    match s.sched.jobs.find? (fun j => j.id = id) with
    | some j => { ring := some j.ring, kind := j.kind, seq := j.seq, ctx := ctx }
    | none => {}
  match w with
  | .item j i =>
    match s.sched.jobs.find? (fun x => x.id = j) with
    | some x =>
      if isBatch x.kind then
        ofJob j (match x.items[i]? with
          | some it => ((x.entries[it.entry]?).map (fun e => e.handle)).getD 0xFFFFFFFF
          | none => 0xFFFFFFFF)
      else ofJob j (if [0x02, 0x03, 0x04, 0x20, 0x21, 0x30, 0x31, 0x32].contains x.kind then x.word 4 else 0xFFFFFFFF)
    | none => {}
  | .record j => ofJob j 0xFFFFFFFF
  | .intake r =>
    let d := (s.ring r).reading
    { ring := some r, kind := if d = [] then 0xFF else bits (d.getD 0 0) 7 0, seq := s.reg (ringReg r 0x3C) }
  | .mig slot => { ctx := ((s.store.migs.find? (fun m => m.slot = slot)).map (fun m => s.locHandle m.loc)).getD 0xFFFFFFFF }
  | .irq _ => {}
  | .castle => {}

/-- A log entry about a requester names its job and context (16 R444, log entry 96). -/
def FaultInfo.names (f : FaultInfo) (e : LogEntry) : LogEntry :=
  { e with ring := f.ring, seq := if f.ring.isSome then f.seq else 0, ctx := f.ctx }

/-- A log entry about work items names the first of them. -/
def State.ofItems (s : State) (l : List (Nat × Nat)) (e : LogEntry) : LogEntry :=
  match l with
  | [] => e
  | o :: _ => (s.faultInfo (.item o.1 o.2)).names e

/-- What a log entry about a request says of its owner. -/
def State.ownerInfo (s : State) : Owner → FaultInfo
  | .item j i _ => s.faultInfo (.item j i)
  | .mig slot => s.faultInfo (.mig slot)
  | .park j | .tokens j | .table j => s.faultInfo (.item j 0)
  | .record j | .handles j | .stats j => s.faultInfo (.record j)
  | .irq _ | .faultQueue | .castle => {}

/-- FAULT_ID (R370). -/
def HatFault.id (f : HatFault) : Nat := 65536 * f.gen + 256 * f.tile + f.place

/-- The 32 bytes of a fault record at queue index `x` (R370). -/
def HatFault.record (f : HatFault) (phase : Bool) : List Byte :=
  leBytes 4 (f.id + 2 ^ 24 * f.acc + 2 ^ 26 * f.cause + 2 ^ 28 * f.level + b2n phase * 2 ^ 31) ++
  leBytes 4 (match f.ring with | some r => r + 64 + 256 * f.kind | none => 256 * f.kind) ++
  leBytes 4 (if f.ring.isSome then f.seq else 0xFFFFFFFF) ++ leBytes 4 f.ctx ++
  leBytes 8 (4096 * f.page) ++ leBytes 8 f.opened

/-- Slots of the fault queue. -/
def State.fqSize (s : State) : Nat := 2 ^ bits (s.reg 0xC020) 5 1

/-- Whether the fault queue has room. -/
def State.fqRoom (s : State) : Bool :=
  decide ((s.reg 0xC024 + 2 ^ 32 - s.reg 0xC028) % 2 ^ 32 < s.fqSize)

/-- Writes the record of one fault and advances HAT_FQ_TAIL; asks for the message when IRQ_EN (R369). -/
def State.writeFault (s : State) (f : HatFault) : State :=
  let x := s.reg 0xC024
  let pa := s.reg64 0xC018 + 32 * (x % s.fqSize)
  let phase := (x >>> bits (s.reg 0xC020) 5 1) % 2 = 0
  let s := (s.movePhys f.tile true .faultQueue none pa 0 32 (f.record phase)).1
  let s := s.setReg 0xC024 ((x + 1) % 2 ^ 32)
  let s := { s with host := { s.host with faults := s.host.faults.map (fun g => if g = f then { g with written := true } else g) } }
  if bit (s.reg 0xC020) 6 then { s with errs := { s.errs with irqFault := true } } else s

/-- Writes the records that wait, oldest first, while there is room. -/
def State.drainFaults : Nat → State → State
  | 0, s => s
  | n + 1, s =>
    if !s.fqRoom then s else
    match s.host.faults.find? (fun f => !f.written) with
    | some f => (s.writeFault f).drainFaults n
    | none => s

/-- Whether a requester is an interrupt message, which waits on no fault (R372). -/
def Waiter.isIrq : Waiter → Bool
  | .irq _ => true
  | _ => false

/-- A fault holds the rings whose intake waits on it as one that waits for tracker entries (11 R303). -/
def State.holdIntake (s : State) (k : Walk) : State :=
  k.who.foldl (fun s p => match p.1 with | .intake r => s.hold r true [] | _ => s) s

/-- Opens a fault, joins an open one, or waits for a place (R369); with the queue out of service it fails (R381). An
interrupt message fails at once (R372). -/
def State.openFault (s : State) (k : Walk) (cause level : Nat) : State :=
  let s : State := { s with host := s.host.failAll ((k.who.filter (fun p => p.1.isIrq)).map Prod.fst) 0x40 }
  let k : Walk := { k with who := k.who.filter (fun p => !p.1.isIrq) }
  if !bit (s.reg 0xC020) 0 then { s with host := s.host.failAll (k.who.map Prod.fst) 0x40 }
  else
    let s := s.holdIntake k
    match s.host.faults.find? (fun f => f.tile = k.tile && f.page = k.page && f.acc = k.acc && f.both = k.both) with
    | some f =>
      let who := k.who.map (fun p => (p.1, p.2.getD (f.opened + s.hatTimeoutNs)))
      { s with host := { s.host with faults := s.host.faults.map (fun g => if g = f then { g with who := g.who ++ who } else g) } }
    | none =>
      let used := (s.host.faults.filter (fun f => f.tile = k.tile)).map (fun f => f.place)
      match findFrom (fun p => !used.contains p) 256 0 with
      | none => { s with host := { s.host with faultWait := s.host.faultWait ++ [k] } }
      | some p =>
        let key := k.tile * 256 + p
        let i := match k.who with | w :: _ => s.faultInfo w.1 | [] => {}
        let f : HatFault := { tile := k.tile, place := p, gen := tget 0 s.host.gens key % 256, acc := k.acc, both := k.both, cause := cause
                              level := level, page := k.page
                              who := k.who.map (fun q => (q.1, q.2.getD (s.now + s.hatTimeoutNs)))
                              opened := s.now, ring := i.ring, kind := i.kind, seq := i.seq, ctx := i.ctx }
        let s := { s with host := { s.host with faults := s.host.faults ++ [f], gens := tset 0 s.host.gens key (tget 0 s.host.gens key + 1) } }
        (s.bump 0xC04C 1).drainFaults 1

/-- Closes a fault: its place is free, and the oldest walk that waits for a place of the tile walks again. -/
def HostPort.closeFault (h : HostPort) (f : HatFault) : HostPort :=
  let h := { h with faults := h.faults.erase f }
  match h.faultWait.find? (fun k => k.tile = f.tile) with
  | some k => { h with faultWait := h.faultWait.erase k, walks := h.walks ++ [k] }
  | none => h

/-- The open fault that a FAULT_ID names: place, tile and generation all equal, [15:13] zero. -/
def HostPort.faultOf (h : HostPort) (id : Nat) : Option HatFault :=
  if bits id 15 13 ≠ 0 then none
  else h.faults.find? (fun f => f.place = bits id 7 0 && f.tile = bits id 12 8 && f.gen = bits id 23 16)

/-- A response naming no open fault or a stale generation (R371). -/
def State.staleResp (s : State) (id : Nat) : State :=
  s.report { severity := sevNote, cause := 0x22, unit := 0x06, tile := bits id 12 8, index := 1, addr := id }

/-- RETRY: every joined requester walks again, keeping its deadline (R371). -/
def State.retryFault (s : State) (id : Nat) : State :=
  match s.host.faultOf id with
  | none => s.staleResp id
  | some f =>
    let h := s.host.closeFault f
    { s with host := { h with walks := h.walks ++ [{ tile := f.tile, page := f.page, acc := f.acc, both := f.both
                                                     who := f.who.map (fun p => (p.1, some p.2)) }] } }

/-- FAIL: every joined requester fails with HOST_FAULT (R371, R372). -/
def State.failFault (s : State) (id : Nat) : State :=
  match s.host.faultOf id with
  | none => s.staleResp id
  | some f => { s with host := (s.host.closeFault f).failAll (f.who.map Prod.fst) 0x40 }

/-- The earliest deadline of a fault's requesters. -/
def HatFault.due (f : HatFault) : Nat := f.who.foldl (fun d p => min d p.2) (2 ^ 64)

/-- A JOB entry with cause HAT_TIMEOUT (R371). -/
def State.timeoutEntry (s : State) (tile page : Nat) (ws : List Waiter) : State :=
  s.report (((ws.head?.map s.faultInfo).getD {}).names { severity := sevJob, cause := 0x23, unit := 0x06, tile := tile, index := 1, addr := 4096 * page })

/-- The requesters whose deadline is the earliest fail; a fault left without requester closes (R371). -/
def State.faultTimeout (s : State) (tile place : Nat) : State :=
  match s.host.faults.find? (fun f => f.tile = tile && f.place = place) with
  | none => s
  | some f =>
    let out := f.who.filter (fun p => p.2 = f.due)
    let rest := f.who.filter (fun p => p.2 ≠ f.due)
    let h := if rest = [] then s.host.closeFault f
             else { s.host with faults := s.host.faults.map (fun g => if g = f then { g with who := rest } else g) }
    ({ s with host := h.failAll (out.map Prod.fst) 0x40 }).timeoutEntry tile f.page (out.map Prod.fst)

/-- A walk gives its page to those who asked for it. -/
def Walk.gives (k : Walk) (pa : Nat) : List Carry :=
  k.who.map (fun p => { who := p.1, tile := k.tile, page := k.page, acc := k.acc, both := k.both, pa := pa })

/-- One walk ends (R360, R363). -/
def State.endWalk (s : State) (k : Walk) (h : HostView) : State :=
  let s := { s with host := { s.host with walks := s.host.walks.erase k } }
  match walkFrom h k.page k.acc k.both 4 (s.reg64 0xC008 / 4096) with
  | .leaf level e table =>
    let run := leafRun h level e table k.page
    { s with host := { s.host with look := fillLook k.tile run s.host.look, carried := s.host.carried ++ k.gives (run.phys k.page) } }
  | .fault c l => s.openFault k c l
  | .bus => { s with host := s.host.failAll (k.who.map Prod.fst) 0x41 }
  | .silent => ({ s with host := s.host.failAll (k.who.map Prod.fst) 0x40 }).timeoutEntry k.tile k.page (k.who.map Prod.fst)

/-- The walks of a tile in flight: 64 at most, the others waiting for a slot (R364). -/
def HostPort.inFlight (h : HostPort) (tile : Nat) : List Walk := (h.walks.filter (fun k => k.tile = tile)).take 64

/-- HAT_WALK: every walk in flight of the page on the tile ends with the entries read. -/
def State.hatWalk (s : State) (tile page : Nat) (h : HostView) : State :=
  ((s.host.inFlight tile).filter (fun k => k.page = page)).foldl (fun s k => s.endWalk k h) s

/-! ### Invalidation (13 R366 to R368) -/

/-- The pages an INVAL covers, or none when it is refused. -/
def invalRange (aux addr : Nat) : Option (Nat × Nat) :=
  let scope := bits aux 1 0
  let size := bits aux 3 2
  let count := bits aux 31 12
  match scope with
  | 0 => if size = 3 ∨ addr % (4096 * 512 ^ size) ≠ 0 then none else some (addr / 4096, 512 ^ size)
  | 1 => if count = 0 ∨ addr % 4096 ≠ 0 then none else some (addr / 4096, count)
  | 2 => some (0, 2 ^ 52)
  | _ => none

/-- Whether a page lies in a range of pages. -/
def inPages (first n p : Nat) : Bool := decide (first ≤ p) && decide (p < first + n)

/-- Steps 1 to 3 of R367 on the look-aside, the carried translations and the walks. -/
def State.invalidate (s : State) (first n : Nat) : State :=
  let stale (t : List (Nat × Nat)) := t.filter (fun p => !inPages first n p.1)
  { s with
    host := { s.host with
      look := s.host.look.filter (fun p => !(decide (p.2.first < first + n) && decide (first < p.2.first + p.2.run * p.2.span)))
      carried := s.host.carried.filter (fun c => !inPages first n c.page) }
    sched := { s.sched with jobs := s.sched.jobs.map (fun j =>
      { j with items := j.items.map (fun i => { i with trans := stale i.trans }) }) }
    store := { s.store with migs := s.store.migs.map (fun m => { m with trans := stale m.trans }) } }

/-- INVAL arrives. -/
def State.takeInval (s : State) (q : Req) (aux addr : Nat) : State :=
  match invalRange aux addr with
  | none => s.send { typ := 0x21, tile := q.tile.toNat, module := q.module.toNat, tag := q.tag.toNat, status := 2 }
  | some (first, n) =>
    if 64 ≤ (s.host.invals.filter (fun i => i.q.tile = q.tile && i.q.module = q.module)).length then
      s.send { typ := 0x21, tile := q.tile.toNat, module := q.module.toNat, tag := q.tag.toNat, status := 2 }
    else
      let s := s.invalidate first n
      { s with host := { s.host with invals := s.host.invals ++ [⟨q, first, n⟩] } }

/-- Whether a host request issued under a covered translation waits for its response (R367 step 4). -/
def HostPort.covered (h : HostPort) (i : Inval) : Bool :=
  h.reqs.any (fun r => !r.dead && (match r.page with | some p => inPages i.first i.pages p | none => false))

/-- INVAL_ACK, once no covered request is outstanding. -/
def State.ackInval (s : State) (q : Req) : State :=
  match s.host.invals.find? (fun i => i.q = q) with
  | none => s
  | some i =>
    if s.host.covered i then s else
    (({ s with host := { s.host with invals := s.host.invals.erase i } }).send
      { typ := 0x21, tile := q.tile.toNat, module := q.module.toNat, tag := q.tag.toNat }).bump 0xC048 1

/-! ### Modules (13 R351) -/

/-- A module trains, possibly degraded. -/
def State.moduleUp (s : State) (t m : Nat) (degraded : Bool) : State :=
  let u := tget 0 s.host.up t
  let d := tget 0 s.host.degraded t
  { s with host := { s.host with up := tset 0 s.host.up t (if bit u m then u else u + 2 ^ m)
                                 degraded := tset 0 s.host.degraded t
                                   (if degraded then (if bit d m then d else d + 2 ^ m) else (if bit d m then d - 2 ^ m else d)) } }

/-- Requests that wait for a tag of a module that is down go to a module that is up (R351, R376). -/
def State.reroute (s : State) (t m : Nat) : State :=
  let mine (p : HReq × List Byte) : Bool := p.1.tile = t && p.1.module = m
  let ws := s.host.waiting.filter mine
  let s : State := { s with host := { s.host with waiting := s.host.waiting.filter (fun p => !mine p) } }
  ws.foldl (fun s p =>
    let u := s.host.via s.part.tiles t
    s.place { p.1 with tile := u, module := s.host.moduleFor u p.1.addr } p.2) s

/-- A module fails retraining. -/
def State.moduleDown (s : State) (t m : Nat) : State :=
  let u := tget 0 s.host.up t
  if !bit u m then s else
  let d := tget 0 s.host.degraded t
  let s := { s with host := { s.host with up := tset 0 s.host.up t (u - 2 ^ m)
                                          degraded := tset 0 s.host.degraded t (if bit d m then d - 2 ^ m else d) } }
  let s := s.reroute t m
  let s := s.report { severity := sevDegrade, cause := 0x26, unit := 0x07, tile := t, index := m }
  if (List.range s.part.tiles).all (fun t => tget 0 s.host.up t = 0) then
    s.block { severity := sevBlock, cause := 0x27, unit := 0x07, tile := t, index := m } 0x0B
  else s

/-! ### The commands -/

def execHostPacket (q : Req) (word0 aux : BitVec 32) (addr : BitVec 64) (s : State) : Out :=
  .next (s.whenever (headerOf word0.toNat aux.toNat addr.toNat).bad (s.badPacket q))

def execInval (q : Req) (aux : BitVec 32) (addr : BitVec 64) (s : State) : Out :=
  onTile s q.tile.toNat (s.takeInval q aux.toNat addr.toNat)

def execInvalAck (q : Req) (s : State) : Out := .next (s.ackInval q)

def execUcieModuleDown (tile : BitVec 5) (module : BitVec 2) (s : State) : Out :=
  onTile s tile.toNat (s.moduleDown tile.toNat module.toNat)

end Sys2Proof.Machine
end

