-- ==== Sys2Proof/Machine/Alloc.lean ====
section
/-! DEFINITION. Frames for those who need them: the values a job has bound, the four sources of 09 R252, quotas,
victims, the start of an eviction and of a recall, and the work that waits on them (09 R250 to R264). -/

namespace Sys2Proof.Machine

/-! ### Jobs and items -/

def State.job (s : State) (id : Nat) : Option Job := s.sched.jobs.find? (fun j => j.id = id)

/-- Applies a function to one job. -/
def State.modJob (s : State) (id : Nat) (f : Job → Job) : State :=
  { s with sched := { s.sched with jobs := s.sched.jobs.map (fun j => if j.id = id then f j else j) } }

/-- Applies a function to one item of a job. -/
def Job.modItem (j : Job) (i : Nat) (f : Item → Item) : Job :=
  { j with items := match j.items[i]? with | some x => j.items.set i (f x) | none => j.items }

def State.modItem (s : State) (id i : Nat) (f : Item → Item) : State := s.modJob id (fun j => j.modItem i f)

def State.item (s : State) (id i : Nat) : Option Item := (s.job id).bind (fun j => j.items[i]?)

/-- Notes a job whose last item has completed: records follow the order in which jobs complete (11 R319). -/
def State.noteComplete (s : State) (id : Nat) : State :=
  match s.job id with
  | some j =>
    if j.items.all (fun i => i.st = .done || i.st = .aborted) && !s.sched.completed.contains id then
      { s with sched := { s.sched with completed := s.sched.completed ++ [id] } }
    else s
  | none => s

/-- Receive windows that an item opened go with it: their credits and what they hold unread (03 R86). -/
def State.closeWindows (s : State) (id i : Nat) : State :=
  { s with cores := { s.cores with windows := s.cores.windows.filter (fun p => p.2.owner ≠ some (id, i)) } }

/-- The LIVE registers that an item binds at its start (06 R161, 09 R252). -/
def boundRegs : List Nat :=
  [0x8000, 0x8004, 0x8008, 0x800C, 0x8010, 0x8020, 0x8024, 0x8028, 0x802C, 0x310C]

/-- The LIVE values of a tile at a moment. -/
def State.snapshot (s : State) (tile : Nat) : Tab Word :=
  boundRegs.foldl (fun t o => tset 0#32 t o (BitVec.ofNat 32 (s.liveFor tile o))) []

/-- What governs an allocation: the bound values, the reserve right and the class. -/
structure AllocCtl where
  migEn : Bool
  budget : Nat
  age : Nat
  protect : Nat
  right : Bool
  cls : Nat
  quota : Nat
  /-- PGS_EVICT_BUDGET has passed for the requester. -/
  waited : Bool := false
  deriving DecidableEq, Repr

/-- AllocCtl from a snapshot. -/
def allocCtl (v : Tab Word) (right : Bool) (cls : Nat) (waited : Bool) : AllocCtl :=
  let r (o : Nat) := (tget 0#32 v o).toNat
  { migEn := bit (r 0x8000) 0, budget := r 0x8004, age := r 0x8008, protect := r 0x800C, right := right, cls := cls
    quota := r (0x8020 + 4 * cls), waited := waited }

/-- Whether a class may hold `n` frames for an item that has been charged `own` of them (09 R255): values above 16,777,216 impose no
limit (R267). -/
def State.quotaHolds (s : State) (c : AllocCtl) (n own : Nat) : Bool :=
  decide (n ≤ own) || decide (16777216 < c.quota) || decide (tget 0 s.store.used c.cls + (n - own) ≤ c.quota)

/-! ### Eviction (09 R258, R259) -/

/-- Blocks that are frame lists of prefix nodes, as keys tile × 2^20 + block. -/
def State.listBlocks (s : State) : List Nat :=
  s.store.nodes.filterMap (fun p => if p.2.state = 0 then none else some (1048576 * s.listTile p.1 + p.2.listBlock))

/-- The map entry of the one stream that names a frame of REFCNT 1. -/
def State.streamLoc (s : State) (f : Nat) : Option Nat :=
  (s.mapsOf f).find? (fun k => !s.listBlocks.contains (k / 256))

/-- Cold records of a tile in use: listed ones and those that evictions in flight have taken. -/
def State.coldUsed (s : State) (t : Nat) : List Nat :=
  let listed := (s.store.cold.filter (fun p => p.1 / 8388608 = t)).map (fun p => p.1 % 8388608)
  let taken := (s.store.migs.filter (fun m => m.evict && m.home = t)).map (fun m => m.record)
  (listed ++ taken).mergeSort (· ≤ ·)

/-- The lowest free cold record of a tile (R259). -/
def State.freeRecord (s : State) (t : Nat) : Option Nat :=
  let r := firstFree (s.coldUsed t) 0
  if r < s.coldLimit then some r else none

/-- Host address of a cold record (R259). -/
def State.coldAddr (s : State) (t r : Nat) : Nat := s.reg64 0x8040 + (t * s.coldSlots + r) * 0x12000

/-- Where an evictable frame is mapped, R258's age and protection apart: its map entry. -/
def State.evictable (s : State) (f : Nat) : Option Nat :=
  let x := s.frame f
  if x.st = .isSealed ∧ x.refcnt = 1 ∧ x.pincnt = 0 ∧ !x.published ∧ frameLocal f < s.frameLimit ∧ s.part ≠ .aeS then
    match s.streamLoc f with
    | some k => if (s.freeRecord (k / 268435456)).isSome then some k else none
    | none => none
  else none

/-- Age and protection of R258. -/
def State.oldEnough (s : State) (age protect f : Nat) : Bool :=
  let x := s.frame f
  !bit protect x.cls && decide (age ≤ (s.use + 2 ^ 32 - x.lastUse) % 2 ^ 32)

/-- Least LAST_USE first, ties to the lower frame number. -/
def oldest (l : List (Nat × Frame)) : Option Nat :=
  (l.foldl (fun (b : Option (Nat × Frame)) p => match b with
    | none => some p
    | some q => if p.2.lastUse < q.2.lastUse ∨ (p.2.lastUse = q.2.lastUse ∧ p.1 < q.1) then some p else some q) none).map Prod.fst

/-- The next frame to evict on a tile (R258). -/
def State.victim (s : State) (t age protect : Nat) : Option Nat :=
  oldest (s.store.frames.filter (fun p => frameTile p.1 = t && (s.evictable p.1).isSome && s.oldEnough age protect p.1))

/-- Starts an eviction: the frame is MOVING, its charge released, the lowest free record taken (R226, R232, R254,
R259), also where the transfer must wait for a place (R265, log entry 243). Under MIRROR the partner is told, in a group of its own (15
R419, R423). -/
def State.startEvict (s : State) (f : Nat) (why : MigWhy) (order : Nat) : State :=
  match s.evictable f with
  | none => s
  | some k =>
    let home := k / 268435456
    let r := (s.freeRecord home).getD 0
    let x := s.frame f
    let stream := match s.locOwner k with | some o => o.2.1 | none => 0
    let told := s.ledgerOn && decide (s.twin.mode = 2) && decide (frameLocal f < s.mirrorFrames)
    let m : Mig := { slot := s.store.nextMig, evict := true, frame := f, loc := k, stream := stream, page := x.page.index
                     home := home, record := r, host := s.coldAddr home r, why := why, order := order, acked := !told }
    let s := s.uncharge f
    let s := s.setFrame f { (s.frame f).next with st := .moving }
    let s := { s with store := { s.store with migs := s.store.migs ++ [m], nextMig := s.store.nextMig + 1 } }
    if !told then s else
    let o := blockOf k
    s.sendDeltas [.evict (BitVec.ofNat 24 f) (BitVec.ofNat 5 home) (BitVec.ofNat 23 r) (BitVec.ofNat 20 o.2.1) (BitVec.ofNat 8 o.2.2)]
      (backgroundGroup (s.locHandle k))

/-! ### The four sources (09 R252) -/

/-- The node that step 2 removes for a frame of a tile: SEALED, REFCNT 0, PINCNT 0, PUBLISHED, in a LIVE unlocked node
without child; least LAST_USE first, ties to the lower frame number. -/
def State.reclaimNode (s : State) (t : Nat) : Option Nat :=
  let cands := (s.store.nodes.filter (fun p => p.2.state = 2 && p.2.locked = 0 && p.2.children = 0)).flatMap (fun p =>
    (s.nodeFrames p.1).filterMap (fun sf =>
      let x := s.frame sf.2
      if frameTile sf.2 = t ∧ x.st = .isSealed ∧ x.refcnt = 0 ∧ x.pincnt = 0 ∧ x.published then some (p.1, sf.2, x) else none))
  match oldest (cands.map (fun c => (c.2.1, c.2.2))) with
  | some f => (cands.find? (fun c => c.2.1 = f)).map (fun c => c.1)
  | none => none

/-- Steps 1 and 2, which counts the frame that step 2 gives. Nodes removed stay removed where no frame comes of it: it may have refilled
the reserve. -/
def State.takeOrReclaim : Nat → Nat → State → Option Nat × State
  | 0, t, s => match s.takeFree t with | some r => (some r.1, r.2) | none => (none, s)
  | fuel + 1, t, s =>
    match s.takeFree t with
    | some r => (some r.1, r.2)
    | none =>
      match s.reclaimNode t with
      | none => (none, s)
      | some n =>
        let r := ((s.removeNode n).bump 0xA028 1).takeOrReclaim fuel t
        (r.1, if r.1.isSome then r.2.bumpTile t 0x154 1 else r.2)

/-- A frame of a tile that an eviction has given to a requester that waits (R266). -/
def State.takeGranted (s : State) (t : Nat) (who : MigWhy) : Option (Nat × State) :=
  (s.store.granted.find? (fun p => p.1 = who && frameTile p.2 = t)).map (fun p =>
    (p.2, { s with store := { s.store with granted := s.store.granted.erase p } }))

/-- A requester that no longer waits: the frames it was given go to the free list. -/
def State.leaveAlloc (s : State) (who : MigWhy) : State :=
  let fs := (s.store.granted.filter (fun p => p.1 = who)).map Prod.snd
  let s := { s with store := { s.store with allocWait := s.store.allocWait.filter (fun p => p.2 ≠ who)
                                            granted := s.store.granted.filter (fun p => p.1 ≠ who) } }
  fs.foldl State.shelve s

/-- A requester waits for one more frame of a tile. -/
def State.joinAlloc (s : State) (t : Nat) (who : MigWhy) (n : Nat) : State :=
  if n < (s.store.allocWait.filter (fun p => p.1 = t && p.2 = who)).length then s
  else { s with store := { s.store with allocWait := s.store.allocWait ++ [(t, who)] } }

/-- Step 4: a frame of the reserve. -/
def State.takeReserve (s : State) (t : Nat) : Option (Nat × State) :=
  match s.reserveOf t with
  | f :: rest => some (f, { s with store := { s.store with reserve := tset [] s.store.reserve t rest } })
  | [] => none

/-- Evictions in flight that a requester started on a tile. -/
def State.evictionsOf (s : State) (t : Nat) (why : MigWhy) : Nat :=
  (s.store.migs.filter (fun m => m.evict && m.why = why && frameTile m.frame = t)).length

/-- What one need for a frame gives. -/
inductive Got where
  | frame (f : Nat) (fromReserve : Bool) (s : State)
  | wait (s : State)
  | none (s : State)

/-- Takes one frame of a tile by the sources of R252. `lack` is how many needs of this attempt wait on the tile. -/
def State.allocFrame (s : State) (c : AllocCtl) (t lack : Nat) (who : MigWhy) : Got :=
  match s.takeGranted t who with
  | some r => .frame r.1 false r.2
  | none =>
    match s.takeOrReclaim (s.liveNodes.length + 1) t with
    | (some f, s) => .frame f false s
    | (none, s) =>
      let canEvict := c.migEn && decide (0 < c.budget) && !c.waited
      if canEvict && decide (lack < s.evictionsOf t who) then .wait (s.joinAlloc t who lack)
      else match (if canEvict then s.victim t c.age c.protect else none) with
        | some v => .wait ((s.startEvict v who 0).joinAlloc t who lack)
        | none =>
          if c.right then
            match s.takeReserve t with
            | some r => .frame r.1 true r.2
            | none => .none s
          else .none s

/-- A frame needed, and for what: the tile it is sought on. -/
structure FrameNeed where
  stream : Nat
  page : Nat
  tile : Nat
  use : AcqUse
  deriving DecidableEq, Repr

/-- Outcome of an all-or-nothing acquisition of frames: all, a wait on evictions, or none to be had on a tile. -/
inductive Frames where
  | ok (l : List Acq) (s : State)
  | wait (s : State)
  | none (tile : Nat) (s : State)

/-- Gives an acquired frame back: one of the reserve returns to it, unless it has been refilled meanwhile (R253). -/
def State.giveBack (s : State) (a : Acq) : State :=
  let t := frameTile a.frame
  let s := { s with store := { s.store with held := s.store.held.erase a.frame } }
  let x := s.frame a.frame
  if x.st = .reserved then
    if (s.reserveOf t).length < s.reg 0x8014 then
      { s with store := { s.store with reserve := tset [] s.store.reserve t (a.frame :: s.reserveOf t) } }
    else (s.setFrame a.frame { x.next with st := .free }).shelve a.frame
  else s.shelve a.frame

/-- Tries every need in turn; what was taken, and the tiles that wait or have none. -/
def State.tryFrames (s : State) (c : AllocCtl) (who : MigWhy) :
    List FrameNeed → List Acq → List Nat → Option Nat → List Acq × List Nat × Option Nat × State
  | [], got, waits, fail => (got, waits, fail, s)
  | n :: rest, got, waits, fail =>
    match s.allocFrame c n.tile (waits.filter (· = n.tile)).length who with
    | .frame f r s' =>
      let s' := { s' with store := { s'.store with held := s'.store.held ++ [f] } }
      s'.tryFrames c who rest (got ++ [⟨n.stream, n.page, f, n.use, r⟩]) waits fail
    | .wait s' => s'.tryFrames c who rest got (n.tile :: waits) fail
    | .none s' => s'.tryFrames c who rest got waits (fail.or (some n.tile))

/-- A frame granted by R252 is counted, and apart where the reserve gave it (R268). -/
def State.countGrant (s : State) (f : Nat) (reserve : Bool) : State :=
  let s := s.bumpTile (frameTile f) 0x150 1
  if reserve then s.bumpTile (frameTile f) 0x160 1 else s

/-- Acquires frames, all or nothing (09 R251). Grants are counted when all are there. -/
def State.acquireFrames (s : State) (c : AllocCtl) (who : MigWhy) (ns : List FrameNeed) : Frames :=
  let r := s.tryFrames c who ns [] [] none
  let back := r.1.foldr (fun a s => s.giveBack a) r.2.2.2
  match r.2.2.1 with
  | some t => .none t (back.leaveAlloc who)
  | none =>
    if r.2.1 ≠ [] then .wait back
    else .ok r.1 (r.1.foldl (fun s a => s.countGrant a.frame a.reserve) (r.2.2.2.leaveAlloc who))

/-! ### Recall (09 R262) -/

/-- Starts the recall of a cold record into an acquired frame, which is MOVING (R226). -/
def State.startRecall (s : State) (a : Acq) (k key page : Nat) (why : MigWhy) (order : Nat) : State :=
  let home := k / 268435456
  let cold := (tget none s.store.cold key).getD {}
  let m : Mig := { slot := s.store.nextMig, evict := false, frame := a.frame, loc := k, stream := a.stream, page := page
                   home := home, record := key % 8388608, host := cold.addr, why := why, order := order, acked := true }
  let x := s.frame a.frame
  let s := s.setFrame a.frame { x.next with st := .moving, cls := cold.cls, reserve := a.reserve }
  { s with store := { s.store with migs := s.store.migs ++ [m], nextMig := s.store.nextMig + 1
                                   held := s.store.held.erase a.frame } }

/-- The recall in flight of a map entry (R263). -/
def State.recallAt (s : State) (k : Nat) : Option Mig := s.store.migs.find? (fun m => !m.evict && m.loc = k && !m.released)

/-- A later requester waits on a recall in flight. -/
def State.joinRecall (s : State) (slot : Nat) (w : Nat × Nat) : State :=
  { s with store := { s.store with migs := s.store.migs.map (fun m =>
      if m.slot = slot ∧ !m.waiters.contains w ∧ m.why ≠ .item w.1 w.2 then { m with waiters := m.waiters ++ [w] } else m) } }

/-- Whether an item waits on a migration: one it started, or a recall it joined, or any move of a frame it needs. -/
def State.migBlocks (s : State) (id i : Nat) : Bool :=
  s.store.migs.any (fun m => m.why = .item id i || m.waiters.contains (id, i))

/-- An item whose migrations have all ended is ready again (R231). -/
def State.wake (s : State) (id i : Nat) : State :=
  if s.migBlocks id i then s else s.modItem id i (fun x => if x.st = .evictWait then { x with st := .waiting } else x)

/-! ### Migrations move (09 R259, R265, 13 R376) -/

/-- Replaces a migration. -/
def State.putMig (s : State) (m : Mig) : State :=
  { s with store := { s.store with migs := s.store.migs.map (fun x => if x.slot = m.slot then m else x) } }

def State.mig (s : State) (slot : Nat) : Option Mig := s.store.migs.find? (fun m => m.slot = slot)

def State.dropMig (s : State) (slot : Nat) : State :=
  { s with store := { s.store with migs := s.store.migs.filter (fun m => m.slot ≠ slot) } }

/-- Migrations in flight of a tile; per module. -/
def State.inFlight (s : State) (t : Nat) : Nat :=
  (s.store.migs.filter (fun m => m.issued && frameTile m.frame = t)).length

def State.inFlightOn (s : State) (t mod : Nat) : Nat :=
  (s.store.migs.filter (fun m => m.issued && frameTile m.frame = t && m.module = mod)).length

/-- The lowest module with fewer than two migrations (R265). -/
def State.migModule (s : State) (t : Nat) : Option Nat :=
  (s.host.modulesUp (s.host.via s.part.tiles t)).find? (fun m => decide (s.inFlightOn t m < 2))

/-- Notes that the access of a migration failed (13 R372): its status, and for an eviction the write to repeat. -/
def Mig.failedAt (m : Mig) (off n status : Nat) : Mig :=
  if m.evict then { m with status := status, redo := m.redo ++ [(off, n)], fails := tset 0 m.fails off (tget 0 m.fails off + 1) }
  else { m with status := status }

/-- Moves a range of a migration through its translations, and counts the responses to come. -/
def State.moveMig (s : State) (m : Mig) (off n : Nat) : State :=
  let data := if m.evict then ((s.frame m.frame).bytes.drop off).take n else []
  let r := s.moveVirt (frameTile m.frame) m.evict (.mig m.slot) m.trans (m.host + off) off n data (some m.module)
  r.1.putMig { m with left := m.left + r.2 }

/-- Starts the transfer of one migration, when its tile and modules have room, no recall reads the pool slot it writes, and
its pages are translated; needs both rights on the pool (13 R361). -/
def State.issueMig (s : State) (m : Mig) : State :=
  let t := frameTile m.frame
  let sameSlot (r : Mig) : Bool := m.evict && !r.evict && r.home = m.home && r.record = m.record
  if m.issued || decide (m.status ≠ 0) || decide (8 ≤ s.inFlight t) || s.store.migs.any sameSlot then s else
  match s.migModule t with
  | none => s
  | some mo =>
    match s.translateAll t (.mig m.slot) (needs m.host 73728 (if m.evict then 1 else 0) true) with
    | .ok tr s' => s'.moveMig { m with issued := true, trans := tr, module := mo } 0 73728
    | .wait s' => s'
    | .failed e s' => s'.putMig (m.failedAt 0 73728 e)

/-- Starts every migration that may start, oldest first. -/
def State.pump (s : State) : State := s.store.migs.foldl (fun s m => s.issueMig ((s.mig m.slot).getD m)) s

end Sys2Proof.Machine
end

