-- ==== Sys2Proof/Machine/Media.lean ====
section
/-! DEFINITION. Errors that take effect at once: errors during errors (16 R447), quarantine (R457 to R460),
uncorrectable frames and lost pages (R453, R454), retries (R450). -/

namespace Sys2Proof.Machine

/-! ### Unit instances (16 R447) -/

/-- INDEX as it counts for an instance: the bank of a control SRAM, the channel of page memory. -/
def instIndex (unit index : Nat) : Nat := if unit = 2 then index % 8 else if unit = 3 then index % 64 else index

/-- Whether an entry belongs to an instance. -/
def LogEntry.ofInst (e : LogEntry) (u t i : Nat) : Bool := e.unit = u && e.tile = t && instIndex e.unit e.index = i

/-- Errors of an instance whose handling has not ended. -/
def State.unfinishedOf (s : State) (u t i : Nat) : List Unfinished :=
  s.errs.unfinished.filter (fun x => x.unit = u && x.tile = t && x.index = i)

/-- Ends the handling of errors by what ended them. -/
def State.finish (s : State) (ref : Nat) : State :=
  { s with errs := { s.errs with unfinished := s.errs.unfinished.filter (fun x => x.ref ≠ ref) } }

/-! ### Contexts that lose data (10 R271, 16 R454) -/

/-- A context loses a page: ACTIVE enters FAILED, and LOST_PAGE keeps the lower index. -/
def State.failContext (s : State) (row page : Nat) : State :=
  let x := s.row row
  if x.state = 1 then s.setRow row { x with state := 4, lostPage := page }
  else if x.state = 4 then s.setRow row { x with lostPage := min x.lostPage page }
  else s

/-- Rows in use. -/
def State.rowsInUse (s : State) : List Nat := (s.store.rows.filter (fun p => p.2.state ≠ 0)).map Prod.fst

/-- Streams of a row, with their directory entries. -/
def State.streamsOf (s : State) (row : Nat) : List (Nat × DirEntry) :=
  (s.store.dir.filter (fun p => p.1 / 256 = row && p.2.valid)).map (fun p => (p.1 % 256, p.2))

/-- Whether a row has a stream in a layer of a band. -/
def State.rowInBand (s : State) (b row : Nat) : Bool := (s.streamsOf row).any (fun d => s.layerBand d.2.layer = some b)

/-! ### Quarantine (16 R457, R458, R460) -/

/-- Bands whose tiles by CFG_BAND include a tile. -/
def State.bandsOf (s : State) (t : Nat) : List Nat := (List.range 32).filter (fun b => (s.bandTiles b).contains t)

/-- BAND_REMAP of the image (14 R390: FLAGS bit 1). -/
def State.bandRemap (s : State) : Bool := bit s.cfg.image.flags 1

/-- Fails every context with a stream in a layer of the band, one entry each (R458). -/
def State.bandFails (s : State) (t b : Nat) : State :=
  let before := s.store
  let s := { s with errs := { s.errs with bandOut := insertKey b s.errs.bandOut } }
  let s := (s.rowsInUse.filter (s.rowInBand b)).foldl (fun s r =>
    (s.failContext r 0).report { severity := sevContext, cause := 0x0D, unit := 0x0B, tile := t, ctx := s.handle r }) s
  s.sendGroup [] before (backgroundGroup 0xFFFFFFFF)

/-- Running items of batch jobs on a tile whose band is out of service end with MEDIA_UNCORRECTABLE (log entry 40). -/
def State.stopItems (s : State) (t : Nat) : State :=
  { s with sched := { s.sched with jobs := s.sched.jobs.map (fun j => if !isBatch j.kind then j else
      { j with items := j.items.map (fun i => if i.tile = t ∧ i.st = .running then { i with st := .computed, status := 0x50 } else i) }) } }

/-- The cores and scratchpads of a tile lose their power and contents (17 R473, R474). -/
def State.gate (s : State) (t : Nat) : State :=
  { s with
    health := { s.health with tiles := tset {} s.health.tiles t { tget {} s.health.tiles t with power := 2 } }
    cores := { s.cores with spd := s.cores.spd.filter (fun p => p.1 / 65536 / 4096 ≠ t)
                            windows := s.cores.windows.filter (fun p => p.1 / 8 / 4096 ≠ t)
                            cache := s.cores.cache.filter (fun p => p.1 / 128 / 4096 ≠ t) } }

/-- The lowest-numbered in-service tile other than the anchor. -/
def State.nextSpare (s : State) : Option Nat :=
  (List.range s.part.tiles).find? (fun t => s.inService t && t ≠ s.errs.anchor)

/-- Starts building a spare anchor (R460). -/
def State.buildSpare (s : State) : State :=
  match s.nextSpare with
  | some t => { s with errs := { s.errs with spare := t, spareValid := false, spareBuilding := true } }
  | none => { s with errs := { s.errs with spareValid := false, spareBuilding := false } }

/-- Anchor roles after a tile goes out (R460). The BLOCK entry carries cause TILE_QUARANTINE and the tile controller as its
unit (log entry 220). -/
def State.anchorAfter (s : State) (t : Nat) : State :=
  if t = s.errs.anchor then
    if !s.errs.spareValid then
      s.block { severity := sevBlock, cause := 0x0C, unit := 0x0B, tile := t } 0x0B
    else { s with errs := { s.errs with takeover := true } }
  else if t = s.errs.spare ∧ (s.errs.spareValid ∨ s.errs.spareBuilding) then s.buildSpare
  else s

/-- Quarantines a tile (R457, R458); an error of a tile already quarantined is logged only (R448). In AE1 what would
quarantine tile 0 is of BLOCK severity (01 R24). -/
def State.quarantine (s : State) (t : Nat) : State :=
  if s.errs.tileOut.contains t then s
  else if s.part = .ae1 then s.block { severity := sevBlock, cause := 0x0C, unit := 0x0B, tile := t } 0x0B
  else
  let s := s.report { severity := sevTile, cause := 0x0C, unit := 0x0B, tile := t }
  let others (b : Nat) := (s.bandTiles b).any (fun u => u ≠ t && !s.errs.tileOut.contains u)
  let remap := s.bandRemap && (s.bandsOf t).all others && s.bandsOf t ≠ []
  let s := { s with errs := { s.errs with
    tileOut := insertKey t s.errs.tileOut
    tileState := tset 0 s.errs.tileState t (if remap then 1 else 2)
    relocating := if remap then s.errs.relocating ++ [t] else s.errs.relocating } }
  let s := if remap then s else (s.bandsOf t).foldl (fun s b => s.bandFails t b) (s.stopItems t)
  let s := if remap then s else { s with twin := { s.twin with deadTiles := insertKey t s.twin.deadTiles } }
  (s.gate t).anchorAfter t

/-- A fault of TILE severity: logged, the tile quarantined; in AE1 the fault itself is of BLOCK severity (01 R24). -/
def State.tileFault (s : State) (e : LogEntry) : State :=
  if s.part = .ae1 then s.block e 0x0B else (s.report { e with severity := sevTile }).quarantine e.tile

/-- Marks the entries of an instance that are part of an escalation (R447). -/
def markEscalated (u t i : Nat) (l : List LogEntry) : List LogEntry :=
  l.map (fun e => if e.ofInst u t i then { e with escalated := true } else e)

/-- Reports an error at a unit instance (R447). `ref` names what will end its handling; none where it ends at once.
The third error of an instance with two unfinished escalates its tile; a global unit of the anchor escalates tile 0. -/
def State.raise (s : State) (e : LogEntry) (ref : Option Nat) : State :=
  let i := instIndex e.unit e.index
  let open_ := s.unfinishedOf e.unit e.tile i
  if e.severity ≠ sevBlock ∧ 2 ≤ open_.length then
    let s := s.report { e with escalated := true }
    let s := { s with errs := { s.errs with
      fifo := markEscalated e.unit e.tile i s.errs.fifo
      unfinished := s.errs.unfinished.filter (fun x => !(x.unit = e.unit && x.tile = e.tile && x.index = i)) } }
    s.quarantine e.tile
  else
    let s := s.report e
    match ref with
    | none => s
    | some r => { s with errs := { s.errs with unfinished := s.errs.unfinished ++ [⟨e.unit, e.tile, i, e.severity, r⟩] } }

/-! ### Lost pages (16 R454) -/

/-- ADDRESS of a PAGE_LOST entry. -/
def lostAddr (frame page stream : Nat) : Nat := frame % 2 ^ 24 + page % 2 ^ 14 * 2 ^ 32 + stream % 256 * 2 ^ 46

/-- One context loses one page. -/
def State.losePage (s : State) (row stream page tile frame : Nat) : State :=
  (s.failContext row page).report
    { severity := sevContext, cause := 0x0B, unit := 0x04, tile := tile, ctx := s.handle row, addr := lostAddr frame page stream }

/-- The frame keeps its map entries; each context that maps it fails, and a node that lists it is removed (R454). -/
def State.loseFrame (s : State) (f : Nat) : State :=
  let owners := (s.mapsOf f).filterMap (fun k => s.locOwner k)
  let s := owners.foldl (fun s o => s.losePage o.1 o.2.1 o.2.2 (frameTile f) f) s
  let lists := (s.mapsOf f).map (· / 256)
  let nodes := (s.store.nodes.filter (fun p => p.2.state ≠ 0 && lists.contains (1048576 * s.listTile p.1 + p.2.listBlock))).map Prod.fst
  nodes.foldl State.removeOrWait s

/-! ### Uncorrectable frames (16 R453) -/

/-- Takes a frame off the free list or the reserve of its tile, or from the requester that waits for it, where it stands there. -/
def State.unshelve (s : State) (f : Nat) : State :=
  let t := frameTile f
  let n := tget 0 s.store.next t
  let s := if frameLocal f < n then s else
    { s with store := { s.store with
      freed := tset [] s.store.freed t (tget [] s.store.freed t ++ ((List.range (frameLocal f - n)).map (fun i => frameNum t (n + i))).filter (fun g => (s.frame g).st = .free))
      next := tset 0 s.store.next t (frameLocal f + 1) } }
  { s with store := { s.store with granted := s.store.granted.filter (fun p => p.2 ≠ f)
                                   freed := tset [] s.store.freed t ((tget [] s.store.freed t).erase f)
                                   reserve := tset [] s.store.reserve t ((s.reserveOf t).erase f) } }

/-- A frame becomes BAD, charged to its class (09 R254), and its repair test starts (R226, R453). A FREE one stays FREE, off the lists,
until its test has passed (R226). -/
def State.makeBad (s : State) (f : Nat) : State :=
  let x := s.frame f
  let s := if x.st = .free then s else (if x.charged then s else s.chargeFrame f x.cls)
  let s := if x.st = .free then s else s.setFrame f { (s.frame f).next with st := .bad }
  { s with errs := { s.errs with repairTests := insertKey f s.errs.repairTests } }

/-- Whether an uncorrectable page has a copy with the twin (R453). -/
def State.mirrorHolds (s : State) (f : Nat) : Bool :=
  decide (s.twin.mode = 2) && (s.twin.st = .paired || s.twin.st = .syncing || s.twin.st = .suspect) &&
  decide (frameLocal f < s.mirrorFrames)

/-- Asks the twin for a page; in SUSPECT the request waits (R453). -/
def State.askRefetch (s : State) (f : Nat) : State := if s.twin.st = .suspect then s else s.ledgerSend [.refetch f]

/-- A frame by steps 1, 2 and 4 of 09 R252, whatever the reserve right, counted as a grant (09 R268). -/
def State.takeAny (s : State) (t : Nat) : Option (Nat × Bool × State) :=
  match s.takeOrReclaim (s.liveNodes.length + 1) t with
  | (some f, s) => some (f, false, s.countGrant f false)
  | (none, s) => (s.takeReserve t).map (fun r => (r.1, true, r.2.countGrant r.1 true))

/-- The page of a BAD frame is refetched into another frame of its tile, or it is lost (R453). The flag says which. -/
def State.refetchOrLose (s : State) (f : Nat) : State × Bool :=
  match (if s.mirrorHolds f then s.takeAny (frameTile f) else none) with
  | some (g, r, s') =>
    let x := s'.frame g
    let s' := s'.setFrame g { x.next with st := .moving, reserve := r }
    let s' := { s' with errs := { s'.errs with refetching := s'.errs.refetching ++ [(f, g)] } }
    (s'.askRefetch f, true)
  | none => (s.loseFrame f, false)

/-- Substitutes a frame in what items have acquired. -/
def swapAcq (f g : Nat) (r : Bool) (i : Item) : Item :=
  { i with acq := i.acq.map (fun a => if a.frame = f then { a with frame := g, reserve := r } else a) }

/-- A target of a move goes bad: the move restarts into another frame from its source (R453). -/
def State.restartMove (s : State) (f : Nat) : State :=
  let x := s.frame f
  let was := x.charged
  let s := s.uncharge f
  let s := s.makeBad f
  let got := s.takeAny (frameTile f)
  match s.store.migs.find? (fun m => !m.evict && m.frame = f) with
  | some m =>
    match got with
    | some (g, r, s') =>
      let s' := s'.setFrame g { (s'.frame g).next with st := .moving, cls := x.cls, reserve := r }
      let n : Mig := { m with slot := s'.store.nextMig, frame := g, left := 0, got := [], status := 0, issued := false, trans := [] }
      let s' := s'.dropMig m.slot
      { s' with store := { s'.store with migs := s'.store.migs ++ [n], nextMig := s'.store.nextMig + 1 } }
    | none => s.putMig { m with status := 0x20 }
  | none =>
    match s.errs.refetching.find? (fun p => p.2 = f) with
    | some p =>
      let s := { s with errs := { s.errs with refetching := s.errs.refetching.erase p } }
      (s.refetchOrLose p.1).1
    | none =>
      match got with
      | some (g, r, s') =>
        let s' := s'.setFrame g { (s'.frame g).next with st := x.st, reserve := r }
        let s' := if was then s'.chargeFrame g x.cls else s'
        let held := s'.store.held.contains f
        { s' with
          store := { s'.store with held := if held then g :: s'.store.held.erase f else s'.store.held }
          sched := { s'.sched with jobs := s'.sched.jobs.map (fun j => { j with items := j.items.map (swapAcq f g r) }) } }
      | none => s

/-- Abandons the evictions of a frame before their map switch. -/
def State.abandonEvictions (s : State) (f : Nat) : State :=
  { s with store := { s.store with migs := s.store.migs.filter (fun m => !(m.evict && m.frame = f)) } }

/-- A mirror frame goes bad while the partner's EVICT is being written from it, or a RECALL read into it: the EVICT is
answered with NAK (15 R423). -/
def State.endMirror (s : State) (f : Nat) : State :=
  match s.store.migs.find? (fun m => m.frame = f) with
  | none => s
  | some m =>
    let x := s.frame f
    let s := (s.dropMig m.slot).setFrame f { x with pincnt := 0 }
    match m.evict, m.why with
    | true, .mirror own => s.tell (.evictNak own)
    | _, _ => s

/-- The severity of the outcome of R453, and the state after it. A page that was released while its eviction was in flight
has no context left to lose it, and no reference (09 R266, log entry 93). -/
def State.badOutcome (s : State) (f : Nat) : Nat × State :=
  let x := s.frame f
  let evicting := s.store.migs.any (fun m => m.evict && m.frame = f)
  if s.store.held.contains f ∨ (x.st = .moving ∧ !evicting) then (sevNote, s.restartMove f)
  else match x.st with
  | .free | .reserved => (sevNote, (s.unshelve f).makeBad f)
  | .mirror =>
    let s := s.endMirror f
    (sevNote, { s.makeBad f with errs := { (s.makeBad f).errs with resending := insertKey f s.errs.resending } })
  | .bad => (sevNote, s)
  | _ =>
    let gone := s.store.migs.any (fun m => m.evict && m.frame = f && m.released)
    let s := if evicting then (s.abandonEvictions f).chargeFrame f x.cls else s
    if gone then (sevContext, (s.setFrame f { s.frame f with refcnt := 0 }).makeBad f) else
    let r := (s.makeBad f).refetchOrLose f
    (if r.2 then sevNote else sevContext, r.1)

/-- An uncorrectable word of a frame (R453): logged once under the unit that found it, then handled. The PAGE_LOST
entries follow that entry. -/
def State.frameBad (s : State) (f : Nat) (unit tile index addr : Nat) : State :=
  let sev := (s.badOutcome f).1
  let s := s.raise { severity := sev, cause := 0x02, unit := unit, tile := tile, index := index, addr := addr }
    (if (s.frame f).st = .bad then none else some f)
  ((s.badOutcome f).2).sendGroup [] s.store (backgroundGroup 0xFFFFFFFF)

/-! ### Retries (16 R450) -/

/-- Clears what a running item has computed, keeping bindings, pins and resources. What the atomic units have applied and what
other contributions have joined stands (07 R205, R206); a merge core is chosen again (12 R347). -/
def Item.again (i : Item) : Item :=
  { i with st := .running, status := 0, flags := 0#6, repeats := 0, staged := [], rows := []
           grads := i.grads.filter (fun x => decide (1 < x.n)), reached := [], bwd := i.bwd.map (fun w => { w with nodes := [] })
           masked := 0, skippedPages := 0, reencodes := 0, spills := 0, spillMax := max i.spillMax i.spills, ran := []
           merge := none, leafAt := [] }

/-- The rows of an item leave the rounds that are open; a round without rows is none. -/
def State.leaveRounds (s : State) (id k : Nat) : State :=
  let drop (r : Round) : Round := { r with rows := r.rows.filter (fun x => x ≠ (id, k)) }
  { s with sched := { s.sched with rounds := (s.sched.rounds.map drop).filter (fun r => r.rows ≠ []) } }

/-- Notes how far an entry's own append under QT is: 0 not made, 1 committed, 2 staged, 256 + status failed. -/
def State.setApp (s : State) (id entry v : Nat) : State :=
  s.modJob id (fun j => { j with entries := match j.entries[entry]? with
    | some e => j.entries.set entry { e with app := v }
    | none => j.entries })

/-- An append under QT that an item has staged is to be staged again. -/
def State.unstage (s : State) (id entry : Nat) : State :=
  match (s.job id).bind (fun j => j.entries[entry]?) with
  | some e => if e.app = 2 then s.setApp id entry 0 else s
  | none => s

/-- Whether an item has started and not completed. -/
def Item.active (i : Item) : Bool := i.st = .running || (i.st = .computed && i.status = 0)

/-- Retries one item on tile `t`: a third failure ends it with RETRY_EXHAUSTED (R450). -/
def State.retryItem (s : State) (id k : Nat) (t : Nat) : State :=
  match s.item id k with
  | none => s
  | some i =>
    let s := s.closeWindows id k
    if !i.active then s
    else
    let s := s.leaveRounds id k
    let s := if i.staged = [] then s else s.unstage id i.entry
    if i.retries < 2 then
      (s.modItem id k (fun i => { i.again with retries := i.retries + 1 })).bumpTile t 0x1B4 1
    else
      let j := (s.job id).getD { id := id, ring := 0, seq := 0, desc := [] }
      (s.modItem id k (fun i => { i.again with st := .computed, status := 0x51 })).report
        { severity := sevJob, cause := 0x09, unit := 0x0B, tile := t, ring := some j.ring, seq := j.seq
          ctx := ((j.entries[i.entry]?).map (fun e => e.handle)).getD 0xFFFFFFFF }

/-- Items, as (job, index), that a predicate accepts. -/
def State.itemsWhere (s : State) (p : Job → Item → Bool) : List (Nat × Nat) :=
  s.sched.jobs.flatMap (fun j => (j.items.zipIdx.filter (fun x => p j x.1)).map (fun x => (j.id, x.2)))

/-! ### The end of a clock step (17 R468) -/

/-- Clocks and monitors of a tile. -/
def State.tileHealth (s : State) (t : Nat) : TileHealth := tget {} s.health.tiles t
def State.setHealth (s : State) (t : Nat) (h : TileHealth) : State :=
  { s with health := { s.health with tiles := tset {} s.health.tiles t h } }

/-- Whether an item still holds its core. -/
def State.holdsCore (s : State) (p : Nat × Nat) : Bool :=
  match s.item p.1 p.2 with
  | some i => i.active
  | none => false

/-- When the last core of a tile has adopted the locked PLL, the fabric switches and CUR takes the new code (steps 3, 4). -/
def State.clockSwitch (s : State) (t : Nat) : State :=
  let h := s.tileHealth t
  if h.switching && h.locked && !h.holders.any s.holdsCore then
    (s.setHealth t { h with cur := h.target, switching := false, locked := false, holders := [] }).bumpTile t 0x1D0 1
  else s

end Sys2Proof.Machine
end

