-- ==== Sys2Proof/Machine/Migrate.lean ====
section
/-! DEFINITION. Migrations end: evictions, recalls, background eviction and the budget of step 3 (09 R258 to R266). -/

namespace Sys2Proof.Machine

/-- What an EVICT or PREFETCH job notes of a page that one of its migrations ended (R261). -/
def Job.pageEnds (j : Job) (m : Mig) (done : Bool) : Job :=
  let fail := m.status = 0x40 ∨ m.status = 0x41
  { j with
    migs := j.migs.filter (· ≠ m.slot)
    pagesDone := j.pagesDone + b2n done
    pagesPassed := j.pagesPassed + b2n (!done)
    hostFail := if done ∨ ¬ fail then j.hostFail else
      match j.hostFail with
      | some p => if p.1 < m.order then some p else some (m.order, m.status)
      | none => some (m.order, m.status) }

/-- Tells whoever started a migration, and those who wait on it, that it has ended. -/
def State.tellEnd (s : State) (m : Mig) (done : Bool) : State :=
  let s := match m.why with
    | .job id => s.modJob id (fun j => j.pageEnds m done)
    | .item id i => s.wake id i
    | .background | .mirror _ => s
  m.waiters.foldl (fun s w => s.wake w.1 w.2) s

/-- The page-format fields that a cold record keeps (08 R232). -/
def Frame.cold (x : Frame) (addr : Nat) : Cold :=
  { page := x.page.fmt, rows := x.page.rows, cls := x.cls, reserve := x.reserve, addr := addr }

/-- Takes the twin link controller's pin off a mirror frame (15 R423). -/
def State.unpinMirror (s : State) (f : Nat) : State :=
  let x := s.frame f
  s.setFrame f { x with pincnt := x.pincnt - 1 }

/-- The partner's EVICT is written out: the mirrored record is written, the mirror entry set to it, the shadow FREE, and
the ACK sent (15 R423). -/
def State.mirrorEvicted (s : State) (m : Mig) (own : Nat) : State :=
  let key := 8388608 * m.home + m.record
  let s := s.unpinMirror m.frame
  let x := s.frame m.frame
  let c := ({ x with page := pageOfBytes x.bytes } : Frame).cold m.host
  let s := { s with store := { s.store with cold := tset none s.store.cold key (some c)
                                            map := tset .empty s.store.map m.loc (.cold key) } }
  (((s.setFrame m.frame x.clearMirror).dropMig m.slot).tell (.evictAck own)).pump

/-- A write of the partner's EVICT has failed: NAK (15 R423). -/
def State.mirrorEvictFails (s : State) (m : Mig) (own : Nat) : State :=
  (((s.unpinMirror m.frame).dropMig m.slot).tell (.evictNak own)).pump

/-- Requesters whose waits at an allocator are all served are ready again (R266). -/
def State.wakeGranted (s : State) : State :=
  s.store.granted.foldl (fun s p => match p.1 with
    | .item id i =>
      if s.store.allocWait.any (fun w => w.2 = p.1) then s
      else s.modItem id i (fun x => if x.st = .evictWait then { x with st := .waiting } else x)
    | _ => s) s

/-- An eviction whose every write is acknowledged: record written, map switched, frame freed (08 R232, 09 R266). -/
def State.evictionDone (s : State) (m : Mig) : State :=
  match m.why with
  | .mirror own => s.mirrorEvicted m own
  | _ =>
  let key := 8388608 * m.home + m.record
  let c := (s.frame m.frame).cold m.host
  let s := s.dropLabFrame m.frame
  let s := if m.released then s else
    { s with store := { s.store with cold := tset none s.store.cold key (some c)
                                     map := tset .empty s.store.map m.loc (.cold key) } }
  let s := ((s.dropMig m.slot).freeFrame m.frame).wakeGranted
  ((s.bumpTile (frameTile m.frame) 0x158 1).tellEnd m true).pump

/-- Whether an eviction may end (09 R259, 15 R423). -/
def Mig.evicted (m : Mig) : Bool := m.evict && m.issued && m.left = 0 && m.redo = [] && m.status = 0 && m.acked

/-- Repeats one failed write (13 R373). -/
def State.redoWrite (s : State) (slot : Nat) (w : Nat × Nat) : State :=
  match s.mig slot with
  | none => s
  | some m =>
    let t := frameTile m.frame
    match s.translateAll t (.mig slot) (needs (m.host + w.1) w.2 1 true) with
    | .ok tr s' => s'.moveMig { m with trans := tr, redo := m.redo.erase w, status := 0 } w.1 w.2
    | .wait s' => s'
    | .failed e s' => s'.putMig ({ m with redo := m.redo.erase w }.failedAt w.1 w.2 e)

/-- A failed eviction write is repeated; after the fourth failure of one write the frame is BAD, with no cold record
(13 R373). -/
def State.evictionFails (s : State) (m : Mig) : State :=
  match m.why with
  | .mirror own => s.mirrorEvictFails m own
  | _ =>
  if m.fails.any (fun p => decide (4 ≤ p.2)) then
    let s := s.frameBad m.frame 0x04 (frameTile m.frame) 0 m.frame
    ((s.dropMig m.slot).tellEnd m false).pump
  else if m.issued then m.redo.foldl (fun s w => s.redoWrite m.slot w) s
  else (s.putMig { m with status := 0, redo := [] }).pump

/-- The bytes a recall has received, in order. -/
def Mig.bytes (m : Mig) : List Byte := (m.got.mergeSort (fun a b => decide (a.1 ≤ b.1))).flatMap Prod.snd

/-- The items that a recalled frame is pinned for: the one that caused the recall and those that waited (R264). -/
def Mig.pinners (m : Mig) : List (Nat × Nat) :=
  (match m.why with | .item j i => [(j, i)] | _ => []) ++ m.waiters

/-- Pins a recalled frame for one item, which keeps its binding to it (R264). -/
def State.recallPin (s : State) (m : Mig) (w : Nat × Nat) : State :=
  match s.item w.1 w.2 with
  | none => s
  | some i =>
    if i.st ≠ .evictWait then s else
    (s.pinFrame m.frame).modItem w.1 w.2 (fun i => { i with
      pins := i.pins ++ [m.frame]
      bind := { i.bind with pages := i.bind.pages.filter (fun p => !(p.1 = m.stream && p.2.1 = m.page)) ++ [(m.stream, m.page, m.frame)] } })

/-- The frame of a recall after its last byte: SEALED and charged to the class the record kept (R226, R254); FREE at once where the page
was released meanwhile and no item waits for it (R266). -/
def State.landPage (s : State) (m : Mig) (p : Page) : State :=
  let x := s.frame m.frame
  if m.released && decide (m.pinners = []) then s.freeFrame m.frame else
  (s.setFrame m.frame { x.next with st := .isSealed, page := p, refcnt := if m.released then 0 else 1 }).chargeFrame m.frame x.cls

/-- Map switch of a recall: the entry names the frame, the cold record and its pool slot are free (08 R232). -/
def State.switchRecall (s : State) (m : Mig) : State :=
  let s := { s with store := { s.store with
    cold := terase s.store.cold (8388608 * m.home + m.record)
    map := if m.released then s.store.map else tset .empty s.store.map m.loc (.frame m.frame) } }
  match s.locOwner m.loc with
  | some o => s.dropLabPage o.1 o.2.1 o.2.2
  | none => s

/-- The RECALL delta of a recall, and the page that the twin then holds (15 R419). -/
def Mig.base (m : Mig) (p : Page) : Base :=
  let o := blockOf m.loc
  ⟨m.frame, .recall (BitVec.ofNat 24 m.frame) (BitVec.ofNat 5 m.home) (BitVec.ofNat 23 m.record) (BitVec.ofNat 20 o.2.1)
    (BitVec.ofNat 8 o.2.2), p⟩

/-- Asks the owner for the page of a mirror frame, by the owner's frame number (15 R424). -/
def State.askResend (s : State) (f : Nat) : State :=
  let s : State := { s with errs := { s.errs with resending := insertKey f s.errs.resending } }
  s.ledgerSend [.resend (frameNum (frameTile f) (frameLocal f - s.ownFrames))]

/-- The partner's RECALL ends: the bytes of the pool slot stand in the mirror frame, or they are asked for (R424); the
mirrored record and its slot are free. -/
def State.mirrorRecalled (s : State) (m : Mig) (bytes : List Byte) : State :=
  let x := s.frame m.frame
  let s := s.dropMig m.slot
  let s := { s with store := { s.store with cold := terase s.store.cold (8388608 * m.home + m.record) } }
  (if bytesGood bytes then s.setFrame m.frame { x.next with raw := rawOf bytes }
   else (s.bumpTile (frameTile m.frame) 0x148 1).askResend m.frame).pump

/-- A recall whose last byte has arrived: the checksum is checked, the map switched, the frame pinned (08 R223, R232,
09 R264, R266). -/
def State.recallDone (s : State) (m : Mig) : State :=
  let before := s.store
  let bytes := m.bytes
  match m.why with
  | .mirror _ => s.mirrorRecalled m bytes
  | _ =>
  let data := bytes.take 65536
  let side := (bytes.drop 65536).take 8192
  let p := Page.ofBytes data side
  let good := checksumOfBytes data side = p.checksum
  let handle := s.locHandle m.loc
  let s := (s.landPage m p).switchRecall m
  let s := m.pinners.foldl (fun s w => s.recallPin m w) s
  let s := s.bumpTile (frameTile m.frame) 0x15C 1
  let s := s.sendGroup [m.base p] before (backgroundGroup handle)
  let s := if good || decide ((s.frame m.frame).st = .free) then s else
    (s.bumpTile (frameTile m.frame) 0x148 1).frameBad m.frame 0x04 (frameTile m.frame) 0 m.frame
  (((s.dropMig m.slot).settle m.frame).tellEnd m good).pump

/-- Whether every byte of a recall has arrived. -/
def Mig.arrived (m : Mig) : Bool := !m.evict && m.issued && m.left = 0 && m.status = 0

/-- A recall that fails, or that finds no frame when it must restart: its frame is FREE again, the record unchanged, and
the item that caused it completes with the status (09 R263). -/
def State.recallFails (s : State) (m : Mig) : State :=
  match m.why with
  | .mirror _ => s.mirrorRecalled m []
  | _ =>
  let s := if (s.frame m.frame).st = .moving then s.freeFrame m.frame else s
  let s := s.dropMig m.slot
  let s := match m.why with
    | .item id i => s.modItem id i (fun x => if x.st = ItemSt.evictWait then { x with st := ItemSt.computed, status := m.status } else x)
    | _ => s
  (s.tellEnd m false).pump

/-- Starts background evictions of a tile, at most 4 in flight, each of which frees one frame (09 R260, log entry 92). -/
def State.bgLoop : Nat → Nat → State → State
  | 0, _, s => s
  | n + 1, t, s =>
    let v := s.snapshot t
    let high := max (bits (tget 0#32 v 0x8010).toNat 31 16) (bits (tget 0#32 v 0x8010).toNat 15 0)
    if decide (4 ≤ s.evictionsOf t .background) || decide (high ≤ s.freeCount t + s.evictionsOf t .background) then s else
    match s.victim t (tget 0#32 v 0x8008).toNat (tget 0#32 v 0x800C).toNat with
    | some f => (s.startEvict f .background 0).bgLoop n t
    | none => { s with store := { s.store with bg := s.store.bg.erase t } }

/-- Background eviction of a tile, by the values it has adopted: begins below LOW, goes on to HIGH (09 R260). -/
def State.background (s : State) (t : Nat) : State :=
  let v := s.snapshot t
  let ctl := (tget 0#32 v 0x8000).toNat
  let low := bits (tget 0#32 v 0x8010).toNat 15 0
  let high := max (bits (tget 0#32 v 0x8010).toNat 31 16) low
  if !(bit ctl 0 && bit ctl 1) then { s with store := { s.store with bg := s.store.bg.erase t } } else
  let on := (s.store.bg.contains t || decide (s.freeCount t < low)) && decide (s.freeCount t < high)
  if !on then { s with store := { s.store with bg := s.store.bg.erase t } } else
  let s := { s with store := { s.store with bg := insertKey t s.store.bg } }
  (s.bgLoop 4 t).pump

/-! ### The commands -/

def execBackgroundEviction (tile : BitVec 5) (s : State) : Out := onTile s tile.toNat (s.background tile.toNat)

def execEvictionDone (slot : Nat) (s : State) : Out :=
  .next (match s.mig slot with | some m => s.whenever m.evicted (s.evictionDone m) | none => s)

def execEvictionWriteFail (slot : Nat) (s : State) : Out :=
  .next (match s.mig slot with | some m => s.whenever (m.evict && m.redo ≠ []) (s.evictionFails m) | none => s)

def execRecallDone (slot : Nat) (s : State) : Out :=
  .next (match s.mig slot with | some m => s.whenever m.arrived (s.recallDone m) | none => s)

def execRecallFail (slot : Nat) (s : State) : Out :=
  .next (match s.mig slot with | some m => s.whenever (!m.evict && m.status ≠ 0) (s.recallFails m) | none => s)

def execEvictBudgetElapsed (job item : Nat) (s : State) : Out :=
  .next (s.modItem job item (fun i => if i.st = .evictWait then { i with st := .waiting, budgetOut := true } else i))

end Sys2Proof.Machine
end

