-- ==== Sys2Proof/Machine/Flags.lean ====
section
/-! DEFINITION. Status and flags: the sticky flag vector of a job (02 R64), the statuses of a batch job (06 R175,
07 R211, 09 R256, 11 R318), and the words of its record (11 R315, R316). -/

namespace Sys2Proof.Machine

/-- Status codes (11 R317). -/
def stOk : Nat := 0x00
def stRepeated : Nat := 0x01
def stSkipped : Nat := 0x02
def stTableFull : Nat := 0x10
def stBadState : Nat := 0x11
def stLength : Nat := 0x12
def stExhausted : Nat := 0x20
def stQuota : Nat := 0x21
def stMismatch : Nat := 0x22
def stInvalid : Nat := 0x30
def stVerify : Nat := 0x31
def stHostFault : Nat := 0x40
def stHostBus : Nat := 0x41
def stMedia : Nat := 0x50
def stRetry : Nat := 0x51
def stBusy : Nat := 0x60
def stAbortPhase : Nat := 0x70
def stAbortCastle : Nat := 0x71
def stInternal : Nat := 0x7F

/-- Whether a status is a failure. -/
def failing (st : Nat) : Bool := decide (st ≠ 0 ∧ st ≠ 1 ∧ st ≠ 2)

/-- Whether an item was aborted. -/
def Item.aborted (i : Item) : Bool := i.st = .aborted

/-- Whether an item has completed (11 R314). -/
def Item.finished (i : Item) : Bool := i.st = .done || i.st = .aborted

/-- Whether a tile of an item repeated (06 R175). -/
def Item.repeated (i : Item) : Bool := decide (0 < i.repeats)

/-- Whether every item of a job has completed. -/
def Job.complete (j : Job) : Bool := j.items.all Item.finished

/-- The job's flag vector: the OR over its items (02 R64). -/
def Job.flags (j : Job) : Flags := j.items.foldl (fun f i => f ||| i.flags) 0#6

/-- Items of a batch job that ended in a failure status. -/
def Job.failedItems (j : Job) : List Item := j.items.filter (fun i => !i.aborted && failing i.status)

/-- Whether an item of the job was aborted with a status. -/
def Job.abortedBy (j : Job) (st : Nat) : Bool := j.items.any (fun i => i.aborted && i.status = st)

/-- The status of a batch job from its items (06 R175, 07 R211, 09 R256), or of its statistics record's write. -/
def Job.batchStatus (j : Job) : Nat :=
  match j.failedItems with
  | i :: _ => i.status
  | [] =>
    if failing j.status then j.status
    else if j.items.any (fun i => decide (0 < i.skippedPages)) then stSkipped
    else if j.items.any Item.repeated then stRepeated else stOk

/-- The status of a job (11 R318). -/
def Job.result (j : Job) : Nat :=
  if j.refused then j.status
  else if j.status = stAbortCastle ∨ j.abortedBy stAbortCastle then stAbortCastle
  else if j.abortedBy stAbortPhase then stAbortPhase
  else if isBatch j.kind then j.batchStatus
  else j.status

/-- A count that saturates at 16 bits. -/
def sat16 (n : Nat) : Nat := min 0xFFFF n

/-- RESULT0 to RESULT2 (11 R316). -/
def Job.results (j : Job) : List Nat :=
  if j.refused then [0, if isBatch j.kind then 0xFFFFFFFF else 0, 0]
  else if isBatch j.kind then
    let first := match j.failedItems with | i :: _ => i.entry | [] => 0xFFFFFFFF
    let masked := sat16 (j.items.foldl (fun n i => n + i.masked) 0)
    let skipped := sat16 (j.items.foldl (fun n i => n + i.skippedPages) 0)
    let third :=
      if j.kind = 0x10 then j.items.foldl (fun n i => n + i.reencodes) 0
      else if j.kind = 0x13 then masked else 65536 * skipped + masked
    [j.failedItems.length, first, third]
  else if j.kind = 0x30 ∨ j.kind = 0x31 then [j.pagesDone, j.pagesPassed, 0]
  else [j.r0, j.r1, j.r2]

/-- The 32 bytes of a completion record at index `x` of a ring of 2^log2 slots (11 R315). -/
def Job.record (j : Job) (x log2 now : Nat) : List Byte :=
  let phase := (x >>> log2) % 2 = 0
  leBytes 4 (2 ^ 31 * b2n phase + 65536 * j.flags.toNat + 256 * j.kind + j.result) ++
  leBytes 4 (j.word 1) ++ leBytes 4 j.seq ++ j.results.flatMap (leBytes 4) ++ leBytes 8 now

/-- Numerics control of a job on a part (02 R56, 12 R341). -/
def Job.num (j : Job) (chunked : Bool) (np : Nat) : NumCtl :=
  { passes := j.nctl % 4 + 1, strict := bit j.nctl 2, chunked := chunked, native := decide (np ≠ 1) }

/-- The numerics profile of an image (05 R135). -/
def profileOf (np : Nat) : Profile := if np = 1 then .np1 else .np2

end Sys2Proof.Machine
end

