-- ==== Sys2Proof/Machine/Tables.lean ====
section
/-! DEFINITION. The resident tables as work items read them (06 R161, R165, 14 R392, R402), and what an item covers: its rows,
its mask, the keys that its rows reach (06 R159, R166, 07 R192, R200, 11 R313). -/

namespace Sys2Proof.Machine

/-- A declared table (14 R392). -/
def State.table (s : State) (kind num : Nat) : Option TableDef :=
  s.cfg.tables.find? (fun t => t.kind = kind && t.num = num)

/-! ### Tables as an item reads them (06 R161, 14 R402) -/

/-- The bytes of a generation of a table. -/
def State.tableBytes (s : State) (kind num gen : Nat) : List Byte :=
  match s.table kind num with
  | some t => if gen % 2 = 0 then t.copy0 else t.copy1
  | none => []

/-- The generation of a table that an item has bound, else the current one. -/
def State.genOf (s : State) (gens : List (Nat × Nat × Nat)) (kind num : Nat) : Nat :=
  match gens.find? (fun g => g.1 = kind && g.2.1 = num) with
  | some g => g.2.2
  | none => match s.table kind num with | some t => t.gen | none => 0

/-- Turn table of a number; FFh none. -/
def State.turnTable (s : State) (gens : List (Nat × Nat × Nat)) (num : Nat) : TurnTable :=
  if num = 0xFF then {} else (parseTurn (s.tableBytes 0 num (s.genOf gens 0 num))).getD {}

/-- QK-norm table of a number; FFh none. -/
def State.normTable (s : State) (gens : List (Nat × Nat × Nat)) (num : Nat) : NormTable :=
  if num = 0xFF then {} else (parseNorm (s.tableBytes 1 num (s.genOf gens 1 num))).getD {}

/-- The bias row of a group member (06 R165). -/
def State.biasRow (s : State) (gens : List (Nat × Nat × Nat)) (num member : Nat) : List Word :=
  let b := s.tableBytes 2 num (s.genOf gens 2 num)
  (List.range 128).map (fun i => BitVec.ofNat 32 (fieldAt b (16 + 512 * member + 4 * i) 4))

/-! ### Rows and horizons -/

/-- ACTL or BCTL. -/
def Job.ctl (j : Job) : Nat := j.word 10

/-- The mask fields of a job's control word, which ACTL and BCTL share (06 R159, 07 R192). -/
def Job.mask (j : Job) : MaskCtl :=
  { causal := bit j.ctl 4, window := bit j.ctl 5, segment := bit j.ctl 6, padding := bit j.ctl 7, win := j.word 12
    scale2 := BitVec.ofNat 32 (j.word 11) }

/-- Row indices of an entry that an item covers: all of them, or those of its query block. -/
def Entry.itemRows (e : Entry) (kind : Nat) (i : Item) : List Nat :=
  (List.range e.rows).filter (fun r => kind = 0x10 || kind = 0x11 || (e.pos0 + r) / 64 = i.block)

/-- First row and number of rows of an item, which are consecutive. -/
def Entry.rowSpan (e : Entry) (kind : Nat) (i : Item) : Nat × Nat :=
  let l := e.itemRows kind i
  (l.headD 0, l.length)

/-- A row's position and limits, before its operands are formed. -/
def rowShape (e : Entry) (len r : Nat) : QRow := { pos := e.pos0 + r, len := len, klen := e.klen }

/-- H + 1: one above the largest horizon of an entry's rows (07 R200). -/
def keyEnd (mc : MaskCtl) (e : Entry) (len : Nat) : Nat :=
  if mc.causal then e.pos0 + e.rows else if mc.padding then min len e.klen else len

/-- Whether a handle names a context (10 R269, 15 R416). -/
def State.live? (s : State) (h : Nat) : Option Nat :=
  let r := bits h 13 0
  let x := s.row r
  if bits h 15 14 = 0 ∧ x.state ≠ 0 ∧ x.gen = bits h 31 16 ∧ r < s.part.contexts ∧ !(s.limited ∧ (if s.twin.role then r < 8192 else 8192 ≤ r))
  then some r else none

/-- The tile that holds each page of an item's stream, resident or cold, as far as its rows' horizons reach (07 R205). -/
def State.leafTiles (s : State) (e : Entry) (i : Item) (r len : Nat) : List Nat :=
  (List.range (ceilDiv (max len (e.pos0 + e.rows)) (s.row r).tspan)).map (fun p =>
    match s.pageEntry r i.stream p with
    | .frame f => frameTile f
    | _ => s.pageTile (s.dirOf r i.stream).layer r i.stream p)

end Sys2Proof.Machine
end

