-- ==== Sys2Proof/Machine/Verify.lean ====
section
/-! DEFINITION. Loop nests, their sequencer and the intake verifier (12 R332 to R342): the image's templates, the nests that the
scheduler fills from them, and how those sum (04 R121). -/

namespace Sys2Proof.Machine

/-! ### Fields of a nest (12 R333 to R335) -/

def Nest.word (n : Nest) (i : Nat) : Nat := n.words.getD i 0
def Nest.shape (n : Nest) : Nat := bits (n.word 0) 2 0
def Nest.mode (n : Nest) : Nat := bits (n.word 0) 4 3
def Nest.order (n : Nest) : Nat := bits (n.word 0) 6 5
def Nest.ordLvl (n : Nest) : Nat := bits (n.word 0) 9 7
def Nest.bound (n : Nest) (l : Nat) : Nat := bits (n.word (8 + 4 * l)) 15 0 + 1

/-- Signed stride of operand `x` (0 A, 1 B, 2 O) at level `l`. -/
def Nest.stride (n : Nest) (x l : Nat) : Int :=
  let v := bits (n.word (8 + 4 * l + 1 + x)) 19 0
  if v < 2 ^ 19 then v else (v : Int) - 2 ^ 20

/-- Visits: the product of the six bounds (12 R336). -/
def Nest.visits (n : Nest) : Nat := (List.range 6).foldl (fun v l => v * n.bound l) 1

/-- Least power of two at or above a number. -/
def ceilPow2 (n : Nat) : Nat := if n ≤ 1 then 1 else 2 ^ (Nat.log2 (n - 1) + 1)

/-- s of 12 R337 for the ordered pair. -/
def Nest.pairSide (n : Nest) : Nat := ceilPow2 (max (n.bound n.ordLvl) (n.bound (n.ordLvl + 1)))

/-! ### The sequencer (12 R336, R337) -/

/-- Every vector of counters below some bounds, the first counter fastest. -/
def odometer : List Nat → List (List Nat)
  | [] => [[]]
  | b :: bs => (odometer bs).flatMap (fun v => (List.range b).map (fun c => c :: v))

/-- The bits of a number at even positions, compacted, of so many. -/
def evenBits (n d : Nat) : Nat := ((List.range n).map (fun k => if bit d (2 * k) then 2 ^ k else 0)).sum

/-- One round of the HILBERT procedure at side q: (x, y, t). -/
def hilbertRound (p : Nat × Nat × Nat) (q : Nat) : Nat × Nat × Nat :=
  let rx := p.2.2 / 2 % 2
  let ry := (p.2.2 + rx) % 2
  let f : Nat × Nat := if rx = 1 then (q - 1 - p.1, q - 1 - p.2.1) else (p.1, p.2.1)
  let g : Nat × Nat := if ry = 0 then (f.2, f.1) else (p.1, p.2.1)
  (g.1 + q * rx, g.2 + q * ry, p.2.2 / 4)

/-- Point d of the HILBERT curve over a square of side 2^n. -/
def hilbertAt (n d : Nat) : Nat × Nat :=
  let r := ((List.range n).map (2 ^ ·)).foldl hilbertRound (0, 0, d)
  (r.1, r.2.1)

/-- The visits (i, o) of the ordered pair with bounds Bi and Bo (R337): LINEAR, SERPENTINE, MORTON, HILBERT. -/
def pairOrder (order bi bo : Nat) : List (Nat × Nat) :=
  let n := Nat.log2 (ceilPow2 (max bi bo))
  let inside (l : List (Nat × Nat)) : List (Nat × Nat) := l.filter (fun p => decide (p.1 < bi) && decide (p.2 < bo))
  match order with
  | 0 => (List.range bo).flatMap (fun o => (List.range bi).map (fun i => (i, o)))
  | 1 => (List.range bo).flatMap (fun o => (List.range bi).map (fun i => (if o % 2 = 0 then i else bi - 1 - i, o)))
  | 2 => inside ((List.range (4 ^ n)).map (fun d => (evenBits n d, evenBits n (d / 2))))
  | _ => inside ((List.range (4 ^ n)).map (hilbertAt n))

/-- The bounds of the six levels, innermost first. -/
def Nest.bounds (n : Nest) : List Nat := (List.range 6).map n.bound

/-- The counter vectors in the order of the visits (R336). -/
def Nest.counters (n : Nest) : List (List Nat) :=
  (odometer (n.bounds.drop (n.ordLvl + 2))).flatMap (fun o =>
    (pairOrder n.order (n.bound n.ordLvl) (n.bound (n.ordLvl + 1))).flatMap (fun p =>
      (odometer (n.bounds.take n.ordLvl)).map (fun i => i ++ p.1 :: p.2 :: o)))

/-- Address of operand `x` at a counter vector (R336). -/
def Nest.addr (n : Nest) (x : Nat) (cs : List Nat) : Int :=
  (cs.zipIdx).foldl (fun a c => a + (c.1 : Int) * n.stride x c.2) (bits (n.word (1 + x)) 17 0)

/-- The steps of a nest: the addresses of A, B and O of each visit. -/
def Nest.steps (n : Nest) : List (Int × Int × Int) := n.counters.map (fun c => (n.addr 0 c, n.addr 1 c, n.addr 2 c))

/-! ### Entries and shapes (12 R338, R339) -/

/-- The float format that a format code of a selection key names (log entry 227): a page format by its own code, then BF16, FP16,
E4M3, E5M2, FP32 from 16 up; 21 is INT8. -/
def keyFmt (code : Nat) : Option Fmt := if code < 16 then elemFmt code else ofmtOf (code - 16)

/-- INT8 as a format of a selection key. -/
def keyInt8 : Nat := 21

/-- One B entry: elements, k-steps, bytes (R338). -/
def entryShape (code : Nat) : Nat × Nat × Nat :=
  match keyFmt code with
  | none => (16, 8, 32)
  | some .fp32 => (8, 4, 32)
  | some f => (entryLen f, entryLen f / 2, 2 * entryLen f * (fmtInfo f).width / 8)

/-- Stationary rows of a shape (R339). -/
def shapeRows (shape : Nat) : Nat :=
  match shape with | 0 | 7 => 2 | 1 => 4 | 2 => 8 | 3 => 16 | _ => 32

/-- Row pairs that a B entry is used against, in ascending order (R339). -/
def shapePairs (shape : Nat) : List Nat := List.range (shapeRows shape / 2)

/-- CCLK cycles of a step (R338, R339): 8 for each row pair. -/
def shapeStep (shape : Nat) : Nat := 8 * (shapePairs shape).length

/-- The stationary loads of a row of so many elements: a ROW or COL shape takes one for each run of 256 (R339). -/
def stationaryLoads (shape k : Nat) : List Nat :=
  if shape ≤ 5 then (List.range (ceilDiv k 256)).map (fun i => min 256 (k - 256 * i)) else [k]

/-! ### Selection and filling (12 R332) -/

/-- The key of a stage: job kind, stage of the chain, formats of A and B, head dimension, token span, shape. -/
structure NestKey where
  kind : Nat
  stage : Nat
  fmtA : Nat
  fmtB : Nat
  hd : Nat
  span : Nat
  shape : Nat
  deriving DecidableEq, Repr

/-- A run of a nest: the key, what the scheduler fills it from (log entry 30). -/
structure NestUse where
  key : NestKey
  facts : List Nat
  deriving DecidableEq, Repr

/-- The template that the selection table names for a key. -/
def State.selectNest (s : State) (k : NestKey) : Option Nest :=
  match s.cfg.selects.find? (fun r => decide ((⟨r.kind, r.stage, r.fmtA, r.fmtB, r.hd, r.span, r.shape⟩ : NestKey) = k)) with
  | some r => s.cfg.nests.find? (fun n => n.off = r.nest)
  | none => none

/-- A word of a template with the values that the scheduler fills in: bases, spill slot, level bounds, window senders. -/
def fillWord (facts : List Nat) (i w : Nat) : Nat :=
  let v := Config.nestFill facts i
  let low (b : Nat) : Nat := w / 2 ^ b * 2 ^ b + v % 2 ^ b
  if 1 ≤ i ∧ i ≤ 3 then low 18
  else if i = 4 then v / 2 ^ 31 % 2 * 2 ^ 31 + bits w 30 28 * 2 ^ 28 + v % 2 ^ 28
  else if 8 ≤ i ∧ i < 32 ∧ i % 4 = 0 then low 16
  else if 33 ≤ i ∧ i % 2 = 1 then low 17
  else w

/-- The nest that the verifier checks and the sequencer runs. -/
def Nest.fill (n : Nest) (facts : List Nat) : Nest := { n with words := n.words.zipIdx.map (fun p => fillWord facts p.2 p.1) }

/-- The filled nest of a run. -/
def State.filled (s : State) (u : NestUse) : Option Nest := (s.selectNest u.key).map (fun n => n.fill u.facts)

/-- How a run sums: its spill interval and slot (04 R121), the elements of its B entries, the columns of its repeat tile (04 R123,
log entry 172). -/
def State.sumOf (s : State) (u : NestUse) : NestSum :=
  let entry := (entryShape u.key.fmtB).1
  match s.filled u with
  | none => { entry := entry }
  | some n =>
    { spill := if bit (n.word 0) 11 then some (2 ^ bits (n.word 0) 15 12) else none
      slot := if bit (n.word 4) 31 then 2 ^ 31 + bits (n.word 4) 27 0 else bits (n.word 4) 17 0
      entry := entry, tile := bits (n.word 6) 31 16 }

/-! ### Checks -/

/-- Header codes of 12 R342: reserved bits, ORD_LVL, SPILL_LOG2, ANYSIZE. -/
def Nest.headerOk (n : Nest) (np : Nat) : Bool :=
  n.ordLvl ≤ 4 && bits (n.word 0) 15 12 ≤ 12 && bits (n.word 0) 23 17 = 0 && (bit (n.word 0) 16 = decide (np = 1)) &&
  bits (n.word 1) 31 18 = 0 && bits (n.word 2) 31 18 = 0 && bits (n.word 3) 31 18 = 0 && bits (n.word 4) 30 28 = 0 &&
  bits (n.word 5) 31 16 = 0 && 1 ≤ bits (n.word 5) 15 0 && 1 ≤ bits (n.word 6) 15 0 && 1 ≤ bits (n.word 6) 31 16 &&
  n.word 7 = 0 &&
  (List.range 6).all (fun l => bits (n.word (8 + 4 * l)) 31 16 = 0 &&
    (List.range 3).all (fun x => bits (n.word (8 + 4 * l + 1 + x)) 31 20 = 0))

/-- SELSUM only with ROW2 to ROW32 (12 R342). -/
def Nest.selsumOk (n : Nest) : Bool := n.mode ≠ 3 || decide (n.shape ≤ 4)

/-- INT8 only with MULADD, and not in the STAT shape (04 R108, 12 R342). -/
def Nest.modeOk (n : Nest) (k : NestKey) : Bool :=
  n.selsumOk && (decide (k.fmtA ≠ keyInt8 ∧ k.fmtB ≠ keyInt8) || (n.mode = 0 && n.shape ≠ 7))

/-- Every stationary load holds at most 32 rows of 256 elements (04 R105). -/
def Nest.stationaryOk (n : Nest) : Bool :=
  decide (shapeRows n.shape ≤ 32) && (stationaryLoads n.shape (bits (n.word 5) 15 0)).all (fun l => decide (l ≤ 256))

/-- Products that one output cell sums: the levels that leave the output in place, each step one entry. -/
def Nest.products (n : Nest) (k : NestKey) : Nat :=
  ((List.range 6).filter (fun l => n.stride 2 l = 0)).foldl (fun v l => v * n.bound l) (entryShape k.fmtB).1

/-- At most 16,777,216 products per cell on the integer path (04 R120). -/
def Nest.integerOk (n : Nest) (k : NestKey) : Bool :=
  !(k.fmtA = keyInt8 && k.fmtB = keyInt8) || decide (n.products k ≤ 16777216)

/-- Visits and the side of MORTON and HILBERT (12 R342). -/
def Nest.visitsOk (n : Nest) : Bool :=
  decide (n.visits ≤ 2 ^ 32) && (decide (n.order < 2) || decide (n.pairSide ≤ 4096))

/-- Software bytes of a quarter: holes and the range of the largest cache left out (03 R67, R78). -/
def quarterTop (cacheMax q : Nat) : Nat := if q = 3 then 0xC000 - 0x4000 * cacheMax else 0xC000

/-- Whether a local range lies in one quarter and within its software bytes. -/
def localOk (cacheMax lo hi : Nat) : Bool :=
  lo / 65536 = hi / 65536 && decide (hi % 65536 < quarterTop cacheMax (lo / 65536)) && decide (lo ≤ hi)

/-- Bytes that operand `x` of a step reaches: an entry of A or B, a word of O (log entry 227). -/
def reachBytes (k : NestKey) (x : Nat) : Nat :=
  match x with | 0 => (entryShape k.fmtA).2.2 | 1 => (entryShape k.fmtB).2.2 | _ => 4

/-- The corners of the counter box for operand `x`: every address reached lies in its base's quarter (12 R342). -/
def Nest.addrOk (n : Nest) (k : NestKey) (cacheMax x : Nat) : Bool :=
  let base : Int := bits (n.word (1 + x)) 17 0
  let reach (pick : Int → Int) : Int := (List.range 6).foldl (fun a l => a + pick (((n.bound l : Int) - 1) * n.stride x l)) base
  let lo := reach (fun d => min 0 d)
  let hi := reach (fun d => max 0 d)
  decide (0 ≤ lo) && localOk cacheMax lo.toNat (hi.toNat + reachBytes k x - 1) && decide (lo.toNat / 65536 = base.toNat / 65536) &&
  decide (base.toNat % 4 = 0) && (List.range 6).all (fun l => decide (n.bound l = 1) || decide ((n.stride x l) % 4 = 0))

/-- Output cells of a nest, each with a spill slot where it spills. -/
def Nest.cells (n : Nest) : Nat := bits (n.word 6) 15 0 * bits (n.word 6) 31 16

/-- The spill slots: 8-byte-aligned words of a quarter, or words of the wide reduction buffers (04 R121, 12 R342). -/
def Nest.spillOk (n : Nest) (cacheMax : Nat) : Bool :=
  if !bit (n.word 0) 11 then true
  else if bit (n.word 4) 31 then decide (bits (n.word 4) 27 0 + n.cells ≤ 268435456)
  else decide (bits (n.word 4) 17 0 % 8 = 0) && localOk cacheMax (bits (n.word 4) 17 0) (bits (n.word 4) 17 0 + 8 * n.cells - 1)

/-- Receive windows that the nest opens: (base, bytes, sender). -/
def Nest.windows (n : Nest) : List (Nat × Nat × Nat) :=
  (List.range 8).filterMap (fun w =>
    if bit (n.word 0) (24 + w) then
      some (bits (n.word (32 + 2 * w)) 17 0, 64 * bits (n.word (32 + 2 * w)) 27 18, n.word (33 + 2 * w))
    else none)

/-- Size, alignment and reach of each window of 12 R342, with the zero bits of its first word (12 R335). -/
def Nest.windowPlaces (n : Nest) (cacheMax : Nat) : Bool :=
  n.windows.all (fun w => decide (64 ≤ w.2.1) && decide (w.2.1 ≤ 768 * 64) && w.1 % 64 = 0 && localOk cacheMax w.1 (w.1 + w.2.1 - 1)) &&
  (List.range 8).all (fun w => !bit (n.word 0) (24 + w) || bits (n.word (32 + 2 * w)) 31 28 = 0)

/-- Each window of 12 R342, with its sender. -/
def Nest.windowsOk (n : Nest) (cacheMax : Nat) : Bool :=
  n.windowPlaces cacheMax && n.windows.all (fun w => decide (bits w.2.2 11 6 < 40) && bits w.2.2 31 17 = 0)

/-- Whether two windows are one, or share no byte (03 R85). -/
def windowsApart (a b : Nat × Nat × Nat) : Bool :=
  decide (a = b) || decide (a.1 + a.2.1 ≤ b.1) || decide (b.1 + b.2.1 ≤ a.1)

/-- The checks of 12 R342 on one filled nest. The lead of a feeder read and the code of a special function stand in no field of a
nest: the shapes' own schedules have the lead (04 R110, log entry 229). -/
def Nest.ok (n : Nest) (k : NestKey) (np cacheMax : Nat) : Bool :=
  n.words.length = 48 && n.headerOk np && n.modeOk k && n.visitsOk && (List.range 3).all (n.addrOk k cacheMax) &&
  n.stationaryOk && n.integerOk k && n.spillOk cacheMax && n.windowsOk cacheMax

/-- The checks that do not depend on a work item, which a nest of the library passes before it is filled (14 R395 check 8). -/
def Nest.libraryOk (n : Nest) (np cacheMax : Nat) : Bool :=
  n.words.length = 48 && n.headerOk np && n.selsumOk && n.stationaryOk && n.windowPlaces cacheMax

/-- Cycles of the Cuboid part of a nest (12 R340). -/
def Nest.cycles (n : Nest) (passes : Nat) (strict chunked : Bool) : Nat :=
  n.visits * shapeStep n.shape * passes * (if strict then 16 else 1) + (if chunked then 16 else 17)

/-! ### The runs of an item -/

/-- Shape of a decode leaf: that of its GQA group (12 R339). -/
def groupShape (g : Nat) : Nat := if g ≤ 2 then 0 else if g ≤ 4 then 1 else if g ≤ 8 then 2 else if g ≤ 16 then 3 else 4

/-- Codes of the operands a chain forms: the query and output-gradient operands are FP32 under three passes, the score-gradient
operand under two or three (06 R162, 07 R198). -/
def Job.wideCode (j : Job) : Nat := if j.nctl % 4 = 2 then 20 else 16
def Job.dsCode (j : Job) : Nat := if j.nctl % 4 = 0 then 16 else 20

/-- A key of a job's context. -/
def Job.keyFor (j : Job) (x : CtxRow) (stage a b shape : Nat) : NestKey := ⟨j.kind, stage, a, b, x.hd, x.tspan, shape⟩

/-- Keys of QK-normalization (05 R155, R156): the mean square, or the mean and the shifted squares; none without a norm. -/
def Job.normKeys (j : Job) (x : CtxRow) (kind : Nat) : List NestKey :=
  match kind with
  | 0 => []
  | 1 => [j.keyFor x 2 20 20 0]
  | _ => [j.keyFor x 2 20 20 0, j.keyFor x 2 20 20 7]

/-- Shape of the scores of a job: a round's, or that of the group in a decode; ROW32 in the other kinds (12 R339). -/
def Job.scoreShape (j : Job) (x : CtxRow) (round : Bool) : Nat := if j.kind = 0x11 && !round then groupShape x.group else 4

/-- Keys of the leaves (06 R169, R184, 07 R198, R199). -/
def Job.scoreKey (j : Job) (x : CtxRow) (round : Bool) : NestKey := j.keyFor x 6 j.wideCode x.fmt (j.scoreShape x round)
def Job.skipKey (j : Job) (x : CtxRow) (round : Bool) : NestKey := j.keyFor x 6 j.wideCode 20 (j.scoreShape x round)
def Job.outKey (j : Job) (x : CtxRow) : NestKey := j.keyFor x 6 16 x.fmt 5
def Job.dqKey (j : Job) (x : CtxRow) : NestKey := j.keyFor x 6 x.fmt j.dsCode 5
def Job.dvKey (j : Job) (x : CtxRow) : NestKey := j.keyFor x 6 16 j.wideCode 6
def Job.dkKey (j : Job) (x : CtxRow) : NestKey := j.keyFor x 6 j.wideCode j.dsCode 6

/-- Keys of a leaf's nests. -/
def Job.leafKeys (j : Job) (x : CtxRow) (round : Bool) : List NestKey :=
  match j.kind with
  | 0x10 => []
  | 0x13 => [j.scoreKey x false, j.dqKey x, j.dvKey x, j.dkKey x]
  | _ => [j.scoreKey x round, j.outKey x] ++ (if bit j.ctl 10 then [j.skipKey x round] else [])

/-- What the scheduler fills a run of an item's nests from: tile, context row, stream, query block, first row, rows, and the page,
or the row of a stage of one row. -/
def Job.facts (j : Job) (e : Entry) (i : Item) (part : Nat) : List Nat :=
  [i.tile, bits e.handle 13 0, i.stream, i.block, (e.rowSpan j.kind i).1, (e.rowSpan j.kind i).2, part]

/-- A run of a nest of an item. -/
def Job.useOf (j : Job) (e : Entry) (i : Item) (part : Nat) (k : NestKey) : NestUse :=
  ⟨k, [k.kind, k.stage, k.shape] ++ j.facts e i part⟩

/-- Whether a tile gathers decode leaves into rounds (12 R345). -/
def State.batching (s : State) (j : Job) (t : Nat) : Bool := j.kind = 0x11 && bit (s.liveFor t 0x310C) 0

/-- KIND of the normalization table that a number names. -/
def State.normKind (s : State) (num : Nat) : Nat := (s.normTable [] num).kind

/-- The runs of one item: of each row, its QK-normalizations; of each page, its leaves. -/
def State.itemUses (s : State) (j : Job) (e : Entry) (i : Item) (x : CtxRow) (len : Nat) : List NestUse :=
  let qk := if j.kind = 0x10 then [] else j.normKeys x (s.normKind x.qn)
  let kk := if j.kind = 0x10 ∨ j.qt then j.normKeys x (s.normKind x.kn) else []
  let rows := (e.itemRows j.kind i).flatMap (fun r => (qk ++ kk).map (j.useOf e i r))
  let pages := (List.range (ceilDiv (keyEnd j.mask e len) x.tspan)).flatMap (fun p =>
    (j.leafKeys x (s.batching j i.tile)).map (j.useOf e i p))
  rows ++ pages

/-! ### Wide reduction buffers (07 R207, 08 R214) -/

/-- CACHE_MAX. -/
def State.cacheMax (s : State) : Nat := bits (s.reg 0x1040) 1 0

/-- Words of one tile's wide reduction buffers (08 R214, 12 R342). -/
def wideLimit : Nat := 268435456

/-- Words of the spill slots of some runs, on the item's own tile. -/
def State.spillWords (s : State) (us : List NestUse) : Nat :=
  us.foldl (fun n u => match s.filled u with
    | some x => if bit (x.word 0) 11 && bit (x.word 4) 31 then n + x.cells else n
    | none => n) 0

/-- Keys of a stream that the pages of a tile hold: `tiles` are the tiles of its pages, `n` the keys reached. -/
def keysOn (tiles : List Nat) (span n t : Nat) : Nat :=
  (tiles.zipIdx.filter (fun p => p.1 = t)).foldl (fun c p => c + min span (n - p.2 * span)) 0

/-- What an item acquires of the wide reduction buffers, by tile (R207, log entry 31): on its home tile the targets of its rows, or
under CANON the slots of one wave of each, and its spill slots; under CANON, on each tile that holds keys, its slot of every dK and
dV element there. -/
def State.wideNeed (s : State) (j : Job) (e : Entry) (i : Item) (r len : Nat) : List (Nat × Nat) :=
  if j.kind ≠ 0x13 then [] else
  let x := s.row r
  let canon := bit j.ctl 10
  let rows := (e.rowSpan j.kind i).2 * x.group * x.hd
  let own := (if canon then rows * 64 else rows) + s.spillWords (s.itemUses j e i x len)
  let tiles := s.leafTiles e i r len
  let keys := if canon then tiles.eraseDups.map (fun t => (t, keysOn tiles x.tspan (keyEnd j.mask e len) t * 2 * x.hd)) else []
  (i.tile, own) :: keys

/-- The words of a list on one tile. -/
def wideOn (l : List (Nat × Nat)) (t : Nat) : Nat := (l.filter (fun p => p.1 = t)).foldl (fun n p => n + p.2) 0

/-! ### The intake verifier (12 R342) -/

/-- Whether every nest of an item passes, its windows do not overlap, and its needs fit one tile's buffers. -/
def State.itemVerifies (s : State) (j : Job) (i : Item) : Bool :=
  match j.entries[i.entry]?.bind (fun e => (s.live? e.handle).map (fun r => (e, r))) with
  | none => true
  | some er =>
    let x := s.row er.2
    let len := s.streamLen er.2 i.stream + (if j.qt then er.1.rows else 0)
    let us := s.itemUses j er.1 i x len
    let wide := s.wideNeed j er.1 i er.2 len
    let ns := us.map (fun u => (s.filled u).map (fun n => (n, u.key)))
    let ws := ns.flatMap (fun o => match o with | some n => n.1.windows | none => [])
    ns.all (fun o => match o with | some n => n.1.ok n.2 s.cfg.image.np s.cacheMax | none => false) &&
    ws.all (fun a => ws.all (windowsApart a)) && wide.all (fun p => decide (wideOn wide p.1 ≤ wideLimit))

/-- The verifier, over every work item of a descriptor. -/
def State.verifies (s : State) (j : Job) (items : List Item) : Bool := items.all (s.itemVerifies j)

/-- Cycle count of the nests of one item (12 R343). -/
def State.itemCycles (s : State) (j : Job) (e : Entry) (i : Item) (x : CtxRow) (len : Nat) : Nat :=
  (s.itemUses j e i x len).foldl (fun c u => match s.filled u with
    | some n => c + n.cycles (j.nctl % 4 + 1) (bit j.nctl 2) s.part.chunked
    | none => c) 0

/-! ### How the stages of an item sum -/

/-- Sums of an item's runs for one page, or of one row's normalization. `round`: its leaves run in batching rounds. -/
def State.stageSums (s : State) (j : Job) (e : Entry) (i : Item) (x : CtxRow) (round : Bool) (part : Nat) : StageSums :=
  let at_ (k : NestKey) : NestSum := s.sumOf (j.useOf e i part k)
  { norm := at_ (j.keyFor x 2 20 20 0), score := at_ (j.scoreKey x round), skip := at_ (j.skipKey x round), out := at_ (j.outKey x), dq := at_ (j.dqKey x)
    dv := at_ (j.dvKey x), dk := at_ (j.dkKey x) }

end Sys2Proof.Machine
end

