-- ==== Sys2Proof/Machine/Intake.lean ====
section
/-! DEFINITION. Intake (11 R301 to R314, 12 R342): the checks of a descriptor, its batch list and its length table, the
expansion into work items, holding and acceptance. -/

namespace Sys2Proof.Machine

/-! ### Checks of the descriptor's words (R306 to R308, R312) -/

/-- The job kinds (01 R32). -/
def jobKinds : List Nat :=
  [0x01, 0x02, 0x03, 0x04, 0x05, 0x10, 0x11, 0x12, 0x13, 0x14, 0x20, 0x21, 0x22, 0x30, 0x31, 0x32, 0x40, 0x50, 0x51, 0x7F]

/-- NCTL (02 R56, R59): a batch kind's encodings; zero for the kinds that run no Cuboid work. -/
def nctlOk (kind nctl : Nat) : Bool :=
  if isBatch kind then !bit nctl 3 && nctl % 4 ≠ 3 && (!bit nctl 2 || nctl % 4 = 0) else nctl = 0

/-- DEP (R322). -/
def State.depOk (s : State) (j : Job) : Bool :=
  if !bit (j.word 2) 8 then true
  else
    let r := bits (j.word 2) 5 0
    let d := (s.reg (ringReg r 0x3C) + 2 ^ 32 - j.word 3) % 2 ^ 32
    decide (r < s.part.rings) && decide (1 ≤ d) && decide (d ≤ 2 ^ 31)

/-- The header (R306, R307). -/
def State.headerOk (s : State) (j : Job) : Bool :=
  jobKinds.contains j.kind && bits (j.word 0) 31 16 = 0 && bits (j.word 2) 7 6 = 0 && bits (j.word 2) 31 9 = 0 &&
  (!j.nonblock || j.kind = 0x40) && nctlOk j.kind j.nctl && s.depOk j

/-- The bits that words 4 to 15 of a kind use. -/
def Job.usedBits (j : Job) : List Nat :=
  let m := 0xFFFFFFFF
  match j.kind with
  | 0x10 => [m, m, m, m, 0x7FFF, 0x7]
  | 0x11 | 0x12 | 0x14 => [m, m, m, m, 0x7FFF, 0x7, m, m, m, m]
  | 0x13 => [m, m, m, m, 0x7FFF, 0x3F, m, m, m, m, m, m]
  | 0x01 => [0x7FFFFF, 0xFFFF01FF, 0xFF, m, m, m, m]
  | 0x02 => [m]
  | 0x03 => [m, 0x7F, m, m]
  | 0x04 => [m, m, m]
  | 0x05 => [m, m]
  | 0x32 => [m, m]
  | 0x21 => [m, 0x7FFF, m, m]
  | 0x20 => [m, m, m, m, m]
  | 0x22 => if bit (j.word 4) 0 then [1, m, m, m, m] else [1]
  | 0x30 | 0x31 => [m, 0x1FFFF, m, m]
  | 0x40 => [0xFF03, m, m, m]
  | 0x50 => [0xF1]
  | 0x51 => [0x33]
  | _ => []

/-- Unused words and fields are zero (R307). -/
def Job.zerosOk (j : Job) : Bool :=
  (List.range 12).all (fun i => (j.word (4 + i)) &&& (0xFFFFFFFF ^^^ (j.usedBits.getD i 0)) = 0)

/-- A host address: 48 bits, aligned (13 R358). -/
def addrOk (va align : Nat) : Bool := decide (va < 2 ^ 48) && va % align = 0

/-- The addresses of a kind: first word, alignment. -/
def Job.addresses (j : Job) : List (Nat × Nat) :=
  match j.kind with
  | 0x10 | 0x11 | 0x12 | 0x14 => [(4, 64), (6, 16)]
  | 0x13 => [(4, 64), (6, 16), (14, 64)]
  | 0x01 => [(9, 4)]
  | 0x03 => [(6, 4)]
  | 0x04 => [(5, 64)]
  | 0x05 => [(4, 64)]
  | 0x21 => [(6, 4)]
  | 0x20 => [(7, 4)]
  | 0x22 => if bit (j.word 4) 0 then [(7, 4)] else []
  | 0x40 => [(6, 64)]
  | _ => []

/-! ### Checks of a kind -/

/-- A word as FP32 that is positive, normal and finite. -/
def posNormal (w : Nat) : Bool := decide (0x800000 ≤ w) && decide (w < 0x7F800000)

/-- WIN where it is used (06 R159). -/
def winOk (ctl win : Nat) : Bool :=
  if bit ctl 5 then bit ctl 4 && decide (1 ≤ win) && decide (win ≤ 1048576) else true

/-- ACTL and its parameter words, apart from what needs the entries (06 R160). -/
def Job.actlOk (j : Job) : Bool :=
  let a := j.word 10
  let part := j.kind = 0x14
  let theta := j.word 13
  decide (bits a 2 0 ≤ 4) && bits a 31 20 = 0 && posNormal (j.word 11) && winOk a (j.word 12) &&
  (!bit a 9 || !part) &&
  (!bit a 10 || (decide (j.kind = 0x11) && decide (0 < theta) && decide (theta ≤ 0x42800000))) &&
  (if part then
    decide (bits a 19 16 ≤ bits a 15 12) && (bit a 11 || (bits a 2 0 = 4 && !bit a 3))
   else !bit a 11 && bits a 15 12 = 0 && bits a 19 16 = 0)

/-- BCTL and its parameter words (07 R193, 11 R308). -/
def Job.bctlOk (j : Job) : Bool :=
  let b := j.word 10
  decide (bits b 2 0 ≤ 4) && bits b 31 13 = 0 && posNormal (j.word 11) && posNormal (j.word 13) && winOk b (j.word 12) &&
  (decide (j.dword 14 ≠ 0) = bit b 12)

/-- The page format that OPEN names. -/
def Job.openFmt (j : Job) : PageFmt :=
  { fmt := bits (j.word 4) 3 0, layout := bits (j.word 4) 5 4, block := bits (j.word 4) 7 6, hd := bits (j.word 4) 16 8 }

/-- What OPEN's own words show (10 R273, 02 R42): format pairing, block size, ranges. -/
def Job.openOk (j : Job) : Bool :=
  let f := j.openFmt
  headDimOk f.hd && f.pairOk && (f.fine || f.block = 0) && (!f.fine || f.hd % f.blockSize = 0) &&
  decide (1 ≤ bits (j.word 4) 21 17) && decide (bits (j.word 4) 21 17 ≤ 16) &&
  decide (1 ≤ bits (j.word 5) 8 0) && decide (bits (j.word 5) 8 0 ≤ 256)

/-- The table of a TABLE_LOAD. -/
def State.loadTable (s : State) (j : Job) : Option TableDef := s.table (bits (j.word 4) 1 0) (bits (j.word 4) 15 8)

/-- NODE_MAX (10 R297). -/
def State.nodeMax (s : State) : Nat := s.reg 0xA000

/-- The checks that a kind's own chapter names, made on the descriptor alone. -/
def State.kindOk (s : State) (j : Job) : Bool :=
  match j.kind with
  | 0x10 => decide (1 ≤ j.word 8) && decide (j.word 8 ≤ 16384) && (ofmtOf (bits (j.word 9) 2 0)).isSome
  | 0x11 | 0x12 | 0x14 =>
    decide (1 ≤ j.word 8) && decide (j.word 8 ≤ 16384) && (ofmtOf (bits (j.word 9) 2 0)).isSome && j.actlOk
  | 0x13 =>
    decide (1 ≤ j.word 8) && decide (j.word 8 ≤ 16384) && (ofmtOf (bits (j.word 9) 2 0)).isSome &&
    (ofmtOf (bits (j.word 9) 5 3)).isSome && j.bctlOk
  | 0x01 => j.openOk
  | 0x03 => decide (1 ≤ j.word 5) && decide (j.word 5 ≤ 64)
  | 0x32 => decide (j.word 5 ≤ 1048576)
  | 0x21 => decide (0 < s.nodeMax) && decide (1 ≤ j.word 5) && decide (j.word 5 ≤ 16384)
  | 0x20 => decide (0 < s.nodeMax) && decide (j.word 5 ≤ 1048576)
  | 0x22 => decide (0 < s.nodeMax)
  | 0x30 | 0x31 =>
    decide (1 ≤ bits (j.word 5) 16 8) && decide (bits (j.word 5) 16 8 ≤ 256) && decide (1 ≤ j.word 7) && decide (j.word 7 ≤ 16384)
  | 0x40 => match s.loadTable j with | some t => decide (j.word 5 ≤ t.size) | none => false
  | _ => true

/-- Every check of the descriptor itself (R303 row 2). -/
def State.descOk (s : State) (j : Job) : Bool :=
  s.headerOk j && j.zerosOk && j.addresses.all (fun a => addrOk (j.dword a.1) a.2) && s.kindOk j

/-! ### Checks of the entries (R309 to R311, R416) -/

/-- The address slots that a kind uses (R309). -/
def Job.usedSlots (j : Job) : List Nat :=
  let c := j.word 10
  match j.kind with
  | 0x10 => [0, 1]
  | 0x13 => [0, 1, 2, 3, 4, 5] ++ (if bit c 6 then [6] else [])
  | _ =>
    [0, 1] ++ (if j.kind ≠ 0x14 ∨ bit c 11 then [2] else []) ++ (if bit c 6 then [3] else []) ++
    (if bit c 9 then [4, 5] else []) ++ (if bits c 15 12 ≠ 0 then [6] else [])

/-- Streams of an entry. -/
def Entry.streams (e : Entry) : List Nat := (List.range e.count).map (· + e.first)

/-- What an entry and its length entry show by themselves. -/
def Job.entryOk (j : Job) (reserved : Nat) (e : Entry) : Bool :=
  reserved = 0 && decide (1 ≤ e.count) && decide (e.count ≤ 256) && decide (e.rows ≤ 1048576) &&
  (e.klen = 0 || (j.kind ≠ 0x10 && bit (j.word 10) 7)) && (e.kspan = 0 || j.kind = 0x13) &&
  (!(decide (j.kind = 0x13) && bit (j.word 10) 4 && decide (0 < e.rows)) || decide (e.pos0 + e.rows ≤ e.kspan)) &&
  j.usedSlots.all (fun i => addrOk (e.slot i) 64)

/-- What an entry shows against its context: the streams exist, one band for APPEND, bias tables (06 R160, 09 R244). -/
def State.entryCtxOk (s : State) (j : Job) (e : Entry) : Bool :=
  match s.live? e.handle with
  | none => true
  | some r =>
    decide (e.first + e.count ≤ (s.row r).streams) &&
    (!(j.kind = 0x10 || j.qt) || e.streams.all (fun st => s.layerBand (s.dirOf r st).layer = s.layerBand (s.dirOf r e.first).layer)) &&
    (j.kind = 0x10 || !bit (j.word 10) 8 || e.streams.all (fun st => (s.dirOf r st).bias ≠ 0xFF))

/-- At most 16 query positions per context in ATTEND_DECODE (06 R160). -/
def decodeRowsOk (es : List Entry) : Bool :=
  es.all (fun e => decide (((es.filter (fun f => f.handle = e.handle)).foldl (fun n f => n + f.rows) 0) ≤ 16))

/-- No stream of a context in two entries (15 R416). -/
def distinctStreams : List Entry → Bool
  | [] => true
  | e :: es => es.all (fun f => e.handle ≠ f.handle || decide (e.first + e.count ≤ f.first) || decide (f.first + f.count ≤ e.first)) &&
    distinctStreams es

/-- The checks over all entries. -/
def State.entriesOk (s : State) (j : Job) (reserved : List Nat) : Bool :=
  (j.entries.zip reserved).all (fun p => j.entryOk p.2 p.1) && j.entries.all (s.entryCtxOk j) &&
  (j.kind ≠ 0x11 || decodeRowsOk j.entries) && (!s.limited || distinctStreams j.entries)

/-! ### Expansion (R313) -/

/-- Query blocks of an entry. -/
def Entry.blocks (e : Entry) : List Nat :=
  if e.rows = 0 then [] else (List.range ((e.pos0 + e.rows - 1) / 64 - e.pos0 / 64 + 1)).map (· + e.pos0 / 64)

/-- Tracker tile of a stream: its home tile; the anchor where the handle is stale at intake (log
entry 41). -/
def State.trackTile (s : State) (e : Entry) (st : Nat) : Nat :=
  match s.live? e.handle with
  | some r => s.homeOf r st
  | none => s.errs.anchor

/-- The items of one entry; `i` is its index. -/
def State.entryItems (s : State) (kind i : Nat) (e : Entry) : List Item :=
  if e.rows = 0 then []
  else if kind = 0x10 then [{ tile := s.trackTile e e.first, entry := i, stream := e.first }]
  else if kind = 0x11 then e.streams.map (fun st => { tile := s.trackTile e st, entry := i, stream := st })
  else e.streams.flatMap (fun st => e.blocks.map (fun b => { tile := s.trackTile e st, entry := i, stream := st, block := b }))

/-- How many items an entry yields, before they are made. -/
def Entry.itemCount (kind : Nat) (e : Entry) : Nat :=
  if e.rows = 0 then 0 else if kind = 0x10 then 1 else if kind = 0x11 then e.count else e.count * e.blocks.length

/-- The items of a job (R313): one on the anchor for a kind that is no batch kind. -/
def State.expand (s : State) (j : Job) : List Item :=
  if isBatch j.kind then (j.entries.zipIdx.map (fun p => s.entryItems j.kind p.2 p.1)).flatten
  else [{ tile := s.errs.anchor, entry := 0 }]

/-- Entries needed on each tile. -/
def itemNeeds (items : List Item) : List (Nat × Nat) :=
  let ts := (items.map (fun i => i.tile)).eraseDups
  ts.map (fun t => (t, (items.filter (fun i => i.tile = t)).length))

/-- Tracker entries in use on a tile: items that have not completed (R314). -/
def State.trackersUsed (s : State) (t : Nat) : Nat :=
  s.sched.jobs.foldl (fun n j => n + (j.items.filter (fun i => i.tile = t && !i.finished)).length) 0

/-- Free tracker entries of a tile. -/
def State.trackersFree (s : State) (t : Nat) : Nat := s.part.trackers - s.trackersUsed t

/-! ### Holding (R303, R304) -/

/-- Whether a completion slot of the pair is free. -/
def State.slotFree (s : State) (r : Nat) : Bool :=
  let used := (s.reg (ringReg r 0x1C) + (s.ring r).reserved + 2 ^ 32 - s.reg (ringReg r 0x20)) % 2 ^ 32
  decide (used < 2 ^ bits (s.reg (ringReg r 8)) 10 6)

/-- Rings with an aged descriptor that waits for tracker entries, other than `r` and those that aged after it. -/
def State.agedBefore (s : State) (r : Nat) : List Ring :=
  let me := s.ring r
  (s.sched.rings.filter (fun p => p.1 ≠ r && p.2.aged && p.2.heldTrk && (!me.aged || decide (p.2.agedAt < me.agedAt)))).map Prod.snd

/-- Whether needs fit the trackers, and no aged descriptor needs one of the tiles (R303, R304). -/
def State.fits (s : State) (r : Nat) (needs : List (Nat × Nat)) : Bool :=
  needs.all (fun n => decide (n.2 ≤ s.trackersFree n.1)) &&
  (s.agedBefore r).all (fun a => a.needs.all (fun m => needs.all (fun n => n.1 ≠ m.1)))

/-- Whether a ring is enabled with a descriptor pending. -/
def State.ringPending (s : State) (r : Nat) : Bool :=
  bit (s.reg (ringReg r 8)) 0 && !(s.ring r).draining && decide (s.reg (ringReg r 0xC) ≠ s.reg (ringReg r 0x10))

/-- Whether intake can go on with a ring: pending, no access of it waiting, and a held descriptor no longer held. -/
def State.ringReady (s : State) (r : Nat) : Bool :=
  let x := s.ring r
  s.ringPending r && !s.host.blocked (.intake r) && (!x.heldCpl || s.slotFree r) && (!x.heldTrk || s.fits r x.needs)

/-- HEAD advances: the next descriptor is a new one, and a completion slot is reserved (R303). -/
def State.consume (s : State) (r : Nat) : State :=
  let x := s.ring r
  let s := s.setReg (ringReg r 0x10) ((s.reg (ringReg r 0x10) + 1) % 2 ^ 32)
  let s : State := { s with sched := { s.sched with intakeOf := none } }
  s.setRing r { x with heldTrk := false, heldCpl := false, aged := false, agedAt := 0, counted := false, needs := [], reading := []
                       reserved := x.reserved + 1 }

/-- A job enters the list. -/
def State.addJob (s : State) (j : Job) : State :=
  { s with sched := { s.sched with jobs := s.sched.jobs ++ [j], nextJob := s.sched.nextJob + 1 } }

/-- Row 2 of R303: a record with a status, and no work item. -/
def State.refuseDesc (s : State) (r : Nat) (desc : List Nat) (status : Nat) : State :=
  let j : Job := { id := s.sched.nextJob, ring := r, seq := s.reg (ringReg r 0x3C), desc := desc, refused := true
                   st := .settled, status := status }
  ((s.consume r).addJob j).noteComplete j.id

/-- Row 5 of R303: accepted; the sequence number rises (R302), and a TABLE_LOAD joins its table's loads (14 R403). -/
def State.acceptDesc (s : State) (r : Nat) (j : Job) : State :=
  let s := (s.consume r).addJob j
  let s := s.setReg (ringReg r 0x3C) ((s.reg (ringReg r 0x3C) + 1) % 2 ^ 32)
  if j.kind = 0x40 then
    { s with cfg := { s.cfg with tables := s.cfg.tables.map (fun t =>
        if t.kind = bits (j.word 4) 1 0 ∧ t.num = bits (j.word 4) 15 8 then { t with loading := t.loading ++ [j.id] } else t) } }
  else s

/-! ### One descriptor -/

/-- Reads a range for intake at the anchor. -/
def State.intakeRead (s : State) (r va n : Nat) (hv : HostView) : State × Option Answer :=
  match s.translateAll s.errs.anchor (.intake r) (needs va n 0) with
  | .wait s' => (s', none)
  | .failed e s' => (s', some (.fail e))
  | .ok t s' => (s', some (readVirt hv t va n))

/-- The totals of R305. -/
def State.tooMany (s : State) (counts : List Nat) (needs : List (Nat × Nat)) : Bool :=
  decide (262144 < counts.foldl (· + ·) 0) || needs.any (fun n => decide (s.part.trackers < n.2))

/-- The last part of R303, once every read has succeeded and every check of the lists has passed. -/
def State.decide303 (s : State) (r : Nat) (j : Job) : State :=
  let count := (j.entries.map (Entry.itemCount j.kind)).foldl (· + ·) 0
  if 262144 < count then s.refuseDesc r j.desc stInvalid else
  let items := s.expand j
  let needs := itemNeeds items
  if needs.any (fun n => decide (s.part.trackers < n.2)) then s.refuseDesc r j.desc stInvalid
  else if isBatch j.kind && !s.verifies j items then s.refuseDesc r j.desc stVerify
  else if !s.fits r needs then s.hold r true needs
  else s.acceptDesc r { j with items := items }

/-- The lists of a batch kind are read and checked. -/
def State.intakeBatch (s : State) (r : Nat) (j : Job) (hv : HostView) : State :=
  let n := j.word 8
  let s := s.setRing r { s.ring r with reading := j.desc }
  match s.intakeRead r (j.dword 4) (64 * n) hv with
  | (s, none) => s
  | (s, some (.fail e)) => s.refuseDesc r j.desc e
  | (s, some (.ok bl)) =>
    match s.intakeRead r (j.dword 6) (16 * n) hv with
    | (s, none) => s
    | (s, some (.fail e)) => s.refuseDesc r j.desc e
    | (s, some (.ok lt)) =>
      let es := (List.range n).map (fun i => parseEntry (bytesAt bl (64 * i) 64) (bytesAt lt (16 * i) 16))
      let resv := (List.range n).map (fun i => bits (fieldAt bl (64 * i + 4) 4) 31 17)
      let j := { j with entries := es }
      if !s.entriesOk j resv then s.refuseDesc r j.desc stInvalid else s.decide303 r j

/-- A descriptor that has been read is checked; the lists of a batch kind are read next. -/
def State.intakeDesc (s : State) (r : Nat) (desc : List Nat) (hv : HostView) : State :=
  let j : Job := { id := s.sched.nextJob, ring := r, seq := s.reg (ringReg r 0x3C), desc := desc }
  if !s.descOk j then s.refuseDesc r j.desc stInvalid
  else if isBatch j.kind then s.intakeBatch r j hv
  else s.decide303 r j

/-- Intake of the next descriptor of a ring (R303): with no completion slot free it is held whatever it holds. -/
def State.intakeRing (s : State) (r : Nat) (hv : HostView) : State :=
  if !s.slotFree r then s.hold r false [] else
  if (s.ring r).reading ≠ [] then s.intakeDesc r (s.ring r).reading hv else
  let va := s.reg64 (ringReg r 0) + 64 * (s.reg (ringReg r 0x10) % 2 ^ bits (s.reg (ringReg r 8)) 5 1)
  match s.intakeRead r va 64 hv with
  | (s, none) => s
  | (s, some (.fail e)) => s.refuseDesc r [] e
  | (s, some (.ok bs)) => s.intakeDesc r (wordsOf bs 16) hv

/-- The ring to serve when no descriptor is under way (R302, R304): an aged descriptor that can be accepted first, the one held longest,
else round robin from the ring after the one served last. -/
def State.freshRing (s : State) : Option Nat :=
  let ready := (List.range s.part.rings).filter s.ringReady
  let aged := ready.filter (fun r => (s.ring r).aged)
  match aged.foldl (fun (b : Option Nat) r => match b with
      | none => some r
      | some q => if (s.ring r).agedAt < (s.ring q).agedAt then some r else b) none with
  | some r => some r
  | none =>
    let after := ready.filter (fun r => decide (s.sched.lastRing < r))
    (after ++ ready).head?

/-- Whether a read of intake's waits for a page walk; one that waits for an open fault holds its ring instead (R303). -/
def State.intakeWalks (s : State) (r : Nat) : Bool := s.host.walks.any (fun k => k.who.any (fun p => p.1 = .intake r))

/-- The ring that intake serves next: one descriptor at a time (R302). A descriptor whose reads wait for a walk keeps intake; one whose
read has faulted holds its ring, and the others go on (R303). -/
def State.nextRing (s : State) : Option Nat :=
  match s.sched.intakeOf with
  | some r =>
    if !s.ringPending r then s.freshRing
    else if s.intakeWalks r then none
    else if s.host.blocked (.intake r) then s.freshRing
    else some r
  | none => s.freshRing

/-- One turn of intake. It runs in READY (14 R386), and pauses while the anchor is replaced (16 R460). -/
def State.intake (s : State) (hv : HostView) : State :=
  if s.cfg.mode ≠ .ready || s.errs.takeover then s else
  match s.nextRing with
  | none => s
  | some r => { s with sched := { s.sched with lastRing := r, intakeOf := some r } }.intakeRing r hv

/-! ### The commands -/

def execDescriptorIntake (hv : HostView) (s : State) : Out := .next (s.intake hv)

def execDescriptorAged (ring : BitVec 6) (s : State) : Out := .next (s.ageRing ring.toNat)

end Sys2Proof.Machine
end

