-- ==== Sys2Proof/Machine/Append.lean ====
section
/-! DEFINITION. APPEND and quantize-through (09 R244 to R251, 10 R279, 08 R221): the frames and blocks an append needs,
the staging of rows, and the commit. -/

namespace Sys2Proof.Machine

/-! ### Host rows (06 R162 stage 1, 11 R311) -/

/-- An element of a host row as an FP32 code, exactly; a signalling NaN stays signalling. -/
def widen (f : Fmt) (code : Nat) : Word :=
  if f = .fp32 then BitVec.ofNat 32 code else
  match decode f code with
  | .nan true => 0x7FA00000#32
  | v => BitVec.ofNat 32 (rtoVal .fp32 v)

/-- Bytes of one element of a host format. -/
def Fmt.bytes (f : Fmt) : Nat := (fmtInfo f).width / 8

/-- Row stride S of 11 R311. -/
def rowStride (f : Fmt) (hd : Nat) : Nat := roundUp (hd * f.bytes) 64

/-- The format an IN_FMT, AUX_FMT or OFMT code names. -/
def fmtOf (code : Nat) : Fmt := (ofmtOf code).getD .bf16

/-- The codes of a host row. -/
def rowCodes (f : Fmt) (hd : Nat) (bs : List Byte) : List Nat := (List.range hd).map (fun i => fieldAt bs (i * f.bytes) f.bytes)

/-- An FP32 code with a subnormal flushed to a zero of its sign. -/
def flushWord (w : Word) : Word := if w.toNat % 2 ^ 31 < 0x800000 then w &&& 0x80000000#32 else w

/-- A host row as FP32 codes: FP32 elements are flushed in fast mode, elements of other formats are exact (02 R55). -/
def rowWords (strict : Bool) (f : Fmt) (hd : Nat) (bs : List Byte) : List Word :=
  (rowCodes f hd bs).map (fun c => if !strict && f = .fp32 then flushWord (widen f c) else widen f c)

/-- A host row as decoded values. -/
def rowVals (strict : Bool) (f : Fmt) (hd : Nat) (bs : List Byte) : List Val := (rowCodes f hd bs).map (operand strict f)

/-! ### What an append needs (R250) -/

/-- Page format of a context. -/
def CtxRow.pageFmt (x : CtxRow) : PageFmt := { fmt := x.fmt, layout := x.layout, block := x.block, hd := x.hd }

/-- Pages of which an append of `n` rows to a stream of length `l` writes slot 0. -/
def newPages (l n t : Nat) : List Nat :=
  let a := ceilDiv l t
  let b := ceilDiv (l + n) t
  (List.range (b - a)).map (· + a)

/-- The existing last page that an append extends, where it is partly filled. -/
def lastPage (l n t : Nat) : Option Nat := if l % t = 0 ∨ n = 0 then none else some (l / t)

/-- Entries of a job before entry `n` whose appends to the same context are staged and not committed (06 R179). -/
def Job.stagedBefore (j : Job) (n : Nat) : List Nat :=
  match j.entries[n]? with
  | none => []
  | some e => (List.range n).filter (fun m => match j.entries[m]? with | some f => f.handle = e.handle && f.app = 2 | none => false)

/-- Whether an entry names a stream. -/
def Entry.names (e : Entry) (st : Nat) : Bool := decide (e.first ≤ st) && decide (st < e.first + e.count)

/-- Length of a stream as entry `n` of a job finds it: with the rows that earlier entries have staged. -/
def State.lenBefore (s : State) (j : Job) (n r st : Nat) : Nat :=
  s.streamLen r st + ((j.stagedBefore n).map (fun m => match j.entries[m]? with
    | some f => if f.names st then f.rows else 0
    | none => 0)).sum

/-- The page of a stream that earlier entries of the job have staged last. -/
def Job.stagedPage (j : Job) (n st p : Nat) : Option StagedPage :=
  ((j.items.filter (fun i => (j.stagedBefore n).contains i.entry)).flatMap Item.staged).reverse.find? (fun g => g.stream = st && g.index = p)

/-- Frames that entry `n` of a job needs for one stream (R250); `reenc` says that staging found the last page to be re-encoded. A page
that an earlier entry has staged has its frame. -/
def State.streamNeeds (s : State) (j : Job) (n r st rows : Nat) (reenc : Bool) : List FrameNeed :=
  let x := s.row r
  let l := s.lenBefore j n r st
  let last := match lastPage l rows x.tspan with
    | none => []
    | some p => if (j.stagedPage n st p).any StagedPage.fresh then [] else
      match s.pageEntry r st p with
      | .frame f =>
        if (s.frame f).st = .shared then (if (j.stagedPage n st p).isSome then [] else [⟨st, p, frameTile f, .copy⟩])
        else if reenc then [⟨st, p, frameTile f, .reencode⟩] else []
      | _ => []
  last ++ (newPages l rows x.tspan).map (fun p => ⟨st, p, s.pageTile (s.dirOf r st).layer r st p, .fresh⟩)

/-- Map blocks that entry `n` of a job needs for one stream, with its home tile: those that earlier entries do not take. -/
def State.streamBlocks (s : State) (j : Job) (n r st rows : Nat) : Nat × Nat :=
  let t := (s.row r).tspan
  let l0 := s.streamLen r st
  let l := s.lenBefore j n r st
  (s.homeOf r st, s.blocksFor r st (ceilDiv l0 t) (ceilDiv (l + rows) t) - s.blocksFor r st (ceilDiv l0 t) (ceilDiv l t))

/-- Takes map blocks for each (tile, count), all or nothing; the tile that has too few otherwise. -/
def State.takeAllBlocks (s : State) : List (Nat × Nat) → List (Nat × Nat) → Except Nat (List (Nat × Nat) × State)
  | [], got => .ok (got, s)
  | (t, n) :: rest, got =>
    match s.takeBlocks n t with
    | some (l, s') => s'.takeAllBlocks rest (got ++ l.map (fun b => (t, b)))
    | none => .error t

/-! ### Staging (R245) -/

/-- One stream being staged. -/
structure StreamStage where
  page : Page
  /-- Pages already full, oldest first. -/
  full : List StagedPage
  fresh : Bool
  reencodes : Nat

/-- Starts the staging of a stream by entry `n` of a job: its last page where it is partly filled, as an earlier entry has staged it or
as it stands, else a new page. -/
def State.stageFrom (s : State) (j : Job) (n r st : Nat) : StreamStage :=
  let x := s.row r
  let l := s.lenBefore j n r st
  match lastPage l 1 x.tspan with
  | some p => match j.stagedPage n st p with
    | some g => ⟨g.page, [], false, 0⟩
    | none => match s.pageEntry r st p with
      | .frame f => ⟨(s.frame f).page, [], false, 0⟩
      | _ => ⟨freshPage x.pageFmt p, [], true, 0⟩
  | none => ⟨freshPage x.pageFmt (l / x.tspan), [], true, 0⟩

/-- What is staged so far, as pages of a stream. -/
def StreamStage.pages (g : StreamStage) (st : Nat) : List StagedPage :=
  g.full ++ (if g.page.rows = 0 then [] else [⟨st, g.page.index, g.page, g.fresh, g.reencodes⟩])

/-- How an append reads its rows: numerics, how the normalization of each row sums, tables, format and first position. -/
structure AppendCtl where
  pf : Profile
  num : NumCtl
  sum : Nat → NestSum
  norm : NormTable
  turn : TurnTable
  fmt : Fmt
  pos0 : Nat

/-- One row of a stream passes steps 1 to 7 (R245). -/
def stageOne (a : AppendCtl) (st : Nat) (g : StreamStage) (pos : Nat) (k v : List Word) : FM StreamStage := do
  let k ← normRow a.pf a.num (a.sum (pos - a.pos0)) a.norm k
  let k ← rotateRow a.pf a.num.strict a.turn pos k
  let p ← stageRow g.page k v
  let n := g.reencodes + p.reencodes
  if p.page.rows < p.page.tspan then pure { g with page := p.page, reencodes := n }
  else pure { page := freshPage p.page.fmt (p.page.index + 1), fresh := true, reencodes := 0
              full := g.full ++ [⟨st, p.page.index, p.page, g.fresh, n⟩] }

/-- Stages the rows of one stream, in ascending slot order; `kv` gives the bytes of the K and V rows. -/
def stageRows (a : AppendCtl) (st hd : Nat) (kv : List (List Byte × List Byte)) (g : StreamStage) : FM StreamStage :=
  (kv.zipIdx).foldlM (fun g p =>
    stageOne a st g (a.pos0 + p.2) (rowWords a.num.strict a.fmt hd p.1.1) (rowWords a.num.strict a.fmt hd p.1.2)) g

/-- Rows of one stream in a K or V buffer of an entry (11 R311). -/
def rowsOf (bs : List Byte) (e : Entry) (st stride : Nat) : List (List Byte) :=
  (List.range e.rows).map (fun r => bytesAt bs (((st - e.first) * e.rows + r) * stride) stride)

/-- Stages an entry's rows into every stream of the entry. -/
def State.stageEntry (s : State) (a : AppendCtl) (j : Job) (n r : Nat) (e : Entry) (ks vs : List Byte) : FM (List StagedPage) := do
  let hd := (s.row r).hd
  let stride := rowStride a.fmt hd
  let l ← e.streams.mapM (fun st => do
    let g ← stageRows a st hd ((rowsOf ks e st stride).zip (rowsOf vs e st stride)) (s.stageFrom j n r st)
    pure (g.pages st))
  pure l.flatten

/-- AppendCtl of a job's entry. -/
def State.appendCtl (s : State) (j : Job) (i : Item) (r : Nat) (e : Entry) : AppendCtl :=
  { pf := profileOf s.cfg.image.np, num := j.num s.part.chunked s.cfg.image.np, norm := s.normTable i.bind.gens (s.row r).kn
    sum := fun row => (s.stageSums j e i (s.row r) false row).norm
    turn := s.turnTable i.bind.gens (s.row r).turn, fmt := fmtOf (bits (j.word 9) 2 0), pos0 := e.pos0 }

/-- The slots that hold the K and V rows (11 R309). -/
def Job.kvSlots (j : Job) : Nat × Nat := if j.kind = 0x10 then (0, 1) else (4, 5)

/-- Bytes of the K or V rows of an entry. -/
def Entry.kvBytes (e : Entry) (f : Fmt) (hd : Nat) : Nat := e.count * e.rows * rowStride f hd

/-! ### Acquired frames that a commit leaves or drops -/

/-- Marks the targets of copies and re-encodings MOVING, of the descriptor's class (08 R226, 09 R254). -/
def State.markTarget (s : State) (cls : Nat) (a : Acq) : State :=
  match a.use with
  | .fresh => s
  | _ => s.setFrame a.frame { (s.frame a.frame).next with st := .moving, cls := cls, reserve := a.reserve }

/-- A frame acquired that is not used goes back: a target is FREE again (08 R226, 09 R251). -/
def State.dropAcq (s : State) (a : Acq) : State :=
  match a.use with
  | .fresh => s.giveBack a
  | _ => ({ s with store := { s.store with held := s.store.held.erase a.frame } }).freeFrame a.frame

/-- An item that bound generations of tables lets go of them (14 R402). -/
def TableDef.unbind (t : TableDef) (gens : List (Nat × Nat × Nat)) : TableDef :=
  match gens.find? (fun g => g.1 = t.kind && g.2.1 = t.num) with
  | none => t
  | some g => if g.2.2 = t.gen then { t with refsCur := t.refsCur - 1 } else { t with refsOld := t.refsOld - 1 }

/-- Releases what an item holds, apart from its tracker entry: pins, acquired frames and blocks, its charge, the
generations it bound. -/
def State.releaseItem (s : State) (id k : Nat) : State :=
  match s.item id k with
  | none => s
  | some i =>
    let cls := ((s.job id).map Job.cls).getD 0
    let s := i.acq.foldl (fun s a => s.dropAcq a) s
    let s := i.blocks.foldl (fun s b => s.giveBlock b.1 b.2) s
    let s := s.discharge cls i.charge
    let s := { s with cfg := { s.cfg with tables := s.cfg.tables.map (fun (t : TableDef) => t.unbind i.bind.gens) } }
    let s : State := { s with host := s.host.dropCarried (.item id k) }
    let s := s.leaveAlloc (.item id k)
    let s := (s.closeWindows id k).modItem id k (fun i => { i with acq := [], blocks := [], charge := 0, wide := [], pins := [], bind := {} })
    i.pins.foldl (fun s f => s.unpinFrame f) s

/-- An item ends with a status and writes nothing; WORK_ITEM_COMPLETE frees its tracker entry. -/
def State.failItem (s : State) (id k status : Nat) : State :=
  (s.releaseItem id k).modItem id k (fun i => { i with st := .computed, status := status, started := true, staged := [] })

/-! ### Commit (R249, R251, 10 R279, 08 R221) -/

/-- Seals a frame's page in the update that has raised GEN, and enters it into its BUILDING node (08 R221, 10 R292). -/
def State.sealFrame (s : State) (r st f : Nat) : State :=
  let x := s.frame f
  let node := s.buildNode r x.page.index
  let hash := node.map (fun n => BitVec.ofNat 64 (s.node n).hash)
  let s := s.setFrame f { x with st := .isSealed, page := sealPage (BitVec.ofNat 32 x.gen) hash x.page }
  let s := s.bumpTile (frameTile f) 0x144 1
  match node with
  | some n => s.enterNode n st f true
  | none => s

/-- Writes a staged page into a frame in one update; a full one is sealed. -/
def State.writePage (s : State) (r : Nat) (p : StagedPage) (f : Nat) (x : Frame) : State :=
  let full := decide (p.page.tspan ≤ p.page.rows)
  let s := s.setFrame f { x.next with page := p.page, st := .priv }
  let s := s.bumpTile (frameTile f) 0x168 p.reencodes
  if full then s.sealFrame r p.stream f else s

/-- The frame an item has acquired for a page. -/
def Item.acqFor (i : Item) (st p : Nat) : Option Acq := i.acq.find? (fun a => a.stream = st && a.page = p)

/-- Uses an acquired frame: it leaves the item, carrying its charge. -/
def State.useAcq (s : State) (id k : Nat) (a : Acq) : State :=
  let s := s.modItem id k (fun i => { i with acq := i.acq.erase a, charge := i.charge - 1 })
  { s with store := { s.store with held := s.store.held.erase a.frame } }

/-- Writes a page into an acquired frame and maps it (R251, 10 R279 steps 3 to 5). -/
def State.placePage (s : State) (id k r cls : Nat) (p : StagedPage) (a : Acq) : State :=
  let s := s.useAcq id k a
  let s := s.writePage r p a.frame { s.frame a.frame with refcnt := 1, cls := cls, reserve := a.reserve, charged := true }
  s.setPage r p.stream p.index (.frame a.frame)

/-- An item's own pin on a frame that its commit has replaced is released: its rows attend over the new one (10 R279 step 1). -/
def State.leaveOld (s : State) (id k st p f : Nat) : State :=
  match s.item id k with
  | none => s
  | some i =>
    let s := s.modItem id k (fun i => { i with
      pins := i.pins.erase f, bind := { i.bind with pages := i.bind.pages.filter (fun b => !(b.1 = st && b.2.1 = p)) } })
    if i.pins.contains f then s.unpinFrame f else s

/-- Commits one staged page. -/
def State.commitPage (s : State) (id k r cls : Nat) (p : StagedPage) : State :=
  match s.item id k with
  | none => s
  | some i =>
    if p.fresh then
      match i.acqFor p.stream p.index with
      | none => s
      | some a =>
        let home := s.homeOf r p.stream
        let supply := (i.blocks.filter (fun b => b.1 = home)).map Prod.snd
        let g := s.growMap r p.stream p.index supply
        let s := g.1.modItem id k (fun i => { i with blocks := i.blocks.filter (fun b => b.1 ≠ home) ++ g.2.map (fun b => (home, b)) })
        let s := s.placePage id k r cls p a
        s.setDir r p.stream { s.dirOf r p.stream with pages := p.index + 1 }
    else
      match s.pageEntry r p.stream p.index with
      | .frame f =>
        let x := s.frame f
        let others := x.pincnt - i.pins.count f
        let move := x.st = .shared ∨ (0 < p.reencodes ∧ 0 < others)
        match (if move then i.acqFor p.stream p.index else none) with
        | some a =>
          let q := { p with page := { p.page with isSealed := false, published := false, sealGen := 0#32, prefixHash := 0#64, checksum := 0#32 } }
          ((s.placePage id k r cls q a).unrefFrame f).leaveOld id k p.stream p.index f
        | none => s.writePage r p f x
      | _ => s

/-- Commits every staged page of an item, streams in order; what is left unused goes back (R251). -/
def State.commitAppend (s : State) (id k r : Nat) (ps : List StagedPage) : State :=
  let cls := ((s.job id).map Job.cls).getD 0
  let s := ps.foldl (fun s p => s.commitPage id k r cls p) s
  match s.item id k with
  | none => s
  | some i =>
    let s := i.acq.foldl (fun s a => s.dropAcq a) s
    let s := i.blocks.foldl (fun s b => s.giveBlock b.1 b.2) s
    let s := s.discharge cls i.charge
    s.modItem id k (fun i => { i with acq := [], blocks := [], charge := 0, staged := [] })

end Sys2Proof.Machine
end

