-- ==== Sys2Proof/Machine/Plan.lean ====
section
/-! DEFINITION. What a work item of a batch kind covers: its rows, horizons and pages (06 R166 to R168, 11 R310, R313),
the host bytes it touches (11 R311), the tables it reads (06 R161), the cores it runs on (12 R329 to R331). -/

namespace Sys2Proof.Machine

/-! ### Pages -/

/-- Whether a row of an entry has a leaf on a page that is not null by position and length (06 R167, R168). Segment IDs stand in
host memory, and are taken into account by the command that reads them. -/
def leafLive (mc : MaskCtl) (e : Entry) (len t row p : Nat) : Bool :=
  let m := { mc with segment := false }
  decide (p < leafCount m (rowShape e len row) t) && !isNullLeaf m (rowShape e len row) t p

/-- Pages that some row of an item reads. -/
def itemPages (mc : MaskCtl) (e : Entry) (kind : Nat) (i : Item) (len t pages : Nat) : List Nat :=
  (List.range pages).filter (fun p => (e.itemRows kind i).any (fun r => leafLive mc e len t r p))

/-! ### Quantize-through (06 R179) -/

/-- The index of the item that makes the append of an entry: the first of the entry. -/
def Job.appender (j : Job) (entry : Nat) : Option Nat := (j.items.zipIdx.find? (fun p => p.1.entry = entry)).map Prod.snd

/-- Whether item `k` of a job still has an append to make: an APPEND item, or the first item of an entry under QT until
the append has been made. -/
def Job.appends (j : Job) (k : Nat) (i : Item) : Bool :=
  j.kind = 0x10 || (j.qt && j.appender i.entry = some k && decide (((j.entries[i.entry]?).map Entry.app).getD 0 = 0))

/-- Whether two entries name one stream of one context. -/
def Entry.meets (a b : Entry) : Bool :=
  a.handle = b.handle && decide (a.first < b.first + b.count) && decide (b.first < a.first + a.count)

/-- Whether the appends of earlier entries into the same streams have been made, or under QT staged (09 R257), and those of the
whole context before an item that makes none (06 R179). -/
def Job.appendTurn (j : Job) (k : Nat) (i : Item) : Bool :=
  let mine := j.entries.getD i.entry { handle := 0, first := 0, count := 0, slots := [], rows := 0, pos0 := 0, klen := 0, kspan := 0 }
  let earlier := (List.range i.entry).filter (fun n => match j.entries[n]? with | some e => e.meets mine && decide (0 < e.rows) | none => false)
  if j.kind = 0x10 then j.items.all (fun x => !earlier.contains x.entry || x.finished)
  else if j.qt then
    if j.appends k i then earlier.all (fun n => match j.entries[n]? with | some e => e.app ≠ 0 | none => true)
    else decide (mine.app = 1) || decide (256 ≤ mine.app)
  else true

/-- The context of an item. -/
def Job.handleOf (j : Job) (i : Item) : Option Nat := (j.entries[i.entry]?).map Entry.handle

/-- Items of one context acquire in ascending block index, whichever job they belong to (07 R207). -/
def State.blockTurn (s : State) (j : Job) (i : Item) : Bool :=
  decide (j.kind ≠ 0x13) ||
  s.sched.jobs.all (fun g => decide (g.kind ≠ 0x13) || g.items.all (fun x =>
    x.started || x.finished || decide (i.block ≤ x.block) || decide (g.handleOf x ≠ j.handleOf i)))

/-- The entries of a job that name a context and whose append under QT is neither committed nor failed, with their rows. -/
def Job.unmade (j : Job) (handle : Nat) : List (Nat × Entry) :=
  (j.entries.zipIdx.filter (fun p => p.1.handle = handle && (decide (p.1.app = 0) || decide (p.1.app = 2)) &&
    (j.appender p.2).isSome)).map (fun p => (p.2, p.1))

/-- The rows of an item, position ascending, then group member ascending: (row, member). -/
def Entry.rowsOfItem (e : Entry) (kind : Nat) (i : Item) (group : Nat) : List (Nat × Nat) :=
  (e.itemRows kind i).flatMap (fun r => (List.range group).map (fun g => (r, g)))

/-! ### The cores of an item (12 R329 to R331, 16 R451) -/

/-- A logical core of a tile, or the one that its work has moved to. -/
def State.coreAt (s : State) (t core : Nat) : Nat := 4096 * t + s.serving t core

/-- The core that placement names for a page of a stream, on a tile. -/
def State.placedCore (s : State) (r st p t : Nat) : Nat := s.coreAt t (s.pageCore r st p)

/-- Key of the leaf of a row of a decode item on a frame, among those placed in rounds. -/
def leafKey (f row member : Nat) : Nat := f * 65536 + row * 16 + member

/-- The core that runs an item's leaf of a row on a page: that of its batching round, else the one of its placement (R330). -/
def State.leafCore (s : State) (r : Nat) (i : Item) (p f row member : Nat) : Nat :=
  match i.leafAt.find? (fun x => x.1 = leafKey f row member) with
  | some x => s.coreAt (x.2 / 4096) (x.2 % 4096)
  | none => s.placedCore r i.stream p (frameTile f)

/-- The core that runs the steps of a page of an item that are no row's own. -/
def State.keyCore (s : State) (r : Nat) (i : Item) (p f : Nat) : Nat := s.placedCore r i.stream p (frameTile f)

/-- The core that stages an append: that of the first page it writes, on the item's tile (log entry 60). -/
def State.stageCore (s : State) (j : Job) (i : Item) (e : Entry) (r : Nat) : Nat :=
  s.placedCore r e.first (s.lenBefore j i.entry r e.first / max 1 (s.row r).tspan) i.tile

/-- The core of a row's merges and epilogue, and of every step that placement names no core for (R331, log entry 60). -/
def Item.mergeCore (i : Item) : Nat := i.merge.getD (4096 * i.tile)

/-- The cores of a running item's steps that wait or have run: of its leaves, its merges, its staging. -/
def State.itemCores (s : State) (j : Job) (k : Nat) (i : Item) : List Nat :=
  match j.entries[i.entry]? with
  | none => i.ran
  | some e =>
    let r := bits e.handle 13 0
    let leaves := i.bind.pages.map (fun p => s.placedCore r p.1 p.2.1 (frameTile p.2.2))
    let stage := if j.appends k i then [s.stageCore j i e r] else []
    i.ran ++ i.merge.toList ++ i.leafAt.map (fun x => s.coreAt (x.2 / 4096) (x.2 % 4096)) ++ leaves ++ stage

/-- The cores of the steps that running items have dispatched, one for each step that waits: their pages' and their merges (log
entry 233). -/
def State.stepCores (s : State) : List Nat :=
  s.sched.jobs.flatMap (fun j => (j.items.zipIdx.filter (fun p => p.1.st = .running)).flatMap (fun p => s.itemCores j p.2 p.1))

/-- The core of a stream's band with the fewest steps waiting, ties to the lowest (R331). -/
def State.chooseMerge (s : State) (r st : Nat) : Option Nat :=
  let busy := s.stepCores
  let ts := match s.layerBand (s.dirOf r st).layer with | some b => s.servingTiles b | none => []
  let cores := ts.flatMap (fun t => ((List.range s.part.cores).filter (s.coreIn t)).map (4096 * t + ·))
  match cores.find? (fun c => !busy.contains c) with
  | some c => some c
  | none => (cores.foldl (fun (a : Option (Nat × Nat)) c =>
      let n := busy.count c
      match a with
      | some b => if n < b.2 then some (c, n) else some b
      | none => some (c, n)) none).map Prod.fst

/-- An item without a merge core, at its start or a retry, takes one (R331, R347). -/
def State.withMerge (s : State) (j : Job) (k : Nat) : State :=
  match s.item j.id k with
  | none => s
  | some i =>
    match i.merge, j.entries[i.entry]? with
    | none, some e => s.modItem j.id k (fun x => { x with merge := s.chooseMerge (bits e.handle 13 0) i.stream })
    | _, _ => s

/-- A core begins an item's work: its flags are clear, and a cache size committed meanwhile takes effect, which empties its cache
(02 R63, 03 R80). -/
def State.useCore (s : State) (id k core : Nat) : State :=
  match s.item id k with
  | none => s
  | some i =>
    if i.ran.contains core then s else
    let size := bits (s.liveFor (core / 4096) 0x1040) 3 2
    let cache := if tget 0 s.cores.cacheSize core = size then s.cores.cache else s.cores.cache.filter (fun p => p.1 / 128 ≠ core)
    let s : State := { s with cores := { s.cores with
      flags := tset 0#6 s.cores.flags core 0#6, cacheSize := tset 0 s.cores.cacheSize core size, cache := cache } }
    s.modItem id k (fun x => { x with ran := x.ran ++ [core] })

/-- Takes what a computation of an item on a core left: the flags of the core and of the item (02 R63, R64), its repeats, the Cuboid
counters of its tile (04 R132), its spill slots. A repeated run counts only the spill points that the earlier one did not (04 R122). -/
def State.took (s : State) (id k core : Nat) (a : Acc) : State :=
  let s := s.useCore id k core
  match s.item id k with
  | none => s
  | some i =>
    let t := core / 4096
    let n := i.spills + a.spills
    let s := ((s.bumpTile t 0x118 a.repeats).bumpTile t 0x11C a.satTiles).bumpTile t 0x120 (max n i.spillMax - max i.spills i.spillMax)
    let s : State := { s with cores := { s.cores with flags := tset 0#6 s.cores.flags core (tget 0#6 s.cores.flags core ||| a.flags) } }
    (s.spillSlots core a.slots).modItem id k (fun x => { x with
      flags := x.flags ||| a.flags, repeats := x.repeats + a.repeats, spills := n })

/-! ### Host bytes of an item (11 R311, 13 R365) -/

/-- Rows of an item at a stride in an address slot, one run per group member. -/
def rowRuns (e : Entry) (i : Item) (group slot r0 n stride : Nat) : List (Nat × Nat) :=
  (List.range group).map (fun g => (e.slot slot + (((i.stream - e.first) * group + g) * e.rows + r0) * stride, n * stride))

def runNeeds (runs : List (Nat × Nat)) (acc : Nat) : List Need := runs.flatMap (fun r => needs r.1 r.2 acc)

/-- Runs as the ranges of a transfer that keeps the widths. -/
def runFetches (runs : List (Nat × Nat)) : List Fetch := runs.map (fun r => { va := r.1, bytes := r.2 })

/-- Record stride of 06 R188. -/
def partialStride (hd : Nat) : Nat := roundUp (8 + 4 * hd) 64

/-- The output slot and stride of an ATTEND item's rows: O rows, or partial records. -/
def Job.outStride (j : Job) (hd : Nat) : Nat :=
  if j.kind = 0x14 ∧ !bit j.ctl 11 then partialStride hd else rowStride (fmtOf (bits j.ctl 2 0)) hd

/-- Bytes of the segment buffer that an entry reads (06 R166). -/
def segBytes (e : Entry) (len : Nat) : Nat := 2 * max len (e.pos0 + e.rows)

/-- Slot of the segment IDs (11 R309). -/
def Job.segSlot (j : Job) : Nat := if j.kind = 0x13 then 6 else 3

/-- Format of dQ, dK and dV (07 R192). -/
def Job.gradFmt (j : Job) : Fmt := if bit j.ctl 9 then .bf16 else .fp32

/-- The host ranges that a batch item reads. Segment IDs are widened on their way (13 R379). -/
def Job.itemReads (j : Job) (k : Nat) (i : Item) (e : Entry) (x : CtxRow) (len : Nat) : List Fetch :=
  let f := fmtOf (bits (j.word 9) 2 0)
  let span := e.rowSpan j.kind i
  let rows (slot stride : Nat) := runFetches (rowRuns e i x.group slot span.1 span.2 stride)
  let kv := if j.appends k i then
    runFetches [(e.slot j.kvSlots.1, e.kvBytes f x.hd), (e.slot j.kvSlots.2, e.kvBytes f x.hd)] else []
  let seg : List Fetch := if j.kind ≠ 0x10 ∧ bit j.ctl 6 then
    [{ va := e.slot j.segSlot, bytes := segBytes e len, srcW := 3, dstW := 4 }] else []
  if j.kind = 0x10 then kv
  else if j.kind = 0x13 then
    rows 0 (rowStride f x.hd) ++ rows 1 (rowStride (fmtOf (bits (j.word 9) 5 3)) x.hd) ++
    rows 2 (rowStride (fmtOf (bits j.ctl 2 0)) x.hd) ++ rows 3 4 ++ seg
  else kv ++ rows 0 (rowStride f x.hd) ++ seg ++ rows 6 (bits j.ctl 15 12 * partialStride x.hd)

/-- The host accesses by which a batch item writes. -/
def Job.itemWrites (j : Job) (i : Item) (e : Entry) (x : CtxRow) (len : Nat) : List Need :=
  let span := e.rowSpan j.kind i
  let rows (slot stride : Nat) := runNeeds (rowRuns e i x.group slot span.1 span.2 stride) 1
  if j.kind = 0x10 then []
  else if j.kind = 0x13 then
    let g := rowStride j.gradFmt x.hd
    rows 4 g ++ needs (e.slot 5 + (i.stream - e.first) * e.kspan * 2 * g) (2 * keyEnd j.mask e len * g) 1 ++
    (if bit j.ctl 12 then needs (j.dword 14) 64 1 else [])
  else rows 1 (j.outStride x.hd) ++ (if j.kind = 0x14 ∧ !bit j.ctl 11 then [] else rows 2 4)

/-- Every host access of a batch item. -/
def Job.itemNeeds (j : Job) (k : Nat) (i : Item) (e : Entry) (x : CtxRow) (len : Nat) : List Need :=
  runNeeds ((j.itemReads k i e x len).map (fun f => (f.va, f.bytes))) 0 ++ j.itemWrites i e x len

/-- The host ranges that a job that is no batch job reads, known before it runs: (address, bytes). -/
def State.jobReads (s : State) (j : Job) : List (Nat × Nat) :=
  let span (h : Nat) : Nat := match s.live? h with | some r => (s.row r).tspan | none => 0
  match j.kind with
  | 0x01 => [(j.dword 9, 4 * bits (j.word 5) 8 0)]
  | 0x05 => [(j.dword 4, 2368)]
  | 0x21 => [(j.dword 6, 4 * j.word 5 * span (j.word 4))]
  | 0x20 => [(j.dword 7, 4 * j.word 5)]
  | 0x22 => if bit (j.word 4) 0 ∧ j.word 6 < 16384 then [(j.dword 7, 4 * (j.word 6 + 1) * span (j.word 5))] else []
  | _ => []

/-- The host accesses of a job that is no batch job, known before it runs. Pool pages of the prefix tree and the source
of a TABLE_LOAD are translated when they are known. -/
def State.jobNeeds (s : State) (j : Job) : List Need :=
  match j.kind with
  | 0x03 => needs (j.dword 6) (4 * j.word 5) 1
  | 0x04 => needs (j.dword 5) 2368 1
  | _ => runNeeds (s.jobReads j) 0

/-- The transfers by which a job that is no batch job reads: its inputs, a park record, a table's source (13 R376). -/
def State.jobFetch (s : State) (j : Job) (tile : Nat) : State :=
  let fs := runFetches ((s.jobReads j).filter (fun r => decide (0 < r.2)))
  match j.kind with
  | 0x05 => s.fetch tile (.park j.id) fs
  | _ => s.fetch tile (.item j.id 0 0) fs

/-! ### Tables that an item reads (06 R161, 14 R402) -/

/-- (kind, number) of each table an item reads. -/
def Job.tablesRead (j : Job) (k : Nat) (i : Item) (x : CtxRow) (bias : Nat) : List (Nat × Nat) :=
  let app := j.appends k i
  let l := [(0, x.turn)] ++ (if app then [(1, x.kn)] else []) ++ (if j.kind ≠ 0x10 then [(1, x.qn)] else []) ++
    (if j.kind ≠ 0x10 ∧ bit j.ctl 8 then [(2, bias)] else [])
  (l.filter (fun t => t.2 ≠ 0xFF)).eraseDups

end Sys2Proof.Machine
end

