-- ==== Sys2Proof/Machine/Scratchpad.lean ====
section
/-! DEFINITION. Scratchpad geometry: bank words, plates, port accesses and their arbitration; the cache quarter's
organization; compare-and-count; collisions of control SRAM ports (03 R67 to R77, R81, R82, R88, R89, R95). -/

namespace Sys2Proof.Machine

/-! ### Bank words and plates (R68, R71, R72) -/

/-- Bank, bank row and half of a byte offset of a quarter. -/
def bankOf (o : Nat) : Nat := o / 8 % 16
def bankRow (o : Nat) : Nat := o / 8 / 16
def bankHalf (o : Nat) : Nat := o / 4 % 2

/-- Byte offset of element (r, c) of the plate with base P. -/
def plateOff (p r c : Nat) : Nat := p + 128 * (r / 2) + 8 * ((r + c) % 16) + 4 * (r % 2)

end Sys2Proof.Machine

namespace Sys2Proof

/-- Byte offsets of the 32-bit words that an access reaches, in element order. -/
def PortAccess.offs (a : PortAccess) : List Nat :=
  let o := a.off.toNat
  match a.mode with
  | .linear n => (List.range (2 * n.toNat)).map (fun i => o + 4 * i)
  | .linear32 n => (List.range n.toNat).map (fun i => o + 4 * i)
  | .plateRow r => (List.range 16).map (fun c => Machine.plateOff o r.toNat c)
  | .plateCol c => (List.range 16).map (fun r => Machine.plateOff o r c.toNat)

/-- Whether an access keeps R72: its alignment, its length, its place below the hole. -/
def PortAccess.ok (a : PortAccess) : Bool :=
  let o := a.off.toNat
  (match a.mode with
   | .linear n => o % 8 = 0 && decide (1 ≤ n.toNat) && decide (n.toNat ≤ 16)
   | .linear32 n => o % 4 = 0 && decide (1 ≤ n.toNat) && decide (n.toNat ≤ 16)
   | .plateRow _ | .plateCol _ => o % 1024 = 0) && a.offs.all (fun x => decide (x < 0xC000))

/-- The bank words that an access touches: (bank, bank row), each once. -/
def PortAccess.words (a : PortAccess) : List (Nat × Nat) := (a.offs.map (fun o => (Machine.bankOf o, Machine.bankRow o))).eraseDups

/-- Banks that an access touches, and the bytes it moves. -/
def PortAccess.banks (a : PortAccess) : List Nat := (a.words.map Prod.fst).eraseDups
def PortAccess.bytes (a : PortAccess) : Nat := 4 * a.offs.length

/-! ### Conflicts and grants (R73 to R75) -/

/-- Two accesses of one cycle conflict in a bank: both touch it, and they are not two reads of one bank word. -/
def PortAccess.meetsIn (a b : PortAccess) (bank : Nat) : Bool :=
  decide (a.quarter = b.quarter) && a.banks.contains bank && b.banks.contains bank &&
  (a.write || b.write || decide (a.words.find? (fun w => w.1 = bank) ≠ b.words.find? (fun w => w.1 = bank)))

/-- Number of a port: four places for each group. -/
def PortAccess.port (a : PortAccess) : Nat := 4 * a.group.toNat + a.place.toNat

/-- Rank of an access in a bank's order (R74, R75): a port with 8 losses in a row, the quarter's own group, the other
groups, the places within a group. -/
def PortAccess.rank (a : PortAccess) (losses : Nat) : Nat :=
  if 8 ≤ losses then a.port
  else if a.group = a.quarter then 16 + a.place.toNat
  else 32 + a.port

/-- Whether an access goes before another in every bank they share. -/
def PortAccess.before (losses : PortAccess → Nat) (a b : PortAccess) : Bool :=
  decide (a.rank (losses a) < b.rank (losses b))

/-- Whether an access loses a bank of the cycle: another one that conflicts with it there goes first. -/
def PortAccess.loses (losses : PortAccess → Nat) (all : List PortAccess) (a : PortAccess) : Bool :=
  all.any (fun b => b.before losses a && a.banks.any (fun k => a.meetsIn b k))

end Sys2Proof

namespace Sys2Proof.Machine

/-! ### The cache quarter (R79, R81) -/

/-- Sets of a cache of size code 0 to 3. -/
def cacheSets (size : Nat) : Nat := 32 * size

/-- Lines of a frame of 72 KiB. -/
def frameLines : Nat := 1152

/-- Set of a line. -/
def cacheSet (size f line : Nat) : Nat := (f * frameLines + line) % cacheSets size

/-- Whether a line holds a frame's line in the generation read. -/
def CacheLine.hits (x : CacheLine) (f line gen : Nat) : Bool := x.frame = f && x.line = line && x.gen = gen

/-- A set, youngest line first, after a hit or a fill: the line is the youngest. A line of an older generation gives its way;
else a free way is taken, or that of the oldest of 8 (R81, R82). -/
def touchSet (l : List CacheLine) (f line gen : Nat) : List CacheLine :=
  match l.find? (fun y => y.frame = f && y.line = line) with
  | some y => { y with gen := gen } :: l.erase y
  | none =>
    let kept := l.take 7
    let way := ((List.range 8).find? (fun w => !kept.any (fun y => y.way = w))).getD 0
    { frame := f, line := line, gen := gen, way := way } :: kept

/-- Offset in quarter 3 of the line that a way of a set holds (log entry 222). -/
def lineOff (size set way : Nat) : Nat := 0xC000 - 0x4000 * size + 64 * (8 * set + way)

/-! ### Compare-and-count (R88, R89) -/

/-- Result of a compare-and-count step. -/
structure Compared where
  count : Nat
  first : Nat
  poisoned : Bool := false
  deriving DecidableEq, Repr

/-- Counts equal words of two runs and finds the first unequal pair. -/
def compareRuns (a b : List Word) : Compared :=
  let eq := (a.zip b).map (fun p => decide (p.1 = p.2))
  { count := eq.count true, first := (eq.findIdx? (· = false)).getD eq.length }

/-- Counts the words of a run that equal a key word. -/
def compareKey (a : List Word) (key : Word) : Compared := compareRuns a (a.map (fun _ => key))

/-- A step that met an uncorrectable word. -/
def comparePoisoned : Compared := { count := 0, first := 0, poisoned := true }

/-- Whether a result says that runs of n words are equal: a poisoned one counts as a mismatch. -/
def Compared.equal (c : Compared) (n : Nat) : Bool := !c.poisoned && decide (c.count = n)

/-! ### Collisions of the two ports of a control SRAM bank (R95) -/

/-- The word after port 0 and port 1 wrote it in one cycle: port 0 wins, and port 1 repeats its whole operation against the
value written. Each operation is what it makes of the word: a store ignores it, an update reads and computes. -/
def sramCollide (port0 port1 : Nat → Nat) (w : Nat) : Nat := port1 (port0 w)

end Sys2Proof.Machine
end

