-- ==== Sys2Proof/Machine/Schedule.lean ====
section
/-! DEFINITION. Ordering (11 R321 to R325), the choice of an item (12 R343 to R347) and the start of a work item, which
acquires what it needs all or nothing (06 R161, 09 R251 to R264, 13 R365, 18 R479). -/

namespace Sys2Proof.Machine

/-! ### Ordering of jobs -/

/-- The contexts a job names, and whether it is a writer toward each (R324). -/
def Job.roles (j : Job) : List (Nat × Bool) :=
  if isBatch j.kind then j.entries.map (fun e => (e.handle, j.kind = 0x10 || j.qt))
  else if [0x02, 0x04, 0x20, 0x21, 0x32].contains j.kind then [(j.word 4, true)]
  else if [0x03, 0x30, 0x31].contains j.kind then [(j.word 4, false)]
  else []

/-- Whether every item of a job has started or ended (06 R161). -/
def Job.allStarted (j : Job) : Bool := j.items.all (fun i => i.started || i.finished)

/-- Whether an earlier job makes a later one wait by their roles (R324). -/
def roleWaits (earlier later : Job) : Bool :=
  later.roles.any (fun a => earlier.roles.any (fun b => a.1 = b.1 && (b.2 || (a.2 && !earlier.allStarted))))

/-- Whether a BARRIER waits for an earlier job (R323). -/
def barrierWaits (b e : Job) : Bool :=
  if bit (b.word 4) 0 then bit (bits (b.word 4) 7 4) e.cls else e.ring = b.ring

/-- Whether an earlier job makes a later one wait: a BARRIER, a PHASE_SWITCH, or by their roles (R323 to R325). -/
def orderWaits (e j : Job) : Bool :=
  (j.kind = 0x50 && barrierWaits j e) ||
  (e.kind = 0x50 && (e.ring = j.ring || (bit (e.word 4) 0 && bit (bits (e.word 4) 7 4) j.cls))) ||
  (e.kind = 0x51 && bits (e.word 4) 1 0 = j.cls) || roleWaits e j

/-- Whether the job that DEP names has not had its record written (R322). -/
def State.depWaits (s : State) (j : Job) : Bool :=
  bit (j.word 2) 8 && s.sched.jobs.any (fun e => !e.refused && e.ring = bits (j.word 2) 5 0 && e.seq = j.word 3)

/-- The jobs accepted before one, whose records are not written. -/
def State.before (s : State) (j : Job) : List Job := s.sched.jobs.filter (fun e => decide (e.id < j.id) && !e.refused)

/-- Whether a job names the row whose synchronization is under way, a writer toward its context (15 R435). -/
def State.syncWaits (s : State) (j : Job) : Bool :=
  s.twin.syncOut && j.roles.any (fun a => some (bits a.1 13 0) = s.twin.syncLeft.head?)

/-- Whether the ordering rules let a job start. -/
def State.mayStart (s : State) (j : Job) : Bool :=
  !s.depWaits j && !(s.before j).any (fun e => orderWaits e j) && !s.syncWaits j

/-! ### Ready items (R343, R344) -/

/-- Whether the pages of an item's stream are on their way to other tiles (16 R459). -/
def State.itemMoves (s : State) (j : Job) (i : Item) : Bool :=
  match j.entries[i.entry]? with
  | some e => s.bandMoves (s.dirOf (bits e.handle 13 0) i.stream).layer
  | none => false

/-- Whether an item of a job that may start is ready on its own account. -/
def State.itemReady (s : State) (j : Job) (k : Nat) (i : Item) : Bool :=
  i.st = .waiting && !s.itemMoves j i && !s.host.blocked (.item j.id k) && j.appendTurn k i && s.blockTurn j i

/-- The ready items of a tile, in acceptance order: (job, index, item). -/
def State.readyItems (s : State) (t : Nat) : List (Job × Nat × Item) :=
  s.sched.jobs.flatMap (fun j =>
    if !j.refused && j.items.any (fun i => i.tile = t && i.st = .waiting) && s.mayStart j then
      (j.items.zipIdx.filter (fun p => p.1.tile = t && s.itemReady j p.2 p.1)).map (fun p => (j, p.2, p.1))
    else [])

/-- Whether a ready item has ageing priority; JOB_SCHED_AGE of 0 gives it at once (R348). -/
def State.agedItem (s : State) (t : Nat) (i : Item) : Bool := decide (0 < i.aged) || s.liveFor t 0x3108 % 65536 = 0

/-- Weights of the classes on a tile: all zero act as all equal (R343). -/
def State.weight (s : State) (t c : Nat) : Nat :=
  let w := s.liveFor t 0x3100
  if w = 0 then 1 else bits w (8 * c + 7) (8 * c)

def State.serviceOf (s : State) (t c : Nat) : Nat := tget 0 s.sched.service (4 * t + c)
def State.setService (s : State) (t c v : Nat) : State :=
  { s with sched := { s.sched with service := tset 0 s.sched.service (4 * t + c) v } }

/-- Whether class `c` goes before class `d` (R343). -/
def State.classBeats (s : State) (t c d : Nat) : Bool :=
  let wc := s.weight t c
  let wd := s.weight t d
  if wc = 0 ∧ wd = 0 then decide (c < d)
  else if wc = 0 then false else if wd = 0 then true
  else decide (s.serviceOf t c * wd < s.serviceOf t d * wc) || (s.serviceOf t c * wd = s.serviceOf t d * wc && decide (c < d))

/-- A class that becomes ready catches up with the classes that were (R343). -/
def State.rejoin (s : State) (t c : Nat) (was : List Nat) : State :=
  let shares := (was.filter (fun d => decide (0 < s.weight t d))).map (fun d => s.serviceOf t d * s.weight t c / s.weight t d)
  match shares with
  | [] => s
  | x :: xs => s.setService t c (max (s.serviceOf t c) (xs.foldl min x))

/-- Notes which classes have ready items on a tile. -/
def State.noteReady (s : State) (t : Nat) (now : List Nat) : State :=
  let mask := tget 0 s.sched.wasReady t
  let was := (List.range 4).filter (fun c => bit mask c)
  let s := (now.filter (fun c => !was.contains c)).foldl (fun s c => s.rejoin t c was) s
  { s with sched := { s.sched with wasReady := tset 0 s.sched.wasReady t (now.foldl (fun m c => m + 2 ^ c) 0) } }

/-- Notes when an item was first found ready (log entry 236). -/
def Item.foundReady (i : Item) (now : Nat) : Item := { i with readyAt := some (i.readyAt.getD now) }

/-- The order in which a tile tries its ready items: aged ones first, the one ready longest first; then by class, and
within a class by acceptance (R343, R344). -/
def State.tryOrder (s : State) (t : Nat) (ready : List (Job × Nat × Item)) : List (Job × Nat × Item) :=
  let since (i : Item) : Nat := i.readyAt.getD s.now
  let aged := (ready.filter (fun p => s.agedItem t p.2.2)).mergeSort (fun a b => decide (since a.2.2 ≤ since b.2.2))
  let rest := ready.filter (fun p => !s.agedItem t p.2.2)
  let classes := ([0, 1, 2, 3] : List Nat).mergeSort (fun c d => s.classBeats t c d)
  aged ++ classes.flatMap (fun c => rest.filter (fun p => p.1.cls = c))

/-! ### Batching rounds (R345, R346, 06 R177) -/

/-- W of a tile. -/
def State.windowOf (s : State) (t : Nat) : Nat := tget 0 s.sched.window t

/-- The core that the placement names for an item's leaf of a frame (R329, R330). -/
def State.roundCore (s : State) (f id k : Nat) : Option Nat :=
  match s.job id, s.item id k with
  | some j, some i =>
    match j.entries[i.entry]?, i.bind.pages.find? (fun p => p.2.2 = f) with
    | some e, some p => some (s.placedCore (bits e.handle 13 0) p.1 p.2.1 (frameTile f))
    | _, _ => none
  | _, _ => none

/-- Whether a core's cache holds every line of a frame in a generation (03 R82). -/
def State.cached (s : State) (core f gen : Nat) : Bool :=
  let size := tget 0 s.cores.cacheSize core
  decide (size ≠ 0) && (List.range frameLines).all (fun n =>
    (tget [] s.cores.cache (core * 128 + cacheSet size f n)).any (fun x => x.hits f n gen))

/-- A core's cache takes a line. -/
def State.fillLine (s : State) (core f gen n : Nat) : State :=
  let size := tget 0 s.cores.cacheSize core
  if size = 0 then s else
  let key := core * 128 + cacheSet size f n
  { s with cores := { s.cores with cache := tset [] s.cores.cache key (touchSet (tget [] s.cores.cache key) f n gen) } }

/-- A multicast frame in SHARED or SEALED fills a receiving core's cache (06 R178, 03 R81). -/
def State.fillCache (s : State) (f core : Nat) : State :=
  let x := s.frame f
  if x.st = .shared ∨ x.st = .isSealed then (List.range frameLines).foldl (fun s n => s.fillLine core f x.gen n) s else s

/-- A round closes: it is counted. Its frame, unless every core that holds a row of it has it in its cache, is read from page memory
once and multicast to them (R345, 06 R178, log entry 230). -/
def State.closeRound (s : State) (r : Round) : State :=
  let cores := (r.rows.eraseDups.filterMap (fun p => s.roundCore r.frame p.1 p.2)).eraseDups
  let s := { s with sched := { s.sched with
    rounds := s.sched.rounds.erase r
    adaptRounds := tset 0 s.sched.adaptRounds r.tile (tget 0 s.sched.adaptRounds r.tile + 1)
    adaptRows := tset 0 s.sched.adaptRows r.tile (tget 0 s.sched.adaptRows r.tile + r.rows.length) } }
  let s := (s.bumpTile r.tile 0x180 1).bumpTile r.tile 0x184 r.rows.length
  let s := if cores.all (fun c => s.cached c r.frame r.gen) then s else s.bumpTile r.tile 0x12C (cores.length - 1)
  cores.foldl (fun s c => s.fillCache r.frame c) s

/-- Places a row of an item's leaf task for a frame: in the open round of the frame and generation, or in a new one, which runs at the
core that placement names for this task (R330, R345). -/
def State.placeRow (s : State) (f id k key core : Nat) (close : Bool) : State :=
  let t := frameTile f
  let g := (s.frame f).gen
  let r : Round := match s.sched.rounds.find? (fun r => r.frame = f && r.gen = g) with
    | some r => r
    | none => { tile := t, frame := f, gen := g, core := core, rows := [], opened := s.now, closeAt := s.now + 100 * s.windowOf t }
  let r' : Round := { r with rows := r.rows ++ [(id, k)] }
  let s : State := { s with sched := { s.sched with rounds := s.sched.rounds.erase r ++ [r'] } }
  let s := s.modItem id k (fun i => { i with leafAt := i.leafAt ++ [(key, r.core)] })
  if close || decide (32 ≤ r'.rows.length) then s.closeRound r' else s

/-- Places the leaf tasks of a decode item on the pages it has bound, its rows whose leaf there is not null (06 R177): with
BATCH_EN = 0b every round holds the rows of one item and closes at once; a leaf task of an aged item closes the round it joins (R345,
R347). -/
def State.placeLeaves (s : State) (j : Job) (k : Nat) (i : Item) (e : Entry) (live : Nat → Nat → Bool) : State :=
  let alone := !s.batching j i.tile || s.agedItem i.tile i
  (i.bind.pages.filter (fun p => p.1 = i.stream)).foldl (fun s p =>
    let rows := (e.rowsOfItem j.kind i i.bind.ctx.group).filter (fun x => live x.1 p.2.1)
    let core := s.placedCore (bits e.handle 13 0) i.stream p.2.1 (frameTile p.2.2)
    (rows.zipIdx).foldl (fun s x =>
      s.placeRow p.2.2 j.id k (leafKey p.2.2 x.1.1 x.1.2) core (alone && decide (x.2 + 1 = rows.length))) s) s

/-! ### Start of a batch item -/

/-- Where a page is found. -/
inductive PageAt where
  | frame (f : Nat)
  | cold (loc key : Nat)
  | wait
  | lost
  | hole
  deriving DecidableEq, Repr

/-- Resolves a page for a work item (08 R231, R238, 16 R453). -/
def State.locate (s : State) (r st p : Nat) : PageAt × State :=
  let x := s.resolve r st p
  match x.1 with
  | .frame f =>
    let fr := x.2.frame f
    if fr.st = .moving ∨ 0xFFFF ≤ fr.pincnt then (.wait, x.2)
    else if fr.st = .bad then (if x.2.errs.refetching.any (fun q => q.1 = f) then (.wait, x.2) else (.lost, x.2))
    else (.frame f, x.2)
  | .cold key => (match x.2.pageKey r st p with | some k => .cold k key | none => .hole, x.2)
  | .lost => (.lost, x.2)
  | _ => (.hole, x.2)

/-- Resolves pages of one stream, in order. -/
def State.locateAll (s : State) (r st : Nat) (ps : List Nat) : List (Nat × PageAt) × State :=
  ps.foldl (fun (a : List (Nat × PageAt) × State) p =>
    let x := a.2.locate r st p
    (a.1 ++ [(p, x.1)], x.2)) ([], s)

/-- The status that 10 R272 gives an item of a batch kind by its context's state; none where it runs. -/
def stateStatus (kind state : Nat) : Option Nat :=
  if state = 1 then none
  else if state = 4 ∧ kind ≠ 0x10 then some stMedia else some stBadState

/-- Whether a stream's layer lies in a band out of service (16 R458). -/
def State.streamOut (s : State) (r st : Nat) : Bool :=
  match s.layerBand (s.dirOf r st).layer with
  | some b => s.errs.bandOut.contains b
  | none => false

/-- The context length of an item: the bound one, else what it binds at its start: under QT that after the appends of every entry of
the job that names the stream (06 R161). -/
def State.boundLen (s : State) (j : Job) (i : Item) (e : Entry) (r : Nat) : Nat :=
  let more := if j.qt then ((j.unmade e.handle).map (fun p => if p.2.names i.stream then p.2.rows else 0)).sum else 0
  i.bind.lens.headD (s.streamLen r i.stream + more)

/-- Whether the segment IDs that an entry must have do not fit below 2^48, where host addresses end (06 R166, 13 R358, log entry
237). -/
def State.segsShort (s : State) (j : Job) (i : Item) (e : Entry) (r : Nat) : Bool :=
  decide (j.kind ≠ 0x10) && bit j.ctl 6 && decide (2 ^ 48 < e.slot j.segSlot + segBytes e (s.boundLen j i e r))

/-- The checks of an item's start that need only its context (10 R272, 11 R310, R311, 09 R256). -/
def State.startCheck (s : State) (j : Job) (k : Nat) (i : Item) (e : Entry) : Option Nat :=
  match s.live? e.handle with
  | none => some stBadState
  | some r =>
    match stateStatus j.kind (s.row r).state with
    | some st => some st
    | none =>
      if s.streamOut r i.stream then stateStatus j.kind 4
      else if (s.row r).streams < e.first + e.count then some stInvalid
      else if 1048576 < e.pos0 + e.rows then some stLength
      else if 256 ≤ e.app then some (e.app - 256)
      else if j.appends k i && e.streams.any (fun st => decide (1048576 < s.lenBefore j i.entry r st + e.rows)) then some stLength
      else if j.kind = 0x13 && e.streams.any (fun st => decide (e.kspan < keyEnd j.mask e (s.streamLen r st))) then some stInvalid
      else if s.segsShort j i e r then some stInvalid
      else none

/-- Binds lengths, table generations and LIVE values at an item's first start (06 R161, 08 R231). -/
def State.bindItem (s : State) (j : Job) (k : Nat) (i : Item) (e : Entry) (r : Nat) : State :=
  if i.bind.lens ≠ [] then s else
  let own := s.boundLen j i e r
  let tiles := if j.kind = 0x13 then s.leafTiles e i r own else []
  let gens := (j.tablesRead k i (s.row r) (s.dirOf r i.stream).bias).filterMap (fun t =>
    (s.table t.1 t.2).map (fun d => (t.1, t.2, d.gen)))
  let bump (t : TableDef) : TableDef :=
    if gens.any (fun g => g.1 = t.kind && g.2.1 = t.num) then { t with refsCur := t.refsCur + 1 } else t
  let s := { s with cfg := { s.cfg with tables := s.cfg.tables.map bump } }
  s.modItem j.id k (fun i => { i with bind := { i.bind with ctx := s.row r, dir := s.dirOf r i.stream, lens := [own], gens := gens, commit := s.snapshot i.tile, tiles := tiles } })

/-- The streams and pages an item resolves and pins at its start: of an APPEND the last pages that are SHARED, otherwise
the pages its rows read, those that the entry's own append will write left out. -/
def State.pagesOf (s : State) (j : Job) (k : Nat) (i : Item) (e : Entry) (r : Nat) : List (Nat × List Nat) :=
  let t := (s.row r).tspan
  let last (st : Nat) : Nat × List Nat :=
    (st, (lastPage (s.lenBefore j i.entry r st) e.rows t).toList.filter (fun p => (j.stagedPage i.entry st p).isNone))
  if j.kind = 0x10 then e.streams.map last
  else
    let l := s.streamLen r i.stream
    let len := i.bind.lens.headD l
    let pages := if j.appends k i then l / t else (s.dirOf r i.stream).pages
    let own := (i.stream, itemPages j.mask e j.kind i len t pages)
    if j.appends k i then own :: e.streams.map last else [own]

/-- A frame refused: counted on the tile (09 R257), and the item ends with PAGE_EXHAUSTED. -/
def State.exhausted (s : State) (id k t : Nat) : State := (s.bumpTile t 0x164 1).failItem id k stExhausted

/-- What starting an item gives: the state, and whether anything happened. -/
abbrev Tried := State × Bool

/-- Recalls the cold pages of an item (09 R262, R263): each recall in flight is joined, each other takes a frame on the
page's tile. `none` where one cannot be had. -/
def State.recallCold (s : State) (j : Job) (k r st : Nat) (ctl : AllocCtl) : List (Nat × Nat × Nat) → Option Nat × State
  | [] => (none, s)
  | (p, loc, key) :: rest =>
    match s.recallAt loc with
    | some m => (s.joinRecall m.slot (j.id, k)).recallCold j k r st ctl rest
    | none =>
      let t := s.pageTile (s.dirOf r st).layer r st p
      if !ctl.migEn then (some t, s) else
      match s.acquireFrames ctl (.item j.id k) [⟨st, p, t, .fresh⟩] with
      | .ok (a :: _) s' => (s'.startRecall a loc key p (.item j.id k) 0).recallCold j k r st ctl rest
      | .ok [] s' => s'.recallCold j k r st ctl rest
      | .wait s' => s'.recallCold j k r st ctl rest
      | .none t' s' => (some t', s')

/-- Wide reduction buffer words that items hold on a tile (07 R207). -/
def State.wideUsed (s : State) (t : Nat) : Nat :=
  s.sched.jobs.foldl (fun n j => j.items.foldl (fun n i => n + wideOn i.wide t) n) 0

/-- Twin staging space in use, in bytes (15 R421). -/
def State.stagingUsed (s : State) : Nat :=
  s.sched.jobs.foldl (fun n j => j.items.foldl (fun n i => n + i.staging) n) 0

/-- Twin staging space that a job's item needs for a context of so many streams (15 R421). -/
def State.stagingNeed (s : State) (streams : Nat) : Nat := if s.ledgerOn then 73728 * streams + 4096 else 0

/-- Bytes of the ledger buffers (10 R286). -/
def ledgerBytes : Nat := 91750400

/-- Pins frames in ascending number and binds the pages (08 R228). -/
def State.pinAll (s : State) (id k : Nat) (ps : List (Nat × Nat × Nat)) : State :=
  let fs := (ps.map (fun p => p.2.2)).mergeSort (· ≤ ·)
  (fs.foldl (fun s f => s.pinFrame f) s).modItem id k (fun i => { i with
    pins := i.pins ++ fs, bind := { i.bind with pages := i.bind.pages ++ ps } })

/-- What an item asks for beside its pages: wide-buffer words by tile (07 R207) and twin staging bytes (15 R421). -/
structure Ask where
  wide : List (Nat × Nat)
  space : Nat

/-- What an item asks for; one that recalled pages after its start keeps what it has. -/
def State.ask (s : State) (j : Job) (k : Nat) (i : Item) (e : Entry) (r : Nat) : Ask :=
  { wide := if i.wide = [] then s.wideNeed j e i r (s.boundLen j i e r) else []
    space := if j.appends k i && i.staging = 0 then s.stagingNeed e.count else 0 }

/-- Whether what is asked for is free. -/
def State.spaceFree (s : State) (a : Ask) : Bool :=
  a.wide.all (fun p => decide (s.wideUsed p.1 + wideOn a.wide p.1 ≤ wideLimit)) &&
  (a.space = 0 || decide (s.stagingUsed + a.space ≤ ledgerBytes))

/-- The item starts: it holds everything (06 R161). -/
def State.startItem (s : State) (j : Job) (k : Nat) (a : Ask) (pages : List (Nat × Nat × Nat)) : State :=
  let s := s.pinAll j.id k pages
  let s := s.modItem j.id k (fun i => { i with
    st := .running, started := true, staging := max i.staging a.space, wide := i.wide ++ a.wide })
  s.withMerge j k

/-- An item whose acquisition fails lets its pins go, the recall pins too (09 R264). -/
def State.letGo (s : State) (id k : Nat) : State :=
  match s.item id k with
  | none => s
  | some i =>
    let s := s.modItem id k (fun i => { i with pins := [], bind := { i.bind with pages := [] } })
    i.pins.foldl (fun s f => s.unpinFrame f) s

/-- A started item gives back what it holds and waits for an eviction (09 R250, R252). -/
def State.backToWait (s : State) (id k : Nat) : State :=
  match s.item id k with
  | none => s
  | some i =>
    let s := i.acq.foldl (fun s a => s.dropAcq a) s
    let s := i.blocks.foldl (fun s b => s.giveBlock b.1 b.2) s
    let s := s.modItem id k (fun i => { i with acq := [], blocks := [], staging := 0, staged := [], st := ItemSt.evictWait })
    s.letGo id k

/-- Starts an item whose pages are all resident, where what it asks for is free. -/
def State.acquire (s : State) (j : Job) (k : Nat) (a : Ask) (pages : List (Nat × Nat × Nat)) : Tried :=
  if s.spaceFree a then (s.startItem j k a pages, true) else (s.letGo j.id k, false)

/-! ### Frames and map blocks of an append (09 R250 to R256) -/

/-- Whether an item holds the frames it needs, from a run that a retry has stopped (16 R450). -/
def Item.holdsAll (i : Item) (ns : List FrameNeed) : Bool :=
  decide (i.acq ≠ []) && decide (i.acq.map (fun a => (a.stream, a.page)) = ns.map (fun n => (n.stream, n.page)))

/-- Acquires the frames and map blocks of an append, all or nothing, its charges first. `again` names the streams whose last page
staging found to be re-encoded. The flag says that the item goes on: it has failed or waits for an eviction otherwise. HLT_MAPBLK_EXH
counts an item refused for want of a map block (08 R243, log entry 242). -/
def State.acquireAppend (s : State) (j : Job) (k : Nat) (i : Item) (e : Entry) (r : Nat) (again : Nat → Bool) : State × Bool :=
  let ns := e.streams.flatMap (fun st => s.streamNeeds j i.entry r st e.rows (again st))
  let bs := e.streams.map (fun st => s.streamBlocks j i.entry r st e.rows)
  let ctl := allocCtl i.bind.commit (s.row r).reserveRight j.cls i.budgetOut
  let n := ns.length
  if i.holdsAll ns then (s, true) else
  if !s.quotaHolds ctl n i.charge then ((s.bumpTile 0 0x16C 1).failItem j.id k stQuota, false)
  else match s.takeAllBlocks bs [] with
  | .error t => (((s.bumpTile t 0x14C 1).bumpTile t 0x164 1).failItem j.id k stExhausted, false)
  | .ok (got, s1) =>
    let charged (s : State) : State :=
      ((s.discharge j.cls i.charge).charge j.cls n).modItem j.id k (fun i => { i with charge := n })
    let back (s : State) : State := got.foldl (fun s b => s.giveBlock b.1 b.2) s
    match s1.acquireFrames ctl (.item j.id k) ns with
    | .ok l s' =>
      let s' := l.foldl (fun s x => s.markTarget j.cls x) (charged s')
      (s'.modItem j.id k (fun i => { i with acq := l, blocks := got, budgetOut := false }), true)
    | .wait s' => (((back (charged s')).backToWait j.id k).pump, false)
    | .none t s' => ((back (charged s')).exhausted j.id k t, false)

/-- Pages located for an item: those resident, those cold, and what stops it. -/
structure Found where
  frames : List (Nat × Nat × Nat) := []
  cold : List (Nat × Nat × Nat × Nat) := []
  wait : Bool := false
  lost : Bool := false
  hole : Bool := false

/-- Sorts what was located of one stream. -/
def Found.add (f : Found) (st : Nat) (l : List (Nat × PageAt)) : Found :=
  l.foldl (fun f p => match p.2 with
    | .frame x => { f with frames := f.frames ++ [(st, p.1, x)] }
    | .cold loc key => { f with cold := f.cold ++ [(st, p.1, loc, key)] }
    | .wait => { f with wait := true }
    | .lost => { f with lost := true }
    | .hole => { f with hole := true }) f

/-- Locates every page that an item needs and does not hold by a recall pin. -/
def State.findPages (s : State) (r : Nat) (i : Item) (want : List (Nat × List Nat)) : Found × State :=
  want.foldl (fun (a : Found × State) w =>
    let ps := w.2.filter (fun p => !i.bind.pages.any (fun b => b.1 = w.1 && b.2.1 = p))
    let l := a.2.locateAll r w.1 ps
    (a.1.add w.1 l.1, l.2)) ({}, s)

/-- Recalls every cold page found, stream by stream. -/
def State.recallFound (s : State) (j : Job) (k r : Nat) (ctl : AllocCtl) (cold : List (Nat × Nat × Nat × Nat)) : Option Nat × State :=
  cold.foldl (fun (a : Option Nat × State) c =>
    match a.1 with
    | some t => (some t, a.2)
    | none => a.2.recallCold j k r c.1 ctl [(c.2.1, c.2.2.1, c.2.2.2)]) (none, s)

/-- Frames that an item pins among the pages found: an APPEND and the append of a QT item pin those that are SHARED (10
R279 step 1); the pages that rows read are pinned. -/
def State.toPin (s : State) (j : Job) (k : Nat) (i : Item) (e : Entry) (r : Nat) (fs : List (Nat × Nat × Nat)) : List (Nat × Nat × Nat) :=
  fs.filter (fun p =>
    (decide (j.kind ≠ 0x10) && p.1 = i.stream && !(j.appends k i && lastPage (s.streamLen r p.1) e.rows (s.row r).tspan = some p.2.1)) ||
    decide ((s.frame p.2.2).st = .shared))

/-- Whether segment IDs, which stand in host memory, decide which pages a job's rows read: the command that reads them
then recalls the cold pages among those (06 R168). -/
def Job.bySegment (j : Job) : Bool := decide (j.kind ≠ 0x10) && bit j.ctl 6

/-- An item whose pages lead nowhere: lost without another copy, or a map hole (08 R238, 16 R453, R454). -/
def State.pagesFail (s : State) (j : Job) (k : Nat) (i : Item) (e : Entry) (f : Found) : Option State :=
  if f.lost then some (s.failItem j.id k stMedia)
  else if f.hole then
    some ((s.report { severity := sevContext, cause := 0x14, unit := 0x06, tile := i.tile, ctx := e.handle
                      ring := some j.ring, seq := j.seq }).failItem j.id k stInternal)
  else none

/-- The last part of a start, after translation and binding. An item whose segment IDs may still name a cold page has not
started before the command that reads them has bound its pages (06 R161, log entry 95). `resv`: an aged item waits for frames, so nothing may be
taken (R344). -/
def State.startPages (s : State) (j : Job) (k : Nat) (i : Item) (e : Entry) (r : Nat) (resv : Bool) : Tried :=
  let f := s.findPages r i (s.pagesOf j k i e r)
  let s := f.2
  match s.pagesFail j k i e f.1 with
  | some s' => (s', true)
  | none =>
    let ctl := allocCtl i.bind.commit (s.row r).reserveRight j.cls i.budgetOut
    let cold := f.1.cold.filter (fun c => !(j.bySegment && c.1 = i.stream))
    if f.1.wait then (if cold = [] then s.letGo j.id k else s, false)
    else if cold ≠ [] then
      if resv then (s, false) else
      match s.recallFound j k r ctl cold with
      | (some t, s') => (s'.exhausted j.id k t, true)
      | (none, s') =>
        -- a wait on an eviction or a recall that has started ends with it
        ((s'.modItem j.id k (fun i => { i with st := if s'.migBlocks j.id k then ItemSt.evictWait else .waiting })).pump, true)
    else
      let a := s.ask j k i e r
      if resv && (j.appends k i || a.wide ≠ [] || decide (0 < a.space)) then (s.letGo j.id k, false)
      else
        let s := s.modItem j.id k (fun i => { i with budgetOut := false })
        let x := s.acquire j k a (s.toPin j k i e r f.1.frames)
        if f.1.cold = [] then x
        else (x.1.modItem j.id k (fun i => if i.st = .running then { i with started := false } else i), x.2)

/-- A host access of an item fails at its start. Of an append, a quota that does not hold and frames or blocks that
cannot be had come first (09 R256). -/
def State.failRead (s : State) (j : Job) (k : Nat) (i : Item) (e : Entry) (r st : Nat) : State :=
  if !j.appends k i then s.failItem j.id k st else
  let s := s.bindItem j k i e r
  let x := s.acquireAppend j k ((s.item j.id k).getD i) e r (fun _ => false)
  if x.2 then x.1.failItem j.id k st else x.1

/-- Tries to start a batch item. -/
def State.startBatch (s : State) (j : Job) (k : Nat) (i : Item) (resv : Bool) : Tried :=
  match j.entries[i.entry]? with
  | none => (s, false)
  | some e =>
    match s.startCheck j k i e with
    | some st => (s.failItem j.id k st, true)
    | none =>
      let r := bits e.handle 13 0
      match s.translateAll i.tile (.item j.id k) (j.itemNeeds k i e (s.row r) (s.boundLen j i e r)) with
      | .wait s' => (s', s'.host.blocked (.item j.id k))
      | .failed st s' => (s'.failRead j k i e r st, true)
      | .ok tr s' =>
        let s' := s'.modItem j.id k (fun i => { i with trans := tr })
        let s' := s'.fetch i.tile (.item j.id k 0) (j.itemReads k i e (s.row r) (s.boundLen j i e r))
        let s' := s'.bindItem j k i e r
        s'.startPages j k ((s'.item j.id k).getD i) e r resv

/-- Tries to start the item of a job that is no batch job. A FORK starts, for the jobs after it, at its binding (10
R277). LIVE values are bound once, however often the item waits on migrations. `resv`: the kinds that take frames do not start (12
R344). -/
def State.startOther (s : State) (j : Job) (k : Nat) (i : Item) (resv : Bool) : Tried :=
  let bound := decide (i.bind.lens ≠ [])
  let need := if j.roles.any Prod.snd then s.stagingNeed ((s.live? (j.word 4)).elim 0 (fun r => (s.row r).streams)) else 0
  let space := if bound then i.staging else need
  if !bound && decide (0 < space) && decide (ledgerBytes < s.stagingUsed + space) then (s, false) else
  if resv && [0x03, 0x05, 0x20, 0x31, 0x32].contains j.kind then (s, false) else
  match s.translateAll i.tile (.item j.id k) (s.jobNeeds j) with
  | .wait s' => (s', s'.host.blocked (.item j.id k))
  | .failed st s' => (s'.failItem j.id k st, true)
  | .ok tr s' =>
    let s' := s'.jobFetch j i.tile
    (s'.modItem j.id k (fun i => { i with
      trans := tr, st := .running, started := j.kind ≠ 0x03, staging := space
      bind := if bound then i.bind else { i.bind with lens := [0], commit := s'.snapshot i.tile } }), true)

/-- What follows a first start: the class's service count rises, an aged dispatch is counted, the leaf tasks of a decode
item are placed in rounds (R343 to R345). An item that makes its entry's append, and one whose pages depend on segment
IDs, place theirs when the command knows them. -/
def State.afterStart (s : State) (t : Nat) (j : Job) (k : Nat) (aged : Bool) : State :=
  match s.item j.id k, (s.item j.id k).bind (fun i => j.entries[i.entry]?) with
  | some i, some e =>
    if i.st ≠ .running then s else
    let s := if aged then s.bumpTile t 0x188 1 else s
    if !isBatch j.kind then s else
    let x := i.bind.ctx
    let len := i.bind.lens.headD 0
    let s := s.modItem j.id k (fun i => { i with served := true })
    let s := s.setService t j.cls (s.serviceOf t j.cls + s.itemCycles j e i x len)
    if j.kind = 0x11 && !(j.qt && j.appends k i) && !j.bySegment then s.placeLeaves j k i e (leafLive j.mask e len x.tspan) else s
  | _, _ => s

/-- Tries one item. -/
def State.tryItem (s : State) (t : Nat) (p : Job × Nat × Item) (resv : Bool) : Tried :=
  let aged := s.agedItem t p.2.2
  let resv := resv && !aged
  let r := if isBatch p.1.kind then s.startBatch p.1 p.2.1 p.2.2 resv else s.startOther p.1 p.2.1 p.2.2 resv
  if !r.2 then r else if p.2.2.served then r else (r.1.afterStart t p.1 p.2.1 aged, true)

/-- Tries items in order until one moves; an aged item that cannot acquire keeps resources from the rest (R344). -/
def State.tryItems (s : State) (t : Nat) : List (Job × Nat × Item) → Bool → State
  | [], _ => s
  | p :: rest, resv =>
    let r := s.tryItem t p resv
    if r.2 then r.1 else r.1.tryItems t rest (resv || s.agedItem t p.2.2)

/-- Whether an aged item waits for frames, on whatever tile. -/
def State.agedWaits (s : State) : Bool :=
  s.sched.jobs.any (fun j => j.items.any (fun i => i.st = ItemSt.evictWait && decide (0 < i.aged)))

/-- Whether an item must leave frames to an aged item that waits for them (R344). -/
def State.yields (s : State) (i : Item) : Bool := s.agedWaits && !s.agedItem i.tile i

/-- Whether a tile is quarantined with its band out of service. Items that wait on it run nowhere: each ends with the
status that 10 R272 gives its kind in a FAILED context. -/
def State.bandless (s : State) (t : Nat) : Bool :=
  s.hasTile t && s.errs.tileOut.contains t && tget 0 s.errs.tileState t = 2 && !s.errs.relocated.contains t

/-- Whether a tile dispatches: items run in READY and DRAIN (14 R385), the tile is in service (16 R457) and awake
(17 R473). -/
def State.dispatches (s : State) (t : Nat) : Bool :=
  (s.cfg.mode = .ready || s.cfg.mode = .drain) &&
  if s.inService t then decide ((tget {} s.health.tiles t).power = 0) else s.bandless t

/-- One dispatch of a tile controller (R343). -/
def State.dispatch (s : State) (t : Nat) : State :=
  if !s.dispatches t then s else
  let ready := (s.readyItems t).map (fun p => (p.1, p.2.1, p.2.2.foundReady s.now))
  let s := ready.foldl (fun s p => s.modItem p.1.id p.2.1 (fun i => i.foundReady s.now)) s
  let s := s.noteReady t ((List.range 4).filter (fun c => ready.any (fun p => p.1.cls = c)))
  s.tryItems t (s.tryOrder t ready) s.agedWaits

/-! ### Ageing and windows -/

/-- Rounds that hold rows of an item. -/
def State.roundsOf (s : State) (id k : Nat) : List Round := s.sched.rounds.filter (fun r => r.rows.contains (id, k))

/-- Whether an item is ready, or has been and waits for an eviction. -/
def State.ageable (s : State) (id k : Nat) (i : Item) : Bool :=
  match s.job id with
  | some j => (s.mayStart j && s.itemReady j k i) || i.st = .evictWait
  | none => false

/-- A ready item gains ageing priority; the open rounds that hold its rows close (R344, R345). -/
def State.ageItem (s : State) (id k : Nat) : State :=
  match s.item id k with
  | none => s
  | some i =>
    let s := if s.ageable id k i ∧ i.aged = 0 then
        ({ s with sched := { s.sched with agedSeq := s.sched.agedSeq + 1 } }).modItem id k (fun i =>
          { i.foundReady s.now with aged := s.sched.agedSeq + 1 })
      else s
    (s.roundsOf id k).foldl (fun s r => s.closeRound r) s

/-- A window takes the bounds of JOB_BATCH_WIN; a MAX below MIN is taken as MIN (R348). -/
def windowBounds (v : Nat) : Nat × Nat := (bits v 15 0, max (bits v 15 0) (bits v 31 16))

/-- After 1,024 closed rounds W doubles, halves or stays (R346). -/
def State.adaptWindow (s : State) (t : Nat) : State :=
  let n := tget 0 s.sched.adaptRounds t
  let rows := tget 0 s.sched.adaptRows t
  if n < 1024 then s else
  let b := windowBounds (s.liveFor t 0x3104)
  let w := s.windowOf t
  let w' := if rows * 4 < 32 * n then (if w = 0 then min b.2 1 else min b.2 (2 * w))
            else if 3 * 32 * n ≤ rows * 4 then max b.1 (w / 2) else w
  { s with sched := { s.sched with window := tset 0 s.sched.window t w'
                                   adaptRounds := tset 0 s.sched.adaptRounds t 0, adaptRows := tset 0 s.sched.adaptRows t 0 } }

/-! ### The commands -/

def execItemAged (job item : Nat) (s : State) : Out := .next (s.ageItem job item)

def execBatchRoundClose (tile : BitVec 5) (frame : BitVec 24) (s : State) : Out :=
  onTile s tile.toNat (match s.sched.rounds.find? (fun r => r.tile = tile.toNat && r.frame = frame.toNat && decide (r.closeAt ≤ s.now)) with
    | some r => s.closeRound r
    | none => s)

def execBatchWindowAdapt (tile : BitVec 5) (s : State) : Out := onTile s tile.toNat (s.adaptWindow tile.toNat)

end Sys2Proof.Machine
end

