-- ==== Sys2Proof/Machine/Sync.lean ====
section
/-! DEFINITION. Synchronization of rows after a hello or a new LINK_EPOCH, on the side that sends (15 R434, R435). -/

namespace Sys2Proof.Machine

/-- The rows of the half that a role owns (15 R413). -/
def halfRows (role : Bool) : List Nat := (List.range 8192).map (fun i => if role then 8192 + i else i)

/-- Frames that a row maps. -/
def State.mappedBy (s : State) (row : Nat) : List Nat :=
  (s.streamsOf row).flatMap (fun d => (List.range d.2.pages).filterMap (fun p =>
    match s.pageEntry row d.1 p with | .frame f => some f | _ => none))

/-- The frames of a row whose bytes have not been sent: mirrored ones that no own row below it maps. -/
def State.unsentFrames (s : State) (row : Nat) : List Nat :=
  let below := (s.rowsInUse.filter (fun r => ownRow s.twin.role r && decide (r < row))).flatMap s.mappedBy
  ((s.mappedBy row).eraseDups).filter (fun f => decide (frameLocal f < s.mirrorFrames) && !below.contains f)

/-- The shadow and the bytes of one frame. -/
def State.frameSync (s : State) (f : Nat) : List Delta :=
  let x := s.frame f
  let n := BitVec.ofNat 24 f
  [.frame n 0#32 0#16, .bytes n 0#17 x.bytes, .frame n (BitVec.ofNat 32 x.word0) (BitVec.ofNat 16 x.refcnt)]

/-- The listed entries of a map block. -/
def State.blockSync (s : State) (home b : Nat) : List Delta :=
  (s.store.map.filter (fun p => p.1 / 256 = 1048576 * home + b)).map (fun p =>
    .map (BitVec.ofNat 5 home) (BitVec.ofNat 20 b) (BitVec.ofNat 8 (p.1 % 256)) (BitVec.ofNat 32 p.2.word))

/-- A row and its full present state (R435). -/
def State.rowSync (s : State) (row : Nat) : List Delta :=
  let mirror := decide (s.twin.mode = 2)
  let dirs := (s.streamsOf row).map (fun d =>
    let e : DirEntry := if mirror then d.2 else { d.2 with root := 0, pages := 0 }
    Delta.dir (BitVec.ofNat 14 row) (BitVec.ofNat 8 d.1) (BitVec.ofNat 64 e.word))
  let blocks (d : Nat × DirEntry) : List Nat :=
    if !d.2.hasRoot then [] else
    d.2.root :: (if d.2.depth then (List.range 256).filterMap (fun g =>
      match s.mapAt (mapKey (s.homeOf row d.1) d.2.root g) with | .inner b => some b | _ => none) else [])
  let maps := (s.streamsOf row).flatMap (fun d => (blocks d).flatMap (s.blockSync (s.homeOf row d.1)))
  let frames := if mirror then (s.unsentFrames row).flatMap s.frameSync else []
  frames ++ [.row (BitVec.ofNat 14 row) (s.row row).bytes] ++ dirs ++ (if mirror then maps else [])

/-- Whether jobs accepted before hold a row: a writer that has started, or a reader with an item still to start (R324). -/
def State.rowBusy (s : State) (row : Nat) : Bool :=
  s.sched.jobs.any (fun j => !j.refused && j.items.any (fun i => i.started) &&
    j.roles.any (fun a => decide (bits a.1 13 0 = row) && (a.2 || !j.allStarted)))

/-- Sends the group of the first own row still to synchronize, one at a time, in ascending order (R435). -/
def State.syncNext (s : State) : State :=
  if s.twin.st ≠ .syncing || s.twin.syncOut then s else
  match s.twin.syncLeft with
  | [] => s
  | r :: _ =>
    if s.rowBusy r then s else
    let g := syncGroup (s.handle r)
    let s := s.ledgerSend ((s.rowSync r).map (fun d => TwinMsg.delta g d) ++ [.commit g])
    { s with twin := { s.twin with syncOut := true } }

end Sys2Proof.Machine
end

