-- ==== Sys2Proof/Machine/Records.lean ====
section
/-! DEFINITION. Completion records and interrupt messages (11 R314 to R320, 13 R374, 15 R422). -/

namespace Sys2Proof.Machine

/-! ### Records -/

/-- Whether the job engine runs work: in READY and DRAIN (14 R386). -/
def State.engineOn (s : State) : Bool := s.cfg.mode = .ready || s.cfg.mode = .drain

/-- Whether records are written: in READY, DRAIN and MAINT (14 R386). -/
def State.recordsOn (s : State) : Bool := s.engineOn || s.cfg.mode = .maint

/-- Whether a job's statistics record is due: every item has completed without failure, and the host has acknowledged
the outputs (07 R210). -/
def State.statsDue (s : State) (j : Job) : Bool :=
  s.recordsOn && decide (j.kind = 0x13) && !j.refused && bit (j.word 10) 12 && !j.statsDone && j.complete &&
  decide (j.outLeft = 0) && (decide (j.items ≠ []) || s.mayStart j) && !failing j.result

/-- Whether a job that completed before another has not begun to write its record (R319). -/
def State.completedBefore (s : State) (j : Job) : Bool :=
  (s.sched.completed.takeWhile (· ≠ j.id)).any (fun n => match s.job n with | some e => e.st ≠ .recording | none => false)

/-- Whether a job may write its record: every item has completed, a job without item may start, the host has
acknowledged its outputs and the twin its groups, every job that completed before it has had its turn, and no other record of the ring
is being written (R313, R319, R422). -/
def State.mayRecord (s : State) (j : Job) : Bool :=
  (!s.sched.completed.contains j.id || !s.completedBefore j) &&
  s.recordsOn && decide (j.st ≠ .recording) && j.complete && (j.refused || decide (j.items ≠ []) || s.mayStart j) &&
  decide (j.outLeft = 0) && decide (j.groups = []) && !s.statsDue j && !s.sched.jobs.any (fun e => e.ring = j.ring && e.st = .recording)

/-- The statistics record (07 R210). -/
def Job.stats (j : Job) : List Byte :=
  let sum (f : Item → Nat) : Nat := min 0xFFFFFFFF (j.items.foldl (fun n i => n + f i) 0)
  let w (n : Nat) : List Byte := leBytes 4 (min 0xFFFFFFFF n)
  leBytes 4 j.statQ.maxAbs.toNat ++ leBytes 4 j.statK.maxAbs.toNat ++ leBytes 4 j.statV.maxAbs.toNat ++ w 0 ++
  w j.statQ.nonFinite ++ w j.statK.nonFinite ++ w j.statV.nonFinite ++ w 0 ++
  w j.statQ.saturated ++ w j.statK.saturated ++ w j.statV.saturated ++ w (sum Item.repeats) ++
  w (sum Item.masked) ++ w (sum (fun i => i.bwd.length)) ++ w j.keysOut ++ w j.flags.toNat

/-- Writes the statistics record, when its address is translated. -/
def State.writeStats (s : State) (j : Job) : State :=
  let t := ((j.items.head?).map (fun i => i.tile)).getD s.errs.anchor
  match s.translateAll t (.record j.id) (needs (j.dword 14) 64 1) with
  | .wait s' => s'
  | .failed e s' => s'.modJob j.id (fun j => { j with statsDone := true, status := e })
  | .ok tr s' =>
    let r := s'.moveVirt t true (.stats j.id) tr (j.dword 14) 0 64 j.stats
    r.1.modJob j.id (fun j => { j with statsDone := true, outLeft := j.outLeft + r.2 })

/-- A pair leaves DRAINING when the last record of its jobs has been written; ENABLE then reads 0b (R300). -/
def State.endDraining (s : State) (r : Nat) : State :=
  let x := s.ring r
  let ctl := s.reg (ringReg r 8)
  if x.draining && !s.sched.jobs.any (fun e => e.ring = r) then
    (s.setRing r { x with draining := false }).setReg (ringReg r 8) (ctl - ctl % 2)
  else s

/-- DRAIN ends in MAINT when every accepted job's record is written and MAINT was asked for (14 R386). -/
def State.settleDrain (s : State) : State :=
  if s.cfg.mode = .drain ∧ s.cfg.toMaint ∧ s.sched.jobs.all (fun j => j.refused) then { s with cfg := { s.cfg with mode := .maint, toMaint := false } } else s

/-- The end of a record's write: CPL_TAIL rises whether it was written or not, and the message that the record asks for
is wanted (R319, R320, R374). The counters count records written (R326, 12 R348). -/
def State.recordDone (s : State) (id : Nat) (good : Bool) : State :=
  match s.job id with
  | none => s
  | some j =>
    let r := j.ring
    let x := s.ring r
    let want := bit (s.reg (ringReg r 8)) 11 && j.irq
    let s := s.setReg (ringReg r 0x1C) ((s.reg (ringReg r 0x1C) + 1) % 2 ^ 32)
    let s := s.setRing r { x with reserved := x.reserved - 1, irqWant := x.irqWant || want }
    let s := { s with sched := { s.sched with jobs := s.sched.jobs.filter (fun e => e.id ≠ id)
                                              completed := s.sched.completed.filter (· ≠ id) } }
    let s := if good then (if j.result = stInvalid then s.bump 0x3008 1 else if j.result = stVerify then s.bump 0x300C 1 else s)
      else s.report { severity := sevJob, cause := 0x24, unit := 0x09, tile := s.errs.anchor, ring := some r, seq := j.seq }
    ((s.endDraining r).settleDrain).syncNext

/-- Writes the record of a job at CPL_TAIL, when its address is translated (R315, R319). -/
def State.writeRecord (s : State) (j : Job) : State :=
  let r := j.ring
  let x := s.reg (ringReg r 0x1C)
  let log2 := bits (s.reg (ringReg r 8)) 10 6
  let va := s.reg64 (ringReg r 0x14) + 32 * (x % 2 ^ log2)
  match s.translateAll s.errs.anchor (.record j.id) (needs va 32 1) with
  | .wait s' => s'
  | .failed _ s' => s'.recordDone j.id false
  | .ok t s' =>
    ((s'.moveVirt s'.errs.anchor true (.record j.id) t va 0 32 (j.record x log2 s'.now)).1).modJob j.id
      (fun j => { j with st := .recording })

/-! ### Interrupt messages (R320) -/

/-- Where the time of a source's last message is kept. -/
def irqKey : IrqSrc → Nat
  | .ring r => r.toNat
  | .faultQueue => 64
  | .twin => 65
  | .errorLog => 66

/-- The spacing that holds for a source, in ns: JOB_IRQ_HOLDOFF of its ring, of ring 0 for the others. -/
def State.holdoff (s : State) : IrqSrc → Nat
  | .ring r => 100 * (s.reg (ringReg r.toNat 0x30) % 65536)
  | _ => 100 * (s.reg (ringReg 0 0x30) % 65536)

/-- Whether the holdoff of a source has passed since its last message. -/
def State.holdoffPassed (s : State) (src : IrqSrc) : Bool :=
  match tget 0 s.errs.lastIrq (irqKey src) with
  | 0 => true
  | t + 1 => decide (s.holdoff src ≤ (s.now + 2 ^ 64 - t) % 2 ^ 64)

/-- Whether a message of a source is wanted. -/
def State.irqWanted (s : State) : IrqSrc → Bool
  | .ring r => (s.ring r.toNat).irqWant
  | .faultQueue => s.errs.irqFault
  | .twin => s.errs.irqTwin
  | .errorLog => s.errs.irqLog

/-- The wish of a source ends. -/
def State.clearIrq (s : State) : IrqSrc → State
  | .ring r => s.setRing r.toNat { s.ring r.toNat with irqWant := false }
  | .faultQueue => { s with errs := { s.errs with irqFault := false } }
  | .twin => { s with errs := { s.errs with irqTwin := false } }
  | .errorLog => { s with errs := { s.errs with irqLog := false } }

/-- Low address register of a source; its data register. -/
def irqRegs : IrqSrc → Nat × Nat
  | .ring r => (ringReg r.toNat 0x24, ringReg r.toNat 0x2C)
  | .faultQueue => (0xC030, 0xC038)
  | .twin => (0xE018, 0xE020)
  | .errorLog => (0x10018, 0x10020)

/-- A message that fails is dropped and logged; of the error log's own message the entry leads to no message. -/
def State.irqDropped (s : State) (src : IrqSrc) : State :=
  let unit := match src with | .ring _ => 0x09 | .faultQueue => 0x06 | .twin => 0x08 | .errorLog => 0x0A
  s.report { severity := sevJob, cause := 0x25, unit := unit, tile := s.errs.anchor } (decide (src = .errorLog))

/-- A message goes out: its time is kept. -/
def State.irqIssued (s : State) (src : IrqSrc) : State :=
  { s.clearIrq src with errs := { (s.clearIrq src).errs with lastIrq := tset 0 s.errs.lastIrq (irqKey src) (s.now + 1) } }

/-- Issues the message of a source: 4 bytes of its data to its address, virtual for a ring, physical otherwise (13
R358). -/
def State.sendIrq (s : State) (src : IrqSrc) : State :=
  let a := s.reg64 (irqRegs src).1
  let data := leBytes 4 (s.reg (irqRegs src).2)
  match src with
  | .ring r =>
    match s.translateAll s.errs.anchor (.irq r.toNat) (needs a 4 1) with
    | .wait s' => s'
    | .failed _ s' => (s'.clearIrq src).irqDropped src
    | .ok t s' => ((s'.moveVirt s'.errs.anchor true (.irq src) t a 0 4 data).1).irqIssued src
  | _ => ((s.movePhys s.errs.anchor true (.irq src) none a 0 4 data).1).irqIssued src

/-! ### The commands -/

def execCompletionRecord (job : Nat) (s : State) : Out :=
  .next (match s.job job with
    | some j => if s.statsDue j then s.writeStats j else s.whenever (s.mayRecord j) (s.writeRecord j)
    | none => s)

def execInterruptMessage (src : IrqSrc) (s : State) : Out :=
  .next (s.whenever (decide (s.cfg.mode ≠ .off) && s.irqWanted src && s.holdoffPassed src) (s.sendIrq src))

end Sys2Proof.Machine
end

