-- ==== Sys2Proof/Machine/Contexts.lean ====
section
/-! DEFINITION. Context jobs: OPEN, CLOSE, FORK, PARK, UNPARK, TRUNCATE (10 R269 to R285). -/

namespace Sys2Proof.Machine

/-! ### Items that run -/

/-- The host accesses of an item, by its job's kind. -/
def State.needsOf (s : State) (j : Job) (k : Nat) (i : Item) : List Need :=
  if !isBatch j.kind then s.jobNeeds j else
  match j.entries[i.entry]? with
  | some e => let r := bits e.handle 13 0; j.itemNeeds k i e (s.row r) (s.boundLen j i e r)
  | none => []

/-- Translates again what an INVAL has dropped from an item's translations (13 R367). The flag says that all are held. -/
def State.retranslate (s : State) (j : Job) (k : Nat) (i : Item) : State × Bool :=
  let ns := (s.needsOf j k i).filter (fun n => !i.trans.any (fun p => p.1 = n.page))
  if ns = [] then (s, true) else
  match s.translateAll i.tile (.item j.id k) ns with
  | .ok t s' => (s'.modItem j.id k (fun i => { i with trans := i.trans ++ t }), true)
  | .wait s' => (s', false)
  | .failed e s' => (s'.failItem j.id k e, false)

/-- Runs what a job's command does on an item that runs and awaits no write. Jobs run in READY and DRAIN (14 R386); a
command for an item that does not run or whose tile is quarantined (16 R457), or for a job of another kind, changes
nothing (log entry 2). -/
def State.onItem (s : State) (id k kind : Nat) (f : State → Job → Item → State) : State :=
  match s.job id, s.item id k with
  | some j, some i =>
    if !(s.engineOn && decide (j.kind = kind) && decide (i.st = .running) && decide (i.writesLeft = 0) && s.inService i.tile) then s else
    let r := s.retranslate j k i
    if r.2 then f r.1 j ((r.1.item id k).getD i) else r.1
  | _, _ => s

/-- The one item of a job ends with a status; RESULT0 of the record. -/
def State.endJob (s : State) (id status r0 : Nat) : State :=
  (s.modItem id 0 (fun i => { i with st := .computed, status := status, started := true })).modJob id (fun j => { j with r0 := r0 })

/-- The group of a job's changes to one context (15 R419). -/
def Job.group (j : Job) (handle : Nat) : GroupId := ⟨BitVec.ofNat 32 handle, BitVec.ofNat 6 j.ring, BitVec.ofNat 32 j.seq⟩

/-- The group that an item's changes to its entry's context belong to. -/
def Job.itemGroup (j : Job) (i : Item) : Option GroupId := (j.entries[i.entry]?).map (fun e => j.group e.handle)

/-- With the last item that may add to them, groups end: of a batch job the group of the item's context, of another job
all of them (15 R419). -/
def State.endGroup (s : State) (id k : Nat) : State :=
  match s.job id, s.item id k with
  | some j, some i =>
    if !isBatch j.kind then s.commitGroups j.groups else
    match j.itemGroup i with
    | some g =>
      if j.groups.contains g && j.items.all (fun x => x.finished || decide (j.itemGroup x ≠ some g)) then s.commitGroups [g] else s
    | none => s
  | _, _ => s

/-- Rows free for OPEN, FORK and UNPARK, lowest first: under the limits the part's own half (15 R416), and none that an
UNPARK keeps for itself. -/
def State.rowFree (s : State) (r : Nat) : Bool :=
  decide (r < s.part.contexts) && (s.row r).state = 0 && (!s.limited || ownRow s.twin.role r) &&
  !s.sched.jobs.any (fun j => j.claim.contains r)

/-- The lowest `n` free rows from a row on. -/
def State.freeRows (s : State) : Nat → Nat → Nat → List Nat
  | 0, _, _ => []
  | fuel + 1, n, r =>
    if n = 0 then [] else if s.rowFree r then r :: s.freeRows fuel (n - 1) (r + 1) else s.freeRows fuel n (r + 1)

/-- The lowest `n` free rows, as many as there are. -/
def State.lowestRows (s : State) (n : Nat) : List Nat := s.freeRows s.part.contexts n 0

/-! ### OPEN (R273 to R275) -/

/-- The layer, KV head and bias table of a stream-list entry. -/
def streamEntry (w : Nat) : Nat × Nat × Nat := (bits w 7 0, bits w 15 8, bits w 23 16)

/-- Whether a turn table may be named by a context (05 R145). -/
def State.turnOk (s : State) (num hd : Nat) : Bool :=
  decide (num = 0xFF) || match s.table 0 num with
    | some t => match parseTurn (s.tableBytes 0 num t.gen) with | some x => decide (x.rotDims ≤ hd) | none => false
    | none => false

/-- Whether a QK-norm table may be named by a context (05 R153). -/
def State.normOk (s : State) (num hd : Nat) : Bool :=
  decide (num = 0xFF) || match s.table 1 num with
    | some t => match parseNorm (s.tableBytes 1 num t.gen) with | some x => decide (x.kind = 0 ∨ x.dim = hd) | none => false
    | none => false

/-- The checks of a bias table's bytes (06 R165). -/
def biasOk (b : List Byte) : Bool :=
  let g := fieldAt b 0 1
  decide (1 ≤ g) && decide (g ≤ 16) && allZero (bytesAt b 1 15) &&
  (List.range g).all (fun m => allZero (bytesAt b (16 + 512 * m + 480) 32))

/-- Whether a bias table may be named by a stream of a context. -/
def State.biasTableOk (s : State) (num group : Nat) : Bool :=
  decide (num = 0xFF) || match s.table 2 num with
    | some t => biasOk (s.tableBytes 2 num t.gen) && decide (group ≤ fieldAt (s.tableBytes 2 num t.gen) 0 1)
    | none => false

/-- The row that an OPEN writes at row `r`. -/
def Job.openRow (j : Job) (r gen : Nat) : CtxRow :=
  let f := j.openFmt
  let x : CtxRow :=
    { state := 1, cls := j.cls, gen := gen, reserveRight := bit (j.word 4) 22, streams := bits (j.word 5) 8 0, fmt := f.fmt
      layout := f.layout, block := f.block, group := bits (j.word 4) 21 17, hd := f.hd, tspan := tokenSpan f
      turn := bits (j.word 5) 23 16, qn := bits (j.word 5) 31 24, kn := bits (j.word 6) 7 0, lostPage := 0xFFFFFFFF
      modelKey := j.dword 7, parent := 0xFFFFFFFF, rowIdx := r }
  { x with shape := x.shapeWord }

/-- Whether a layer is valid and its band in service (12 R327, 16 R458). -/
def State.layerInService (s : State) (l : Nat) : Bool :=
  match s.layerBand l with
  | some b => !s.errs.bandOut.contains b
  | none => false

/-- The checks of R273 that need the stream list and the tables. -/
def State.openListOk (s : State) (j : Job) (ws : List Nat) : Bool :=
  let x := j.openRow 0 0
  let es := ws.map streamEntry
  ws.all (fun w => decide (bits w 31 24 = 0)) && es.all (fun e => s.layerInService e.1 && s.biasTableOk e.2.2 x.group) &&
  decide ((es.map (fun e => (e.1, e.2.1))).Nodup) && s.turnOk x.turn x.hd && s.normOk x.qn x.hd && s.normOk x.kn x.hd

/-- Writes the row and the directory entries of an OPEN (R274). -/
def State.openAt (s : State) (j : Job) (r : Nat) (ws : List Nat) : State :=
  let before := s.store
  let s := s.setRow r (j.openRow r (s.row r).gen)
  let s := (ws.zipIdx).foldl (fun s p =>
    let e := streamEntry p.1
    s.setDir r p.2 { layer := e.1, kvHead := e.2.1, bias := e.2.2, valid := true }) s
  s.sendPart [] before (j.group (s.handle r)) j.id

/-- OPEN. -/
def State.openJob (s : State) (j : Job) (i : Item) (hv : HostView) : State :=
  let n := bits (j.word 5) 8 0
  match readVirt hv i.trans (j.dword 9) (4 * n) with
  | .fail e => s.endJob j.id e 0
  | .ok bs =>
    let ws := wordsOf bs n
    if !s.openListOk j ws then s.endJob j.id stInvalid 0 else
    match s.lowestRows 1 with
    | [] => s.endJob j.id stTableFull 0
    | r :: _ => let s := s.openAt j r ws; s.endJob j.id stOk (s.handle r)

/-! ### CLOSE (R276) -/

/-- Releases what a map entry names (R276, 09 R266): a frame loses a reference, or a move in flight is marked; a cold
record is freed, or the recall of it in flight is marked. -/
def State.releaseEntry (s : State) (k : Nat) : State :=
  match s.mapAt k with
  | .frame f =>
    match s.store.migs.find? (fun m => m.evict && m.frame = f) with
    | some m => s.putMig { m with released := true }
    | none => s.unrefFrame f
  | .cold key =>
    match s.recallAt k with
    | some m => s.putMig { m with released := true }
    | none => { s with store := { s.store with cold := terase s.store.cold key } }
  | _ => s

/-- Map blocks of a stream: root first, then the leaf blocks of a two-level map, in order. -/
def State.blocksOf (s : State) (row st : Nat) : List Nat :=
  let d := s.dirOf row st
  if !d.valid || !d.hasRoot then [] else
  d.root :: (if d.depth then (List.range 256).filterMap (fun g =>
    match s.mapAt (mapKey (s.homeOf row st) d.root g) with | .inner b => some b | _ => none) else [])

/-- Releases the pages of a stream from a page on. -/
def State.releaseFrom (s : State) (row st first : Nat) : State :=
  let keys := (List.range ((s.dirOf row st).pages - first)).filterMap (fun i => s.pageKey row st (first + i))
  keys.foldl (fun s k => (s.releaseEntry k).setMapAt k .empty) (s.dropLab row st)

/-- Releases one stream of a context that closes. -/
def State.closeStream (s : State) (row st : Nat) : State :=
  let home := s.homeOf row st
  let bs := s.blocksOf row st
  let s := s.releaseFrom row st 0
  let s := bs.foldl (fun s b => s.giveBlock home b) s
  s.setDir row st {}

/-- A row becomes FREE: GEN rises by 1 (R270). -/
def State.freeRow (s : State) (row : Nat) : State := s.setRow row { gen := ((s.row row).gen + 1) % 65536 }

/-- CLOSE of a context, as a job or a releasing PHASE_SWITCH does it (R276). -/
def State.closeContext (s : State) (row : Nat) : State :=
  let s := s.setRow row { s.row row with state := 2 }
  let s := s.dropBuilding row 0
  let s := ((s.streamsOf row).map Prod.fst).foldl (fun s st => s.closeStream row st) s
  s.freeRow row

/-- CLOSE. -/
def State.closeJob (s : State) (j : Job) : State :=
  match s.live? (j.word 4) with
  | none => s.endJob j.id stBadState 0
  | some r =>
    if (s.row r).state = 2 ∨ (s.row r).state = 3 then s.endJob j.id stBadState 0
    else ((s.closeContext r).sendPart [] s.store (j.group (j.word 4)) j.id).endJob j.id stOk 0

/-! ### FORK (R277, R278) -/

/-- Every frame that a context maps. -/
def State.framesOf (s : State) (row : Nat) : List Nat :=
  (s.streamsOf row).flatMap (fun d => (List.range d.2.pages).filterMap (fun p =>
    match s.pageEntry row d.1 p with | .frame f => some f | _ => none))

/-- The first three columns of R278, in order. -/
def State.forkRefusal (s : State) (j : Job) : Option Nat :=
  let count := bits (j.word 5) 6 0
  match s.live? (j.word 4) with
  | none => some stBadState
  | some r =>
    if (s.row r).state ≠ 1 then some stBadState
    else if (s.lowestRows count).length < count then some stTableFull
    else if (s.framesOf r).any (fun f => decide (65535 < (s.frame f).refcnt + count)) then some stExhausted
    else none

/-- Every page of every stream of a context. -/
def State.allPages (s : State) (row : Nat) : List (Nat × List Nat) := (s.streamsOf row).map (fun d => (d.1, List.range d.2.pages))

/-- A map entry of a child: interior entries name the child's own blocks. -/
def childEntry (pairs : List (Nat × Nat)) (e : MapEntry) : MapEntry :=
  match e with
  | .inner b => match pairs.find? (fun p => p.1 = b) with | some p => .inner p.2 | none => .empty
  | x => x

/-- Copies the blocks of a stream's map into other blocks of a tile. -/
def State.copyBlocks (s : State) (home : Nat) (pairs : List (Nat × Nat)) (dst : Nat) : State :=
  pairs.foldl (fun s p => (List.range 256).foldl (fun s i =>
    s.setMapAt (mapKey dst p.2 i) (childEntry pairs (s.mapAt (mapKey home p.1 i)))) s) s

/-- One stream of a FORK child: its directory entry, its blocks, and one reference more on each frame. -/
def State.forkStream (s : State) (r c st : Nat) (bs : List Nat) : State :=
  let d := s.dirOf r st
  let pairs := (s.blocksOf r st).zip bs
  let s := s.copyBlocks (s.homeOf r st) pairs (s.homeTile d.layer c st)
  let s := s.setDir c st { d with root := (bs.head?).getD 0 }
  let fs := (List.range d.pages).filterMap (fun p => match s.pageEntry r st p with | .frame f => some f | _ => none)
  fs.foldl (fun s f => s.refFrame f 1) s

/-- One child of a FORK (R277). Its blocks come from a supply of (tile, block). -/
def State.forkChild (s : State) (j : Job) (r c : Nat) (supply : List (Nat × Nat)) : State × List (Nat × Nat) :=
  let before := s.store
  let x := s.row r
  let s := s.setRow c { x with state := 1, cls := j.cls, gen := (s.row c).gen, parent := j.word 4, rowIdx := c
                               buildValid := false, buildFirst := 0 }
  let out := (s.streamsOf r).foldl (fun (a : State × List (Nat × Nat)) d =>
    let home := a.1.homeTile d.2.layer c d.1
    let n := (a.1.blocksOf r d.1).length
    let mine := (a.2.filter (fun b => b.1 = home)).take n
    (a.1.forkStream r c d.1 (mine.map Prod.snd), a.2.filter (fun b => !mine.contains b))) (s, supply)
  (out.1.sendPart [] before (j.group (out.1.handle c)) j.id, out.2)

/-- Map blocks that the children of a FORK need: (tile, count). -/
def State.forkBlocks (s : State) (r : Nat) (rows : List Nat) : List (Nat × Nat) :=
  rows.flatMap (fun c => (s.streamsOf r).map (fun d => (s.homeTile d.2.layer c d.1, (s.blocksOf r d.1).length)))

/-- The binding of a FORK, in one step (R277). -/
def State.forkBind (s : State) (j : Job) (i : Item) (r : Nat) : State :=
  let rows := s.lowestRows (bits (j.word 5) 6 0)
  match s.takeAllBlocks (s.forkBlocks r rows) [] with
  | .error t => ((s.bumpTile t 0x14C 1).bumpTile t 0x164 1).endJob j.id stExhausted 0
  | .ok (bs, s) =>
    let s := (rows.foldl (fun (a : State × List (Nat × Nat)) c => a.1.forkChild j r c a.2) (s, bs)).1
    let m := s.moveVirt i.tile true (.handles j.id) i.trans (j.dword 6) 0 (4 * rows.length) (rows.flatMap (fun c => leBytes 4 (s.handle c)))
    (m.1.modJob j.id (fun j => { j with outLeft := j.outLeft + m.2 })).endJob j.id stOk rows.length

/-- A FORK goes on: the parent's cold pages are recalled, and where none is left it binds when told to. -/
def State.forkJob (s : State) (j : Job) (i : Item) (bind : Bool) : State :=
  match s.live? (j.word 4) with
  | none => s.endJob j.id stBadState 0
  | some r =>
    if (s.row r).state ≠ 1 then s.endJob j.id stBadState 0 else
    let f := s.findPages r i (s.allPages r)
    let s := f.2
    if f.1.wait then s
    else if f.1.cold ≠ [] then
      match s.recallFound j 0 r (allocCtl i.bind.commit (s.row r).reserveRight j.cls i.budgetOut) f.1.cold with
      | (some t, s) => (s.bumpTile t 0x164 1).endJob j.id ((s.forkRefusal j).getD stExhausted) 0
      | (none, s) => (s.modItem j.id 0 (fun x => { x with st := if s.migBlocks j.id 0 then ItemSt.evictWait else .waiting })).pump
    else if !bind then s
    else match s.forkRefusal j with
      | some st => s.endJob j.id st 0
      | none => s.forkBind j i r

/-! ### PARK (R284) -/

/-- The lowest free park slot. -/
def State.freeSlot (s : State) : Option Nat :=
  let used := (s.store.slots.filter (fun p => p.2.valid)).map Prod.fst
  let n := firstFree used 0
  if n < 65536 then some n else none

def State.slotAt (s : State) (n : Nat) : ParkSlot := tget {} s.store.slots n
def State.setSlot (s : State) (n : Nat) (x : ParkSlot) : State := { s with store := { s.store with slots := tset {} s.store.slots n x } }

/-- Bytes 0 to 2,311 of a park record. -/
def State.parkBody (s : State) (r slot : Nat) : List Byte :=
  let x := s.row r
  { x with state := 1 }.bytes ++
  (List.range 256).flatMap (fun st => leBytes 8 (if st < x.streams then (s.dirOf r st).word else 0)) ++
  leBytes 2 slot ++ leBytes 2 (s.slotAt slot).gen ++ zeroBytes 4

/-- PARK begins: the row is PARKING, its BUILDING nodes are dropped, a slot taken and the record issued. -/
def State.parkAt (s : State) (j : Job) (i : Item) (r slot : Nat) : State :=
  let before := s.store
  let s := s.dropBuilding r 0
  let s := ((s.streamsOf r).map Prod.fst).foldl (fun s st => s.dropLab r st) s
  let body := s.parkBody r slot
  let crc := (crc32c body).toNat
  let s := s.setRow r { s.row r with state := 3 }
  let s := s.setSlot slot { s.slotAt slot with
    valid := true, crc := crc, homes := (List.range (s.row r).streams).map (fun st => s.homeOf r st) }
  let s := s.sendPart [] before (j.group (j.word 4)) j.id
  let m := s.moveVirt i.tile true (.park j.id) i.trans (j.dword 5) 0 2368 (padTo 2368 (body ++ leBytes 4 crc))
  (m.1.modItem j.id 0 (fun x => { x with writesLeft := m.2, writeStatus := 0 })).modJob j.id (fun j => { j with slot := slot })

/-- PARK. Nothing more happens while its record is being written. -/
def State.parkJob (s : State) (j : Job) (i : Item) : State :=
  if i.writesLeft ≠ 0 then s else
  match s.live? (j.word 4) with
  | none => s.endJob j.id stBadState 0
  | some r =>
    if (s.row r).state ≠ 1 then s.endJob j.id stBadState 0 else
    match s.freeSlot with
    | none => s.endJob j.id stTableFull 0
    | some n => s.parkAt j i r n

/-- The host has answered every write of a park record: the row is FREE, its pages and blocks staying in place, or the
context is ACTIVE again and the slot free. -/
def State.parkEnds (s : State) (j : Job) (i : Item) : State :=
  let r := bits (j.word 4) 13 0
  let x := s.slotAt j.slot
  let before := s.store
  if i.writeStatus = 0 then
    let s := { s with store := { s.store with dir := s.store.dir.filter (fun p => p.1 / 256 ≠ r) } }
    ((s.freeRow r).sendPart [] before (j.group (j.word 4)) j.id).endJob j.id stOk (65536 * x.gen + j.slot)
  else
    let s := (s.setRow r { s.row r with state := 1 }).setSlot j.slot { x with valid := false, homes := [] }
    (s.sendPart [] before (j.group (j.word 4)) j.id).endJob j.id i.writeStatus 0

/-! ### UNPARK (R285) -/

/-- The directory entries of a park record. -/
def parkDirs (b : List Byte) : List DirEntry := (List.range (ctxRowOfBytes b).streams).map (fun st => dirOfWord (fieldAt b (256 + 8 * st) 8))

/-- Map blocks of a parked stream, on its old home tile. -/
def State.parkedBlocks (s : State) (home : Nat) (d : DirEntry) : List Nat :=
  if !d.hasRoot then [] else
  d.root :: (if d.depth then (List.range 256).filterMap (fun g =>
    match s.mapAt (mapKey home d.root g) with | .inner b => some b | _ => none) else [])

/-- One stream that moves with its row: stream, old home, new home, entry. -/
structure MovedStream where
  stream : Nat
  old : Nat
  new : Nat
  dir : DirEntry

/-- The streams of a record whose home tile differs at row `r`. -/
def State.movedStreams (s : State) (b : List Byte) (r : Nat) : List MovedStream :=
  ((parkDirs b).zipIdx).filterMap (fun p =>
    let old := (s.slotAt (fieldAt b 2304 2)).homes.getD p.2 0
    let new := s.homeTile p.1.layer r p.2
    if old = new then none else some ⟨p.2, old, new, p.1⟩)

/-- The cold records of a moved stream: keys. -/
def State.coldOf (s : State) (m : MovedStream) : List Nat :=
  (s.parkedBlocks m.old m.dir).flatMap (fun b => (List.range 256).filterMap (fun i =>
    match s.mapAt (mapKey m.old b i) with | .cold k => some k | _ => none))

/-- Whether a migration touches the blocks of a moved stream. -/
def State.moveBusy (s : State) (m : MovedStream) : Bool :=
  let keys := (s.parkedBlocks m.old m.dir).map (fun b => 1048576 * m.old + b)
  s.store.migs.any (fun g => keys.contains (g.loc / 256))

/-- Takes a free cold record on a tile for each key, copying the record there; none when one is missing. -/
def State.takeRecords (s : State) (t : Nat) : List Nat → Option (List (Nat × Nat) × State)
  | [] => some ([], s)
  | k :: rest =>
    match s.freeRecord t with
    | none => none
    | some n =>
      let key := 8388608 * t + n
      let c := (tget none s.store.cold k).getD {}
      let s := { s with store := { s.store with cold := tset none s.store.cold key (some { c with addr := s.coldAddr t n }) } }
      match s.takeRecords t rest with
      | none => none
      | some (l, s) => some ((k, key) :: l, s)

/-- Takes records for every moved stream. -/
def State.takeAllRecords (s : State) (done : List (Nat × Nat)) : List MovedStream → Option (List (Nat × Nat) × State)
  | [] => some (done, s)
  | m :: rest =>
    match s.takeRecords m.new ((s.coldOf m).filter (fun k => !done.any (fun p => p.1 = k))) with
    | none => none
    | some (l, s) => s.takeAllRecords (done ++ l) rest

/-- Moves one cold page between pool slots, through the DMA engines of its new home tile: read at the old address, written at the new
one. -/
def State.moveCold (s : State) (id : Nat) (t : Trans) (hv : HostView) (p : Nat × Nat) : State :=
  let old := ((tget none s.store.cold p.1).getD {}).addr
  let new := ((tget none s.store.cold p.2).getD {}).addr
  match readVirt hv t old 73728 with
  | .fail e => s.modItem id 0 (fun i => { i with writeStatus := if i.writeStatus = 0 then e else i.writeStatus })
  | .ok bs =>
    let s := s.fetch (p.2 / 8388608) (.park id) (runFetches [(old, 73728)])
    let m := s.moveVirt (p.2 / 8388608) true (.park id) t new 0 73728 bs
    m.1.modItem id 0 (fun i => { i with writesLeft := i.writesLeft + m.2 })

/-- Drops what an UNPARK that fails has taken. -/
def State.unparkDrop (s : State) (j : Job) : State :=
  let cold := j.moves.foldl (fun (t : Tab (Option Cold)) (p : Nat × Nat) => terase t p.2) s.store.cold
  { s with store := { s.store with cold := cold } }.modJob j.id (fun j => { j with moves := [], claim := [] })

/-- Gives a moved stream its new blocks: the old ones and the old records are freed. -/
def State.moveStream (s : State) (moves : List (Nat × Nat)) (m : MovedStream) (supply : List Nat) : State × DirEntry :=
  let old := s.parkedBlocks m.old m.dir
  let pairs := old.zip supply
  let s := s.copyBlocks m.old pairs m.new
  let s := pairs.foldl (fun s p => (List.range 256).foldl (fun s i =>
    match s.mapAt (mapKey m.new p.2 i) with
    | .cold k => s.setMapAt (mapKey m.new p.2 i) (.cold (((moves.find? (fun q => q.1 = k)).map Prod.snd).getD k))
    | _ => s) s) s
  let s := old.foldl (fun s b => s.giveBlock m.old b) s
  (s, { m.dir with root := (supply.head?).getD m.dir.root })

/-- The end of a successful UNPARK: row and directory written, old places freed, slot free with its generation raised. -/
def State.unparkAt (s : State) (j : Job) (b : List Byte) (r : Nat) (ms : List MovedStream) (bs : List (Nat × Nat)) : State :=
  let before := s.store
  let x := ctxRowOfBytes b
  let s := s.setRow r { x with state := 1, cls := j.cls, gen := (s.row r).gen, rowIdx := r }
  let s := ((parkDirs b).zipIdx).foldl (fun s p => s.setDir r p.2 p.1) s
  let out := ms.foldl (fun (a : State × List (Nat × Nat)) m =>
    let n := (a.1.parkedBlocks m.old m.dir).length
    let mine := (a.2.filter (fun b => b.1 = m.new)).take n
    let g := a.1.moveStream j.moves m (mine.map Prod.snd)
    (g.1.setDir r m.stream g.2, a.2.filter (fun b => !mine.contains b))) (s, bs)
  let s := out.1
  let cold := j.moves.foldl (fun (t : Tab (Option Cold)) (p : Nat × Nat) => terase t p.1) s.store.cold
  let s : State := { s with store := { s.store with cold := cold } }
  let n := fieldAt b 2304 2
  let s := s.setSlot n { s.slotAt n with valid := false, homes := [], gen := ((s.slotAt n).gen + 1) % 65536 }
  let s := s.modJob j.id (fun j => { j with moves := [], claim := [] })
  let s := s.modItem j.id 0 (fun i => { i with blocks := [] })
  (s.sendPart [] before (j.group (s.handle r)) j.id).endJob j.id stOk (s.handle r)

/-- Translates the accesses of several tiles for one requester. -/
def State.translateOn (s : State) (who : Waiter) (got : Trans) : List (Nat × List Need) → Translated
  | [] => .ok got s
  | p :: rest =>
    match s.translateAll p.1 who p.2 with
    | .ok t s' => s'.translateOn who (got ++ t) rest
    | r => r

/-- An UNPARK whose record has passed goes on: cold pages that have to move are moved, then it ends. -/
def State.unparkGo (s : State) (j : Job) (b : List Byte) (r : Nat) (hv : HostView) : State :=
  let ms := s.movedStreams b r
  if ms.any (fun m => s.moveBusy m) then s else
  let todo := ms.flatMap (fun m => (s.coldOf m).filter (fun k => !j.moves.any (fun p => p.1 = k)))
  if todo = [] then
    match s.takeAllBlocks (ms.map (fun m => (m.new, (s.parkedBlocks m.old m.dir).length))) [] with
    | .error t => (((s.unparkDrop j).bumpTile t 0x14C 1).bumpTile t 0x164 1).endJob j.id stExhausted 0
    | .ok (bs, s) => s.unparkAt j b r ms bs
  else match s.takeAllRecords j.moves ms with
    | none => (s.unparkDrop j).endJob j.id stExhausted 0
    | some (moves, t) =>
      let new := moves.drop j.moves.length
      let addr (k : Nat) : Nat := ((tget none t.store.cold k).getD {}).addr
      match t.translateOn (.item j.id 0) [] (new.map (fun p => (p.2 / 8388608, needs (addr p.1) 73728 1 true ++ needs (addr p.2) 73728 1 true))) with
      | .wait s' => { s' with store := s.store }.modJob j.id (fun j => { j with claim := [r], parkRec := b })
      | .failed e s' => (s'.unparkDrop { j with moves := moves }).endJob j.id e 0
      | .ok tr s =>
        let s := s.modJob j.id (fun j => { j with moves := moves, claim := [r], parkRec := b })
        new.foldl (fun s p => s.moveCold j.id tr hv p) s

/-- The row that an UNPARK takes: the one its record names where it is free, else the lowest free one. -/
def State.unparkRow (s : State) (b : List Byte) : Option Nat :=
  let r := (ctxRowOfBytes b).rowIdx
  if s.rowFree r then some r else (s.lowestRows 1).head?

/-- UNPARK. -/
def State.unparkJob (s : State) (j : Job) (i : Item) (hv : HostView) : State :=
  if i.writesLeft ≠ 0 then s
  else if i.writeStatus ≠ 0 then (s.unparkDrop j).endJob j.id i.writeStatus 0
  else match j.claim with
  | r :: _ => s.unparkGo j j.parkRec r hv
  | [] =>
    match readVirt hv i.trans (j.dword 4) 2368 with
    | .fail e => s.endJob j.id e 0
    | .ok b =>
      let crc := (crc32c (b.take 2312)).toNat
      let x := s.slotAt (fieldAt b 2304 2)
      if fieldAt b 2312 4 ≠ crc ∨ x.crc ≠ crc then s.endJob j.id stInvalid 0
      else if !x.valid || decide (x.gen ≠ fieldAt b 2306 2) then s.endJob j.id stBadState 0
      else match s.unparkRow b with
        | none => s.endJob j.id stTableFull 0
        | some r => s.unparkGo j b r hv

/-! ### TRUNCATE (R281 to R283) -/

/-- What the boundary page of a stream needs. -/
inductive Boundary where
  | none
  | inPlace (f : Nat)
  | copy (f : Nat)
  | cold (key addr : Nat)
  /-- A recall of it is in flight, which the job joins (09 R263). -/
  | recall (slot : Nat)
  | wait
  | bad
  deriving DecidableEq, Repr

/-- The boundary page of a stream cut to `n` tokens. -/
def State.boundary (s : State) (r st n : Nat) : Boundary :=
  let t := (s.row r).tspan
  if s.streamLen r st ≤ n ∨ n % t = 0 then .none else
  match s.pageEntry r st (n / t) with
  | .frame f =>
    let x := s.frame f
    match x.st with
    | .moving => .wait
    | .bad => .bad
    | .priv => if x.pincnt = 0 then .inPlace f else .copy f
    | _ => .copy f
  | .cold key =>
    match (s.pageKey r st (n / t)).bind s.recallAt with
    | some m => .recall m.slot
    | Option.none => .cold key ((tget Option.none s.store.cold key).getD {}).addr
  | _ => .bad

/-- A page cut to its first rows: header fields kept, seal fields zero, summaries rebuilt. -/
def Page.cut (p : Page) (rows : Nat) : Page :=
  rebuildSummaries { p with k := p.k.take rows, v := p.v.take rows, isSealed := false, published := false, sealGen := 0#32
                            prefixHash := 0#64, checksum := 0#32 }

/-- The frame that a boundary page needs. -/
def State.cutNeed (s : State) (r st p : Nat) (b : Boundary) : List FrameNeed :=
  match b with
  | .copy f => [⟨st, p, frameTile f, .copy⟩]
  | .cold _ _ => [⟨st, p, s.pageTile (s.dirOf r st).layer r st p, .fresh⟩]
  | _ => []

/-- A stream's new page count, and the leaf blocks that then map nothing go back. -/
def State.cutMap (s : State) (r st pages : Nat) : State :=
  let d := s.dirOf r st
  let home := s.homeOf r st
  let s := s.releaseFrom r st pages
  let s := if !d.depth then s else
    (List.range 256).foldl (fun s g =>
      match s.mapAt (mapKey home d.root g) with
      | .inner b => if pages ≤ g * 256 then (s.giveBlock home b).setMapAt (mapKey home d.root g) .empty else s
      | _ => s) s
  s.setDir r st { d with pages := pages }

/-- Cuts the boundary page (R281). -/
def State.cutPage (s : State) (id r cls st p rows : Nat) (b : Boundary) (pages : List (Nat × Page)) : State :=
  match b, ((s.item id 0).bind (fun i => i.acqFor st p)) with
  | .inPlace f, _ => let x := s.frame f; s.setFrame f { x.next with page := x.page.cut rows }
  | .copy f, some a => (s.placePage id 0 r cls ⟨st, p, (s.frame f).page.cut rows, false, 0⟩ a).unrefFrame f
  | .cold key _, some a =>
    let q := ((pages.find? (fun x => x.1 = key)).map Prod.snd).getD {}
    let s := s.placePage id 0 r cls ⟨st, p, q.cut rows, false, 0⟩ a
    { s with store := { s.store with cold := terase s.store.cold key } }
  | _, _ => s

/-- The deltas' bases of the copies of a TRUNCATE (15 R419). -/
def State.cutBases (s : State) (id st p rows : Nat) (b : Boundary) : List Base :=
  match b, ((s.item id 0).bind (fun i => i.acqFor st p)) with
  | .copy f, some a => [⟨a.frame, .copy (BitVec.ofNat 24 f) (BitVec.ofNat 24 a.frame) (BitVec.ofNat 11 rows), (s.frame f).page⟩]
  | _, _ => []

/-- Performs a TRUNCATE whose frames are there. -/
def State.cutAll (s : State) (j : Job) (r n : Nat) (bs : List (Nat × Boundary)) (pages : List (Nat × Page)) : State :=
  let t := (s.row r).tspan
  let before := s.store
  let cut := (s.streamsOf r).filter (fun d => decide (n < s.streamLen r d.1))
  let released := cut.foldl (fun c d => c + (d.2.pages - ceilDiv n t)) 0
  let bases := bs.flatMap (fun b => s.cutBases j.id b.1 (n / t) (n % t) b.2)
  let s := s.dropBuilding r (n / t)
  let s := cut.foldl (fun s d => s.cutMap r d.1 (ceilDiv n t)) s
  let s := bs.foldl (fun s b => s.cutPage j.id r j.cls b.1 (n / t) (n % t) b.2 pages) s
  let x := s.row r
  let s := if x.state = 4 then s.setRow r { x with state := 1, lostPage := 0xFFFFFFFF } else s
  (s.sendPart bases before (j.group (j.word 4)) j.id).endJob j.id stOk released

/-- Reads the cold boundary pages back and checks them (08 R223): the pages, or what stops the job. -/
inductive ReadBack where
  | ok (pages : List (Nat × Page))
  | fail (status : Nat)
  | corrupt (st : Nat)

def readBack (hv : HostView) (tr : Trans) : List (Nat × Nat × Nat) → List (Nat × Page) → ReadBack
  | [], got => .ok got
  | (st, key, addr) :: rest, got =>
    match readVirt hv tr addr 73728 with
    | .fail e => .fail e
    | .ok bs =>
      let data := bs.take 65536
      let side := bs.drop 65536
      let p := Page.ofBytes data side
      if checksumOfBytes data side = p.checksum then readBack hv tr rest (got ++ [(key, p)]) else .corrupt st

/-- Acquires the frames of a TRUNCATE, its charges first (R282). The flag says that it goes on. -/
def State.cutAcquire (s : State) (j : Job) (i : Item) (r n : Nat) (bs : List (Nat × Boundary)) : State × Bool :=
  let ctl := allocCtl i.bind.commit (s.row r).reserveRight j.cls i.budgetOut
  let p := n / (s.row r).tspan
  let ns := bs.flatMap (fun b => s.cutNeed r b.1 p b.2)
  let k := ns.length
  let charged (s : State) : State :=
    ((s.discharge j.cls i.charge).charge j.cls k).modItem j.id 0 (fun x => { x with charge := k })
  if !s.quotaHolds ctl k i.charge then ((s.bumpTile 0 0x16C 1).endJob j.id stQuota 0, false)
  else match (if ctl.migEn then none else bs.find? (fun b => match b.2 with | .cold _ _ => true | _ => false)) with
  | some b => ((s.bumpTile (s.pageTile (s.dirOf r b.1).layer r b.1 p) 0x164 1).endJob j.id stExhausted 0, false)
  | Option.none =>
  match s.acquireFrames ctl (.item j.id 0) ns with
  | .none t s => ((s.bumpTile t 0x164 1).endJob j.id stExhausted 0, false)
  | .wait s => (((charged s).modItem j.id 0 (fun x => { x with st := ItemSt.evictWait })).pump, false)
  | .ok l s =>
    let s := l.foldl (fun s a => s.markTarget j.cls a) (charged s)
    (s.modItem j.id 0 (fun x => { x with acq := l }), true)

/-- A cold boundary page whose checksum does not hold stands in the frame taken for it, which is handled as any frame with an
uncorrectable error (08 R223, 16 R453). -/
def State.cutCorrupt (s : State) (id r cls st p : Nat) (bs : List (Nat × Boundary)) (hv : HostView) (tr : Trans) : State :=
  match bs.find? (fun b => b.1 = st), (s.item id 0).bind (fun i => i.acqFor st p) with
  | some (_, .cold key addr), some a =>
    let q := match readVirt hv tr addr 73728 with
      | .ok bytes => Page.ofBytes (bytes.take 65536) (bytes.drop 65536)
      | .fail _ => {}
    let s := s.useAcq id 0 a
    let s := s.setFrame a.frame { (s.frame a.frame).next with
      st := .isSealed, page := q, refcnt := 1, cls := cls, reserve := a.reserve, charged := true }
    let s := s.setPage r st p (.frame a.frame)
    let s : State := { s with store := { s.store with cold := terase s.store.cold key } }
    (s.bumpTile (frameTile a.frame) 0x148 1).frameBad a.frame 0x04 (frameTile a.frame) 0 a.frame
  | _, _ => s

/-- A TRUNCATE that its context lets run (R281, R282): its frames first, then the cold pages read back. -/
def State.cutJob (s : State) (j : Job) (i : Item) (r n : Nat) (hv : HostView) : State :=
  let bs := ((s.streamsOf r).map (fun d => (d.1, s.boundary r d.1 n))).filter (fun b => decide (b.2 ≠ .none))
  let cold := bs.filterMap (fun b => match b.2 with | .cold key addr => some (b.1, key, addr) | _ => Option.none)
  let recalls := bs.filterMap (fun b => match b.2 with | .recall slot => some slot | _ => Option.none)
  let p := n / (s.row r).tspan
  if bs.any (fun b => b.2 = .bad) then s.endJob j.id stMedia 0
  else if bs.any (fun b => b.2 = .wait) then s
  else if recalls ≠ [] then
    (recalls.foldl (fun s m => s.joinRecall m (j.id, 0)) s).modItem j.id 0 (fun x => { x with st := ItemSt.evictWait })
  else match s.translateAll i.tile (.item j.id 0) (cold.flatMap (fun c => needs c.2.2 73728 0 true)) with
  | .wait s => s
  | .failed e s => let x := s.cutAcquire j i r n bs; if x.2 then x.1.endJob j.id e 0 else x.1
  | .ok tr s =>
    let x := s.cutAcquire j i r n bs
    if !x.2 then x.1 else
    match readBack hv tr cold [] with
    | .fail e => x.1.endJob j.id e 0
    | .corrupt st => (x.1.cutCorrupt j.id r j.cls st p bs hv tr).endJob j.id stMedia 0
    | .ok pages => x.1.cutAll j r n bs pages

/-- TRUNCATE (R272). -/
def State.truncateJob (s : State) (j : Job) (i : Item) (hv : HostView) : State :=
  match s.live? (j.word 4) with
  | none => s.endJob j.id stBadState 0
  | some r =>
    let x := s.row r
    let n := j.word 5
    if x.state = 1 then s.cutJob j i r n hv
    else if x.state = 4 then (if n ≤ x.lostPage * x.tspan then s.cutJob j i r n hv else s.endJob j.id stMedia 0)
    else s.endJob j.id stBadState 0

/-! ### The commands -/

def execOpenCtx (job : Nat) (hv : HostView) (s : State) : Out := .next (s.onItem job 0 0x01 (fun s j i => s.openJob j i hv))

def execClose (job : Nat) (s : State) : Out := .next (s.onItem job 0 0x02 (fun s j _ => s.closeJob j))

def execFork (job : Nat) (s : State) : Out := .next (s.onItem job 0 0x03 (fun s j i => s.forkJob j i false))

def execForkBinding (job : Nat) (s : State) : Out := .next (s.onItem job 0 0x03 (fun s j i => s.forkJob j i true))

def execPark (job : Nat) (s : State) : Out := .next (s.onItem job 0 0x04 (fun s j i => s.parkJob j i))

def execUnpark (job : Nat) (hv : HostView) (s : State) : Out := .next (s.onItem job 0 0x05 (fun s j i => s.unparkJob j i hv))

def execTruncate (job : Nat) (hv : HostView) (s : State) : Out := .next (s.onItem job 0 0x32 (fun s j i => s.truncateJob j i hv))

end Sys2Proof.Machine
end

