-- ==== Sys2Proof/Machine/Attend.lean ====
section
/-! DEFINITION. APPEND items (09 R244 to R251), the forward kinds ATTEND_DECODE, ATTEND_PREFILL and ATTEND_PARTIAL (06
R162 to R189), and the nodes of their merge trees. -/

namespace Sys2Proof.Machine

/-! ### Staging of an append -/

/-- Streams whose last page a staging found to be re-encoded. -/
def reencoded (ps : List StagedPage) (st : Nat) : Bool := ps.any (fun p => p.stream = st && !p.fresh && decide (0 < p.reencodes))

/-- Reads the K and V rows of an item, stages them, and takes the frames and blocks of the append. A read that fails comes after the
quota and the frames (09 R256). None where the item has stopped or waits; it takes nothing that an aged item waits for (12 R344). -/
def State.stageItem (s : State) (j : Job) (k : Nat) (i : Item) (e : Entry) (r : Nat) (hv : HostView) :
    State × Option (List StagedPage) :=
  let n := e.kvBytes (fmtOf (bits (j.word 9) 2 0)) (s.row r).hd
  let fails (st : Nat) : State × Option (List StagedPage) :=
    let x := s.acquireAppend j k i e r (fun _ => false)
    (if x.2 then x.1.failItem j.id k st else x.1, none)
  if s.yields i then (s, none) else
  match readVirt hv i.trans (e.slot j.kvSlots.1) n, readVirt hv i.trans (e.slot j.kvSlots.2) n with
  | .fail st, _ => fails st
  | .ok _, .fail st => fails st
  | .ok ks, .ok vs =>
    let a := runFM (s.stageEntry (s.appendCtl j i r e) j i.entry r e ks vs)
    let x := s.acquireAppend j k i e r (reencoded a.1)
    if x.2 then (x.1.took j.id k (s.stageCore j i e r) a.2, some a.1) else (x.1, none)

/-- Keeps what was staged, and its re-encodings (R248). -/
def Item.keep (i : Item) (ps : List StagedPage) : Item :=
  { i with staged := ps, reencodes := ps.foldl (fun n p => n + p.reencodes) 0 }

/-- An APPEND item: its pages are staged, and committed when it completes (R245, R251). -/
def State.appendItem (s : State) (j : Job) (k : Nat) (i : Item) (hv : HostView) : State :=
  match j.entries[i.entry]? with
  | none => s
  | some e =>
    match s.stageItem j k i e (bits e.handle 13 0) hv with
    | (s', none) => s'
    | (s', some ps) => s'.modItem j.id k (fun i => { i.keep ps with st := .computed })

/-- The copies on write among staged pages, as the ledger carries them (15 R419). -/
def State.copyBases (s : State) (r : Nat) (i : Item) : List Base :=
  i.staged.filterMap (fun p =>
    match s.pageEntry r p.stream p.index, i.acqFor p.stream p.index with
    | .frame f, some a =>
      let x := s.frame f
      if !p.fresh && decide (x.st = .shared) then
        some ⟨a.frame, .copy (BitVec.ofNat 24 f) (BitVec.ofNat 24 a.frame) (BitVec.ofNat 11 x.page.rows), x.page⟩
      else none
    | _, _ => none)

/-- Commits what an item has staged, and sends the changes to the twin (R251, 15 R419). -/
def State.commitItem (s : State) (j : Job) (k : Nat) (e : Entry) : State :=
  match s.item j.id k with
  | none => s
  | some i =>
    let r := bits e.handle 13 0
    (s.commitAppend j.id k r i.staged).sendPart (s.copyBases r i) s.store (j.group e.handle) j.id

/-- Commits the appends of every entry of a job that names a context, in batch order, once the last is staged (06 R179): nothing of
it is attended before. -/
def State.commitContext (s : State) (id handle : Nat) : State :=
  match s.job id with
  | none => s
  | some j =>
    let es := j.unmade handle
    if !es.all (fun p => decide (p.2.app = 2)) then s else
    es.foldl (fun s p => match j.appender p.1 with
      | some k => (s.commitItem j k p.2).setApp id p.1 1
      | none => s) s

/-- An append under QT has failed: no entry of the job that names the context appends or attends (06 R179). Appends staged are
dropped. -/
def State.failContextRows (s : State) (id handle status : Nat) : State :=
  match s.job id with
  | none => s
  | some j =>
    (j.unmade handle).foldl (fun s p =>
      let s := s.setApp id p.1 (256 + status)
      match j.appender p.1 with
      | some k => if decide (p.2.app = 2) && ((s.item id k).any (fun i => i.st = .running)) then s.failItem id k status else s
      | none => s) s

/-! ### Rows of an item -/

/-- What the rows of an item share: numerics, tables, masks, extents, segment IDs, the bias row of each member, sums. -/
structure RowEnv where
  pf : Profile
  num : NumCtl
  norm : NormTable
  turn : TurnTable
  mc : MaskCtl
  hd : Nat
  tspan : Nat
  len : Nat
  segs : List Nat
  bias : Nat → Option (List Word)
  /-- How the nests of the item sum, for a page or for a row's normalization. -/
  sums : Nat → StageSums

/-- The RowEnv of an item. -/
def State.rowEnv (s : State) (j : Job) (i : Item) (e : Entry) (segs : List Nat) : RowEnv :=
  let x := i.bind.ctx
  { pf := profileOf s.cfg.image.np, num := j.num s.part.chunked s.cfg.image.np, norm := s.normTable i.bind.gens x.qn
    turn := s.turnTable i.bind.gens x.turn, mc := j.mask, hd := x.hd, tspan := x.tspan, len := i.bind.lens.headD 0, segs := segs
    bias := fun g => if bit j.ctl 8 then some (s.biasRow i.bind.gens i.bind.dir.bias g) else none
    sums := s.stageSums j e i x (s.batching j i.tile) }

/-- Bytes or the status of a failed access. -/
def Answer.except : Answer → Except Nat (List Byte)
  | .ok b => .ok b
  | .fail e => .error e

/-- Host address of one row at a stride in an address slot (11 R311). -/
def Entry.rowAddr (e : Entry) (i : Item) (group slot member row stride : Nat) : Nat :=
  e.slot slot + (((i.stream - e.first) * group + member) * e.rows + row) * stride

/-- The segment IDs that an item reads; none under SEGMENT = 0b. -/
def Job.readSegs (j : Job) (hv : HostView) (i : Item) (e : Entry) : Except Nat (List Nat) :=
  if !j.bySegment then .ok [] else do
    let n := segBytes e (i.bind.lens.headD 0)
    let b ← (readVirt hv i.trans (e.slot j.segSlot) n).except
    let w := dmaMove 3 4 false b
    pure ((List.range (n / 2)).map (fun p => fieldAt w (4 * p) 4))

/-- A row's limits and segments, before its operand is formed. -/
def RowEnv.bare (v : RowEnv) (e : Entry) (row : Nat) : QRow := { rowShape e v.len row with segs := v.segs }

/-- Stages 1 to 4 of a row (R162), with whether a saturated cell formed its operand (07 R210). -/
def RowEnv.query (v : RowEnv) (e : Entry) (f : Fmt) (row member : Nat) (bs : List Byte) : FM QRow := do
  let x := runFM (prepareQuery v.pf v.num (v.sums row).norm v.norm v.turn (e.pos0 + row) (rowWords v.num.strict f v.hd bs))
  addAcc x.2
  pure { v.bare e row with op := x.1, bias := v.bias member, sat := decide (0 < x.2.satTiles) }

/-- The pages that rows of an item read: leaves that are not null (R167, R168), below the pages of the map. -/
def RowEnv.pages (v : RowEnv) (e : Entry) (rows : List Nat) (pages : Nat) : List Nat :=
  (List.range pages).filter (fun p => rows.any (fun r =>
    let q := v.bare e r
    decide (p < leafCount v.mc q v.tspan) && !isNullLeaf v.mc q v.tspan p))

/-- The frame that an item has bound for a page of its stream. -/
def Item.frameOf (i : Item) (page : Nat) : Option Nat :=
  (i.bind.pages.find? (fun b => b.1 = i.stream && b.2.1 = page)).map (fun b => b.2.2)

/-- Binds and pins pages that an item reads and does not hold yet: pages its entry's own append wrote, and those that
segment IDs leave in use; cold ones are recalled first. The flag says that the item goes on. -/
def State.holdPages (s : State) (j : Job) (k : Nat) (i : Item) (e : Entry) (r : Nat) (ps : List Nat) : State × Bool :=
  let f := s.findPages r i [(i.stream, ps)]
  let s := f.2
  match s.pagesFail j k i e f.1 with
  | some s' => (s', false)
  | none =>
    if f.1.wait then (s, false)
    else if f.1.cold = [] then (s.pinAll j.id k f.1.frames, true)
    else match s.recallFound j k r (allocCtl i.bind.commit (s.row r).reserveRight j.cls i.budgetOut) f.1.cold with
      | (some t, s') => (s'.exhausted j.id k t, false)
      | (none, s') =>
        ((s'.modItem j.id k (fun i => { i with st := if s'.migBlocks j.id k then ItemSt.evictWait else .waiting })).pump, false)

/-- Binds the pages that the rows of an item read and that it lacks; with every page bound it has started. The map is
that of its start, or under QT the one that its entry's own append left (06 R161). A context closed before then stops
the item (10 R276). -/
def State.bindRows (s : State) (j : Job) (k : Nat) (i : Item) (e : Entry) (v : RowEnv) : State × Bool :=
  let r := bits e.handle 13 0
  let pages := if j.qt then (s.dirOf r i.stream).pages else i.bind.dir.pages
  let lack := (v.pages e (e.itemRows j.kind i) pages).filter (fun p => (i.frameOf p).isNone)
  if lack ≠ [] ∧ (s.live? e.handle).isNone then (s.failItem j.id k stBadState, false) else
  let h := if lack = [] then (s, true) else s.holdPages j k i e r lack
  if h.2 then (h.1.modItem j.id k (fun i => { i with started := true }), true) else h

/-! ### Leaves and page skipping -/

/-- A row of an item that runs its leaves: the job, the item's index and its context's row, the row, its member and operands. -/
structure RowAt where
  id : Nat
  k : Nat
  r : Nat
  row : Nat
  member : Nat
  q : QRow

/-- The core of a row's leaf on a page (12 R330). -/
def State.rowCore (s : State) (i : Item) (x : RowAt) (p f : Nat) : Nat := s.leafCore x.r i p f x.row x.member

/-- Computes one leaf of a row; a null leaf reads nothing (R168, R169). -/
def State.rowLeaf (s : State) (v : RowEnv) (i : Item) (x : RowAt) (p : Nat) : TreeNode × State :=
  match (if isNullLeaf v.mc x.q v.tspan p then none else i.frameOf p) with
  | none => (⟨p, 1, nullLeaf v.hd⟩, s)
  | some f =>
    let a := runFM (pageLeaf v.pf v.num (v.sums p) v.mc x.q (s.frame f).page p v.tspan v.hd)
    (⟨p, 1, a.1⟩, s.took x.id x.k (s.rowCore i x p f) a.2)

/-- Computes several leaves of a row. -/
def State.rowLeaves (s : State) (v : RowEnv) (i : Item) (x : RowAt) (ps : List Nat) : List TreeNode × State :=
  ps.foldl (fun (a : List TreeNode × State) p =>
    let y := a.2.rowLeaf v i x p
    (a.1 ++ [y.1], y.2)) ([], s)

/-- Computes or skips a leaf that is no anchor (R184, R185); the count of pages skipped follows. Whether its page is sealed, and with
what summaries, is seen when the leaf is reached (log entry 238). -/
def State.skipLeaf (s : State) (v : RowEnv) (i : Item) (theta : Word) (x : RowAt) (ma : Word) (p : Nat) : TreeNode × Nat × State :=
  match (if isNullLeaf v.mc x.q v.tspan p then none else i.frameOf p) with
  | none => (⟨p, 1, nullLeaf v.hd⟩, 0, s)
  | some f =>
    let pg := (s.frame f).page
    let a := runFM (skipTest v.num (v.sums p).skip v.mc theta x.q pg p v.tspan ma)
    if !pg.isSealed then let y := s.rowLeaf v i x p; (y.1, 0, y.2)
    else
      let s := s.took x.id x.k (s.rowCore i x p f) a.2
      if a.1 then (⟨p, 1, nullLeaf v.hd⟩, 1, s.bumpTile (frameTile f) 0x128 1)
      else let y := s.rowLeaf v i x p; (y.1, 0, y.2)

/-- The leaves of a row under SKIP = 1b: anchors first (R184). -/
def State.skipLeaves (s : State) (v : RowEnv) (i : Item) (theta : Word) (x : RowAt) (n : Nat) : List TreeNode × Nat × State :=
  let y := s.rowLeaves v i x ((List.range n).filter (isAnchor n))
  let ma := (runFM (y.1.foldlM (fun m l => fmax v.num.strict m l.leaf.m) mNeg)).1
  ((List.range n).filter (fun p => !isAnchor n p)).foldl (fun (a : List TreeNode × Nat × State) p =>
    let z := a.2.2.skipLeaf v i theta x ma p
    (a.1 ++ [z.1], a.2.1 + z.2.1, z.2.2)) (y.1, 0, y.2)

/-! ### A forward item -/

/-- The external partials of a row, in list order (R189). -/
def Job.readExt (j : Job) (hv : HostView) (i : Item) (e : Entry) (group hd row member : Nat) : Except Nat (List Leaf) :=
  let n := bits j.ctl 15 12
  let st := partialStride hd
  (List.range n).mapM (fun p => do
    let b ← (readVirt hv i.trans (e.rowAddr i group 6 member row (n * st) + p * st) (8 + 4 * hd)).except
    pure (partialOfBytes hd b))

/-- Reads of one row: its Q row and its external partials. -/
structure RowIn where
  row : Nat
  member : Nat
  q : List Byte
  ext : List Leaf

/-- Reads every row of an item. -/
def Job.readRows (j : Job) (hv : HostView) (i : Item) (e : Entry) (group hd : Nat) : Except Nat (List RowIn) :=
  let f := fmtOf (bits (j.word 9) 2 0)
  (e.rowsOfItem j.kind i group).mapM (fun rm => do
    let q ← (readVirt hv i.trans (e.rowAddr i group 0 rm.2 rm.1 (rowStride f hd)) (hd * f.bytes)).except
    let x ← j.readExt hv i e group hd rm.1 rm.2
    pure ⟨rm.1, rm.2, q, x⟩)

/-- Stages 1 to 6 of one row (R162); the row joins the item. Its pages skipped count one for each row (log entry 239). -/
def State.forwardRow (s : State) (j : Job) (k : Nat) (i : Item) (e : Entry) (v : RowEnv) (x : RowIn) : State :=
  let a := runFM (v.query e (fmtOf (bits (j.word 9) 2 0)) x.row x.member x.q)
  let s := s.took j.id k i.mergeCore a.2
  let n := leafCount v.mc a.1 v.tspan
  let w : RowAt := ⟨j.id, k, bits e.handle 13 0, x.row, x.member, a.1⟩
  let l : List TreeNode × Nat × State :=
    if bit j.ctl 10 then s.skipLeaves v i (BitVec.ofNat 32 (j.word 13)) w n
    else let y := s.rowLeaves v i w (List.range n); (y.1, 0, y.2)
  let w : FwdRow := { stream := i.stream, member := x.member, row := x.row, pos := e.pos0 + x.row, leaves := n, nodes := l.1
                      ext := x.ext, skipped := l.2.1 }
  l.2.2.modItem j.id k (fun i => { i with rows := i.rows ++ [w], skippedPages := i.skippedPages + w.skipped })

/-- Places the leaf tasks of a decode item that stand in no round yet: those that its start could not know, or that a retry has
dropped. -/
def State.placeLate (s : State) (j : Job) (k : Nat) (i : Item) (e : Entry) (v : RowEnv) : State :=
  if decide (j.kind = 0x11) && decide (i.leafAt = []) then
    s.placeLeaves j k i e (fun row p => decide (p < leafCount v.mc (v.bare e row) v.tspan) && !isNullLeaf v.mc (v.bare e row) v.tspan p)
  else s

/-- The attention of an item whose context's appends have been made: pages it lacks are bound, its leaf tasks placed, then every row
runs once the rounds that hold them have closed (R177). -/
def State.attendRows (s : State) (j : Job) (k : Nat) (e : Entry) (hv : HostView) : State :=
  match s.item j.id k with
  | none => s
  | some i =>
    match j.readSegs hv i e with
    | .error st => s.failItem j.id k st
    | .ok segs =>
      let v := s.rowEnv j i e segs
      let h := s.bindRows j k i e v
      if !h.2 then h.1 else
      let s := h.1.withMerge j k
      let s := s.placeLate j k ((s.item j.id k).getD i) e v
      if s.roundsOf j.id k ≠ [] then s else
      let i := (s.item j.id k).getD i
      match j.readRows hv i e i.bind.ctx.group i.bind.ctx.hd with
      | .error st => s.failItem j.id k st
      | .ok xs => (xs.foldl (fun s x => s.forwardRow j k i e v x) s).modItem j.id k (fun i => { i with st := .computed })

/-- A forward item: under QT the first item of an entry stages the entry's append, which is committed with those of the context's
other entries (R179); then the rows run. A decode item waits for the rounds that hold its rows (R177). -/
def State.attendItem (s : State) (j : Job) (k : Nat) (i : Item) (hv : HostView) : State :=
  match j.entries[i.entry]? with
  | none => s
  | some e =>
    if s.roundsOf j.id k ≠ [] ∨ e.app = 2 then s else
    if !j.appends k i then s.attendRows j k e hv else
    match s.stageItem j k i e (bits e.handle 13 0) hv with
    | (s', none) => s'
    | (s', some ps) =>
      let s' := ((s'.modItem j.id k (fun i => i.keep ps)).setApp j.id i.entry 2).commitContext j.id e.handle
      match (s'.job j.id).bind (fun j => (j.entries[i.entry]?).map (fun e => (j, e))) with
      | some je => if je.2.app = 1 then s'.attendRows je.1 k je.2 hv else s'
      | none => s'

/-! ### Merge nodes (R172, 04 R127, R128) -/

/-- Whether leaves lo to lo + n - 1 form a node of the split tree over leaves a to a + m - 1. -/
def inTree : Nat → Nat → Nat → Nat → Nat → Bool
  | 0, _, _, _, _ => false
  | fuel + 1, a, m, lo, n =>
    if lo = a ∧ n = m then true
    else if m ≤ 1 then false
    else
      let h := splitPoint m
      if lo < a + h then inTree fuel a h lo n else inTree fuel (a + h) (m - h) lo n

/-- The node of a row's tree that stands for leaves lo to lo + n - 1. -/
def FwdRow.node (w : FwdRow) (lo n : Nat) : Option TreeNode := w.nodes.find? (fun x => x.lo = lo && x.n = n)

/-- Combines the children of a node of a row's tree, when both are present. -/
def FwdRow.merge (pf : Profile) (strict : Bool) (w : FwdRow) (lo n : Nat) : Option (FM FwdRow) :=
  if n < 2 ∨ !inTree 64 0 w.leaves lo n then none else
  let h := splitPoint n
  match w.node lo h, w.node (lo + h) (n - h) with
  | some a, some b => some (do
      let l ← mergeLeaf pf strict a.leaf b.leaf
      pure { w with nodes := (w.nodes.filter (fun x => x != a && x != b)) ++ [⟨lo, n, l⟩] })
  | _, _ => none

/-- The root of a row, once its tree is merged; a row without leaves is fully masked (R167, R172). -/
def FwdRow.root (w : FwdRow) (hd : Nat) : Option Leaf :=
  if w.leaves = 0 then some (nullLeaf hd) else (w.node 0 w.leaves).map (fun x => x.leaf)

/-- Whether an item has computed its leaves and goes on to its result. -/
def Item.merging (i : Item) : Bool := i.st = .computed && i.status = 0

/-- A merge node of a forward row. -/
def State.mergeForward (s : State) (j : Job) (k : Nat) (i : Item) (target lo n : Nat) : State :=
  match i.rows[target]? with
  | none => s
  | some w =>
    match w.merge (profileOf s.cfg.image.np) (bit j.nctl 2) lo n with
    | none => s
    | some c =>
      let a := runFM c
      (s.took j.id k i.mergeCore a.2).modItem j.id k (fun i => { i with rows := i.rows.set target a.1 })

/-! ### The commands -/

def execAppend (job item : Nat) (hv : HostView) (s : State) : Out :=
  .next (s.onItem job item 0x10 (fun s j i => s.appendItem j item i hv))

def execAttendDecode (job item : Nat) (hv : HostView) (s : State) : Out :=
  .next (s.onItem job item 0x11 (fun s j i => s.attendItem j item i hv))

def execAttendPrefill (job item : Nat) (hv : HostView) (s : State) : Out :=
  .next (s.onItem job item 0x12 (fun s j i => s.attendItem j item i hv))

def execAttendPartial (job item : Nat) (hv : HostView) (s : State) : Out :=
  .next (s.onItem job item 0x14 (fun s j i => s.attendItem j item i hv))

end Sys2Proof.Machine
end

