-- ==== Sys2Proof/Machine/Backward.lean ====
section
/-! DEFINITION. ATTEND_BACKWARD items (07 R192 to R210), their reductions, and the commands MERGE_NODE, ATOMIC_ADD and
WAVE_FOLD that combine contributions (04 R127 to R130). -/

namespace Sys2Proof.Machine

/-! ### Reads -/

/-- Reads of one backward row (R194). -/
structure BwdIn where
  row : Nat
  member : Nat
  q : List Byte
  dO : List Byte
  o : List Byte
  lse : Word

/-- Reads every row of a backward item. -/
def Job.readBwd (j : Job) (hv : HostView) (i : Item) (e : Entry) (group hd : Nat) : Except Nat (List BwdIn) :=
  let at_ (slot : Nat) (f : Fmt) (rm : Nat × Nat) : Except Nat (List Byte) :=
    (readVirt hv i.trans (e.rowAddr i group slot rm.2 rm.1 (rowStride f hd)) (hd * f.bytes)).except
  (e.rowsOfItem j.kind i group).mapM (fun rm => do
    let q ← at_ 0 (fmtOf (bits (j.word 9) 2 0)) rm
    let d ← at_ 1 (fmtOf (bits (j.word 9) 5 3)) rm
    let o ← at_ 2 (fmtOf (bits j.ctl 2 0)) rm
    let l ← (readVirt hv i.trans (e.rowAddr i group 3 rm.2 rm.1 4) 4).except
    pure ⟨rm.1, rm.2, q, d, o, BitVec.ofNat 32 (ofLe l)⟩)

/-! ### One row (R197, R198, R202) -/

/-- The prologue of a row; a fully masked row runs none (R197, R202). -/
def RowEnv.prologue (v : RowEnv) (j : Job) (e : Entry) (x : BwdIn) : FM BwdRow :=
  if x.lse = 0xFF800000#32 then pure { q := v.bare e x.row, cls := .masked, member := x.member }
  else do
    let f := fmtOf (bits (j.word 9) 5 3)
    let q ← v.query e (fmtOf (bits (j.word 9) 2 0)) x.row x.member x.q
    bwdPrologue v.num (bit j.ctl 3) q x.member (rowVals v.num.strict f v.hd x.dO)
      (rowVals v.num.strict (fmtOf (bits j.ctl 2 0)) v.hd x.o) (decide (f = .fp32)) x.lse

/-- The page that an item has bound for a leaf of a row, with its frame; none for a null leaf. -/
def State.leafPage (s : State) (v : RowEnv) (i : Item) (q : QRow) (p : Nat) : Option (Nat × Page) :=
  if isNullLeaf v.mc q v.tspan p then none else (i.frameOf p).map (fun f => (f, (s.frame f).page))

/-- What one row has formed: its row and outcome, and the slots of each page that it reads. -/
structure BwdDone where
  r : BwdRow
  row : Nat
  leaves : Nat
  cls : BwdClass
  slots : List (Nat × List BwdSlot)
  dq : List (List Grad)

/-- The weights and gradients of a row on every page (R198): (page, slots). -/
def State.bwdPages (s : State) (x : RowAt) (v : RowEnv) (i : Item) (r : BwdRow) (n : Nat) : List (Nat × List BwdSlot) × State :=
  (List.range n).foldl (fun (a : List (Nat × List BwdSlot) × State) p =>
    match s.leafPage v i r.q p with
    | none => a
    | some fp =>
      let c := runFM (bwdSlots v.pf v.num (v.sums p).score v.mc r fp.2 p v.tspan)
      (a.1 ++ [(p, c.1)], a.2.took x.id x.k (s.keyCore x.r i p fp.1) c.2)) ([], s)

/-- The dQ leaves of a row, one for each page; a page without live slot gives +0 (R198, R205). -/
def State.bwdDq (s : State) (x : RowAt) (v : RowEnv) (i : Item) (n : Nat) (slots : List (Nat × List BwdSlot)) :
    List (List Grad) × State :=
  (List.range n).foldl (fun (a : List (List Grad) × State) p =>
    match slots.find? (fun y => y.1 = p && y.2 ≠ []), i.frameOf p with
    | some y, some f =>
      let c := runFM (dqLeaf v.num (v.sums p).dq (s.frame f).page y.2 v.tspan v.hd)
      (a.1 ++ [c.1], a.2.took x.id x.k (s.keyCore x.r i p f) c.2)
    | _, _ => (a.1 ++ [List.replicate v.hd ⟨0#32, false⟩], a.2)) ([], s)

/-- The outcome of R202. -/
def bwdOutcome (lse : Word) (r : BwdRow) (live : Bool) : BwdClass :=
  if r.cls = .masked then .masked
  else if (decode .fp32 lse.toNat).isNan then .nan
  else if !live then .masked
  else r.cls

/-- One row of a backward item. -/
def State.bwdRow (s : State) (j : Job) (k : Nat) (i : Item) (e : Entry) (v : RowEnv) (x : BwdIn) : BwdDone × State :=
  let a := runFM (v.prologue j e x)
  let s := s.took j.id k i.mergeCore a.2
  let r := a.1
  let w : RowAt := ⟨j.id, k, bits e.handle 13 0, x.row, x.member, r.q⟩
  let n := leafCount v.mc r.q v.tspan
  let bad := r.cls = .computed ∧ (List.range n).any (fun p => match s.leafPage v i r.q p with
    | some fp => bwdScoreNan v.num (v.sums p).score v.mc r fp.2 p v.tspan
    | none => false)
  let r : BwdRow := if bad then { r with cls := .nan } else r
  let b := s.bwdPages w v i r n
  let d := b.2.bwdDq w v i n b.1
  (⟨r, x.row, n, bwdOutcome x.lse r (b.1.any (fun p => p.2 ≠ [])), b.1, d.1⟩, d.2)

/-- The value of a gradient in a reduction: an FP32 code, or its W64 promotion under CANON (R204, R205). -/
def Grad.node (canon : Bool) (g : Grad) : DWord × Bool := (if canon then toW64 g.val else g.val.setWidth 64, g.sat)

/-- A reduction's value as a gradient, rounded once from W64 under CANON. -/
def gradOf (c : NumCtl) (canon : Bool) (x : DWord × Bool) : FM Grad := do
  let w ← (if canon then w64To32 c.strict x.1 else pure (x.1.setWidth 32))
  pure ⟨w, x.2⟩

/-- Index of a tile within the band of a stream's layer (R205). -/
def State.bandIndex (s : State) (layer t : Nat) : Nat :=
  match s.layerBand layer with
  | some b => (s.bandTiles b).idxOf t
  | none => 0

/-- A row's work: its leaves as nodes, ranked on their tile in the default mode, by page number under CANON (R205). What
the atomic unit has applied before a retry stands. -/
def BwdDone.work (d : BwdDone) (canon : Bool) (held : List Nat) (old : Option BwdWork) : BwdWork :=
  let hs := held.take d.leaves
  let nodes : List GradNode := (d.dq.zipIdx).map (fun x =>
    let t := hs.getD x.2 0
    { part := if canon then 0 else t, lo := if canon then x.2 else ((hs.take x.2).filter (· = t)).length, n := 1
      vals := x.1.map (Grad.node canon) })
  { member := d.r.member, row := d.row, cls := d.cls, leaves := d.leaves, held := hs, nodes := nodes
    target := (old.map BwdWork.target).getD [], applied := (old.map BwdWork.applied).getD [] }

/-! ### dK and dV of a query block (R199, R203) -/

/-- The slot of a row at a key position. -/
def BwdDone.slotAt (d : BwdDone) (page slot : Nat) : Option BwdSlot :=
  (d.slots.find? (fun p => p.1 = page)).bind (fun p => p.2.find? (fun x => x.slot = slot))

/-- The rows of a query block in the order of R203: in native mode every row of the block, in any-size mode those of the
item (12 R338). -/
def blockRows (native : Bool) (pos0 block group : Nat) (ds : List BwdDone) : List (Option BwdDone) :=
  if native then
    (List.range 64).flatMap (fun p => (List.range group).map (fun g =>
      ds.find? (fun d => pos0 + d.row = 64 * block + p && d.r.member = g)))
  else ds.map some

/-- The term of a row at a key position (R199). -/
def keyTerm (hd page slot : Nat) (d : Option BwdDone) : KeyTerm :=
  match d.bind (fun d => (d.slotAt page slot).map (fun x => (d, x))) with
  | some dx => ⟨dx.2.p, dx.2.ds, dx.1.r.doOp, dx.1.r.q.op, dx.2.satP, dx.2.satDs⟩
  | none => zeroTerm hd

/-- dK and dV of one key position over a query block; none where no row reaches it. -/
def keySums (c : NumCtl) (ns : StageSums) (hd page slot : Nat) (rows : List (Option BwdDone)) : FM (Option (List Grad × List Grad)) :=
  if !rows.any (fun d => match d with | some x => (x.slotAt page slot).isSome | none => false) then pure none else do
    let ts := rows.map (keyTerm hd page slot)
    let dk ← dkBlock c ns.dk ts hd
    let dv ← dvBlock c ns.dv ts hd
    pure (some (dk, dv))

/-- dK and dV of the key positions of one page over a query block. -/
abbrev PageKeys := Nat × List (Option (List Grad × List Grad))

/-- The core of the key rows of a page: on the tile that holds it, resident or not (R204). -/
def State.keyCoreOf (s : State) (r : Nat) (i : Item) (p : Nat) : Nat :=
  s.placedCore r i.stream p (match i.frameOf p with | some f => frameTile f | none => i.bind.tiles.getD p i.tile)

/-- The sums of one page's slots (R203). -/
def State.pageKeys (s : State) (x : RowAt) (v : RowEnv) (i : Item) (rows : List (Option BwdDone)) (n p : Nat) : PageKeys × State :=
  let slots := (List.range v.tspan).filter (fun y => decide (p * v.tspan + y < n))
  match i.frameOf p with
  | none => ((p, slots.map (fun _ => none)), s)
  | some f =>
    let a := runFM (slots.mapM (fun y => keySums v.num (v.sums p) v.hd p y rows))
    ((p, a.1), s.took x.id x.k (s.keyCore x.r i p f) a.2)

/-- The sums of every page that holds key positions from 0 to n - 1. -/
def State.allKeys (s : State) (x : RowAt) (v : RowEnv) (i : Item) (rows : List (Option BwdDone)) (n : Nat) : List PageKeys × State :=
  (List.range (ceilDiv n v.tspan)).foldl (fun (a : List PageKeys × State) p =>
    let y := a.2.pageKeys x v i rows n p
    (a.1 ++ [y.1], y.2)) ([], s)

/-- The contribution of a query block to a page: each key row's dK, then each key row's dV; +0 where no row reaches (R200). -/
def blockNode (canon : Bool) (hd c : Nat) (ks : PageKeys) : GradNode :=
  let zero := List.replicate hd ((0#64, false) : DWord × Bool)
  let side (f : List Grad × List Grad → List Grad) : List (DWord × Bool) := ks.2.flatMap (fun o => match o with
    | some g => (f g).map (Grad.node canon)
    | none => zero)
  { part := ks.1, lo := c, n := 1, vals := side Prod.fst ++ side Prod.snd }

/-- The key positions of a page that some row reaches. -/
def reachedKeys (tspan : Nat) (ks : PageKeys) : List Nat :=
  ((ks.2.zipIdx).filter (fun y => y.1.isSome)).map (fun y => ks.1 * tspan + y.2)

/-- Items of a job that share an item's entry and stream. -/
def Job.mates (j : Job) (i : Item) : List Item := j.items.filter (fun x => x.entry = i.entry && x.stream = i.stream)

/-- The dK and dV nodes of an item's entry and stream, whichever item holds them. -/
def Job.keyNodes (j : Job) (i : Item) : List GradNode := (j.mates i).flatMap Item.grads

/-- Whether a contribution already stands in a node over several: the item that gave it has been retried since. -/
def joined (ns : List GradNode) (c : Nat) : Bool := ns.any (fun x => decide (1 < x.n) && decide (x.lo ≤ c) && decide (c < x.lo + x.n))

/-! ### The item -/

/-- The rows of a backward item. -/
def State.bwdRows (s : State) (j : Job) (k : Nat) (i : Item) (e : Entry) (v : RowEnv) (xs : List BwdIn) : List BwdDone × State :=
  xs.foldl (fun (a : List BwdDone × State) x =>
    let d := a.2.bwdRow j k i e v x
    (a.1 ++ [d.1], d.2)) ([], s)

/-- A backward item computes its dQ leaves and the sums of its query block. -/
def State.bwdItem (s : State) (j : Job) (k : Nat) (i : Item) (e : Entry) (v : RowEnv) (xs : List BwdIn) : State :=
  let x := i.bind.ctx
  let canon := bit j.ctl 10
  let d := s.bwdRows j k i e v xs
  let n := keyEnd v.mc e v.len
  let rows := blockRows v.num.native e.pos0 i.block x.group d.1
  let ks := d.2.allKeys ⟨j.id, k, bits e.handle 13 0, 0, 0, {}⟩ v i rows n
  let c := i.block - e.pos0 / 64
  let held := i.bind.tiles.map (s.bandIndex i.bind.dir.layer)
  ks.2.modItem j.id k (fun it => { it with
    st := .computed
    bwd := (d.1.zipIdx).map (fun y => y.1.work canon held it.bwd[y.2]?)
    grads := if joined (j.keyNodes i) c then it.grads else it.grads ++ ks.1.map (blockNode canon x.hd c)
    reached := ks.1.flatMap (reachedKeys x.tspan)
    masked := it.masked + (xs.filter (fun y => y.lse = 0xFF800000#32)).length })

/-- An ATTEND_BACKWARD item: pages it lacks are bound, then every row runs (R195). -/
def State.backwardItem (s : State) (j : Job) (k : Nat) (i : Item) (hv : HostView) : State :=
  match j.entries[i.entry]? with
  | none => s
  | some e =>
    match j.readSegs hv i e with
    | .error st => s.failItem j.id k st
    | .ok segs =>
      let v := s.rowEnv j i e segs
      let h := s.bindRows j k i e v
      if !h.2 then h.1 else
      let s := h.1.withMerge j k
      match j.readBwd hv i e i.bind.ctx.group i.bind.ctx.hd with
      | .error st => s.failItem j.id k st
      | .ok xs => s.bwdItem j k ((s.item j.id k).getD i) e v xs

/-! ### Reductions -/

/-- One addition of a reduction (R204, R205): FP32, or W64 under CANON. -/
def gradAdd (strict canon : Bool) (x y : DWord × Bool) : FM (DWord × Bool) := do
  if canon then
    let v ← wadd strict x.1 y.1
    pure (v, x.2 || y.2)
  else
    let v ← fadd strict (x.1.setWidth 32) (y.1.setWidth 32)
    pure (v.setWidth 64, x.2 || y.2)

/-- Element by element. -/
def gradsAdd (strict canon : Bool) (x y : List (DWord × Bool)) : FM (List (DWord × Bool)) :=
  (x.zip y).mapM (fun p => gradAdd strict canon p.1 p.2)

/-- A node of a list: its values. -/
def nodeVals (ns : List GradNode) (part lo n : Nat) : Option (List (DWord × Bool)) :=
  (ns.find? (fun x => x.part = part && x.lo = lo && x.n = n)).map GradNode.vals

/-- The split tree over contributions lo to lo + n - 1 of a part, from the nodes present; none where one is absent. -/
def foldNodes (strict canon : Bool) (ns : List GradNode) (part : Nat) : Nat → Nat → Nat → Option (FM (List (DWord × Bool)))
  | 0, _, _ => none
  | fuel + 1, lo, n =>
    match nodeVals ns part lo n with
    | some v => some (pure v)
    | none =>
      if n < 2 then none else
      let h := splitPoint n
      match foldNodes strict canon ns part fuel lo h, foldNodes strict canon ns part fuel (lo + h) (n - h) with
      | some a, some b => some (do
          let x ← a
          let y ← b
          gradsAdd strict canon x y)
      | _, _ => none

/-- Combines the two children of a node, when both are present and the node is none yet. -/
def mergeNodes (strict : Bool) (ns : List GradNode) (part total lo n : Nat) : Option (FM GradNode) :=
  if n < 2 ∨ !inTree 64 0 total lo n ∨ (nodeVals ns part lo n).isSome then none else
  let h := splitPoint n
  match nodeVals ns part lo h, nodeVals ns part (lo + h) (n - h) with
  | some a, some b => some (do
      let v ← gradsAdd strict false a b
      pure { part := part, lo := lo, n := n, vals := v })
  | _, _ => none

/-- The `target` of MERGE_NODE that names the dK and dV of an item's entry and stream. -/
def keyTarget : Nat := 1048576

/-- Leaves of a row held by a tile index of the band. -/
def BwdWork.heldBy (w : BwdWork) (t : Nat) : Nat := (w.held.filter (· = t)).length

/-- The pages that hold the key rows of an item's entry. -/
def Job.keyPages (j : Job) (i : Item) (e : Entry) : List Nat :=
  List.range (ceilDiv (keyEnd j.mask e (i.bind.lens.headD 0)) i.bind.ctx.tspan)

/-- Takes a node of each page, each computed on the core that holds the page's keys (R204), into an item. -/
def State.keepNodes (s : State) (id k r : Nat) (i : Item) (cs : List (FM GradNode)) : State :=
  cs.foldl (fun s c =>
    let a := runFM c
    (s.took id k (s.keyCoreOf r i a.1.part) a.2).modItem id k (fun x => { x with grads := x.grads ++ [a.1] })) s

/-- A merge node of a backward item (R204, R205): target 64 × row + tile index for dQ, `keyTarget` for dK and dV. -/
def State.mergeBackward (s : State) (j : Job) (k : Nat) (i : Item) (target lo n : Nat) : State :=
  let strict := bit j.nctl 2
  if bit j.ctl 10 then s
  else if target = keyTarget then
    match j.entries[i.entry]? with
    | none => s
    | some e =>
      match (j.keyPages i e).mapM (fun p => mergeNodes strict (j.keyNodes i) p e.blocks.length lo n) with
      | none => s
      | some cs => s.keepNodes j.id k (bits e.handle 13 0) i cs
  else
    match i.bwd[target / 64]? with
    | none => s
    | some w =>
      match mergeNodes strict w.nodes (target % 64) (w.heldBy (target % 64)) lo n with
      | none => s
      | some c =>
        let a := runFM c
        (s.took j.id k i.mergeCore a.2).modItem j.id k (fun i => { i with bwd := i.bwd.set (target / 64) { w with nodes := w.nodes ++ [a.1] } })

/-- A merge node of an item: forward or backward. -/
def State.mergeNode (s : State) (id k target lo n : Nat) : State :=
  match s.job id, s.item id k with
  | some j, some i =>
    if !i.merging then s
    else if isAttend j.kind then s.mergeForward j k i target lo n
    else if j.kind = 0x13 then s.mergeBackward j k i target lo n
    else s
  | _, _ => s

/-- An atomic contribution (R205, 04 R129): the split-tree partial of one tile of the contributing set is added into a
row's target, or discarded when its tile index is already applied. The home tile counts it (R212). -/
def State.atomicAdd (s : State) (id k row source : Nat) : State :=
  match s.job id, s.item id k with
  | some j, some i =>
    match i.bwd[row]? with
    | none => s
    | some w =>
      if !i.merging || bit j.ctl 10 then s else
      match nodeVals w.nodes source 0 (w.heldBy source) with
      | none => s
      | some v =>
        if w.applied.contains source then s.bumpTile i.tile 0x134 1
        else
          let t := if w.target = [] then v.map (fun _ => (0#64, false)) else w.target
          let a := runFM (gradsAdd (bit j.nctl 2) false t v)
          (s.bumpTile i.tile 0x130 1).modItem id k (fun i => { i with
            flags := i.flags ||| a.2.flags
            bwd := i.bwd.set row { w with target := a.1, applied := w.applied ++ [source] } })
  | _, _ => s

/-- Whether a wave over n contributions is full: 64 indices that end at or below n (R206). -/
def fullWave (n wave : Nat) : Bool := decide (wave < n / 64)

/-- What the last fold takes: the roots of the full waves and the contributions after them. -/
def lastFold (n : Nat) (ns : List GradNode) : List GradNode := ns.filter (fun x => decide (1 < x.n) || decide (64 * (n / 64) ≤ x.lo))

/-- Folds one wave of a part (R206): a full wave becomes one root, the last one the result over all n contributions. -/
def foldWave (strict : Bool) (ns : List GradNode) (part n wave : Nat) : Option (FM GradNode) :=
  let lo := if fullWave n wave then 64 * wave else 0
  let m := if fullWave n wave then 64 else n
  if n / 64 < wave ∨ (nodeVals ns part lo m).isSome then none else
  (foldNodes strict true (if fullWave n wave then ns else lastFold n ns) part 64 lo m).map (fun c => do
    let v ← c
    pure { part := part, lo := lo, n := m, vals := v })

/-- Whether a node lies within another: its slots are free once that one is folded. -/
def GradNode.within (y x : GradNode) : Bool := y.part = x.part && decide (x.lo ≤ y.lo) && decide (y.lo + y.n ≤ x.lo + x.n)

/-- A wave's slots are free once it is folded. -/
def freeWave (x : GradNode) (ns : List GradNode) : List GradNode := ns.filter (fun y => !y.within x) ++ [x]

/-- A wave of dK and dV is folded: the contributions leave the items that held them, and their slots are free but the first, which
takes the root (R206, log entry 31). -/
def Item.yieldWave (lo n b0 : Nat) (y : Item) : Item :=
  let c := y.block - b0
  { y with grads := y.grads.filter (fun g => !(decide (lo ≤ g.lo) && decide (g.lo + g.n ≤ lo + n)))
           wide := if lo < c ∧ c < lo + n then y.wide.take 1 else y.wide }

/-- Tiles that hold pages of an item's stream. -/
def Item.keyTiles (i : Item) : List Nat := i.bind.tiles.eraseDups

/-- A wave of dK and dV, page by page. HLT_BWD_WAVE counts a full wave once on each tile that holds pages of the stream (R212, log
entry 175). -/
def State.keyWave (s : State) (j : Job) (k : Nat) (i : Item) (e : Entry) (wave : Nat) : State :=
  let total := e.blocks.length
  match (j.keyPages i e).mapM (fun p => foldWave (bit j.nctl 2) (j.keyNodes i) p total wave) with
  | none => s
  | some cs =>
    let full := fullWave total wave
    let s := if full && cs ≠ [] then i.keyTiles.foldl (fun s t => s.bumpTile t 0x138 1) s else s
    let lo := if full then 64 * wave else 0
    let s := s.modJob j.id (fun j => { j with items := j.items.map (fun y =>
      if y.entry = i.entry && y.stream = i.stream && cs ≠ [] then y.yieldWave lo (if full then 64 else total) (e.pos0 / 64) else y) })
    s.keepNodes j.id k (bits e.handle 13 0) i cs

/-- A wave of a row's dQ, counted on the home tile where it is full (R212). -/
def State.rowWave (s : State) (j : Job) (k : Nat) (i : Item) (row wave : Nat) : State :=
  match i.bwd[row]? with
  | none => s
  | some w =>
    match foldWave (bit j.nctl 2) w.nodes 0 w.leaves wave with
    | none => s
    | some c =>
      let a := runFM c
      let s := if fullWave w.leaves wave then s.bumpTile i.tile 0x138 1 else s
      (s.took j.id k i.mergeCore a.2).modItem j.id k (fun i => { i with
        bwd := i.bwd.set row { w with nodes := freeWave a.1 w.nodes } })

/-- A CANONICAL wave is folded (R206): target 2,048 × item + row for dQ, + 1,024 for dK and dV. -/
def State.waveFold (s : State) (id target wave : Nat) : State :=
  let k := target / 2048
  let t := target % 2048
  match s.job id, s.item id k with
  | some j, some i =>
    if !i.merging || j.kind ≠ 0x13 || !bit j.ctl 10 then s
    else if t = 1024 then
      (match j.entries[i.entry]? with
       | some e => s.keyWave j k i e wave
       | none => s)
    else s.rowWave j k i t wave
  | _, _ => s

/-- dQ of a row once every tile of its contributing set is applied, or its fold is done (R205, R206): none before. -/
def BwdWork.sum (w : BwdWork) (canon : Bool) (hd : Nat) : Option (List (DWord × Bool)) :=
  let zero := List.replicate hd ((0#64, false) : DWord × Bool)
  if w.leaves = 0 then some zero
  else if canon then nodeVals w.nodes 0 0 w.leaves
  else if w.held.all (fun t => w.applied.contains t) then some (if w.target = [] then zero else w.target)
  else none

/-! ### The commands -/

def execAttendBackward (job item : Nat) (hv : HostView) (s : State) : Out :=
  .next (s.onItem job item 0x13 (fun s j i => s.backwardItem j item i hv))

def execMergeNode (job item target lo n : Nat) (s : State) : Out := .next (s.mergeNode job item target lo n)

def execAtomicAdd (job item row source : Nat) (s : State) : Out := .next (s.atomicAdd job item row source)

def execWaveFold (job target wave : Nat) (s : State) : Out := .next (s.waveFold job target wave)

end Sys2Proof.Machine
end

