-- ==== Sys2Proof/Machine/CoreFault.lean ====
section
/-! DEFINITION. Core addresses (01 R25), the items that a core runs, and core faults (16 R449, R450). -/

namespace Sys2Proof

/-- rank × 64 + file. -/
def CoreId.index (c : CoreId) : Nat := c.rank.toNat * 64 + c.file.toNat

/-- tile × 4096 + rank × 64 + file. -/
def CoreId.key (c : CoreId) : Nat := 4096 * c.tile.toNat + c.index

end Sys2Proof

namespace Sys2Proof.Machine

/-! ### Core addresses (01 R25) -/

/-- Whether the configuration has the logical core. -/
def State.hasCore (s : State) (c : CoreId) : Bool := s.hasTile c.tile.toNat && decide (c.index < s.part.cores)

/-- The address of a core's key. -/
def coreOf (k : Nat) : CoreId := ⟨BitVec.ofNat 5 (k / 4096), BitVec.ofNat 6 (k % 4096 / 64), BitVec.ofNat 6 (k % 64)⟩

/-- Running items that use a core. -/
def State.itemsOn (s : State) (key : Nat) : List (Nat × Nat) :=
  s.sched.jobs.flatMap (fun j => (j.items.zipIdx.filter (fun p =>
    p.1.active && (s.itemCores j p.2 p.1).contains key)).map (fun p => (j.id, p.2)))

/-! ### Core faults (16 R449 to R451) -/

/-- Reference of a core's unfinished handling. -/
def coreRef (key : Nat) : Nat := 2 ^ 32 + key

/-- A core fault: logged, the core out of service and in its recovery window (03 R76), the items that ran on it retried on
tile `t`. -/
def State.coreFault (s : State) (c : CoreId) (kind : Nat) : State :=
  let items := s.itemsOn c.key
  let known := s.errs.coresOut.contains c.key
  let s := if kind = 0 then s.bumpTile c.tile.toNat 0x1B0 1 else s
  let s := s.raise (s.ofItems items { severity := sevJob, cause := 0x06, unit := 0x00, tile := c.tile.toNat, index := c.index, addr := kind })
    (if known then none else some (coreRef c.key))
  let s := if known then s else { s with errs := { s.errs with coresOut := insertKey c.key s.errs.coresOut } }
  let s := { s with cores := { s.cores with recovering := insertKey c.key s.cores.recovering } }
  items.foldl (fun s o => s.retryItem o.1 o.2 c.tile.toNat) s

end Sys2Proof.Machine
end

