-- ==== Sys2Proof/Machine/PrefixJobs.lean ====
section
/-! DEFINITION. PREFIX_LOOKUP, PREFIX_PUBLISH and PREFIX_DROP (10 R289 to R296). -/

namespace Sys2Proof.Machine

/-- Whether a job is a tree operation under way or ready to begin. -/
def Job.onTree (j : Job) : Bool :=
  [0x20, 0x21, 0x22].contains j.kind && j.items.any (fun i => i.started && (i.st = .running || i.st = .evictWait || i.st = .waiting))

/-- Tree operations run one at a time, in the order their items were accepted: one that has begun goes on, another begins when none is
under way and none accepted before it is ready (R296). -/
def State.treeTurn (s : State) (j : Job) : Bool :=
  j.begun || !s.sched.jobs.any (fun e => decide (e.id ≠ j.id) && e.onTree && (e.begun || decide (e.id < j.id)))

/-! ### The match (R289) -/

/-- What a run is matched for: the context's key, shape and span, and whether BUILDING nodes match. -/
structure RunCtl where
  key : Nat
  shape : Nat
  span : Nat
  building : Bool
  /-- Whether a frame of REFCNT 65,535 ends the match (R293). -/
  refs : Bool

/-- RunCtl of a context. -/
def CtxRow.run (x : CtxRow) (building refs : Bool) : RunCtl := ⟨x.modelKey, x.shape, x.tspan, building, refs⟩

/-- Whether a node meets every condition but the token compare. -/
def State.nodeFits (s : State) (c : RunCtl) (i hash : Nat) (prev : Option Nat) (n : Nat) : Bool :=
  let x := s.node n
  (x.state = 2 || (c.building && x.state = 1)) && x.hash = hash && x.pageIndex = i &&
  (match prev with | none => x.rooted | some p => !x.rooted && x.parent = p) && x.modelKey = c.key && x.shape = c.shape

/-- Host address of a node's token slot (R286). -/
def State.slotAddr (s : State) (n : Nat) : Nat := s.reg64 0xA010 + 4096 * n

/-- How a match ends. -/
inductive MatchEnd where
  | done
  | differs
  | wait
  | fail (status : Nat)

/-- A job that succeeds has matched nodes: their LAST_USE is set. -/
def State.touchNodes (s : State) (ns : List Nat) : State := ns.foldl (fun s n => s.setNode n { s.node n with lastUse := s.use }) s

/-- Entry of the prefix hash cache for a key: 2 × node, or 2 × bucket + 1 (log entry 240). -/
def cacheEntry (key : Nat) : Nat := key % 65536

/-- A tree operation that finishes leaves the bucket heads and the node headers it has read in the prefix hash cache (R287, 03 R93). -/
def State.cacheTree (s : State) (hashes nodes : List Nat) : State :=
  let keys := hashes.map (fun h => 2 * bucketOf h + 1) ++ nodes.map (2 * ·)
  { s with store := { s.store with hashCache := keys.foldl (fun t k => tset none t (cacheEntry k) (some k)) s.store.hashCache } }

/-- Whether the offered tokens of a page are those of a slot, by compare-and-count (03 R88, R89). -/
def tokensEqual (span : Nat) (toks slot : List Byte) : Bool :=
  let w (bs : List Byte) : List Word := (wordsOf bs span).map (BitVec.ofNat 32)
  (compareRuns (w toks) (w slot)).equal span

/-- The core in which the compare of a page meets an uncorrectable word. -/
def poisonAt (bad : List BadCompare) (page : Nat) : Option CoreId := (bad.find? (fun b => b.page = page)).map BadCompare.core

/-- Matches pages in order; `toks` starts at the present page. -/
def State.matchPages (s : State) (c : RunCtl) (tile id : Nat) (hv : HostView) (bad : List BadCompare) :
    List Nat → Nat → List Byte → List Nat → List Nat × MatchEnd × State
  | [], _, _, got => (got, .done, s)
  | h :: rest, i, toks, got =>
    match (s.bucketChain h).find? (s.nodeFits c i h got.getLast?) with
    | none => (got, .done, s)
    | some n =>
      if c.refs && (s.nodeFrames n).any (fun f => decide (65535 ≤ (s.frame f.2).refcnt)) then (got, .done, s) else
      match s.translateAll tile (.item id 0) (needs (s.slotAddr n) (4 * c.span) 0 true) with
      | .wait s' => (got, .wait, s')
      | .failed e s' => (got, .fail e, s')
      | .ok tr s' =>
        let s' := s'.fetch tile (.tokens id) (runFetches [(s.slotAddr n, 4 * c.span)])
        match readVirt hv tr (s.slotAddr n) (4 * c.span) with
        | .fail e => (got, .fail e, s')
        | .ok bs =>
          match poisonAt bad i with
          | some core => (got, .differs, (if s'.hasCore core then s'.coreFault core 0 else s').bump 0xA024 1)
          | none =>
            if tokensEqual c.span toks bs then s'.matchPages c tile id hv bad rest (i + 1) (toks.drop (4 * c.span)) (got ++ [n])
            else (got, .differs, s'.bump 0xA024 1)

/-- Locks the nodes a job has matched, each once (R293). -/
def State.lockNodes (s : State) (j : Job) (ns : List Nat) : State :=
  let new := ns.filter (fun n => !j.locked.contains n)
  let s := new.foldl (fun s n => s.setNode n { s.node n with locked := (s.node n).locked + 1 }) s
  s.modJob j.id (fun j => { j with locked := j.locked ++ new })

/-- PFX_SALT, the SALT of the accepted image (R288, R390). -/
def State.salt (s : State) : Nat := s.cfg.image.salt

/-- The hashes of the first pages of a run. -/
def State.runHashes (s : State) (c : RunCtl) (pages : Nat) (toks : List Byte) : List Nat :=
  chainHashes s.salt c.key c.shape c.span pages 0 toks

/-! ### PREFIX_LOOKUP (R293) -/

/-- Maps page `i` of every stream of the target to the frames of a node. -/
def State.mapNode (s : State) (id r i n : Nat) : State :=
  (s.nodeFrames n).foldl (fun s sf =>
    match s.item id 0 with
    | none => s
    | some x =>
      let home := s.homeOf r sf.1
      let g := s.growMap r sf.1 i ((x.blocks.filter (fun b => b.1 = home)).map Prod.snd)
      let s := g.1.modItem id 0 (fun x => { x with blocks := x.blocks.filter (fun b => b.1 ≠ home) ++ g.2.map (fun b => (home, b)) })
      let s := s.setDir r sf.1 { s.dirOf r sf.1 with pages := i + 1 }
      (s.setPage r sf.1 i (.frame sf.2)).refFrame sf.2 1) s

/-- The last rows of R293's table, with `ns` the nodes matched. -/
def State.lookupMap (s : State) (j : Job) (r : Nat) (ns : List Nat) : State :=
  let k := ns.length
  let t := (s.row r).tspan
  if k < j.word 6 then s.endJob j.id stMismatch (k * t) else
  match s.takeAllBlocks ((s.streamsOf r).map (fun d => (s.homeOf r d.1, s.blocksFor r d.1 0 k))) [] with
  | .error b => ((s.bumpTile b 0x14C 1).bumpTile b 0x164 1).endJob j.id stExhausted (k * t)
  | .ok (bs, s) =>
    let before := s.store
    let s := s.modItem j.id 0 (fun x => { x with blocks := bs })
    let s := (ns.zipIdx).foldl (fun s p => s.mapNode j.id r p.2 p.1) s
    let s := s.touchNodes ns
    ((s.sendPart [] before (j.group (j.word 4)) j.id).bump 0xA020 k).endJob j.id stOk (k * t)

/-- PREFIX_LOOKUP. -/
def State.lookupJob (s : State) (j : Job) (i : Item) (hv : HostView) (bad : List BadCompare) : State :=
  match s.live? (j.word 4) with
  | none => s.endJob j.id stBadState 0
  | some r =>
    let x := s.row r
    if x.state ≠ 1 ∨ (s.streamsOf r).any (fun d => decide (d.2.pages ≠ 0)) then s.endJob j.id stBadState 0 else
    match readVirt hv i.trans (j.dword 7) (4 * j.word 5) with
    | .fail e => s.endJob j.id e 0
    | .ok toks =>
      let c := x.run false true
      let hs := s.runHashes c (j.word 5 / x.tspan) toks
      let m := s.matchPages c i.tile j.id hv bad hs 0 toks []
      let s := m.2.2.lockNodes j m.1
      match m.2.1 with
      | .wait => s
      | .fail e => s.endJob j.id e 0
      | _ => (s.cacheTree hs m.1).lookupMap j r m.1

/-! ### PREFIX_PUBLISH (R291, R292) -/

/-- The node that R291 removes next: LIVE, without child, unlocked, no frame referenced or pinned; least LAST_USE first,
ties to the lower number. -/
def State.spareNode (s : State) : Option Nat :=
  (s.store.nodes.foldl (fun (b : Option (Nat × Node)) p =>
    if p.2.state = 2 ∧ p.2.children = 0 ∧ p.2.locked = 0 ∧
        (s.nodeFrames p.1).all (fun f => (s.frame f.2).refcnt = 0 && (s.frame f.2).pincnt = 0) then
      match b with
      | none => some p
      | some q => if p.2.lastUse < q.2.lastUse then some p else some q
    else b) none).map Prod.fst

/-- The nodes whose removal, in order, leaves `k` free, with the state then; none where they fall short. -/
def State.clearNodes : Nat → Nat → List Nat → State → Option (List Nat × State)
  | 0, k, l, s => if (s.freeNodes k).length = k then some (l, s) else none
  | fuel + 1, k, l, s =>
    if (s.freeNodes k).length = k then some (l, s) else
    match s.spareNode with
    | none => none
    | some n => (s.removeNode n).clearNodes fuel k (l ++ [n])

/-- Keeps nodes from any other removal while a job is to remove them, or lets them go. -/
def State.holdNodes (s : State) (ns : List Nat) : State := ns.foldl (fun s n => s.setNode n { s.node n with locked := (s.node n).locked + 1 }) s

/-- Removes the nodes that a PREFIX_PUBLISH gives up (R291): each is counted. -/
def State.removeDoomed (s : State) (ns : List Nat) : State := ns.foldl (fun s n => (s.removeNode n).bump 0xA028 1) s

/-- Pages of a context, from `m` to `n - 1`, that exist. -/
def State.pagesFrom (s : State) (r m n : Nat) : List (Nat × List Nat) :=
  (s.streamsOf r).map (fun d => (d.1, (List.range (min n d.2.pages)).filter (fun p => decide (m ≤ p))))

/-- Issues the token writes of new nodes, when their slots are translated (R291). What the job takes is held, and the nodes it removes
stay until it ends well: until then it changes nothing. -/
def State.writeTokens (s : State) (j : Job) (i : Item) (r m : Nat) (nodes doomed hashes : List Nat) (toks : List Byte)
    (bs : List (Nat × Nat)) (pins : List (Nat × Nat × Nat)) : State :=
  let t := 4 * (s.row r).tspan
  match s.translateAll i.tile (.item j.id 0) (nodes.flatMap (fun n => needs (s.slotAddr n) t 1 true)) with
  | .wait s' => s'
  | .failed e s' => s'.endJob j.id e 0
  | .ok tr s' =>
    let s' := bs.foldl (fun s b => s.takeBlock b.1 b.2) (s'.pinAll j.id 0 pins)
    let s' := s'.holdNodes doomed
    let s' := s'.modJob j.id (fun j => { j with
      build := (nodes.zip hashes).zipIdx.map (fun p => (m + p.2, p.1.1, p.1.2)), doomed := doomed })
    let s' := s'.modItem j.id 0 (fun x => { x with blocks := bs })
    (nodes.zipIdx).foldl (fun s p =>
      let w := s.moveVirt i.tile true (.tokens j.id) tr (s.slotAddr p.1) 0 t (bytesAt toks ((m + p.2) * t) t)
      w.1.modItem j.id 0 (fun x => { x with writesLeft := x.writesLeft + w.2 })) s'

/-- Acquires nodes, list blocks and the context's cold sealed pages for the pages from `m` on, all or nothing (R291). A node number
that a removal frees brings the list block of the removed node with it: both stand on one tile (R287). -/
def State.publishAcquire (s : State) (j : Job) (i : Item) (r m : Nat) (hashes : List Nat) (toks : List Byte) : State :=
  let n := j.word 5
  let f := s.findPages r i (s.pagesFrom r m n)
  let s := f.2
  match s.clearNodes (s.liveNodes.length + 1) (n - m) [] with
  | none => (s.bumpTile s.errs.anchor 0x164 1).endJob j.id stExhausted 0
  | some d =>
    let nodes := d.2.freeNodes (n - m)
    match s.takeAllBlocks ((nodes.filter (fun x => !d.1.contains x)).map (fun x => (s.listTile x, 1))) [] with
    | .error t => ((s.bumpTile t 0x14C 1).bumpTile t 0x164 1).endJob j.id stExhausted 0
    | .ok (bs, _) =>
      if f.1.wait then s
      else if f.1.cold ≠ [] then
        match s.recallFound j 0 r (allocCtl i.bind.commit (s.row r).reserveRight j.cls i.budgetOut) f.1.cold with
        | (some t, s) => (s.bumpTile t 0x164 1).endJob j.id stExhausted 0
        | (none, s) => (s.modItem j.id 0 (fun x => { x with st := if s.migBlocks j.id 0 then ItemSt.evictWait else .waiting })).pump
      else
        let pins := f.1.frames.filter (fun p => decide ((s.frame p.2.2).st = .isSealed))
        s.writeTokens j i r m nodes d.1 (hashes.drop m) toks bs pins

/-- PREFIX_PUBLISH. Nothing more happens while its tokens are being written. -/
def State.publishJob (s : State) (j : Job) (i : Item) (hv : HostView) (bad : List BadCompare) : State :=
  if j.build ≠ [] then s else
  match s.live? (j.word 4) with
  | none => s.endJob j.id stBadState 0
  | some r =>
    let x := s.row r
    if x.state ≠ 1 then s.endJob j.id stBadState 0 else
    match readVirt hv i.trans (j.dword 6) (4 * j.word 5 * x.tspan) with
    | .fail e => s.endJob j.id e 0
    | .ok toks =>
      let c := x.run true false
      let hs := s.runHashes c (j.word 5) toks
      let m := s.matchPages c i.tile j.id hv bad hs 0 toks []
      let s := m.2.2.lockNodes j m.1
      match m.2.1 with
      | .wait => s
      | .fail e => s.endJob j.id e 0
      | .differs => (s.cacheTree hs m.1).endJob j.id stMismatch 0
      | .done => if m.1.length = j.word 5 then ((s.touchNodes m.1).cacheTree hs m.1).endJob j.id stOk 0 else s.publishAcquire j i r m.1.length hs toks

/-- Builds one node (R291). -/
def State.buildOne (s : State) (r : Nat) (parent : Option Nat) (b : Nat × Nat × Nat) (block : Nat) : State :=
  let x := s.row r
  let n := b.2.1
  let s := s.setNode n { parent := parent.getD 0, rooted := parent.isNone, state := 1, hash := b.2.2, modelKey := x.modelKey
                         shape := x.shape, pageIndex := b.1, listBlock := block, owner := s.handle r, lastUse := s.use }
  let s := s.linkNode n
  match parent with
  | some p => s.setNode p { s.node p with children := (s.node p).children + 1 }
  | none => s

/-- Enters the context's sealed pages into a node just built (R292). -/
def State.enterSealed (s : State) (r : Nat) (b : Nat × Nat × Nat) : State :=
  (s.streamsOf r).foldl (fun s d =>
    match s.pageEntry r d.1 b.1 with
    | .frame f => if (s.frame f).st = .isSealed then s.enterNode b.2.1 d.1 f false else s
    | _ => s) s

/-- The list block of each node to be built: one of those taken, or, for a removed node's number, a free one of its tile. -/
def State.blockForEach (s : State) (supply : List (Nat × Nat)) : List Nat → List Nat × State
  | [] => ([], s)
  | n :: rest =>
    let t := s.listTile n
    match supply.find? (fun b => b.1 = t) with
    | some b => let r := s.blockForEach (supply.erase b) rest; (b.2 :: r.1, r.2)
    | none =>
      let b := (s.freeBlock t).getD 0
      let r := (s.takeBlock t b).blockForEach supply rest
      (b :: r.1, r.2)

/-- A PREFIX_PUBLISH that fails changes nothing: what it holds goes back, the nodes it would have removed stay. -/
def State.publishFails (s : State) (j : Job) (i : Item) (status : Nat) : State :=
  let s := i.blocks.foldl (fun s b => s.giveBlock b.1 b.2) s
  let s := s.modItem j.id 0 (fun x => { x with blocks := [] })
  let s := (s.unlock j.doomed).modJob j.id (fun j => { j with doomed := [], build := [] })
  s.endJob j.id status 0

/-- The host has answered every token write of a PREFIX_PUBLISH: the nodes are built, or the job changes nothing. -/
def State.publishEnds (s : State) (j : Job) (i : Item) : State :=
  if i.writeStatus ≠ 0 then s.publishFails j i i.writeStatus else
  match s.live? (j.word 4) with
  | none => s.publishFails j i stBadState
  | some r =>
    if (s.row r).state ≠ 1 then s.publishFails j i stBadState else
    let before := s.store
    let s := s.removeDoomed j.doomed
    let nodes := j.build.map (fun b => b.2.1)
    let g := s.blockForEach i.blocks nodes
    let s := (j.build.zip g.1).foldl (fun (a : State × Option Nat) p =>
      (a.1.buildOne r a.2 p.1 p.2, some p.1.2.1)) (g.2, j.locked.getLast?) |>.1
    let s := s.refreshBuild r
    let s := j.build.foldl (fun s b => s.enterSealed r b) s
    let s := (s.touchNodes j.locked).cacheTree (j.build.map (fun b => b.2.2)) (j.locked ++ nodes)
    let s := s.modItem j.id 0 (fun x => { x with blocks := [] })
    let s := s.modJob j.id (fun j => { j with doomed := [] })
    (s.sendPart [] before (j.group (j.word 4)) j.id).endJob j.id stOk j.build.length

/-! ### PREFIX_DROP (R294, R295) -/

/-- Removes a node with those below it; how many go. -/
def State.dropNode (s : State) (n : Nat) : State × Nat := (s.removeOrWait n, (s.removalOrder n).length)

/-- Mode ALL: every node. -/
def State.dropAll (s : State) : State × Nat :=
  let roots := s.liveNodes.filter (fun n => (s.node n).rooted)
  roots.foldl (fun (a : State × Nat) n => let r := a.1.dropNode n; (r.1, a.2 + r.2)) (s, 0)

/-- Mode CHAIN: the node that matches page F of the run, and every node below it. -/
def State.dropChain (s : State) (j : Job) (i : Item) (hv : HostView) (bad : List BadCompare) : State :=
  match s.live? (j.word 5) with
  | none => s.endJob j.id stBadState 0
  | some r =>
    let x := s.row r
    let pages := j.word 6 + 1
    if 16384 < pages then s.endJob j.id stOk 0 else
    match readVirt hv i.trans (j.dword 7) (4 * pages * x.tspan) with
    | .fail e => s.endJob j.id e 0
    | .ok toks =>
      let c := x.run false false
      let hs := s.runHashes c pages toks
      let m := s.matchPages c i.tile j.id hv bad hs 0 toks []
      match m.2.1, m.1.getLast? with
      | .wait, _ => m.2.2
      | .fail e, _ => m.2.2.endJob j.id e 0
      | _, some n =>
        if m.1.length = pages then (let d := m.2.2.dropNode n; (d.1.cacheTree hs []).endJob j.id stOk d.2)
        else (m.2.2.cacheTree hs m.1).endJob j.id stOk 0
      | _, none => (m.2.2.cacheTree hs []).endJob j.id stOk 0

/-- PREFIX_DROP. -/
def State.dropJob (s : State) (j : Job) (i : Item) (hv : HostView) (bad : List BadCompare) : State :=
  if bit (j.word 4) 0 then s.dropChain j i hv bad else (let d := s.dropAll; d.1.endJob j.id stOk d.2)

/-! ### The commands -/

/-- A tree operation's turn: it begins, or goes on. -/
def State.inTurn (s : State) (j : Job) (f : State → State) : State :=
  if s.treeTurn j then f (s.modJob j.id (fun j => { j with begun := true })) else s

def execPrefixLookup (job : Nat) (hv : TreeRead) (s : State) : Out :=
  .next (s.onItem job 0 0x20 (fun s j i => s.inTurn j (fun s => s.lookupJob j i hv.host hv.bad)))

def execPrefixPublish (job : Nat) (hv : TreeRead) (s : State) : Out :=
  .next (s.onItem job 0 0x21 (fun s j i => s.inTurn j (fun s => s.publishJob j i hv.host hv.bad)))

def execPrefixDrop (job : Nat) (hv : TreeRead) (s : State) : Out :=
  .next (s.onItem job 0 0x22 (fun s j i => s.inTurn j (fun s => s.dropJob j i hv.host hv.bad)))

end Sys2Proof.Machine
end

