-- ==== Sys2Proof/Machine/Control.lean ====
section
/-! DEFINITION. EVICT and PREFETCH (09 R261), BARRIER, NOP and PHASE_SWITCH (11 R323, R325), TABLE_LOAD (14 R402 to
R404). -/

namespace Sys2Proof.Machine

/-! ### EVICT and PREFETCH -/

/-- The pages a job names, in page order: (stream, page). -/
def Job.namedPages (j : Job) : List (Nat × Nat) :=
  let c := j.word 5
  (List.range (bits c 16 8)).flatMap (fun st => (List.range (j.word 7)).map (fun p => (bits c 7 0 + st, j.word 6 + p)))

/-- A page is passed over. -/
def State.passOver (s : State) (id : Nat) : State := s.modJob id (fun j => { j with pagesPassed := j.pagesPassed + 1 })

/-- Notes a migration of the job. -/
def State.noteMig (s : State) (id slot : Nat) : State := s.modJob id (fun j => { j with migs := j.migs ++ [slot] })

/-- One page of an EVICT: age and protection are ignored. -/
def State.evictPage (s : State) (id r order : Nat) (migEn : Bool) (p : Nat × Nat) : State :=
  match s.pageEntry r p.1 p.2 with
  | .frame f =>
    if migEn && (s.evictable f).isSome then
      let slot := s.store.nextMig
      (s.startEvict f (.job id) order).noteMig id slot
    else s.passOver id
  | _ => s.passOver id

/-- Whether a context lets EVICT and PREFETCH run (10 R272). -/
def State.runsMoves (s : State) (h : Nat) : Option Nat :=
  match s.live? h with
  | some r => if (s.row r).state = 1 ∨ (s.row r).state = 4 then some r else none
  | none => none

/-- Ends a job's item whose migrations may still be in flight; its status follows from them. -/
def State.allHandled (s : State) (id : Nat) : State := (s.modItem id 0 (fun i => { i with st := .computed })).pump

/-- EVICT. -/
def State.evictJob (s : State) (j : Job) (i : Item) : State :=
  match s.runsMoves (j.word 4) with
  | none => s.endJob j.id stBadState 0
  | some r =>
    let en := bit (tget 0#32 i.bind.commit 0x8000).toNat 0
    ((j.namedPages.zipIdx).foldl (fun s p => s.evictPage j.id r p.2 en p.1) s).allHandled j.id

/-- PREFETCH from one page on: steps 1 to 3 of 09 R252 only. It stops where a frame waits for an eviction. -/
def State.prefetchFrom (s : State) (j : Job) (r : Nat) (ctl : AllocCtl) : List ((Nat × Nat) × Nat) → State
  | [] => s.allHandled j.id
  | (p, order) :: rest =>
    match s.pageEntry r p.1 p.2, s.pageKey r p.1 p.2 with
    | .cold key, some k =>
      if !ctl.migEn || (s.recallAt k).isSome then (s.passOver j.id).prefetchFrom j r { ctl with waited := false } rest else
      match s.acquireFrames ctl (.item j.id 0) [⟨p.1, p.2, s.pageTile (s.dirOf r p.1).layer r p.1 p.2, .fresh⟩] with
      | .ok (a :: _) s =>
        let slot := s.store.nextMig
        ((s.startRecall a k key p.2 (.job j.id) order).noteMig j.id slot).prefetchFrom j r { ctl with waited := false } rest
      | .wait s =>
        ((s.modJob j.id (fun j => { j with pageNext := order })).modItem j.id 0 (fun i => { i with st := ItemSt.evictWait, budgetOut := false })).pump
      | .ok [] s => (s.passOver j.id).prefetchFrom j r { ctl with waited := false } rest
      | .none _ s => (s.passOver j.id).prefetchFrom j r { ctl with waited := false } rest
    | _, _ => (s.passOver j.id).prefetchFrom j r { ctl with waited := false } rest

/-- PREFETCH. -/
def State.prefetchJob (s : State) (j : Job) (i : Item) : State :=
  match s.runsMoves (j.word 4) with
  | none => s.endJob j.id stBadState 0
  | some r =>
    let todo := (j.namedPages.zipIdx).drop j.pageNext
    s.prefetchFrom j r (allocCtl i.bind.commit false j.cls i.budgetOut) todo

/-! ### PHASE_SWITCH (11 R325) -/

/-- The append of an item under QT is not to be: its context's other entries neither append nor attend (06 R179). -/
def State.dropAppend (s : State) (id k status : Nat) : State :=
  match s.job id, s.item id k with
  | some j, some i => (match (if j.qt && j.appends k i then j.handleOf i else none) with
    | some h => s.failContextRows id h status
    | none => s)
  | _, _ => s

/-- Aborts an item that has not started: it counts as completed and holds nothing (11 R314). -/
def State.abortItem (s : State) (id k status : Nat) : State :=
  let s := (s.dropAppend id k status).releaseItem id k
  let s := s.modItem id k (fun i => { i with st := .aborted, status := status, staged := [], staging := 0 })
  let s := (s.endGroup id k).noteComplete id
  match s.job id with
  | some j => if j.kind = 0x40 then
      { s with cfg := { s.cfg with tables := s.cfg.tables.map (fun (t : TableDef) => { t with loading := t.loading.filter (· ≠ id) }) } }
    else s
  | none => s

/-- Aborts every item of a job that has not started; how many. -/
def State.abortJob (s : State) (id status : Nat) : State × Nat :=
  match s.job id with
  | none => (s, 0)
  | some j =>
    let ks := (j.items.zipIdx.filter (fun p => !p.1.started && !p.1.finished && decide (p.1.st ≠ .computed))).map Prod.snd
    (ks.foldl (fun s k => s.abortItem id k status) s, ks.length)

/-- The jobs of the class that a PHASE_SWITCH acts on, not yet recorded. -/
def State.phaseJobs (s : State) (j : Job) : List Job := (s.before j).filter (fun e => e.cls = bits (j.word 4) 1 0)

/-- Rows that a releasing PHASE_SWITCH closes. -/
def State.phaseRows (s : State) (cls : Nat) : List Nat :=
  s.rowsInUse.filter (fun r => (s.row r).cls = cls && ((s.row r).state = 1 || (s.row r).state = 4) && (s.live? (s.handle r)).isSome)

/-- Closes one context for a PHASE_SWITCH. -/
def State.phaseClose (s : State) (j : Job) (r : Nat) : State := ((s.closeContext r).sendPart [] s.store (j.group (s.handle r)) j.id)

/-- Whether an item that has started still has rows to append to a context that the PHASE_SWITCH closes: a job of another
class, which is not affected, and completes first (10 R276, log entry 94). -/
def State.phaseWaits (s : State) (cls : Nat) : Bool :=
  let rows := s.phaseRows cls
  s.sched.jobs.any (fun j => j.items.zipIdx.any (fun p => p.1.started && !p.1.finished && (j.kind = 0x10 || j.qt) &&
    (match j.entries[p.1.entry]? with
     | some e => (match s.live? e.handle with | some r => rows.contains r | none => false)
     | none => false)))

/-- PHASE_SWITCH: aborts at once; once the records of the class's earlier jobs are written it closes and ends. -/
def State.phaseJob (s : State) (j : Job) : State :=
  let js := s.phaseJobs j
  let a := if bit (j.word 4) 5 then js.foldl (fun (a : State × Nat) e => let x := a.1.abortJob e.id stAbortPhase; (x.1, a.2 + x.2)) (s, 0) else (s, 0)
  let s := a.1.modJob j.id (fun j => { j with r1 := j.r1 + a.2 })
  if js ≠ [] ∨ (bit (j.word 4) 4 ∧ s.phaseWaits (bits (j.word 4) 1 0)) then s else
  let rows := if bit (j.word 4) 4 then s.phaseRows (bits (j.word 4) 1 0) else []
  (rows.foldl (fun s r => s.phaseClose j r) s).endJob j.id stOk rows.length

/-! ### TABLE_LOAD (14 R402 to R404) -/

/-- The contents check of a table (R403 step 3). -/
def tableBytesOk (kind : Nat) (b : List Byte) : Bool :=
  match kind with
  | 0 => (parseTurn b).isSome
  | 1 => (parseNorm b).isSome
  | _ => biasOk b

/-- Whether a context that names the table would pass OPEN with these contents. -/
def State.rowTakes (s : State) (kind num : Nat) (b : List Byte) (r : Nat) : Bool :=
  let x := s.row r
  match kind with
  | 0 => decide (x.turn ≠ num) || (match parseTurn b with | some t => decide (t.rotDims ≤ x.hd) | none => false)
  | 1 => decide (x.qn ≠ num ∧ x.kn ≠ num) || (match parseNorm b with | some t => decide (t.kind = 0 ∨ t.dim = x.hd) | none => false)
  | _ => (s.streamsOf r).all (fun d => decide (d.2.bias ≠ num)) || decide (x.group ≤ fieldAt b 0 1)

/-- Replaces a declared table. -/
def State.putTable (s : State) (t : TableDef) : State :=
  { s with cfg := { s.cfg with tables := s.cfg.tables.map (fun (x : TableDef) => if x.kind = t.kind ∧ x.num = t.num then t else x) } }

/-- A load ends: the next one of its table may go on. RESULT0 is the generation now current (11 R316). -/
def State.loadEnds (s : State) (t : TableDef) (id status : Nat) : State :=
  (s.putTable { t with loading := t.loading.filter (· ≠ id) }).endJob id status t.gen

/-- The new contents become generation g + 1 (R403 steps 4 and 5). -/
def TableDef.flip (t : TableDef) (b : List Byte) : TableDef :=
  let g := (t.gen + 1) % 2 ^ 32
  { t with gen := g, copy0 := if g % 2 = 0 then b else t.copy0, copy1 := if g % 2 = 0 then t.copy1 else b
           refsOld := t.refsCur, refsCur := 0 }

/-- Whether step 1 of R403 waits. -/
def TableDef.waits (t : TableDef) (id : Nat) : Bool := decide (0 < t.refsOld) || decide (t.loading.head? ≠ some id)

/-- Steps 2 to 5 of R403. -/
def State.loadTableNow (s : State) (j : Job) (i : Item) (t : TableDef) (hv : HostView) : State :=
  let n := j.word 5
  match s.translateAll i.tile (.item j.id 0) (needs (j.dword 6) n 0) with
  | .wait s => s
  | .failed e s => s.loadEnds t j.id e
  | .ok tr s =>
    let s := s.fetch i.tile (.table j.id) (runFetches [(j.dword 6, n)])
    match readVirt hv tr (j.dword 6) n with
    | .fail e => s.loadEnds t j.id e
    | .ok bs =>
      let b := padTo t.size bs
      if tableBytesOk t.kind b && s.rowsInUse.all (s.rowTakes t.kind t.num b) then
        s.loadEnds (t.flip b) j.id stOk
      else s.loadEnds t j.id stInvalid

/-- TABLE_LOAD, and TABLE_LOAD_PROCEED once step 1 no longer waits. -/
def State.tableLoadJob (s : State) (j : Job) (i : Item) (hv : HostView) (first : Bool) : State :=
  match s.loadTable j with
  | none => s.endJob j.id stInvalid 0
  | some t =>
    if !t.waits j.id then s.loadTableNow j i t hv
    else if first && j.nonblock then s.loadEnds t j.id stBusy else s

/-! ### The commands -/

def execEvict (job : Nat) (s : State) : Out := .next (s.onItem job 0 0x30 (fun s j i => s.evictJob j i))

def execPrefetch (job : Nat) (s : State) : Out := .next (s.onItem job 0 0x31 (fun s j i => s.prefetchJob j i))

def execBarrier (job : Nat) (s : State) : Out := .next (s.onItem job 0 0x50 (fun s j _ => s.endJob j.id stOk 0))

def execNop (job : Nat) (s : State) : Out := .next (s.onItem job 0 0x7F (fun s j _ => s.endJob j.id stOk 0))

def execPhaseSwitch (job : Nat) (s : State) : Out := .next (s.onItem job 0 0x51 (fun s j _ => s.phaseJob j))

def execTableLoad (job : Nat) (hv : HostView) (s : State) : Out :=
  .next (s.onItem job 0 0x40 (fun s j i => s.tableLoadJob j i hv true))

def execTableLoadProceed (job : Nat) (hv : HostView) (s : State) : Out :=
  .next (s.onItem job 0 0x40 (fun s j i => s.tableLoadJob j i hv false))

end Sys2Proof.Machine
end

