-- ==== Sys2Proof/Machine/Complete.lean ====
section
/-! DEFINITION. WORK_ITEM_COMPLETE (11 R314): the results of an item are formed and written, its changes committed, what
it holds released, and with the last item the job's status settled (06 R173 to R175, 07 R199 to R202, 09 R251). -/

namespace Sys2Proof.Machine

/-- Bytes of a row to write: its host address, and the bytes. -/
abbrev RowWrite := Nat × List Byte

/-- Element codes as bytes of a format. -/
def codeBytes (f : Fmt) (cs : List Nat) : List Byte := cs.flatMap (leBytes f.bytes)

/-! ### Forward results -/

/-- The result of a row from its root (R173, R188, R189): what is written, and whether the row is fully masked. -/
def Job.rowResult (j : Job) (pf : Profile) (e : Entry) (i : Item) (group hd : Nat) (w : FwdRow) (root : Leaf) :
    FM (List RowWrite × Bool) := do
  let strict := bit j.nctl 2
  let l ← (if bits j.ctl 15 12 = 0 then pure root
           else mergeTree pf strict hd (insertSelf (bits j.ctl 19 16) root w.ext))
  if j.kind = 0x14 ∧ !bit j.ctl 11 then
    pure ([(e.rowAddr i group 1 w.member w.row (partialStride hd), partialBytes l)], false)
  else
    let f := fmtOf (bits j.ctl 2 0)
    let o ← epilogue pf strict f (bit j.ctl 3) l
    pure ([(e.rowAddr i group 1 w.member w.row (rowStride f hd), codeBytes f o.o),
           (e.rowAddr i group 2 w.member w.row 4, leBytes 4 o.lse.toNat)], o.masked)

/-- What an item's completion gives: rows to write, and the state with flags, counters and statistics taken. -/
abbrev Finished := List RowWrite × State

/-- Results of a forward item, formed on its merge core, whose tile counts the masked rows (05 R151); none while a row's root is
missing. -/
def State.forwardResult (s : State) (j : Job) (k : Nat) (i : Item) (e : Entry) : Option Finished :=
  let x := i.bind.ctx
  let pf := profileOf s.cfg.image.np
  match i.rows.mapM (fun w => (w.root x.hd).map (fun l => (w, l))) with
  | none => none
  | some ws =>
    let a := runFM (ws.mapM (fun p => j.rowResult pf e i x.group x.hd p.1 p.2))
    let masked := (a.1.filter Prod.snd).length
    let s := (s.took j.id k i.mergeCore a.2).bumpTile (i.mergeCore / 4096) 0x124 masked
    some (a.1.flatMap Prod.fst, s.modItem j.id k (fun i => { i with masked := i.masked + masked }))

/-! ### Backward results -/

/-- The canonical NaN of GFMT. -/
def gradNan (bf16 : Bool) : Nat := if bf16 then 0x7FC0 else 0x7FC00000

/-- The codes of one gradient row by its outcome (R199, R202), with the sums it comes from. -/
def gradRow (pf : Profile) (c : NumCtl) (canon bf16 : Bool) (gscale : Option Word) (rot : Option (TurnTable × Nat))
    (cls : BwdClass) (v : List (DWord × Bool)) : FM (List Nat × List Grad) := do
  let g ← v.mapM (gradOf c canon)
  match cls with
  | .masked => pure (g.map (fun _ => 0), g)
  | .nan => pure (g.map (fun _ => gradNan bf16), g)
  | .computed => do
    let o ← finishGrad pf c gscale rot bf16 g
    pure (o, writtenSats rot g)

/-- What the rows of a backward item share at the end: profile, numerics, CANON, GFMT, GSCALE, inverse rotation. -/
structure GradEnv where
  pf : Profile
  num : NumCtl
  canon : Bool
  bf16 : Bool
  gscale : Word
  turn : Option TurnTable

def State.gradEnv (s : State) (j : Job) (i : Item) (x : CtxRow) : GradEnv :=
  { pf := profileOf s.cfg.image.np, num := j.num s.part.chunked s.cfg.image.np, canon := bit j.ctl 10, bf16 := bit j.ctl 9
    gscale := BitVec.ofNat 32 (j.word 13), turn := if bit j.ctl 11 then some (s.turnTable i.bind.gens x.turn) else none }

/-- dQ of one row. -/
def GradEnv.dq (v : GradEnv) (pos : Nat) (w : BwdWork) (sum : List (DWord × Bool)) : FM (List Nat × List Grad) :=
  gradRow v.pf v.num v.canon v.bf16 (some v.gscale) (v.turn.map (fun t => (t, pos))) w.cls sum

/-- dK and dV of one key position. -/
def GradEnv.key (v : GradEnv) (pos : Nat) (reached : Bool) (k w : List (DWord × Bool)) :
    FM ((List Nat × List Grad) × (List Nat × List Grad)) := do
  let cls := if reached then BwdClass.computed else .masked
  let dk ← gradRow v.pf v.num v.canon v.bf16 (some v.gscale) (v.turn.map (fun t => (t, pos))) cls k
  let dv ← gradRow v.pf v.num v.canon v.bf16 none none cls w
  pure (dk, dv)

/-- Takes written rows into a statistic. -/
def statRows (st : GradStat) (bf16 : Bool) (l : List (List Nat × List Grad)) : GradStat :=
  l.foldl (fun st x => addStat st bf16 x.1 x.2) st

/-- dQ of a backward item; none while a row's sum is missing. -/
def State.dqResult (s : State) (j : Job) (k : Nat) (i : Item) (e : Entry) : Option Finished :=
  let x := i.bind.ctx
  let v := s.gradEnv j i x
  match i.bwd.mapM (fun w => (w.sum v.canon x.hd).map (fun g => (w, g))) with
  | none => none
  | some ws =>
    let a := runFM (ws.mapM (fun p => v.dq (e.pos0 + p.1.row) p.1 p.2))
    let f := j.gradFmt
    let out := (ws.zip a.1).map (fun p =>
      (e.rowAddr i x.group 4 p.1.1.member p.1.1.row (rowStride f x.hd), codeBytes f p.2.1))
    some (out, (s.took j.id k i.mergeCore a.2).modJob j.id (fun j => { j with statQ := statRows j.statQ v.bf16 a.1 }))

/-- Whether an item is the last of its entry and stream to complete. -/
def Job.lastMate (j : Job) (k : Nat) (i : Item) : Bool :=
  j.items.zipIdx.all (fun p => p.2 = k || p.1.finished || !(p.1.entry = i.entry && p.1.stream = i.stream))

/-- Whether every other item of the entry and stream completed without a failure (R200). -/
def Job.matesGood (j : Job) (k : Nat) (i : Item) : Bool :=
  j.items.zipIdx.all (fun p => p.2 = k || !(p.1.entry = i.entry && p.1.stream = i.stream) || (p.1.st = .done && !failing p.1.status))

/-- The key rows of a page from its sums, the first at key position `k0`: (key, dK, dV). -/
def keyRows (hd k0 : Nat) (v : List (DWord × Bool)) : List (Nat × List (DWord × Bool) × List (DWord × Bool)) :=
  let n := v.length / (2 * max 1 hd)
  (List.range n).map (fun p => (k0 + p, (v.drop (p * hd)).take hd, (v.drop ((n + p) * hd)).take hd))

/-- The key rows of one page as written. -/
abbrev KeyOut := Nat × (List Nat × List Grad) × (List Nat × List Grad)

/-- Rounds the key rows of one page, on the core of its keys; `hit` are the positions reached. -/
def State.pageResult (s : State) (j : Job) (k r : Nat) (i : Item) (v : GradEnv) (hit : List Nat) (p : Nat) (sum : List (DWord × Bool)) :
    List KeyOut × State :=
  let x := i.bind.ctx
  let a := runFM ((keyRows x.hd (p * x.tspan) sum).mapM (fun y => do
    let o ← v.key y.1 (hit.contains y.1) y.2.1 y.2.2
    pure (y.1, o)))
  (a.1, s.took j.id k (s.keyCoreOf r i p) a.2)

/-- dK and dV of an item's entry and stream, written with the last of its items (R200, 11 R311); none while their sum is
missing. -/
def State.keyResult (s : State) (j : Job) (k : Nat) (i : Item) (e : Entry) : Option Finished :=
  if !j.lastMate k i || !j.matesGood k i then some ([], s) else
  match (j.keyPages i e).mapM (fun p => (nodeVals (j.keyNodes i) p 0 e.blocks.length).map (fun v => (p, v))) with
  | none => none
  | some ps =>
    let x := i.bind.ctx
    let v := s.gradEnv j i x
    let hit := (j.mates i).flatMap Item.reached
    let a := ps.foldl (fun (a : List KeyOut × State) p =>
      let y := a.2.pageResult j k (bits e.handle 13 0) i v hit p.1 p.2
      (a.1 ++ y.1, y.2)) ([], s)
    let f := j.gradFmt
    let g := rowStride f x.hd
    let out := a.1.flatMap (fun p =>
      let base := e.slot 5 + ((i.stream - e.first) * e.kspan + p.1) * 2 * g
      [(base, codeBytes f p.2.1.1), (base + g, codeBytes f p.2.2.1)])
    some (out, a.2.modJob j.id (fun j => { j with
      statK := statRows j.statK v.bf16 (a.1.map (fun p => p.2.1)), statV := statRows j.statV v.bf16 (a.1.map (fun p => p.2.2))
      keysOut := j.keysOut + a.1.length }))

/-- Results of a backward item: dQ, then dK and dV where it is the last of its entry and stream. -/
def State.backwardResult (s : State) (j : Job) (k : Nat) (i : Item) (e : Entry) : Option Finished :=
  match s.dqResult j k i e with
  | none => none
  | some a => (a.2.keyResult j k i e).map (fun b => (a.1 ++ b.1, b.2))

/-! ### The end of an item -/

/-- Issues the output writes of an item, which the job's record waits for (R319). -/
def State.writeRows (s : State) (j : Job) (k : Nat) (i : Item) (out : List RowWrite) : State :=
  let r := out.foldl (fun (a : State × Nat) w =>
    let x := a.1.moveVirt i.tile true (.item j.id k 0) i.trans w.1 0 w.2.length w.2
    (x.1, a.2 + x.2)) (s, 0)
  r.1.modJob j.id (fun j => { j with outLeft := j.outLeft + r.2 })

/-- The status that a job of one item settles with: of FORK by its binding's checks where a recall failed, of EVICT and
PREFETCH the first host failure in page order (09 R261, 10 R277). -/
def State.oneStatus (s : State) (j : Job) (i : Item) : Nat :=
  if j.kind = 0x03 ∧ j.hostFail ≠ none then (j.hostFail.map Prod.snd).getD stOk
  else if j.kind = 0x03 ∧ (i.status = stHostFault ∨ i.status = stHostBus ∨ i.status = stMedia) then (s.forkRefusal j).getD i.status
  else if j.kind = 0x30 ∨ j.kind = 0x31 then (if failing i.status then i.status else (j.hostFail.map Prod.snd).getD stOk)
  else i.status

/-- Settles a job of one item: its status, the Context Table's refusals, node locks (10 R276, R294). -/
def State.settleOne (s : State) (j : Job) (i : Item) : State :=
  let st := s.oneStatus j i
  let s := if st = stTableFull then s.bump 0x400C 1 else s
  let s := s.unlock j.locked
  s.modJob j.id (fun j => { j with status := st, locked := [] })

/-- The W64 slots of dK and dV that an item of a CANONICAL job keeps when it completes, until the last of its entry and stream (07
R206, R207). -/
def Job.keptWide (j : Job) (i : Item) : List (Nat × Nat) := if j.kind = 0x13 && bit j.ctl 10 then i.wide.drop 1 else []

/-- The items of an entry and stream free the wide-buffer words they still hold, once all have ended. -/
def State.freeMates (s : State) (id : Nat) (i : Item) : State :=
  s.modJob id (fun j => if (j.mates i).all Item.finished then
    { j with items := j.items.map (fun y => if y.entry = i.entry && y.stream = i.stream then { y with wide := [] } else y) } else j)

/-- The recovery windows of cores in service close once a work item that ran on them completes (03 R76). -/
def State.closeRecovery (s : State) (ran : List Nat) : State :=
  { s with cores := { s.cores with recovering := s.cores.recovering.filter (fun c => !ran.contains c || s.errs.coresOut.contains c) } }

/-- An item is done: what it holds is released, its tracker entry is free, the groups it was the last to fill end. -/
def State.itemDone (s : State) (j : Job) (k : Nat) : State :=
  let i := (s.item j.id k).getD { tile := 0, entry := 0 }
  let s := (s.releaseItem j.id k).modItem j.id k (fun x => { x with
    st := .done, staged := [], rows := [], wide := j.keptWide i
    bwd := x.bwd.map (fun w => { w with nodes := [], target := [], held := [] }) })
  let s := (s.freeMates j.id i).closeRecovery i.ran
  let s := if isBatch j.kind then s else s.settleOne ((s.job j.id).getD j) ((s.item j.id k).getD { tile := 0, entry := 0 })
  let s := s.endGroup j.id k
  let s := s.modJob j.id (fun j => if j.complete then { j with st := .settled } else j)
  let s := s.noteComplete j.id
  (s.clockSwitch (((s.item j.id k).map (fun i => i.tile)).getD 0)).pump

/-- The result of a batch item that has not failed; none while it cannot complete. -/
def State.itemResult (s : State) (j : Job) (k : Nat) (i : Item) : Option Finished :=
  match j.entries[i.entry]? with
  | none => none
  | some e =>
    if j.kind = 0x10 then some ([], s.commitItem j k e)
    else if isAttend j.kind then s.forwardResult j k i e
    else s.backwardResult j k i e

/-- WORK_ITEM_COMPLETE. -/
def State.completeItem (s : State) (id k : Nat) : State :=
  match s.job id, s.item id k with
  | some j, some i =>
    if i.st ≠ .computed || decide (i.writesLeft ≠ 0) || decide (j.migs ≠ []) then s
    else if !isBatch j.kind then s.itemDone j k
    else if failing i.status then
      (s.dropAppend id k i.status).itemDone j k
    else
      let r := s.retranslate j k i
      if !r.2 then r.1 else
      match r.1.itemResult j k ((r.1.item id k).getD i) with
      | none => r.1
      | some o => (o.2.writeRows j k ((r.1.item id k).getD i) o.1).itemDone j k
  | _, _ => s

end Sys2Proof.Machine
end

