-- ==== Sys2Proof/Machine/Cores.lean ====
section
/-! DEFINITION. Cores, scratchpads and control SRAMs (03): remote reads, receive windows and their credits, scrubbing,
retention and background test; spare cores (16 R449 to R451, R456). -/

namespace Sys2Proof.Machine

/-! ### Scratchpad words (03 R67 to R69, R90, R91) -/

/-- The word at a local address within a region, where the region holds it. -/
def regionWord (a : Nat) (r : Nat × List Byte) : Option Nat :=
  if r.1 ≤ a ∧ a < r.1 + r.2.length then some (fieldAt r.2 (a - r.1) 4) else none

/-- Whether a band mask names a band that holds a tile. -/
def State.masksTile (s : State) (mask t : Nat) : Bool := (s.bandsOf t).any (fun b => bit mask b)

/-- The resident regions of a tile's cores: both copies of each table of its bands, the nests, the other constants (14
R391, R392, R396). -/
def State.residents (s : State) (t : Nat) : List (Nat × List Byte) :=
  (s.cfg.tables.filter (fun d => s.masksTile d.bands t)).flatMap (fun d => [(d.base0, d.copy0), (d.base1, d.copy1)]) ++
  s.cfg.nests.map (fun n => (0x20000 + n.off, n.words.flatMap (leBytes 4))) ++
  (s.cfg.resident.filter (fun r => s.masksTile r.2.1 t)).map (fun r => (r.1, r.2.2))

/-- The word that INIT, a wake or a spare's take-over puts at a local address: its resident region's, or 0. -/
def State.residentWord (s : State) (t a : Nat) : Nat := ((s.residents t).findSome? (regionWord a)).getD 0

/-- A word of a scratchpad. -/
def State.spdWord (s : State) (core q off : Nat) : Word :=
  match tget none s.cores.spd (spdKey core q off) with
  | some w => w
  | none => BitVec.ofNat 32 (s.residentWord (core / 4096) (65536 * q + off))

/-- A core's scratchpad loses its contents: what it held is zero, its resident regions are written again (R90, R91). -/
def State.clearCore (s : State) (core : Nat) : State :=
  { s with cores := { s.cores with
      spd := s.cores.spd.filter (fun p => p.1 / 65536 ≠ core)
      windows := s.cores.windows.filter (fun p => p.1 / 8 ≠ core)
      cache := s.cores.cache.filter (fun p => p.1 / 128 ≠ core) } }

/-- Whether a tile's cores are powered: their scratchpads answer. -/
def State.powered (s : State) (t : Nat) : Bool := decide ((tget {} s.health.tiles t).power = 0)

/-! ### Remote reads (03 R70, R83) -/

/-- Whether a range of a quarter may be reached: aligned, no hole, outside the range of the largest cache (R67, R70,
R78). -/
def State.reaches (s : State) (c : CoreId) (q off n : Nat) : Bool :=
  decide (c.index < s.part.cores) && off % 4 = 0 && decide (off + 4 * n ≤ quarterTop s.cacheMax q)

/-- An access that reaches what it must not (R70): logged, and the requester's item completes with INTERNAL. -/
def State.badAccess (s : State) (id k : Nat) (c : CoreId) (q off : Nat) : State :=
  let e : LogEntry := { severity := sevJob, cause := 0x10, unit := 0x01, tile := c.tile.toNat, index := c.index, addr := 65536 * q + off }
  match s.job id, s.item id k with
  | some j, some i =>
    let e := { e with ring := some j.ring, seq := j.seq, ctx := ((j.entries[i.entry]?).map (fun x => x.handle)).getD 0xFFFFFFFF }
    let s := s.report e
    if i.active then s.failItem id k stInternal else s
  | _, _ => s.report e

/-- A remote read: the words as the receiver's banks hold them. -/
def State.remoteRead (s : State) (id k : Nat) (c : CoreId) (q off n : Nat) : State :=
  if !s.powered c.tile.toNat then s
  else if s.reaches c q off n then
    { s with cores := { s.cores with remote := (List.range n).map (fun i => s.spdWord c.key q (off + 4 * i)) } }
  else s.badAccess id k c q off

/-! ### Receive windows (03 R84 to R86) -/

/-- The window `w` that a nest declares: base, 64 B units, sender's key (12 R335). -/
def Nest.window (n : Nest) (w : Nat) : Option (Nat × Nat × Nat) :=
  if bit (n.word 0) (24 + w) then
    let x := n.word (33 + 2 * w)
    some (bits (n.word (32 + 2 * w)) 17 0, bits (n.word (32 + 2 * w)) 27 18, bits x 16 12 * 4096 + bits x 11 6 * 64 + bits x 5 0)
  else none

/-- The window that an item's nests declare, as the scheduler has filled them. -/
def State.itemWindow (s : State) (j : Job) (i : Item) (w : Nat) : Option (Nat × Nat × Nat) :=
  match j.entries[i.entry]? with
  | none => none
  | some e => (s.itemUses j e i i.bind.ctx (i.bind.lens.headD 0)).findSome? (fun u => (s.filled u).bind (fun n => n.window w))

/-- The window that a running item opens at a receiver, and the item. -/
def State.windowFor (s : State) (core w : Nat) : Option Window :=
  (s.itemsOn core).findSome? (fun o =>
    match s.job o.1, s.item o.1 o.2 with
    | some j, some i => (s.itemWindow j i w).map (fun x =>
        { base := x.1, size := x.2.1, sender := x.2.2, credits := x.2.1, opened := true, owner := some o })
    | _, _ => none)

def State.window (s : State) (core w : Nat) : Window := tget {} s.cores.windows (core * 8 + w)
def State.setWindow (s : State) (core w : Nat) (x : Window) : State :=
  { s with cores := { s.cores with windows := tset {} s.cores.windows (core * 8 + w) x } }

/-- Whether every window that an item has opened has seen the WFENCE after its last flit: a step that waits on a window starts
only then (R84 step 7). -/
def State.windowsFenced (s : State) (id k : Nat) : Bool :=
  s.cores.windows.all (fun p => !(p.2.opened && decide (p.2.owner = some (id, k))) || p.2.fenced)

/-- CREDIT: the first one opens the window and grants its size; a later one returns units that have been consumed. -/
def State.credit (s : State) (core w n : Nat) : State :=
  let x := s.window core w
  if x.opened then
    if n ≤ x.unread then s.setWindow core w { x with credits := x.credits + n, unread := x.unread - n } else s
  else match s.windowFor core w with
    | some y => if n = y.size then s.setWindow core w y else s
    | none => s

/-- Writes the 16 words of a flit at a local address. -/
def State.putFlit (s : State) (core a : Nat) (flit : List Byte) : State :=
  (List.range 16).foldl (fun s i => s.setSpd core ((a + 4 * i) / 65536) ((a + 4 * i) % 65536) (BitVec.ofNat 32 (fieldAt flit (4 * i) 4))) s

/-- WDATA: the flit goes to the next 64 B of the ring and takes a credit. One whose window is closed falls outside any
ring (R85). -/
def State.wdata (s : State) (c : CoreId) (w : Nat) (flit : List Byte) : State :=
  let x := s.window c.key w
  if !x.opened then
    s.report { severity := sevJob, cause := 0x12, unit := 0x01, tile := c.tile.toNat, index := c.index, addr := x.base }
  else if x.credits = 0 then s
  else (s.putFlit c.key (x.base + 64 * x.pos) flit).setWindow c.key w
    { x with pos := (x.pos + 1) % x.size, credits := x.credits - 1, unread := x.unread + 1, fenced := false }

/-- WFENCE: every flit before it is written. -/
def State.wfence (s : State) (core w : Nat) : State :=
  let x := s.window core w
  if x.opened then s.setWindow core w { x with fenced := true } else s

/-! ### Spare cores (01 R25, 16 R451) -/

/-- Spare cores of a rank (01 R25). -/
def sparesPerRank : Nat := 2

/-- Binds spare `i` of a rank (key tile × 64 + rank) to a logical core of it, rank × 64 + file (01 R25). -/
def State.bindSpare (s : State) (rank core i : Nat) : State :=
  { s with errs := { s.errs with
      sparesUsed := tset 0 s.errs.sparesUsed rank (withBit (tget 0 s.errs.sparesUsed rank) i)
      bound := tset none s.errs.bound (rank / 64 * 4096 + core) (some i) } }

/-- The physical position of a logical core in its rank: its file, or 64 + the spare bound to it (01 R25). -/
def State.position (s : State) (core : Nat) : Nat :=
  match tget none s.errs.bound core with
  | some i => 64 + i
  | none => core % 64

/-- A quiet point: no TABLE_LOAD of a table of the tile's bands writes its copies. Those steps are one step of the
model, so every moment between two commands is one (log entry 61). -/
def State.substitute (s : State) (c : CoreId) (pass : Bool) : State :=
  if !s.errs.coresOut.contains c.key || s.errs.coresRetired.contains c.key then s else
  let s := s.finish (coreRef c.key)
  let back (s : State) : State := { s with errs := { s.errs with coresOut := s.errs.coresOut.erase c.key } }
  if pass then back s else
  let k := c.tile.toNat * 64 + c.rank.toNat
  let e : LogEntry := { severity := sevDegrade, cause := 0x07, unit := 0x00, tile := c.tile.toNat, index := c.index }
  match lowestClear sparesPerRank (tget 0 s.errs.sparesUsed k) with
  | some i =>
    ((back (s.clearCore c.key)).bindSpare k (c.key % 4096) i).report e
  | none => ({ s with errs := { s.errs with coresRetired := insertKey c.key s.errs.coresRetired } }).report { e with cause := 0x08 }

/-! ### Cache lines (03 R80 to R82) -/

/-- Set of a core's cache, youngest line first. -/
def State.cacheSetOf (s : State) (core set : Nat) : List CacheLine := tget [] s.cores.cache (core * 128 + set)

/-- The line at a local address is discarded. -/
def State.dropLine (s : State) (core addr : Nat) : State :=
  let size := tget 0 s.cores.cacheSize core
  let off := addr % 65536 / 64 * 64
  let set := (off - lineOff size 0 0) / 64 / 8
  let rest := (s.cacheSetOf core set).filter (fun x => decide (lineOff size set x.way ≠ off))
  { s with cores := { s.cores with cache := tset [] s.cores.cache (core * 128 + set) rest } }

/-- A read that meets an uncorrectable line: discarded, counted, NOTE (R82). -/
def State.lineLost (s : State) (c : CoreId) (addr : Nat) : State :=
  ((s.dropLine c.key addr).bumpTile c.tile.toNat 0x1B0 1).report
    { severity := sevNote, cause := 0x13, unit := 0x01, tile := c.tile.toNat, index := c.index, addr := addr }

/-! ### Scrubbing of scratchpads (03 R92, 16 R438, R439) -/

/-- Quarter and offset of the word that a bank's scrub pointer names (R68). -/
def scrubWord (bank p : Nat) : Nat × Nat := (bank / 16, (p / 2 * 16 + bank % 16) * 8 + 4 * (p % 2))

/-- Offsets of quarter 3 from which a cache of a size code reaches to its top (R78). -/
def cacheFrom (size : Nat) : Nat := 0xC000 - size * 0x4000

/-- Whether an offset of a quarter lies in a core's present cache (R78, R80). -/
def State.inCache (s : State) (core q off : Nat) : Bool := q = 3 && decide (cacheFrom (tget 0 s.cores.cacheSize core) ≤ off)

/-- Whether an offset lies in the range of the largest cache and outside the present one: it holds no data, at retention voltage (R78). -/
def State.idleCache (s : State) (core q off : Nat) : Bool := q = 3 && decide (cacheFrom s.cacheMax ≤ off) && !s.inCache core q off

/-- A bank's pointer moves to its next word. -/
def State.advanceScrub (s : State) (core bank : Nat) : State :=
  let k := core * 64 + bank
  { s with cores := { s.cores with scrub := tset 0 s.cores.scrub k ((tget 0 s.cores.scrub k + 1) % 768) } }

/-- Whether a core is scrubbed: its tile is ACTIVE, and RAM is up (R473). -/
def State.scrubs (s : State) (c : CoreId) : Bool :=
  s.powered c.tile.toNat && [Mode.pair, .ready, .drain, .maint].contains s.cfg.mode

/-- One word is read, and corrected where it can be; a word that holds no data is passed over. -/
def State.scrubCore (s : State) (c : CoreId) (bank : Nat) (f : EccFinding) : State :=
  let w := scrubWord bank (tget 0 s.cores.scrub (c.key * 64 + bank))
  let t := c.tile.toNat
  let s := s.advanceScrub c.key bank
  let e : LogEntry := { severity := sevNote, cause := 0x01, unit := 0x01, tile := t, index := c.index, addr := 65536 * w.1 + w.2 }
  if s.idleCache c.key w.1 w.2 then s else
  match f with
  | .clean => s
  | .corrected => (s.bumpTile t 0x1AC 1).report e
  | .uncorrectable => if s.inCache c.key w.1 w.2 then s.lineLost c (65536 * w.1 + w.2) else s.coreFault c 0

/-- The scrubber takes a bank's next cycle; a feeder that loses it counts a delay (R439, 04 R111; log entry 62). -/
def State.scrubClaim (s : State) (c : CoreId) (bank : Nat) : State :=
  let s := s.advanceScrub c.key bank
  if bank / 16 < 2 then s.bumpTile c.tile.toNat 0x110 1 else s

/-! ### Control SRAMs (03 R93 to R99, 16 R456) -/

/-- Whether a tile has a control SRAM bank: 0 and 4 stand on the anchor and the spare anchor. -/
def State.hasBank (s : State) (t b : Nat) : Bool :=
  if b = 0 ∨ b = 4 then t = s.errs.anchor || (t = s.errs.spare && s.errs.spareValid) else decide (b < 4)

/-- Regions of 256 words of a bank. -/
def bankRegions (b : Nat) : Nat :=
  match b with | 0 => 4096 | 1 => 512 | 2 => 64 | 3 => 128 | _ => 2048

/-- A bank goes to retention voltage (17 R474). -/
def State.retainBank (s : State) (t b : Nat) : State :=
  if bit (s.liveFor t 0x1400C) 0 && s.powered t && s.hasBank t b then
    { s with cores := { s.cores with retained := insertKey (t * 8 + b) s.cores.retained } } else s

/-- A retained bank wakes (R97). -/
def State.wakeBank (s : State) (t b : Nat) : State :=
  { s with cores := { s.cores with retained := s.cores.retained.erase (t * 8 + b) } }

/-- Whether a bank of a tile is one of the anchor's, with no healthy spare anchor beside it. -/
def State.loneAnchor (s : State) (t b : Nat) : Bool := (b = 0 || b = 4) && t = s.errs.anchor && !s.errs.spareValid

/-- A control SRAM bank is at fault for good: TILE severity, or BLOCK for an anchor bank without a healthy spare anchor
(R96, R99, 16 R456). -/
def State.bankOut (s : State) (t b cause : Nat) : State :=
  let e : LogEntry := { severity := sevTile, cause := cause, unit := 0x02, tile := t, index := b }
  if s.loneAnchor t b then s.block e 0x0B
  else if cause = 0x0C then s.quarantine t
  else s.tileFault e

/-- Spare regions of a bank. -/
def spareRegions : Nat := 8

/-- A region with failing words: each is reported, the region remapped to a spare, or served from the shadow for good
with the tile quarantined (R99, 16 R456). -/
def State.failRegion (s : State) (t b region : Nat) (bad : List Nat) : State :=
  let k := t * 8 + b
  let s := bad.foldl (fun s w => s.raise
    { severity := sevDegrade, cause := 0x04, unit := 0x02, tile := t, index := region * 8 + b, addr := region * 256 + w } none) s
  match lowestClear spareRegions (tget 0 s.errs.sramSpares k) with
  | some i => { s with errs := { s.errs with sramSpares := tset 0 s.errs.sramSpares k (withBit (tget 0 s.errs.sramSpares k) i) } }
  | none => ({ s with cores := { s.cores with shadowed := (k, region) :: s.cores.shadowed } }).bankOut t b 0x0C

/-- The background test of a bank's next region: at most one per 1 ms, and none while the bank is retained (R97, R98). -/
def State.testRegion (s : State) (t b : Nat) (bad : List Nat) : State :=
  let k := t * 8 + b
  let due := match tget 0 s.cores.regionAt k with | 0 => true | a + 1 => decide (1000000 + a ≤ s.now)
  if !([Mode.ready, .drain, .maint].contains s.cfg.mode && s.hasBank t b && !s.cores.retained.contains k && due) then s else
  let region := tget 0 s.cores.region k
  let s := { s with cores := { s.cores with
    region := tset 0 s.cores.region k ((region + 1) % bankRegions b), regionAt := tset 0 s.cores.regionAt k (s.now + 1) } }
  if bad = [] ∨ s.cores.shadowed.contains (k, region) then s else s.failRegion t b region bad.eraseDups

/-! ### The commands -/

def execRemoteRead (job item : Nat) (core : CoreId) (quarter : BitVec 2) (off words : BitVec 16) (s : State) : Out :=
  onTile s core.tile.toNat (s.remoteRead job item core quarter.toNat off.toNat words.toNat)

def execCredit (receiver : CoreId) (window : BitVec 3) (units : BitVec 10) (s : State) : Out :=
  onTile s receiver.tile.toNat (s.credit receiver.key window.toNat units.toNat)

def execWdata (receiver : CoreId) (window : BitVec 3) (flit : List Byte) (s : State) : Out :=
  onTile s receiver.tile.toNat (s.wdata receiver window.toNat flit)

def execWfence (receiver : CoreId) (window : BitVec 3) (s : State) : Out :=
  onTile s receiver.tile.toNat (s.wfence receiver.key window.toNat)

def execCreditHoldTimeout (sender : CoreId) (s : State) : Out :=
  onTile s sender.tile.toNat (s.whenever (s.hasCore sender) (s.coreFault sender 2))

def execCoreFault (core : CoreId) (kind : BitVec 2) (s : State) : Out :=
  onTile s core.tile.toNat (s.whenever (s.hasCore core) (s.coreFault core kind.toNat))

def execCoreStallTimeout (core : CoreId) (s : State) : Out :=
  onTile s core.tile.toNat (s.whenever (s.hasCore core) (s.coreFault core 3))

def execCoreSubstitution (core : CoreId) (pass : Bool) (s : State) : Out :=
  onTile s core.tile.toNat (s.whenever (s.hasCore core) (s.substitute core pass))

def execSpdScrub (core : CoreId) (bank : BitVec 6) (finding : EccFinding) (s : State) : Out :=
  onTile s core.tile.toNat (s.whenever (s.hasCore core && s.scrubs core) (s.scrubCore core bank.toNat finding))

def execScrubClaim (core : CoreId) (bank : BitVec 6) (s : State) : Out :=
  onTile s core.tile.toNat (s.whenever (s.hasCore core && s.scrubs core) (s.scrubClaim core bank.toNat))

def execSramRetention (tile : BitVec 5) (bank : BitVec 3) (s : State) : Out :=
  onTile s tile.toNat (s.retainBank tile.toNat bank.toNat)

def execSramWake (tile : BitVec 5) (bank : BitVec 3) (s : State) : Out :=
  onTile s tile.toNat (s.wakeBank tile.toNat bank.toNat)

def execSramBackgroundTest (tile : BitVec 5) (bank : BitVec 3) (bad : List (BitVec 8)) (s : State) : Out :=
  onTile s tile.toNat (s.testRegion tile.toNat bank.toNat (bad.map (fun w => w.toNat)))

end Sys2Proof.Machine
end

