-- ==== Sys2Proof/Machine/Repair.lean ====
section
/-! DEFINITION. Page memory's scrubber, repair tests, relocation of a quarantined tile and the anchor roles (16 R440 to
R460). -/

namespace Sys2Proof.Machine

/-! ### Failing rows (16 R452) -/

/-- Spare rows of each bank of each DRAM layer. -/
def spareRows : Nat := 32

/-- Key of a bank of a layer of a channel of a tile. -/
def rowBankKey (t ch layer bank : Nat) : Nat := ((t * 64 + ch) * 4 + layer) * 16 + bank

/-- A frame with bytes in a row that has no spare is retired: it is BAD and never passes its repair test. -/
def State.retireFrame (s : State) (f : Nat) : State :=
  let s := s.report { severity := sevDegrade, cause := 0x05, unit := 0x04, tile := frameTile f, addr := f }
  let s := ((s.badOutcome f).2).sendGroup [] s.store (backgroundGroup 0xFFFFFFFF)
  { s with errs := { s.errs with repairTests := s.errs.repairTests.erase f, retired := insertKey f s.errs.retired } }

/-- A failing row goes to a spare; without one it stays in use, and frame data in it is retired. -/
def State.spareRow (s : State) (t ch : Nat) (r : ScrubReport) : State :=
  let k := rowBankKey t ch r.layer.toNat r.bank.toNat
  if tget 0 s.errs.rowsUsed k < spareRows then
    ({ s with errs := { s.errs with rowsUsed := tset 0 s.errs.rowsUsed k (tget 0 s.errs.rowsUsed k + 1) } }).report
      { severity := sevDegrade, cause := 0x03, unit := 0x03, tile := t, index := ch + 64 * r.layer.toNat + 256 * r.bank.toNat
        addr := r.row.toNat }
  else match r.target with
    | .frame i => s.retireFrame (frameNum t i.toNat)
    | _ => s

/-! ### Uncorrectable words outside frames (16 R441, R454, R455) -/

/-- The lowest page that a map block maps, from its first page on. -/
def State.lowestPage (s : State) (key first : Nat) : Nat :=
  first + ((List.range 256).find? (fun i => s.mapAt (key * 256 + i) ≠ .empty)).getD 0

/-- What a metadata word lost in both copies does (R454). Entry `i` of region 0 is a map block, 1 a frame's local
index, 2 row × 256 + stream, 3 a cold record, 4 a node, 5 a bucket, 6 a park slot. -/
def State.metaLost (s : State) (t region i : Nat) : State :=
  match region with
  | 0 => match s.blockOwner (1048576 * t + i) with
    | some o => s.losePage o.1 o.2.1 (s.lowestPage (1048576 * t + i) o.2.2) t 0xFFFFFF
    | none => s
  | 1 => (s.badOutcome (frameNum t (i % 524288))).2
  | 2 => if (s.dirOf (i / 256) (i % 256)).valid then s.losePage (i / 256) (i % 256) 0 t 0xFFFFFF else s
  | 3 =>
    match (s.store.map.filter (fun p => p.2 = .cold (8388608 * t + i % 8388608))).findSome? (fun p => s.locOwner p.1) with
    | some o => s.losePage o.1 o.2.1 o.2.2 t 0xFFFFFF
    | none => s
  | 4 => if (s.node i).state = 0 then s else s.removeOrWait i
  | 5 => (s.chain (s.liveNodes.length + 1) (tget none s.store.buckets i)).foldl State.removeOrWait s
  | 6 => if (s.slotAt (i % 65536)).valid then s.setSlot (i % 65536) { s.slotAt (i % 65536) with valid := false } else s
  | _ => s

/-- Severity of such a word. -/
def metaSeverity (both : Bool) (region : Nat) : Nat := if both && decide (region ≤ 3) then sevContext else sevNote

/-- The item whose wide-buffer words on a tile hold an index, and the word's place within them (R455). -/
def State.wideOwner (s : State) (t index : Nat) : Option (Nat × Nat × Nat) :=
  let l := s.sched.jobs.flatMap (fun j => j.items.zipIdx.map (fun p => (j.id, p.2, wideOn p.1.wide t)))
  (l.foldl (fun (a : Option (Nat × Nat × Nat) × Nat) x =>
    match a.1 with
    | some o => (some o, a.2)
    | none => if index < a.2 + x.2.2 then (some (x.1, x.2.1, index - a.2), a.2) else (none, a.2 + x.2.2)) (none, 0)).1

/-- Resets the atomic target of one row of an item: +0, its bitmap cleared (R455). -/
def Item.resetTarget (i : Item) (row : Nat) : Item :=
  { i with bwd := match i.bwd[row]? with | some w => i.bwd.set row { w with target := [], applied := [] } | none => i.bwd }

/-- A wide-buffer word is lost: the item whose target, wave slot or spill slot holds it is retried, a damaged target reset first
(R455). A slot of an item that has completed is not retried (log entry 241). -/
def State.wideLost (s : State) (t index : Nat) : State :=
  match s.wideOwner t index with
  | none => s
  | some (id, k, off) =>
    match s.job id, s.item id k with
    | some j, some i =>
      let row := off / max 1 i.bind.ctx.hd
      let target := decide (t = i.tile) && !bit j.ctl 10 && decide (row < i.bwd.length)
      (if target then s.modItem id k (fun i => i.resetTarget row) else s).retryItem id k t
    | _, _ => s

/-! ### The page-memory scrubber (16 R440) -/

/-- An uncorrectable burst. -/
def State.scrubLost (s : State) (t ch : Nat) (r : ScrubReport) : State :=
  let s := s.bumpTile t 0x1B0 1
  let index := ch + 64 * r.layer.toNat + 256 * r.bank.toNat
  let e : LogEntry := { severity := sevNote, cause := 0x02, unit := 0x03, tile := t, index := index, addr := r.row.toNat }
  match r.target with
  | .frame i => s.frameBad (frameNum t i.toNat) 0x03 t index r.row.toNat
  | .metadata region i both =>
    let s := s.raise { e with severity := metaSeverity both region.toNat } none
    if both then (s.metaLost t region.toNat i.toNat).sendGroup [] s.store (backgroundGroup 0xFFFFFFFF) else s
  | .wide i => (s.raise (s.ofItems ((s.wideOwner t i.toNat).map (fun o => (o.1, o.2.1))).toList { e with severity := sevJob }) none).wideLost t i.toNat
  | .master | .spare => s.raise e none

/-- One burst of a channel: read, corrected, its row spared, or lost; a pass may end with it. -/
def State.scrubBurst (s : State) (t ch : Nat) (r : ScrubReport) : State :=
  let s := match r.finding with
    | .clean => s
    | .corrected => (s.bumpTile t 0x1AC 1).raise { severity := sevNote, cause := 0x01, unit := 0x03, tile := t
                                                   index := ch + 64 * r.layer.toNat + 256 * r.bank.toNat, addr := r.row.toNat } none
    | .uncorrectable => s.scrubLost t ch r
  let s := if r.rowFailing then s.spareRow t ch r else s
  if r.passEnd then s.bumpTile t 0x1C4 1 else s

/-- Page memory is scrubbed from INIT on, while its tile is ACTIVE (17 R473). AE-S has none. -/
def State.scrubsPages (s : State) (t : Nat) : Bool :=
  [Mode.pair, .ready, .drain, .maint].contains s.cfg.mode && decide (s.part ≠ .aeS) &&
  (s.powered t || s.errs.tileOut.contains t)

/-! ### Repair tests (08 R226, 16 R453) -/

/-- The repair test of a BAD frame ends. A mirror frame that passes is asked for again; a frame that fails stays BAD. -/
def State.repairEnds (s : State) (f : Nat) (pass : Bool) : State :=
  if !s.errs.repairTests.contains f then s else
  let s := (s.finish f)
  let s := { s with errs := { s.errs with repairTests := s.errs.repairTests.erase f } }
  if !pass then
    { s with errs := { s.errs with retired := insertKey f s.errs.retired, resending := s.errs.resending.erase f } }
  else if s.errs.resending.contains f then
    (s.setFrame f { (s.frame f).next with st := .mirror, raw := [] }).askResend f
  else if (s.frame f).st = .free then s.offer f
  else s.settle f

/-! ### Relocation (16 R459) -/

/-- A stream whose blocks find no place on its new home tile loses its pages: they are released, and the context fails at
page 0 (log entry 64). -/
def State.loseStream (s : State) (row : Nat) (m : MovedStream) : State :=
  let bs := s.parkedBlocks m.old m.dir
  let keys := bs.flatMap (fun b => (List.range 256).map (fun i => mapKey m.old b i))
  let s := keys.foldl (fun s k => s.releaseEntry k) s
  let s := bs.foldl (fun s b => s.giveBlock m.old b) s
  (s.setDir row m.stream { m.dir with root := 0, depth := false, pages := 0, hasRoot := false }).losePage row m.stream 0 m.old 0xFFFFFF

/-- Step 1: the blocks and cold records of one stream move to its new home tile. Its pool pages follow by DMA. -/
def State.rehome (s : State) (p : Nat × MovedStream) : State :=
  let m := p.2
  match s.takeBlocks (s.parkedBlocks m.old m.dir).length m.new with
  | none => s.loseStream p.1 m
  | some (bs, s1) =>
    match s1.takeRecords m.new (s1.coldOf m) with
    | none => s.loseStream p.1 m
    | some (moves, s2) =>
      let g := s2.moveStream moves m bs
      let cold := moves.foldl (fun (t : Tab (Option Cold)) (q : Nat × Nat) => terase t q.1) g.1.store.cold
      let s3 : State := { g.1 with store := { g.1.store with cold := cold } }
      (s3.setDir p.1 m.stream g.2).dropLab p.1 m.stream

/-- The streams of contexts in use whose home tile differs between two states. -/
def State.rehomed (s s' : State) : List (Nat × MovedStream) :=
  s.store.dir.filterMap (fun p =>
    let row := p.1 / 256
    let st := p.1 % 256
    let old := s.homeTile p.2.layer row st
    let new := s'.homeTile p.2.layer row st
    if p.2.valid && decide (old ≠ new) then some (row, ⟨st, old, new, p.2⟩) else none)

/-- Puts frame `g` in the place of frame `f` in every map, binding, pin and open round. -/
def State.substFrame (s : State) (f g : Nat) : State :=
  let w (x : Nat) : Nat := if x = f then g else x
  let gen := (s.frame g).gen
  let entry (p : Nat × MapEntry) : Nat × MapEntry := if p.2 = .frame f then (p.1, .frame g) else p
  let item (i : Item) : Item :=
    { i with pins := i.pins.map w, bind := { i.bind with pages := i.bind.pages.map (fun b => (b.1, b.2.1, w b.2.2)) } }
  let job (j : Job) : Job := { j with items := j.items.map item }
  let round (r : Round) : Round := if r.frame = f then { r with frame := g, tile := frameTile g, gen := gen } else r
  let s : State := { s with
    store := { s.store with map := s.store.map.map entry }
    sched := { s.sched with jobs := s.sched.jobs.map job, rounds := s.sched.rounds.map round } }
  s.dropLabFrame f

/-- A target frame of a relocation: MOVING while the page is copied, then in the state of the frame it replaces (08 R226, R227). -/
def State.moveInto (s : State) (x : Frame) (g : Nat) (r : Bool) : State :=
  let s := s.setFrame g { (s.frame g).next with st := .moving, cls := x.cls, reserve := r }
  s.setFrame g { x with gen := (s.frame g).next.gen, reserve := r }

/-- Step 2 for one frame: it moves to another tile, keeping its counts, its charge and its page. A checksum that does not hold is an
error of the frame that receives the page (08 R223). -/
def State.relocateFrame (s : State) (u f : Nat) : State :=
  let x := s.frame f
  let bad := x.st = .isSealed ∧ checksumOfBytes x.page.dataBytes x.page.sidecarBytes ≠ x.page.checksum
  match s.takeAny u with
  | none => s.frameBad f 0x04 (frameTile f) 0 f
  | some (g, r, s) =>
    let s := ((s.moveInto x g r).substFrame f g).freeFrame f
    if bad then (s.bumpTile (frameTile g) 0x148 1).frameBad g 0x04 (frameTile g) 0 g else s

/-- A frame that an item has acquired on the tile and not used moves too. -/
def State.relocateAcq (s : State) (u f : Nat) : State :=
  let x := s.frame f
  match s.takeAny u with
  | none => s
  | some (g, r, s) =>
    let s := if x.st = .moving then s.moveInto x g r else s
    let s := { s with store := { s.store with held := if s.store.held.contains f then g :: s.store.held.erase f else s.store.held } }
    let job (j : Job) : Job := { j with items := j.items.map (swapAcq f g r) }
    let s : State := { s with sched := { s.sched with jobs := s.sched.jobs.map job } }
    if x.st = .free then s.shelve f else s.freeFrame f

/-- Frames of a tile with a page that something names, in ascending index. -/
def State.liveFrames (s : State) (t : Nat) : List Nat :=
  (s.store.frames.filter (fun p => frameTile p.1 = t &&
    (match p.2.st with | .priv | .shared | .isSealed => true | _ => false))).map Prod.fst

/-- Frames of a tile that items have acquired. -/
def State.acquiredOn (s : State) (t : Nat) : List Nat :=
  s.sched.jobs.flatMap (fun j => j.items.flatMap (fun i => (i.acq.map (fun a => a.frame)).filter (fun f => frameTile f = t)))

/-- The items of a tile go on where their streams now live; those that ran run again, uncounted (R450). Items of other tiles
that have not started are placed by the band map now in force (12 R347). -/
def State.moveItems (s : State) (t : Nat) : State :=
  let item (j : Job) (i : Item) : Item :=
    if (i.tile ≠ t ∧ (i.started ∨ i.active)) ∨ i.finished then i else
    let home := match j.entries[i.entry]? with | some e => s.homeOf (bits e.handle 13 0) i.stream | none => t
    let i := if i.active then i.again else i
    { i with tile := home }
  let job (j : Job) : Job := if !isBatch j.kind then j else { j with items := j.items.map (item j) }
  { s with sched := { s.sched with jobs := s.sched.jobs.map job } }

/-- Whether a migration touches a tile or a stream that moves, which the relocation waits for. -/
def State.relocationBusy (s : State) (t : Nat) (ms : List (Nat × MovedStream)) : Bool :=
  s.store.migs.any (fun m => frameTile m.frame = t || m.home = t) || ms.any (fun p => s.moveBusy p.2)

/-- Relocation of a tile (R459), whole: in ascending index i the frames go to u_(i % n′). -/
def State.relocate (s : State) (t : Nat) : State :=
  if tget 0 s.errs.tileState t ≠ 1 then s else
  let s1 := { s with errs := { s.errs with relocated := insertKey t s.errs.relocated } }
  let ms := s.rehomed s1
  if s.relocationBusy t ms then s else
  let before := s.store
  let us := (s.bandsOf t).flatMap s1.servingTiles
  let target (f : Nat) : Nat := us.getD (frameLocal f % max 1 us.length) t
  let s := ms.foldl (fun s p => s.rehome p) s1
  let s := (s.liveFrames t).foldl (fun s f => s.relocateFrame (target f) f) s
  let s := (s.acquiredOn t).foldl (fun s f => s.relocateAcq (target f) f) s
  let s := s.moveItems t
  let s := { s with errs := { s.errs with tileState := tset 0 s.errs.tileState t 2, relocating := s.errs.relocating.erase t } }
  (s.sendGroup [] before (backgroundGroup 0xFFFFFFFF)).pump

/-! ### Anchor roles (16 R460) -/

/-- The spare anchor becomes the anchor; jobs of the anchor go on there, and a new spare anchor is built. -/
def State.takeOver (s : State) : State :=
  if !s.errs.takeover then s else
  let old := s.errs.anchor
  let new := s.errs.spare
  let item (i : Item) : Item := if i.tile = old then { i with tile := new } else i
  let job (j : Job) : Job := if isBatch j.kind then j else { j with items := j.items.map item }
  let s : State := { s with errs := { s.errs with anchor := new, takeover := false }, sched := { s.sched with jobs := s.sched.jobs.map job } }
  (s.report { severity := sevDegrade, cause := 0x0E, unit := 0x0B, tile := new }).buildSpare

/-- A spare anchor is complete. -/
def State.spareBuilt (s : State) : State :=
  if s.errs.spareBuilding then { s with errs := { s.errs with spareBuilding := false, spareValid := true } } else s

/-! ### The commands -/

def execPageMemoryScrub (tile : BitVec 5) (channel : BitVec 6) (report : ScrubReport) (s : State) : Out :=
  onTile s tile.toNat (s.whenever (s.scrubsPages tile.toNat) (s.scrubBurst tile.toNat channel.toNat report))

def execRepairTestDone (frame : BitVec 24) (pass : Bool) (s : State) : Out := .next (s.repairEnds frame.toNat pass)

def execRelocationDone (tile : BitVec 5) (s : State) : Out := onTile s tile.toNat (s.relocate tile.toNat)

def execAnchorTakeover (s : State) : Out := .next s.takeOver

def execSpareAnchorBuilt (s : State) : Out := .next s.spareBuilt

end Sys2Proof.Machine
end

