-- ==== Sys2Proof/Machine/Clocks.lean ====
section
/-! DEFINITION. Clock steps, the time base, monitors and power states (17 R467 to R475). -/

namespace Sys2Proof.Machine

/-! ### Monitors (17 R471) -/

/-- Temperature sensors of a tile in service. -/
def TileHealth.sensorsIn (h : TileHealth) : List (Nat × Int) :=
  (h.temps.zipIdx.filter (fun p => !h.tempOut.contains p.2)).map (fun p => (p.2, p.1))

/-- The sensor in service that reads highest, the lowest of several, and its reading. -/
def TileHealth.hottest (h : TileHealth) : Option (Nat × Int) :=
  h.sensorsIn.foldl (fun (a : Option (Nat × Int)) p =>
    match a with | none => some p | some m => if m.2 < p.2 then some p else some m) none

/-- T_hot; 0 before the first reading. -/
def TileHealth.hot (h : TileHealth) : Int := (h.hottest.map Prod.snd).getD 0

/-- A monitor entry: the sensor in INDEX [4:0], its kind in [6:5]. -/
def monitorEntry (sev cause t kind sensor : Nat) : LogEntry :=
  { severity := sev, cause := cause, unit := 0x0D, tile := t, index := sensor + 32 * kind }

/-- An alert of a monitor: logged, MONITOR set. -/
def State.monitorAlert (s : State) (cause t kind sensor : Nat) : State :=
  let s := s.report (monitorEntry sevDegrade cause t kind sensor)
  { s with errs := { s.errs with alertMonitor := true } }

/-- A sensor leaves service. -/
def State.sensorOut (s : State) (t kind sensor : Nat) : State :=
  let h := s.tileHealth t
  let known := if kind = 0 then h.tempOut.contains sensor else h.otherOut.contains (kind * 32 + sensor)
  let limit := match kind with | 0 => 16 | 1 => 8 | 2 => 4 | _ => 0
  if known ∨ limit ≤ sensor then s else
  let h' : TileHealth := if kind = 0 then { h with tempOut := insertKey sensor h.tempOut }
                         else { h with otherOut := insertKey (kind * 32 + sensor) h.otherOut }
  (s.setHealth t h').report (monitorEntry sevDegrade 0x65 t kind sensor)

/-- STEP, HYST, ALERT and TRIP as a tile has adopted them. -/
def State.tempThr (s : State) (t : Nat) : Int × Int × Int × Int :=
  let v := s.liveFor t 0x14004
  ((bits v 7 0 : Nat), (bits v 15 8 : Nat), (bits v 23 16 : Nat), (bits v 31 24 : Nat))

/-- A reading of the temperature sensors. -/
def State.tempReading (s : State) (t : Nat) (vs : List Int) : State :=
  let thr := s.tempThr t
  let before := (s.tileHealth t).temps
  let s := s.setHealth t { s.tileHealth t with temps := vs }
  let s := ((List.range 16).filter (fun i => decide (150 < vs.getD i 0))).foldl (fun s i => s.sensorOut t 0 i) s
  let h := s.tileHealth t
  let alert := decide (thr.2.2.1 ≤ h.hot)
  let s := s.setHealth t { h with hotWindow := h.hotWindow || decide (thr.1 - thr.2.1 ≤ h.hot), tempAlert := alert }
  let s := if alert && !h.tempAlert then s.monitorAlert 0x60 t 0 ((h.hottest.map Prod.fst).getD 0) else s
  match h.sensorsIn.find? (fun p => decide (thr.2.2.2 ≤ p.2) && decide (p.1 < before.length) && decide (thr.2.2.2 ≤ before.getD p.1 0)) with
  | some p => ({ s with errs := { s.errs with thermTrip := true } }).block (monitorEntry sevBlock 0x61 t 0 p.1) 0x0C
  | none => s

/-- Whether a voltage is outside a band around nominal, in units of 0.5 %. -/
def outside (nominal band v : Nat) : Bool := decide (band * nominal < 200 * (max v nominal - min v nominal))

/-- A reading of the voltage sensors, one a microsecond: ten in a row outside the trip band halt the part. -/
def State.voltReading (s : State) (t : Nat) (vs : List Nat) (nominal : Nat) : State :=
  let h := s.tileHealth t
  let inUse (i : Nat) : Bool := !h.otherOut.contains (32 + i)
  let bad := (List.range 8).filter (fun i => inUse i && outside nominal s.cfg.fuses.alertPct (vs.getD i nominal))
  let run := (List.range 8).map (fun i =>
    if inUse i && outside nominal s.cfg.fuses.tripPct (vs.getD i nominal) then h.voltRun.getD i 0 + 1 else 0)
  let h' : TileHealth := { h with volts := vs, voltAlert := decide (bad ≠ []), voltRun := run
                                  voltUntil := if bad = [] ∧ h.voltAlert then 1000000 + s.now else h.voltUntil }
  let s := s.setHealth t h'
  let s := if decide (bad ≠ []) && !h.voltAlert then s.monitorAlert 0x62 t 1 (bad.headD 0) else s
  match (List.range 8).find? (fun i => decide (10 ≤ run.getD i 0)) with
  | some i => s.block (monitorEntry sevBlock 0x63 t 1 i) 0x0B
  | none => s

/-- A reading of the ring oscillators: FMAX_AGED falls by one code, at most once a second. -/
def State.procReading (s : State) (t : Nat) (vs : List Nat) : State :=
  let h := s.tileHealth t
  let low := (List.range 4).filter (fun i => !h.otherOut.contains (64 + i) && decide (vs.getD i s.cfg.fuses.roFloor < s.cfg.fuses.roFloor))
  let may := match h.agedAt with | none => true | some a => decide (1000000000 + a ≤ s.now)
  let falls := decide (low ≠ []) && may && decide (0 < h.fmaxAged)
  let s := s.setHealth t { h with
    procs := vs, procAlert := decide (low ≠ []), fmaxAged := if falls then h.fmaxAged - 1 else h.fmaxAged
    agedAt := if falls then some s.now else h.agedAt }
  if decide (low ≠ []) && !h.procAlert then s.report (monitorEntry sevDegrade 0x64 t 2 (low.headD 0)) else s

/-! ### Stepping CCLK (17 R467, R468) -/

/-- The ceiling of a tile: the lower of FMAX and FMAX_AGED, 0 with 4 or more temperature sensors out. -/
def State.ceiling (s : State) (t : Nat) : Nat :=
  let h := s.tileHealth t
  if 4 ≤ h.tempOut.length then 0 else min (bits (s.liveFor t 0x14000) 3 0) h.fmaxAged

/-- A target between floor and ceiling; the ceiling goes before the floor. -/
def State.inRange (s : State) (t c : Nat) : Nat := min (s.ceiling t) (max (bits (s.liveFor t 0x14000) 7 4) c)

/-- The target at the end of a window, by the first matching row of R467; `cool` counts this window. -/
def State.nextTarget (s : State) (t cool : Nat) : Nat :=
  let h := s.tileHealth t
  let thr := s.tempThr t
  if s.part = .aeS then 0
  else if h.voltAlert ∨ s.now < h.voltUntil then 0
  else if thr.2.2.1 ≤ h.hot then h.target - 1
  else if thr.1 ≤ h.hot then s.inRange t (max (bits (s.liveFor t 0x14000) 7 4) (h.target - 1))
  else if 10 ≤ cool then s.inRange t (h.target + 1)
  else s.inRange t h.target

/-- The end of a window. A new target starts a step, or restarts the one under way. -/
def State.stepWindow (s : State) (t : Nat) : State :=
  let h := s.tileHealth t
  let thr := s.tempThr t
  let cool := if h.hotWindow ∨ thr.1 - thr.2.1 ≤ h.hot then 0 else min 10 (h.cool + 1)
  let c := s.nextTarget t cool
  let h' : TileHealth := { h with cool := cool, hotWindow := false }
  if s.part = .aeS ∨ c = h.target then s.setHealth t h'
  else s.setHealth t { h' with target := c, switching := true, locked := false, holders := [] }

/-- The idle PLL has locked: cores that hold no item adopt it, the others at the end of theirs. -/
def State.pllLocked (s : State) (t : Nat) : State :=
  let h := s.tileHealth t
  if !h.switching || h.locked then s else
  (s.setHealth t { h with locked := true, holders := s.itemsWhere (fun _ i => decide (i.tile = t) && i.active) }).clockSwitch t

/-- A PLL that does not lock within 1 ms in a step or a wake (R468, R473, 16 R457). -/
def State.pllUnlock (s : State) (t : Nat) : State :=
  let h := s.tileHealth t
  if (h.switching && !h.locked) || decide (h.power = 3) then
    s.tileFault { severity := sevTile, cause := 0x66, unit := 0x0D, tile := t }
  else s

/-! ### PPS (17 R470) -/

/-- A signed number saturated to 32 bits, as its two's-complement code. -/
def signed32 (d : Int) : Nat := ((max (-2147483648) (min 2147483647 d)) % 4294967296).toNat

/-- A field of 16 bits of TIM_PPS_MISS rises by 1. -/
def State.missCount (s : State) (high : Bool) : State :=
  let v := s.reg 0xF01C
  if high then s.setReg 0xF01C (min 0xFFFF (bits v 31 16 + 1) * 0x10000 + bits v 15 0)
  else s.setReg 0xF01C (bits v 31 16 * 0x10000 + min 0xFFFF (bits v 15 0 + 1))

/-- Deadlines measured on TIM_NOW start again (13 R371). -/
def State.restartDeadlines (s : State) : State :=
  let due := s.now + s.live 0xC010 * 1000
  let walk (k : Walk) : Walk := { k with who := k.who.map (fun p => (p.1, p.2.map (fun _ => due))) }
  let fault (f : HatFault) : HatFault := { f with who := f.who.map (fun p => (p.1, due)) }
  { s with host := { s.host with walks := s.host.walks.map walk, faultWait := s.host.faultWait.map walk, faults := s.host.faults.map fault } }

/-- An edge of the polarity that TIM_CTL names. -/
def State.ppsEdge (s : State) (falling : Bool) : State :=
  let ctl := s.reg 0xF010
  if !bit ctl 0 || bit ctl 1 != falling then s
  else if s.health.sincePps.any (fun n => decide (n ≤ 500000000)) then s.missCount true
  else
    let next := s.reg64 0xF008
    let d : Int := (s.now : Int) - (next : Int)
    let s : State := { s with health := { s.health with
      sincePps := some 0, ppsOffset := d, holdNs := if d < 0 then (-d).toNat else 0
      now := if d < 0 then s.health.now else (next + 2) % 2 ^ 64 } }
    let s := s.bump 0xF018 1
    let s := if 1000 < d then s.restartDeadlines else s
    if bit ctl 2 then (s.setReg 0xF008 ((1000000000 + next) % 2 ^ 32)).setReg 0xF00C ((1000000000 + next) / 2 ^ 32 % 2 ^ 32) else s

/-- 1,500 ms without an accepted edge. -/
def State.ppsMissed (s : State) : State := if bit (s.reg 0xF010) 0 then s.missCount false else s

/-! ### Power states (17 R473, R474) -/

/-- One tile follows HLT_TILE_GATE and HLT_TILE_RETAIN. Outside ACTIVE only module 0 stays up. -/
def State.powerTile (s : State) (t : Nat) : State :=
  if s.errs.tileOut.contains t then s else
  let up := tget 0 s.host.up t
  let low (s : State) : State := { s with host := { s.host with up := tset 0 s.host.up t (up % 2) } }
  let h := s.tileHealth t
  if bit (s.reg 0x14014) t then (if h.power = 2 then s else low (s.gate t))
  else if bit (s.reg 0x14010) t then (if h.power = 1 then s else low (s.setHealth t { h with power := 1 }))
  else if h.power = 1 ∨ h.power = 2 then s.setHealth t { h with power := 3 }
  else s

/-- Every tile follows the two registers. -/
def State.powerFollow (s : State) : State := (List.range s.part.tiles).foldl State.powerTile s

/-- A tile's wake ends. -/
def State.tileWakes (s : State) (t : Nat) : State :=
  let h := s.tileHealth t
  if h.power = 3 then s.setHealth t { h with power := 0 } else s

/-- Whether a tile is ACTIVE. -/
def State.awake (s : State) (t : Nat) : Bool := s.inService t && s.powered t

/-! ### The commands -/

/-- Whether clocks and monitors run: in every state but OFF. -/
def State.running (s : State) : Bool := decide (s.cfg.mode ≠ .off)

def execStepWindow (tile : BitVec 5) (s : State) : Out := onTile s tile.toNat (s.whenever s.running (s.stepWindow tile.toNat))

def execCclkPllLock (tile : BitVec 5) (s : State) : Out := onTile s tile.toNat (s.pllLocked tile.toNat)

def execPllUnlock (tile : BitVec 5) (s : State) : Out := onTile s tile.toNat (s.pllUnlock tile.toNat)

def execTempReading (tile : BitVec 5) (values : List Int) (s : State) : Out :=
  onTile s tile.toNat (s.whenever s.running (s.tempReading tile.toNat values))

def execVoltReading (tile : BitVec 5) (values : List (BitVec 16)) (nominal : BitVec 16) (s : State) : Out :=
  onTile s tile.toNat (s.whenever s.running (s.voltReading tile.toNat (values.map (fun v => v.toNat)) nominal.toNat))

def execProcessReading (tile : BitVec 5) (values : List (BitVec 16)) (s : State) : Out :=
  onTile s tile.toNat (s.whenever s.running (s.procReading tile.toNat (values.map (fun v => v.toNat))))

def execSensorFail (tile : BitVec 5) (kind : BitVec 2) (sensor : BitVec 5) (s : State) : Out :=
  onTile s tile.toNat (s.whenever s.running (s.sensorOut tile.toNat kind.toNat sensor.toNat))

def execPpsEdge (falling : Bool) (s : State) : Out := .next (s.whenever s.running (s.ppsEdge falling))

def execPpsMiss (s : State) : Out := .next (s.whenever s.running s.ppsMissed)

def execTileWake (tile : BitVec 5) (s : State) : Out := onTile s tile.toNat (s.tileWakes tile.toNat)

end Sys2Proof.Machine
end

