-- ==== Sys2Proof/Machine/Responses.lean ====
section
/-! DEFINITION. What the host answers: responses and timeouts of requests and what they end (13 R355, R372 to R375), walks,
fault deadlines, the end of a DMA descriptor (R380), modules that train. -/

namespace Sys2Proof

/-- STATUS of a DMA descriptor that ends (13 R378). -/
def DmaEnd.code : DmaEnd → Nat
  | .done => 0x01 | .bus => 0x80 | .timeout => 0x81 | .fault => 0x82 | .media => 0x83

end Sys2Proof

namespace Sys2Proof.Machine

/-! ### What a response ends (13 R372) -/

/-- Marks the first descriptor of an owner with the address that failed (R380). -/
def HostPort.markDma (h : HostPort) (r : HReq) : HostPort :=
  let mark (d : DmaDesc) : DmaDesc := if d.owner = r.owner ∧ d.failAddr = none then { d with failAddr := some r.addr } else d
  { h with dma := h.dma.map (fun p => (p.1, p.2.map mark)) }

/-- Output writes of an item that have not been issued are not issued once one has failed (R375). -/
def State.dropWrites (s : State) (id k : Nat) : State :=
  let mine (p : HReq × List Byte) : Bool := match p.1.owner with | .item j i _ => j = id && i = k | _ => false
  let n := (s.host.waiting.filter mine).length
  ({ s with host := { s.host with waiting := s.host.waiting.filter (fun p => !mine p) } }).modJob id
    (fun j => { j with outLeft := j.outLeft - n })

/-- A host acknowledgement of one of the writes that a job's record waits for. -/
def State.oneLess (s : State) (id : Nat) : State := s.modJob id (fun j => { j with outLeft := j.outLeft - 1 })

/-- An output write of an item ends; a failed one ends the item with its status. -/
def State.outEnds (s : State) (id k status : Nat) : State :=
  let s := s.oneLess id
  if status = 0 then s
  else (s.modItem id k (fun i => if failing i.status then i else { i with status := status })).dropWrites id k

/-- A write that a job of one item waits for ends; with the last one the job goes on. -/
def State.waitEnds (s : State) (id status : Nat) (go : State → Job → Item → State) : State :=
  let s := s.modItem id 0 (fun i => { i with
    writesLeft := i.writesLeft - 1, writeStatus := if i.writeStatus = 0 then status else i.writeStatus })
  match s.job id, s.item id 0 with
  | some j, some i => if i.writesLeft = 0 then go s j i else s
  | _, _ => s

/-- A piece of a migration ends: bytes of a recall arrive, or an access has failed (09 R263, 13 R373). -/
def State.migEnds (s : State) (slot : Nat) (r : HReq) (status : Nat) (payload : List Byte) : State :=
  match s.mig slot with
  | none => s
  | some m =>
    let m : Mig := { m with left := m.left - 1 }
    if status ≠ 0 then s.putMig (m.failedAt r.off r.bytes status)
    else if r.write then s.putMig m
    else s.putMig { m with got := m.got ++ [(r.off, bytesAt payload (r.addr % 64) r.bytes)] }

/-- Whether the castle record is still being written. -/
def HostPort.castling (h : HostPort) : Bool :=
  h.reqs.any (fun r => r.owner = .castle && !r.dead) || h.waiting.any (fun p => p.1.owner = .castle)

/-- The castle record has been written: the message of 15 R425 is wanted (13 R357). -/
def State.castleEnds (s : State) : State :=
  if s.host.castling then s else { s with errs := { s.errs with irqTwin := s.errs.irqTwin || bit (s.reg 0xE000) 3 } }

/-- A request ends with a status, 0 OK. A fault record that the host refuses leaves its slot as it was. -/
def State.ends (s : State) (r : HReq) (status : Nat) (payload : List Byte) : State :=
  let s : State := if status = 0 then s else { s with host := s.host.markDma r }
  (match r.owner with
   | .item id k _ => s.outEnds id k status
   | .mig slot => s.migEnds slot r status payload
   | .record id => s.recordDone id (decide (status = 0))
   | .park id => s.waitEnds id status (fun s j i => if j.kind = 0x04 then s.parkEnds j i else s)
   | .tokens id => s.waitEnds id status (fun s j i => s.publishEnds j i)
   | .irq src => if status = 0 then s else s.irqDropped src
   | .faultQueue => s
   | .castle => s.castleEnds
   | .table _ => s
   | .handles id =>
     let s := s.oneLess id
     if status = 0 then s else s.modJob id (fun j => { j with status := status, hostFail := some (0, status) })
   | .stats id =>
     let s := s.oneLess id
     if status = 0 then s else s.modJob id (fun j => { j with status := if failing j.status then j.status else status })).pump

/-- The status that a response's STATUS code stands for: 0h OK, anything else BUS_ERROR or REFUSED (R354, R372). -/
def busStatus (status : Nat) : Nat := if status = 0 then 0 else stHostBus

/-- A response arrives. One that finds no request of its kind waiting is discarded and logged; the late response of a
request that timed out frees its tag (R355). A CPL of another length than was asked for is taken as BUS_ERROR. -/
def State.response (s : State) (q : Req) (write : Bool) (status : Nat) (payload : List Byte) : State :=
  match s.host.match q with
  | none => s.strayResponse q
  | some r =>
    if r.dead then ({ s with host := s.host.release r }).strayResponse q
    else if r.write ≠ write then s.strayResponse q
    else
      let short := !write && decide (status = 0) && decide (payload.length ≠ 64 * unitsOf r.addr r.bytes)
      ({ s with host := s.host.release r }).ends r (if short then stHostBus else busStatus status) payload

/-- The address that a timeout entry names: the virtual page where there is one. -/
def HReq.where_ (r : HReq) : Nat := match r.page with | some p => 4096 * p + r.addr % 4096 | none => r.addr

/-- A request has no response within HAT_TIMEOUT: it fails and its tag is held back; the second time its tag is free
(R355, R371). -/
def State.requestTimeout (s : State) (q : Req) : State :=
  match s.host.match q with
  | none => s
  | some r =>
    if r.dead then { s with host := s.host.release r } else
    let dead (x : HReq) : HReq := if x = r then { x with dead := true } else x
    let s : State := { s with host := { s.host with reqs := s.host.reqs.map dead } }
    let s := s.report ((s.ownerInfo r.owner).names { severity := sevJob, cause := 0x23, unit := 0x06, tile := r.tile, index := 1, addr := r.where_ })
    s.ends r stHostFault []

/-! ### The end of a DMA descriptor (13 R380, R381) -/

/-- OWNER_KIND of an owner. -/
def Owner.kindCode : Owner → Nat
  | .mig _ => 1
  | .park _ | .tokens _ => 2
  | .table _ => 3
  | _ => 0

/-- Bytes that a descriptor writes (R379). -/
def DmaDesc.landed (d : DmaDesc) : Nat := d.count * widthBits d.dstW / widthBits d.srcW

/-- A BAD descriptor counts, and the first one is captured. -/
def State.captureBad (s : State) (t ch : Nat) (d : DmaDesc) (how : DmaEnd) : State :=
  let s := (s.bump 0xD000 1).bumpTile t 0x1A0 1
  if bit (s.reg 0xD004) 31 then s else
  let a := d.failAddr.getD d.host
  ((s.setReg 0xD004 (2 ^ 31 + 131072 * d.owner.kindCode + 512 * how.code + 32 * ch + t)).setReg 0xD008 (a % 2 ^ 32)).setReg 0xD00C (a / 2 ^ 32)

/-- An uncorrectable source: a migration's frame by 16 R453; an item that runs is retried (16 R450). -/
def State.mediaBad (s : State) (t ch : Nat) (d : DmaDesc) : State :=
  match d.owner with
  | .mig slot => match s.mig slot with
    | some m => if m.evict then s.frameBad m.frame 0x05 t ch m.frame else s
    | none => s
  | .item id k _ => (s.raise (s.ofItems [(id, k)] { severity := sevJob, cause := 0x02, unit := 0x05, tile := t, index := ch }) none).retryItem id k t
  | _ => s.raise { severity := sevNote, cause := 0x02, unit := 0x05, tile := t, index := ch } none

/-- The oldest descriptor of a channel ends. Its owner goes by the responses of its own requests. -/
def State.dmaEnds (s : State) (t ch : Nat) (how : DmaEnd) : State :=
  match tget [] s.host.dma (t * 16 + ch) with
  | [] => s
  | d :: rest =>
    let s := { s with host := { s.host with dma := tset [] s.host.dma (t * 16 + ch) rest } }
    match how with
    | .done => (s.bumpTile t 0x198 (ceilDiv d.count 64)).bumpTile t 0x19C (ceilDiv d.landed 64)
    | .media => (s.captureBad t ch d how).mediaBad t ch d
    | _ => s.captureBad t ch d how

/-! ### The commands -/

def execCpl (q : Req) (status : BitVec 4) (payload : List Byte) (s : State) : Out :=
  onTile s q.tile.toNat (s.response q false status.toNat payload)

def execWack (q : Req) (status : BitVec 4) (s : State) : Out := onTile s q.tile.toNat (s.response q true status.toNat [])

def execRequestTimeout (q : Req) (s : State) : Out := onTile s q.tile.toNat (s.requestTimeout q)

def execHatWalk (tile : BitVec 5) (va : BitVec 48) (hv : HostView) (s : State) : Out :=
  onTile s tile.toNat (s.hatWalk tile.toNat (va.toNat / 4096) hv).pump

def execHatTimeout (tile : BitVec 5) (place : BitVec 8) (s : State) : Out :=
  onTile s tile.toNat (s.faultTimeout tile.toNat place.toNat).pump

def execUcieModuleUp (tile : BitVec 5) (module : BitVec 2) (degraded : Bool) (s : State) : Out :=
  onTile s tile.toNat (s.whenever (decide (module.toNat < s.part.modules) && s.running)
    (s.moduleUp tile.toNat module.toNat degraded).pump)

def execDmaDescriptorEnd (tile : BitVec 5) (channel : BitVec 4) (how : DmaEnd) (s : State) : Out :=
  onTile s tile.toNat (s.dmaEnds tile.toNat channel.toNat how)

end Sys2Proof.Machine
end

