-- ==== Sys2Proof/Machine/Crypto.lean ====
section
/-! DEFINITION. The cryptographic functions the spec names and takes from standards: SHA-384 (FIPS 180-4), HMAC-SHA-384
(FIPS 198-1) and the verification of ECDSA over P-384 (FIPS 186-5) (14 R394, 15 R412; log entry 50). -/

namespace Sys2Proof.Machine

/-! ### SHA-384 -/

/-- Whether a number has no divisor from 2 up to it. -/
def isPrime (n : Nat) : Bool := decide (2 ≤ n) && (List.range (n - 2)).all (fun d => n % (d + 2) ≠ 0)

/-- The first 80 primes. -/
def primes80 : List Nat := (List.range 410).filter isPrime

/-- The largest r below 2^bits with r^e ≤ n, bit by bit. -/
def rootBits (e n : Nat) : Nat → Nat → Nat
  | 0, r => r
  | b + 1, r => rootBits e n b (if (r + 2 ^ b) ^ e ≤ n then r + 2 ^ b else r)

/-- Round constants: 64 bits of the fractional parts of the cube roots of the first 80 primes. -/
def shaK : List (BitVec 64) := primes80.map (fun p => BitVec.ofNat 64 (rootBits 3 (p * 2 ^ 192) 68 0))

/-- Initial value of SHA-384: the square roots of the ninth to sixteenth primes. -/
def sha384Init : List (BitVec 64) := ((primes80.drop 8).take 8).map (fun p => BitVec.ofNat 64 (rootBits 2 (p * 2 ^ 128) 68 0))

/-- Big-endian value of bytes. -/
def ofBe (bs : List Byte) : Nat := bs.foldl (fun n b => n * 256 + b.toNat) 0

/-- A number as `n` bytes, most significant first. -/
def beBytes (n v : Nat) : List Byte := (leBytes n v).reverse

def shaS0 (x : BitVec 64) : BitVec 64 := x.rotateRight 28 ^^^ x.rotateRight 34 ^^^ x.rotateRight 39
def shaS1 (x : BitVec 64) : BitVec 64 := x.rotateRight 14 ^^^ x.rotateRight 18 ^^^ x.rotateRight 41
def shaG0 (x : BitVec 64) : BitVec 64 := x.rotateRight 1 ^^^ x.rotateRight 8 ^^^ (x >>> 7)
def shaG1 (x : BitVec 64) : BitVec 64 := x.rotateRight 19 ^^^ x.rotateRight 61 ^^^ (x >>> 6)

/-- The message schedule, newest word first, from the 16 words of a block. -/
def shaSchedule : Nat → List (BitVec 64) → List (BitVec 64)
  | 0, w => w
  | n + 1, w =>
    shaSchedule n ((shaG1 (w.getD 1 0#64) + w.getD 6 0#64 + shaG0 (w.getD 14 0#64) + w.getD 15 0#64) :: w)

/-- One round on the eight working words. -/
def shaRound (h : List (BitVec 64)) (kw : BitVec 64 × BitVec 64) : List (BitVec 64) :=
  match h with
  | [a, b, c, d, e, f, g, x] =>
    let t1 := x + shaS1 e + ((e &&& f) ^^^ (~~~e &&& g)) + kw.1 + kw.2
    let t2 := shaS0 a + ((a &&& b) ^^^ (a &&& c) ^^^ (b &&& c))
    [t1 + t2, a, b, c, d + t1, e, f, g]
  | _ => h

/-- One block of 128 bytes. -/
def shaBlock (h : List (BitVec 64)) (block : List Byte) : List (BitVec 64) :=
  let w := (List.range 16).map (fun i => BitVec.ofNat 64 (ofBe ((block.drop (8 * i)).take 8)))
  let ws := (shaSchedule 64 w.reverse).reverse
  ((h.zip ((shaK.zip ws).foldl shaRound h)).map (fun p => p.1 + p.2))

/-- Blocks of a padded message. -/
def shaBlocks : Nat → List (BitVec 64) → List Byte → List (BitVec 64)
  | 0, h, _ => h
  | n + 1, h, m => shaBlocks n (shaBlock h (m.take 128)) (m.drop 128)

/-- SHA-384: 48 bytes. -/
def sha384 (m : List Byte) : List Byte :=
  let padded := m ++ [0x80#8] ++ zeroBytes ((128 - (m.length + 17) % 128) % 128) ++ beBytes 16 (8 * m.length)
  ((shaBlocks (padded.length / 128) sha384Init padded).take 6).flatMap (fun w => beBytes 8 w.toNat)

/-- HMAC-SHA-384. -/
def hmac384 (key msg : List Byte) : List Byte :=
  let k := padTo 128 (if 128 < key.length then sha384 key else key)
  sha384 (k.map (· ^^^ 0x5C#8) ++ sha384 (k.map (· ^^^ 0x36#8) ++ msg))

/-! ### P-384 -/

def p384p : Nat := 2 ^ 384 - 2 ^ 128 - 2 ^ 96 + 2 ^ 32 - 1
def p384b : Nat := 0xb3312fa7e23ee7e4988e056be3f82d19181d9c6efe8141120314088f5013875ac656398d8a2ed19d2a85c8edd3ec2aef
def p384n : Nat := 0xffffffffffffffffffffffffffffffffffffffffffffffffc7634d81f4372ddf581a0db248b0a77aecec196accc52973
def p384g : Nat × Nat :=
  (0xaa87ca22be8b05378eb1c71ef320ad746e1d3b628ba79b9859f741e082542a385502f25dbf55296c3a545e3872760ab7,
   0x3617de4a96262c6f5d9e98bf9292dc29f8f41dbd289a147ce9da3113b5f0b8c00a60b1ce1d7e819d7a431d7c90ea0e5f)

/-- a^e mod m, from the low bits of e. -/
def powMod (m : Nat) : Nat → Nat → Nat → Nat → Nat
  | 0, _, _, acc => acc
  | n + 1, a, e, acc => powMod m n (a * a % m) (e / 2) (if e % 2 = 1 then acc * a % m else acc)

/-- Inverse modulo a prime of at most 384 bits. -/
def invMod (m a : Nat) : Nat := powMod m 384 (a % m) (m - 2) 1

/-- A point of P-384; none is the point at infinity. -/
abbrev Point := Option (Nat × Nat)

/-- Difference modulo p. -/
def subP (a b : Nat) : Nat := (a + (p384p - b % p384p)) % p384p

/-- The chord or tangent through two points with slope num / den. -/
def chord (x1 y1 x2 num den : Nat) : Point :=
  let l := num * invMod p384p den % p384p
  let x := subP (subP (l * l % p384p) x1) x2
  some (x, subP (l * subP x1 x % p384p) y1)

/-- Addition of points. -/
def addPoint (a b : Point) : Point :=
  match a, b with
  | none, q => q
  | q, none => q
  | some (x1, y1), some (x2, y2) =>
    if x1 = x2 then
      if (y1 + y2) % p384p = 0 then none else chord x1 y1 x2 (3 * subP (x1 * x1 % p384p) 1) (2 * y1)
    else chord x1 y1 x2 (subP y2 y1) (subP x2 x1)

/-- Scalar multiplication, from the low bits. -/
def mulPoint : Nat → Nat → Point → Point → Point
  | 0, _, _, acc => acc
  | n + 1, k, q, acc => mulPoint n (k / 2) (addPoint q q) (if k % 2 = 1 then addPoint acc q else acc)

/-- Whether coordinates name a point of the curve. -/
def onCurve (x y : Nat) : Bool :=
  decide (x < p384p) && decide (y < p384p) && decide (y * y % p384p = (subP (x * x * x % p384p) (3 * x) + p384b) % p384p)

/-- ECDSA verification of a message under a public key (x, y), signature (r, s): each 48 bytes big-endian. -/
def ecdsaOk (key sig msg : List Byte) : Bool :=
  let x := ofBe (key.take 48)
  let y := ofBe (key.drop 48)
  let r := ofBe (sig.take 48)
  let s := ofBe (sig.drop 48)
  if !(onCurve x y) || r = 0 || s = 0 || decide (p384n ≤ r) || decide (p384n ≤ s) then false else
  let e := ofBe (sha384 msg)
  let w := invMod p384n s
  match addPoint (mulPoint 384 (e * w % p384n) (some p384g) none) (mulPoint 384 (r * w % p384n) (some (x, y)) none) with
  | none => false
  | some q => decide (q.1 % p384n = r)

end Sys2Proof.Machine
end

