-- ==== Sys2Proof/Machine/Events.lean ====
section
/-! DEFINITION. What the memories of cores and control planes meet while work runs: port conflicts, corrections, lost cache
lines, feeder delays; waits, collisions and errors of the control SRAM banks (03 R70 to R77, R82, R92 to R96, 04 R111 to
R113, 16 R438, R456, R461). -/

namespace Sys2Proof.Machine

/-! ### Cores under test (19 R493, R495) -/

/-- Fields of a BIST command. -/
def cmdTarget (v : Nat) : Nat := bits v 2 0
def cmdTile (v : Nat) : Nat := bits v 7 3
def cmdIndex (v : Nat) : Nat := bits v 19 8
def cmdPhys (v : Nat) : Bool := bit v 20

/-- Keys of the logical cores that a run takes out of service: the core of targets 0 and 1, a physical one by the logical
address bound to its position (01 R25), every core for the whole tile (R495, log entry 81). -/
def State.underTest (s : State) (v : Nat) : List Nat :=
  let t := cmdTile v * 4096
  let i := cmdIndex v
  match cmdTarget v with
  | 0 | 1 =>
    if cmdPhys v then (((List.range 64).map (fun f => t + i / 66 * 64 + f)).filter (fun k => s.position k = i % 66)) else [t + i]
  | 5 => (List.range s.part.cores).map (t + ·)
  | _ => []

/-- Whether a BIST run owns a core. -/
def State.tested (s : State) (core : Nat) : Bool :=
  let v := tget 0 s.test.running (core / 4096)
  decide (v ≠ 0) && (s.underTest v).contains core

/-! ### Scratchpad ports (03 R70, R73 to R77) -/

/-- Reports one conflict event of a port (R76): counted for its group; a BIST run records a fail of the core; logged in start-up
and in the core's recovery window, with the quarter and the port (log entry 221). -/
def State.conflict (s : State) (c : CoreId) (a : PortAccess) : State :=
  let t := c.tile.toNat
  let s := s.bumpTile t (0x100 + 4 * a.group.toNat) 1
  let s := if s.tested c.key then { s with cores := { s.cores with conflicts := insertKey c.key s.cores.conflicts } } else s
  if [Mode.boot, .load, .verify, .init, .pair].contains s.cfg.mode || s.cores.recovering.contains c.key then
    s.report { severity := sevNote, cause := 0x11, unit := 0x01, tile := t, index := c.index
               addr := 65536 * a.quarter.toNat + a.port }
  else s

/-- Cycles in a row that a port of a core has lost. -/
def State.lossesOf (s : State) (core : Nat) (a : PortAccess) : Nat := tget 0 s.cores.losses (core * 16 + a.port)

/-- The counts of lost cycles after a cycle: one more for each port that lost, 0 for every other port of the core. -/
def lossesAfter (t : Tab Nat) (core : Nat) (lost : List PortAccess) : Tab Nat :=
  (List.range 16).foldl (fun t p =>
    let k := core * 16 + p
    tset 0 t k (if lost.any (fun a => a.port = p) then tget 0 t k + 1 else 0)) t

/-- One CCLK cycle of a core: each access that loses a bank is a conflict event. -/
def State.portCycle (s : State) (c : CoreId) (accs : List PortAccess) : State :=
  let lost := accs.filter (fun a => a.loses (s.lossesOf c.key) accs)
  let s := lost.foldl (fun s a => s.conflict c a) s
  { s with cores := { s.cores with losses := lossesAfter s.cores.losses c.key lost } }

/-! ### Events of a core's memories -/

/-- The core that an event names. -/
def memCore : MemEvent → CoreId
  | .cycle c _ | .delays c _ | .corrected c _ | .lineLost c _ => c

/-- One event. -/
def State.memEvent (s : State) (e : MemEvent) : State :=
  if !s.hasCore (memCore e) then s else
  match e with
  | .cycle c accs => s.portCycle c accs
  | .delays c ds =>
    let d := feederDelays (ds.map (fun x => x.toNat))
    (s.bumpTile c.tile.toNat 0x110 d.1).bumpTile c.tile.toNat 0x114 d.2
  | .corrected c addr =>
    (s.bumpTile c.tile.toNat 0x1AC 1).report
      { severity := sevNote, cause := 0x01, unit := 0x01, tile := c.tile.toNat, index := c.index, addr := addr.toNat }
  | .lineLost c addr => s.lineLost c addr.toNat

def State.memEvents (s : State) (l : List MemEvent) : State := l.foldl State.memEvent s

/-- Whether an event holds an access that a core must not make: misaligned, or reaching a hole (R70). -/
def memBad : MemEvent → Bool
  | .cycle _ accs => !accs.all PortAccess.ok
  | _ => false

/-- The events of a work item's run. An access that R70 forbids ends the item with INTERNAL and a JOB entry. -/
def State.itemEvents (s : State) (id k : Nat) (l : List MemEvent) : State :=
  let s := s.memEvents l
  match l.find? (fun e => memBad e && s.hasCore (memCore e)) with
  | some (.cycle c accs) =>
    (match accs.find? (fun a => !a.ok) with
     | some a => s.badAccess id k c a.quarter.toNat a.off.toNat
     | none => s)
  | _ => s

/-! ### The live copy of the anchor's tables (01 R24, 16 R438, R461) -/

/-- What the live copy holds: the Context Table, the prefix hash cache, and the intake descriptor store: the descriptors of the
jobs whose records are not written, with their tracker entries. -/
structure GlobalCopy where
  rows : Tab CtxRow
  hashCache : Tab (Option Nat)
  descriptors : List (Nat × List Nat × List (Nat × Nat))
  deriving DecidableEq, Repr

/-- Whether the anchor's tables have a live copy: on the spare anchor, or in the control area of AE1's tile 0. -/
def State.hasCopy (s : State) : Bool := s.errs.spareValid || s.part = .ae1

/-- The live copy. It is updated before each change is acknowledged, so between two commands it equals the anchor's own tables
(log entry 223). -/
def State.globalCopy (s : State) : Option GlobalCopy :=
  if s.hasCopy then some
    { rows := s.store.rows, hashCache := s.store.hashCache
      descriptors := s.sched.jobs.map (fun j => (j.id, j.desc, j.items.zipIdx.map (fun p => (p.1.tile, p.2)))) }
  else none

/-- A Context Table row is read from the copy and rewritten. -/
def State.restoreRow (s : State) (g : GlobalCopy) (r : Nat) : State :=
  { s with store := { s.store with rows := tset {} s.store.rows r (tget {} g.rows r) } }

/-! ### Events of the control SRAM banks (03 R93 to R96, 16 R456) -/

/-- Offset of a bank's wait counter for a port (R94, 20 R508). -/
def waitReg (t b port : Nat) : Nat :=
  match b with
  | 0 => 0x4010 + 4 * port
  | 4 => 0xA030 + 4 * port
  | _ => win t (0x010 + 8 * (b - 1) + 4 * port)

/-- The items of a tile, in acceptance order: entry n of its Job Tracker slice is the n-th of them (log entry 224). -/
def State.trackerEntry (s : State) (t n : Nat) : Option (Nat × Nat) :=
  (s.itemsWhere (fun _ i => i.tile = t && !i.finished))[n]?

/-- Removes entry n of the entries of a tile. -/
def dropNth {α : Type} (t : Nat) : Nat → List (Nat × α) → List (Nat × α)
  | _, [] => []
  | n, p :: rest => if p.1 = t then (match n with | 0 => rest | n + 1 => p :: dropNth t n rest) else p :: dropNth t n rest

/-- An uncorrectable word of a bank (R456). -/
def State.sramLost (s : State) (t b word : Nat) : State :=
  let e : LogEntry := { severity := sevNote, cause := 0x02, unit := 0x02, tile := t, index := word / 256 * 8 + b, addr := word }
  let s := s.bumpTile t 0x1B0 1
  match b with
  | 0 => (match s.globalCopy with
    | some g => (s.restoreRow g (word / 64)).report e
    | none => s.block e 0x0B)
  | 1 => (match s.trackerEntry t (word / 16) with
    | some o => (s.report (s.ofItems [o] { e with severity := sevJob })).retryItem o.1 o.2 t
    | none => s.report { e with severity := sevJob })
  | 2 => ({ s with store := { s.store with lab := dropNth t (word / 4) s.store.lab } }).report e
  | 3 => ({ s with host := { s.host with look := dropNth t (word / 4) s.host.look } }).report e
  | _ => ({ s with store := { s.store with hashCache := tset none s.store.hashCache (word / 8) none } }).report e

/-- Whether a bank serves accesses: the tile has it, and it is not at retention voltage (R97). -/
def State.bankServes (s : State) (t b : Nat) : Bool := s.hasBank t b && !s.cores.retained.contains (t * 8 + b)

/-- One event of a tile's control SRAMs. -/
def State.sramEvent (s : State) (t : Nat) (e : SramEvent) : State :=
  match e with
  | .waited b port n =>
    if s.bankServes t b.toNat then s.bump (waitReg t b.toNat (b2n port)) n.toNat else s
  | .collided b n =>
    if s.bankServes t b.toNat && decide (32 < n.toNat) then s.bankOut t b.toNat 0x0F else s
  | .corrected b w =>
    if s.bankServes t b.toNat then (s.bumpTile t 0x1AC 1).report
      { severity := sevNote, cause := 0x01, unit := 0x02, tile := t, index := w.toNat / 256 * 8 + b.toNat, addr := w.toNat }
    else s
  | .uncorrectable b w => if s.bankServes t b.toNat then s.sramLost t b.toNat w.toNat else s
  | .descriptorStore w lost =>
    if t ≠ s.errs.anchor then s else
    let e : LogEntry := { severity := sevNote, cause := if lost then 0x02 else 0x01, unit := 0x09, tile := t, addr := w.toNat }
    let s := s.bumpTile t (if lost then 0x1B0 else 0x1AC) 1
    if lost && !s.hasCopy then s.block e 0x0B else s.report e

def State.sramEvents (s : State) (t : Nat) (l : List SramEvent) : State := l.foldl (fun s e => s.sramEvent t e) s

/-! ### The commands -/

/-- WORK_ITEM_DISPATCH, with what the control SRAM banks of the tile have met since the last. -/
def execWorkItemDispatch (tile : TileTurn) (s : State) : Out :=
  onTile s tile.tile.toNat ((s.sramEvents tile.tile.toNat tile.srams).dispatch tile.tile.toNat)

/-- WORK_ITEM_COMPLETE, with what the memories of its cores have met. A step that waits on a window starts only after the window's
WFENCE (03 R84), so the item does not complete before. -/
def State.finishItem (s : State) (id k : Nat) (met : List MemEvent) : State :=
  let s := s.itemEvents id k met
  if s.windowsFenced id k then s.completeItem id k else s

def execWorkItemComplete (job : Nat) (item : ItemEnd) (s : State) : Out :=
  .next (s.whenever s.engineOn (s.finishItem job item.index item.met))

end Sys2Proof.Machine
end

