-- ==== Sys2Proof/Machine/StartUp.lean ====
section
/-! DEFINITION. Power, reset and start-up: OFF and BOOT, the repair map, reading and checking the image, INIT, PAIR, the
tamper wipe, and CFG_COMMIT (14 R383 to R401, 03 R100 to R103, 19 R497). -/

namespace Sys2Proof.Machine

/-! ### OFF and BOOT (14 R384, R386) -/

/-- The part with every volatile state lost: its configuration, fuses, sealed stores and repair maps are kept, and the
commands that wait. A burn under way leaves its entry with a failing code (19 R498), kept as 2^32 + the entry. -/
def State.fresh (s : State) : State :=
  let maps := match s.test.repairBusy with
    | some b => tset [] s.test.repair b.1 (tget [] s.test.repair b.1 ++ [2 ^ 32 + b.2])
    | none => s.test.repair
  { State.resetOf s.part with
    stepping := s.stepping, seals := s.seals, pending := s.pending
    cfg := { State.reset.cfg with fuses := s.cfg.fuses }
    errs := s.part.errors
    test := { repair := maps, asked := s.test.asked } }

/-- OFF, with the pins as they stand. -/
def State.off (s : State) (resetN pwrOk : Bool) : State :=
  { s.fresh with cfg := { s.fresh.cfg with mode := .off, resetN := resetN, pwrOk := pwrOk } }

/-- BOOT begins; TIM_NOW counts from 0 (17 R469). -/
def State.boot (s : State) : State := if s.cfg.mode = .off then s.fresh else s

/-- PWR_OK falls: DYING goes out three times (15 R428), then the part is in OFF. -/
def State.powerFails (s : State) : State :=
  let tx := (((s.tell .dying).tell .dying).tell .dying).twin.tx
  let o := s.off s.cfg.resetN false
  if s.cfg.mode = .off then { s with cfg := { s.cfg with pwrOk := false } } else { o with twin := { o.twin with tx := tx } }

/-! ### The sealed store (03 R100 to R103) -/

/-- Wipes the key and hash regions of every store; each write is read back, and the flag is cleared. -/
def Seal.wipe (x : Seal) : Seal := { x with keys := [], hashes := [], wipePending := false, wipeCount := min 255 (x.wipeCount + 1), good := true }

/-- The store of a tile. -/
def State.sealOf (s : State) (t : Nat) : Seal := s.seals.getD t {}

/-- The copy that is read: that of the lowest-numbered tile that reads back clean (16 R438). -/
def State.cleanSeal (s : State) : Seal := (s.seals.find? Seal.good).getD (s.sealOf 0)

/-- A completed wipe of every store: WIPED is set and WIPE_COUNT counts it (R104). -/
def State.wipeSeals (s : State) : State :=
  { s with seals := s.seals.map Seal.wipe, wiped := true, wipeCount := s.cleanSeal.wipe.wipeCount }

/-- Notes which stores do not read back with good ECC. -/
def State.checkSeals (s : State) (bad : List (BitVec 5)) : State :=
  { s with seals := s.seals.zipIdx.map (fun p => { p.1 with good := !bad.any (fun t => t.toNat = p.2) }) }

/-- The stores are read: a wipe that was interrupted is resumed, then the fields are loaded (R103, R104, 16 R438). -/
def State.loadSeal (s : State) (bad : List (BitVec 5)) : State :=
  let s := s.checkSeals bad
  let s := { s with wipeCount := s.cleanSeal.wipeCount, tamperSeen := s.cleanSeal.tamperSeen }
  let s := if s.seals.any (fun x => x.wipePending) then s.wipeSeals else s
  { s with lcState := s.cleanSeal.lc }

/-- TAMPER_N: wipe, TAMPER_SEEN, a BLOCK entry, HALTED (R102). -/
def State.tamper (s : State) : State :=
  if s.cfg.mode = .off then s else
  let s := s.wipeSeals
  let seen (x : Seal) : Seal := { x with tamperSeen := true }
  let s : State := { s with seals := s.seals.map seen, tamperSeen := true }
  s.block { severity := sevBlock, cause := 0x50, unit := 0x0C } 0x0A

/-! ### The repair map (19 R496, R497) -/

/-- An entry is skipped: its code fails, its KIND is reserved, or its spare is taken. -/
def State.skipEntry (s : State) (t n : Nat) : State :=
  s.report { severity := sevNote, cause := 0x32, unit := 0x0B, tile := t, addr := n }

/-- A tile found unrepairable in BOOT (R457, R497): the anchor, or the spare anchor without a healthy tile to take its
role, halts the part; any other tile is quarantined before INIT. -/
def State.bootTileOut (s : State) (t : Nat) : State :=
  if t = s.errs.anchor then s.halt 0x02
  else
    let s := s.quarantine t
    if s.errs.spareValid ∨ s.errs.spareBuilding then s else s.halt 0x02

/-- Takes a spare row of a bank, when one is left. -/
def State.takeRow (s : State) (t ch layer bank : Nat) : Option State :=
  let k := rowBankKey t ch layer bank
  if tget 0 s.errs.rowsUsed k < spareRows then
    some { s with errs := { s.errs with rowsUsed := tset 0 s.errs.rowsUsed k (tget 0 s.errs.rowsUsed k + 1) } }
  else none

/-- Applies one valid entry of a tile's repair map. -/
def State.applyRepair (s : State) (t n v : Nat) : State :=
  if 2 ^ 32 ≤ v then s.skipEntry t n
  else if !bit v 31 then s
  else match bits v 3 0 with
  | 1 =>
    let k := t * 64 + bits v 15 10
    let used := tget 0 s.errs.sparesUsed k
    if bit used (bits v 16 16) then s.skipEntry t n else s.bindSpare k (bits v 15 10 * 64 + bits v 9 4) (bits v 16 16)
  | 2 => (s.takeRow t (bits v 9 4) (bits v 11 10) (bits v 15 12)).getD (s.skipEntry t n)
  | 3 =>
    let k := t * 8 + bits v 6 4
    let used := tget 0 s.errs.sramSpares k
    if bit used (bits v 26 24) then s.skipEntry t n
    else { s with errs := { s.errs with sramSpares := tset 0 s.errs.sramSpares k (withBit used (bits v 26 24)) } }
  | 4 => s
  | 5 => if t = 0 then { s with twin := { s.twin with badLanes := insertKey (bits v 8 4) s.twin.badLanes } } else s
  | 6 => s.bootTileOut t
  | _ => s.skipEntry t n

/-- Each tile applies its entries in map order. -/
def State.applyMaps (s : State) : State :=
  (List.range s.part.tiles).foldl (fun s t =>
    (tget [] s.test.repair t).zipIdx.foldl (fun s p => s.applyRepair t p.2 p.1) s) s

/-- Boot BIST binds spares for what fails on one tile. A core without a spare is redirected for good (16 R451). -/
def State.bootBist (s : State) (f : BistFinding) : State :=
  let t := f.tile.toNat
  if !s.hasTile t then s else
  let core (s : State) (c : BitVec 12) : State :=
    let k := t * 64 + c.toNat / 64
    let used := tget 0 s.errs.sparesUsed k
    match lowestClear sparesPerRank used with
    | some i => s.bindSpare k c.toNat i
    | none => { s with errs := { s.errs with
        coresOut := insertKey (4096 * t + c.toNat) s.errs.coresOut
        coresRetired := insertKey (4096 * t + c.toNat) s.errs.coresRetired } }
  let row (s : State) (r : BitVec 6 × BitVec 2 × BitVec 4) : State := (s.takeRow t r.1.toNat r.2.1.toNat r.2.2.toNat).getD s
  let s := f.rows.foldl row (f.cores.foldl core s)
  if f.unrepairable then s.bootTileOut t else s

/-- BOOT ends: fuses, repair maps, the sealed store, boot BIST where it is fused on (14 R386, 19 R497). -/
def State.bootDone (s : State) (r : BootReport) : State :=
  if s.cfg.mode ≠ .boot then s
  else if r.fuseBad then s.halt 0x01
  else
    let s := (s.applyMaps.loadSeal r.sealBad)
    let s := if s.cfg.fuses.bootBist then r.bist.foldl State.bootBist s else s
    if s.cfg.mode = .boot then { s with cfg := { s.cfg with mode := .load, initMet := r.met } } else s

/-- A PLL that has not locked 1 ms after the rise of RESET_N (14 R387). -/
def State.pllTimeout (s : State) (t : Nat) (p : Pll) : State :=
  if s.cfg.mode ≠ .boot then s
  else if t = 0 ∨ p = .mclk then s.halt 0x0D
  else (s.report { severity := sevTile, cause := 0x66, unit := 0x0D, tile := t }).quarantine t

/-! ### Reading the image (14 R388 to R391) -/

/-- A little-endian field of the image header (R390). -/
def hdrField (img : List Byte) (off n : Nat) : Nat := fieldAt (img.take 256) off n

/-- LENGTH. -/
def imageLength (img : List Byte) : Nat := hdrField img 8 4

/-- The header checks that follow the first burst. -/
def imageHeaderOk (img : List Byte) : Bool :=
  hdrField img 0 4 = 0x49485246 && hdrField img 4 2 = 1 && hdrField img 6 2 = 0x100 && imageLength img % 256 = 0 &&
  decide (imageLength img ≤ 67108864)

/-- A read burst is staged; the last byte of the image ends LOAD. -/
def State.nvmBurst (s : State) (b : List Byte) : State :=
  if s.cfg.mode ≠ .load then s else
  let img := s.cfg.staged ++ b
  if s.cfg.staged = [] ∧ imageHeaderOk img = false then s.halt 0x04
  else if imageLength img ≤ img.length then
    { s with cfg := { s.cfg with staged := img.take (imageLength img), repeats := 0, mode := .verify } }
  else { s with cfg := { s.cfg with staged := img, repeats := 0 } }

/-- A burst without NVM_DQS is repeated; after 3 repeats the part halts (R389). -/
def State.nvmTimeout (s : State) : State :=
  if s.cfg.mode ≠ .load then s
  else if s.cfg.repeats < 3 then { s with cfg := { s.cfg with repeats := s.cfg.repeats + 1 } }
  else s.halt 0x03

/-- The header's fields. -/
def imageHdr (img : List Byte) : ImageHdr :=
  { length := imageLength img, np := hdrField img 14 1, pairing := hdrField img 15 1, version := hdrField img 16 4
    linkLevel := hdrField img 20 1, pageFmtLevel := hdrField img 21 1, partnerPct := hdrField img 22 1
    flags := hdrField img 23 1, salt := hdrField img 24 8 }

/-- A section (R391) and its index. -/
structure Section where
  idx : Nat
  typ : Nat
  off : Nat
  len : Nat
  target : Nat
  mask : Nat
  rest : List Nat
  deriving DecidableEq, Repr

/-- The sections of an image, in table order. -/
def sections (img : List Byte) : List Section :=
  (List.range (hdrField img 36 2)).map (fun i =>
    let w (k : Nat) : Nat := fieldAt img (hdrField img 32 4 + 32 * i + 4 * k) 4
    { idx := i, typ := w 0 % 256, off := w 1, len := w 2, target := w 3, mask := w 4, rest := [w 5, w 6, w 7] })

/-- The bytes of a section. -/
def Section.bytes (x : Section) (img : List Byte) : List Byte := bytesAt img x.off x.len

def sectionsOf (img : List Byte) (typ : Nat) : List Section := (sections img).filter (fun x => x.typ = typ)

/-- REG records: (section, offset, value), in order. -/
def regRecords (img : List Byte) : List (Nat × Nat × Nat) :=
  (sectionsOf img 1).flatMap (fun x =>
    let b := x.bytes img
    (List.range (x.len / 8)).map (fun i => (x.idx, fieldAt b (8 * i) 4, fieldAt b (8 * i + 4) 4)))

/-- Nests of the library (R391, 12 R332), by offset in quarter 2. -/
def imageNests (img : List Byte) : List Nest :=
  (sectionsOf img 2).flatMap (fun x =>
    let b := x.bytes img
    (List.range (x.len / 192)).map (fun i =>
      { off := x.target % 65536 + 192 * i, words := (List.range 48).map (fun k => fieldAt b (192 * i + 4 * k) 4) }))

/-- Rows of the selection table (log entry 30). -/
def imageSelects (img : List Byte) : List Select :=
  (sectionsOf img 3).flatMap (fun x => (Config.selectRows (x.bytes img)).map (fun l =>
    { kind := l.getD 0 0, stage := l.getD 1 0, fmtA := l.getD 2 0, fmtB := l.getD 3 0, hd := l.getD 4 0
      span := l.getD 5 0, shape := l.getD 6 0, nest := l.getD 7 0 }))

/-- Table directory entries (R392): the section and the four words. -/
def tableDir (img : List Byte) : List (Nat × List Nat) :=
  (sectionsOf img 4).flatMap (fun x =>
    let b := x.bytes img
    (List.range (x.len / 16)).map (fun i => (x.idx, (List.range 4).map (fun k => fieldAt b (16 * i + 4 * k) 4))))

/-- The TABLE_DATA section of a table. -/
def tableData (img : List Byte) (kind num : Nat) : Option Section :=
  (sectionsOf img 5).find? (fun x => bits x.target 1 0 = kind && bits x.target 15 8 = num)

/-- A declared table at INIT: generation 0 in copy 0, both copies zero where no section gives contents. -/
def tableOf (img : List Byte) (w : List Nat) : TableDef :=
  let kind := bits (w.getD 0 0) 1 0
  let num := bits (w.getD 0 0) 15 8
  let size := bits (w.getD 0 0) 31 16
  { kind := kind, num := num, size := size, bands := w.getD 1 0, base0 := bits (w.getD 2 0) 17 0, base1 := bits (w.getD 3 0) 17 0
    copy0 := match tableData img kind num with | some x => padTo size (x.bytes img) | none => zeroBytes size
    copy1 := zeroBytes size }

def imageTables (img : List Byte) : List TableDef := (tableDir img).map (fun p => tableOf img p.2)

/-! ### Authentication (14 R393, R394) -/

/-- The signature block. -/
def sigBlock (img : List Byte) : List Byte := (img.drop (img.length - 256)).take 256

/-- The HALT_CAUSE of the first step that fails, none where the image is authentic. -/
def State.authFails (s : State) (img : List Byte) : Option Nat :=
  let key := (sigBlock img).take 96
  let hash := sha384 key
  let sealed := (s.lcState = 2 || s.lcState = 3) && s.cleanSeal.hashes.contains hash
  if s.lcState = 4 then some 0x08
  else if !(decide (hash = s.cfg.fuses.keyHash) || sealed) then some 0x05
  else if !ecdsaOk key (((sigBlock img).drop 96).take 96) (img.take (img.length - 256)) then some 0x06
  else if hdrField img 19 1 < s.cfg.fuses.minMajor then some 0x07
  else none

/-! ### Consistency (14 R395) -/

/-- The first section that breaks a condition. -/
def firstBad (l : List Section) (p : Section → Bool) : Option Nat := (l.find? (fun x => !p x)).map (fun x => x.idx)

/-- Checks 1 and 2. -/
def State.headCheck (s : State) (img : List Byte) : Option Nat :=
  let h := imageHdr img
  if hdrField img 12 1 ≠ s.part.code ∨ hdrField img 13 1 ≠ b2n s.part.chunked then some 1
  else if (h.np ≠ 1 ∧ h.np ≠ 2) ∨ 2 < h.pairing ∨ (h.linkLevel ≠ 1 ∧ h.linkLevel ≠ 2) ∨ h.pageFmtLevel ≠ 1 ∨
      (s.part = .aeS ∧ h.pairing ≠ 0) ∨ (h.pairing = 2 ∧ (h.partnerPct < 10 ∨ 90 < h.partnerPct)) then some 2
  else none

/-- Whether two byte ranges (first, bytes) share a byte. -/
def rangesMeet (a b : Nat × Nat) : Bool := decide (a.1 < b.1 + b.2) && decide (b.1 < a.1 + a.2) && decide (0 < a.2) && decide (0 < b.2)

/-- What a section of each type must satisfy on its own (R391). -/
def Section.formOk (x : Section) (img : List Byte) : Bool :=
  decide (1 ≤ x.typ) && decide (x.typ ≤ 6) && x.off % 64 = 0 && x.rest.all (· = 0) && (x.typ = 6 || x.mask = 0) &&
  decide (x.off + x.len ≤ img.length - 256) &&
  (match x.typ with
   | 1 => x.target = 0 && x.len % 8 = 0
   | 2 => x.target / 65536 = 2 && x.target % 64 = 0 && x.len % 192 = 0 && decide (x.target % 65536 + x.len ≤ 0xC000)
   | 3 => x.target = 0
   | 4 => x.target = 0 && x.len % 16 = 0
   | 5 => (match (imageTables img).find? (fun t => t.kind = bits x.target 1 0 && t.num = bits x.target 15 8) with
           | some t => decide (x.len ≤ t.size)
           | none => false)
   | _ => decide (x.target < 2 ^ 18))

/-- Check 3: every section keeps R391 and meets no other, nor the header, the section table or the signature block. -/
def sectionCheck (img : List Byte) : Option Nat :=
  let l := sections img
  let fixed := [(0, 256), (hdrField img 32 4, 32 * l.length), (img.length - 256, 256)]
  if l.length < 1 ∨ 1024 < l.length ∨ hdrField img 32 4 % 32 ≠ 0 then some 0
  else firstBad l (fun x => x.formOk img && fixed.all (fun r => !rangesMeet r (x.off, x.len)) &&
    l.all (fun y => decide (y.idx = x.idx) || !rangesMeet (y.off, y.len) (x.off, x.len)))

/-- Bits of a register that a REG record may set: those of fields that are neither RO, WO nor W1C. -/
def writableMask (fs : List Fld) : Nat :=
  fs.foldl (fun m f => match f.acc with | .ro | .wo | .w1c => m | _ => m ||| (2 ^ (f.hi + 1) - 2 ^ f.lo)) 0

/-- Whether an offset lies in the CFG, JOB, PGS, PFX, HAT or TWN block (20 R500). -/
def imageBlock (off : Nat) : Bool :=
  (decide (0x1000 ≤ off) && decide (off < 0x4000)) || (decide (0x8000 ≤ off) && decide (off < 0xD000)) ||
  (decide (0xE000 ≤ off) && decide (off < 0xF000))

/-- Whether a REG record keeps R391. -/
def State.recordOk (s : State) (off v : Nat) : Bool :=
  off % 4 = 0 && imageBlock off &&
  (match s.fields off with
   | some fs => !fs.any (fun f => f.reserved v) && v - (v &&& writableMask fs) = 0
   | none => v = 0)

/-! ### LIVE fields: writes, clamps, commits (14 R398, R400, R401) -/

/-- Registers that hold LIVE fields. -/
def liveRegs : List Nat :=
  [0x1040, 0x3004, 0x3100, 0x3104, 0x3108, 0x310C, 0x8000, 0x8004, 0x8008, 0x800C, 0x8010, 0x8020, 0x8024, 0x8028, 0x802C,
   0xC010, 0xE00C, 0x14000, 0x14004, 0x1400C]

/-- The clamps of 03 R79, 09 R260, 12 R348, 13 R381, 15 R437 and 17 R475. -/
def clamp (off v : Nat) : Nat :=
  match off with
  | 0x1040 => if bits v 1 0 < bits v 3 2 then bits v 1 0 * 5 else v
  | 0x3104 | 0x8010 => if bits v 31 16 < bits v 15 0 then bits v 15 0 * 0x10001 else v
  | 0xC010 => max 1 v
  | 0xE00C => max 200 v
  | 0x14000 => if bits v 3 0 < bits v 7 4 then bits v 3 0 * 0x11 else v
  | 0x1400C => if bits v 31 16 = 0 then 0x10000 + v else v
  | _ => v

/-- Logs one clamp. -/
def State.clampEntry (s : State) (off : Nat) : State :=
  s.report { severity := sevNote, cause := 0x31, unit := 0x0A, addr := off }

/-- A write, with the clamp of a value set into the live copy directly before READY (R400). -/
def State.writeReg (s : State) (fs : List Fld) (off v : Nat) : State :=
  let s := s.applyWrite fs off v
  if s.early && clamp off (s.reg off) ≠ s.reg off && liveRegs.contains off then
    let c := clamp off (s.reg off)
    let sh := fs.foldl (fun (x : Nat) f => match f.acc with | .rws => f.put x c | _ => x) (tget 0#32 s.cfg.shadow off).toNat
    ({ s with regs := tset 0#32 s.regs off (BitVec.ofNat 32 c)
              cfg := { s.cfg with shadow := tset 0#32 s.cfg.shadow off (BitVec.ofNat 32 sh) } }).clampEntry off
  else s

/-- Applies the REG records of an image in order (R396 step 1). -/
def State.applyRecords (s : State) (img : List Byte) : State :=
  (regRecords img).foldl (fun s r => match s.fields r.2.1 with | some fs => s.writeReg fs r.2.1 r.2.2 | none => s) s

/-- The registers as the image sets them. -/
def State.imaged (s : State) (img : List Byte) : State := { s with cfg := { s.cfg with mode := .init } }.applyRecords img

/-! ### The remaining checks of R395 -/

/-- Bands in use by CFG_BAND: (first, count). -/
def State.bandList (s : State) : List (Nat × Nat) :=
  (List.range 32).map (fun b => (bits (s.reg (0x1100 + 4 * b)) 4 0, bits (s.reg (0x1100 + 4 * b)) 10 5))

/-- Whether consecutive bands cover the tiles from a tile to the last (12 R328). -/
def bandsCover (tiles : Nat) : Nat → List (Nat × Nat) → Bool
  | at_, [] => at_ = tiles
  | at_, (f, n) :: rest => f = at_ && decide (0 < n) && bandsCover tiles (at_ + n) rest

/-- Check 5: the band map (12 R328). -/
def State.bandMapOk (s : State) : Bool :=
  let used := s.bandList.takeWhile (fun b => decide (0 < b.2))
  let nb := used.length
  let layers := (List.range 256).map s.layerBand
  let valid := layers.takeWhile Option.isSome
  (s.bandList.drop nb).all (fun b => b.2 = 0) && bandsCover s.part.tiles 0 used && decide (0 < nb) &&
  (layers.drop valid.length).all Option.isNone && valid.all (fun b => match b with | some x => decide (x < nb) | none => true) &&
  (List.range nb).all (fun b => valid.contains (some b))

/-- Check 6: reserve, cold slots, prefix nodes. -/
def State.sizesOk (s : State) : Bool :=
  decide (16 ≤ s.reg 0x8014) && decide (s.reg 0x8014 ≤ 4096) && decide (s.reg 0x8048 ≤ 8388608) && decide (s.reg 0xA000 ≤ s.part.nodes)

/-- Formats by chain code. -/
def chainFmts : List Fmt := [.e2m1, .e2m3, .e3m2, .e4m3, .e5m2, .fp16, .bf16, .fp32, .w64, .ue4m3, .ue8m0]

/-- Exponent of a format's least positive value (02 R53). -/
def leastPos (f : Fmt) : Int := if f = .ue8m0 then -127 else minQuantum f

/-- The largest finite value, in units of 2^-1100. -/
def largestScaled (f : Fmt) : Nat := let d := decodeMag f (maxCode f); d.1 * 2 ^ (d.2 + 1100).toNat

/-- Whether an intermediate format may reach a later one (02 R53). -/
def mayReach (f g : Fmt) : Bool :=
  decide ((fmtInfo g).mbits + 2 ≤ (fmtInfo f).mbits) && decide (largestScaled g ≤ largestScaled f) && decide (leastPos f + 2 ≤ leastPos g)

/-- Whether every step of a chain but its last keeps R53. -/
def chainOk : List Nat → Bool
  | [] => true
  | c :: rest =>
    (match chainFmts[c]? with
     | some f => rest.all (fun d => match chainFmts[d]? with | some g => mayReach f g | none => false)
     | none => false) && chainOk rest

/-- Check 8: nests that break 12 R342, then selection rows that name no nest. -/
def State.nestCheck (s : State) (img : List Byte) : Option Nat :=
  let nests := imageNests img
  let bad := firstBad (sectionsOf img 2) (fun x =>
    (imageNests img).all (fun n => !(decide (x.target % 65536 ≤ n.off) && decide (n.off < x.target % 65536 + x.len)) ||
      n.libraryOk (imageHdr img).np s.cacheMax))
  match bad with
  | some i => some i
  | none => if (imageSelects img).all (fun r => nests.any (fun n => n.off = r.nest)) then none
            else some (((sectionsOf img 3).head?.map (fun x => x.idx)).getD 0)

/-- The regions of a table: its two copies (local address, bytes). -/
def TableDef.regions (t : TableDef) : List (Nat × Nat) := [(t.base0, t.size), (t.base1, t.size)]

/-- Whether two tables share a core and a byte. -/
def TableDef.meets (a b : TableDef) : Bool :=
  decide (a.bands &&& b.bands ≠ 0) && a.regions.any (fun x => b.regions.any (fun y => rangesMeet x y))

/-- Check 9 for one directory entry: its form, its reach, the nests and the other tables. -/
def State.dirEntryOk (s : State) (img : List Byte) (ts : List TableDef) (n : Nat) (w : List Nat) : Bool :=
  let t := tableOf img w
  decide (t.kind < 3) && bits (w.getD 0 0) 7 2 = 0 && decide (t.num ≠ 0xFF) && t.size % 4 = 0 && decide (16 ≤ t.size) &&
  bits (w.getD 2 0) 31 18 = 0 && bits (w.getD 3 0) 31 18 = 0 && !rangesMeet (t.base0, t.size) (t.base1, t.size) &&
  t.regions.all (fun r => localOk s.cacheMax r.1 (r.1 + r.2 - 1) &&
    (imageNests img).all (fun x => !rangesMeet r (0x20000 + x.off, 192))) &&
  ts.zipIdx.all (fun p => decide (p.2 = n) || !((p.1.kind = t.kind && p.1.num = t.num) || p.1.meets t))

/-- Check 9 for one RESIDENT section: the reach of its region (03 R78), the nests, the tables and the other sections. -/
def State.residentOk (s : State) (img : List Byte) (ts : List TableDef) (x : Section) : Bool :=
  let r := (x.target, x.len)
  localOk s.cacheMax x.target (x.target + x.len - 1) && (imageNests img).all (fun n => !rangesMeet r (0x20000 + n.off, 192)) &&
  ts.all (fun t => decide (t.bands &&& x.mask = 0) || t.regions.all (fun y => !rangesMeet r y)) &&
  (sectionsOf img 6).all (fun y => decide (y.idx = x.idx) || decide (y.mask &&& x.mask = 0) || !rangesMeet r (y.target, y.len))

/-- Check 9. -/
def State.dirCheck (s : State) (img : List Byte) : Option Nat :=
  let ts := imageTables img
  match (tableDir img).zipIdx.find? (fun p => !s.dirEntryOk img ts p.2 p.1.2) with
  | some p => some p.1.1
  | none => firstBad (sectionsOf img 6) (s.residentOk img ts)

/-- Check 10: contents of TABLE_DATA sections. -/
def dataCheck (img : List Byte) : Option Nat :=
  firstBad (sectionsOf img 5) (fun x =>
    match (imageTables img).find? (fun t => t.kind = bits x.target 1 0 && t.num = bits x.target 15 8) with
    | some t => tableBytesOk t.kind t.copy0
    | none => true)

/-- The first check that fails and the index of the section concerned. -/
def State.consistency (s : State) (img : List Byte) : Option (Nat × Nat) :=
  match s.headCheck img with
  | some c => some (c, 0)
  | none =>
    match sectionCheck img with
    | some i => some (3, i)
    | none =>
      match (regRecords img).find? (fun r => !s.recordOk r.2.1 r.2.2) with
      | some r => some (4, r.1)
      | none =>
        let x := s.imaged img
        if !x.bandMapOk then some (5, 0)
        else if !x.sizesOk then some (6, 0)
        else if !(Config.chains img).all chainOk then some (7, 0)
        else match x.nestCheck img with
          | some i => some (8, i)
          | none => match x.dirCheck img with
            | some i => some (9, i)
            | none => (dataCheck img).map (fun i => (10, i))

/-- VERIFY (R394, R395). -/
def State.verify (s : State) : State :=
  if s.cfg.mode ≠ .verify then s else
  let img := s.cfg.staged
  match s.authFails img with
  | some c => s.halt c
  | none =>
    match s.consistency img with
    | some p => ({ s with cfg := { s.cfg with check := p.1, sectionIdx := min 255 p.2 } }).halt 0x09
    | none => { s with cfg := { s.cfg with mode := .init, verified := img, staged := [], image := imageHdr img } }

/-! ### INIT, PAIR (14 R396, 09 R253, 16 R457, R458) -/

/-- Step 5 for one tile: its reserve holds the lowest frames, its free list the others. -/
def State.fillReserve (s : State) (t : Nat) : State :=
  let n := s.reg 0x8014
  let fs := (List.range n).map (frameNum t)
  let s := fs.foldl (fun s f => s.setFrame f { st := .reserved, gen := 1 }) s
  { s with store := { s.store with reserve := tset [] s.store.reserve t fs, next := tset 0 s.store.next t n } }

/-- A tile quarantined before INIT meets the band map: its bands go on with their other tiles, or are out (R458). -/
def State.settleOut (s : State) (t : Nat) : State :=
  let others (b : Nat) := (s.bandTiles b).any (fun u => u ≠ t && !s.errs.tileOut.contains u)
  if s.bandRemap && (s.bandsOf t).all others then { s with
    errs := { s.errs with relocated := insertKey t s.errs.relocated }
    twin := { s.twin with deadTiles := s.twin.deadTiles.erase t } }
  else { s with errs := { s.errs with bandOut := (s.bandsOf t).foldl (fun l b => insertKey b l) s.errs.bandOut } }

/-- Ring registers take their reset values (R396). -/
def State.clearRings (s : State) : State :=
  { s with regs := s.regs.filter (fun p => decide (p.1 < 0x2000) || decide (0x3000 ≤ p.1)) }

/-- READY: the batching windows take MIN, BOOT_MS is taken (12 R346, R397). -/
def State.goReady (s : State) : State :=
  let s := (List.range s.part.tiles).foldl (fun s t =>
    { s with sched := { s.sched with window := tset 0 s.sched.window t (bits (s.reg 0x3104) 15 0) } }) s
  { s with cfg := { s.cfg with mode := .ready, bootMs := min 0xFFFF (s.now / 1000000) } }

/-- INIT. -/
def State.init (s : State) : State :=
  if s.cfg.mode ≠ .init then s else
  let img := s.cfg.verified
  let s := (s.applyRecords img).clearRings
  let s := { s with cfg := { s.cfg with
    nests := imageNests img, selects := imageSelects img, tables := imageTables img, verified := []
    resident := (sectionsOf img 6).map (fun (x : Section) => (x.target, x.mask, x.bytes img)) } }
  let s := { s with store := { s.store with mirrorGen := b2n (s.cfg.image.pairing = 2) } }
  let s := (List.range s.part.tiles).foldl State.fillReserve s
  let s := s.errs.tileOut.foldl State.settleOut s
  if s.cfg.image.pairing = 0 then s.goReady
  else { s with
    cfg := { s.cfg with mode := .pair }
    twin := { s.twin with st := .pending, mode := s.cfg.image.pairing, role := bit (s.reg 0xE000) 2 } }

/-- 80 ms in PAIR have passed: READY, pairing pending (R386). -/
def State.pairTimeout (s : State) : State := if s.cfg.mode = .pair then s.goReady else s

/-! ### Commits (14 R400, R401) -/

/-- A register as one commit captures it: LIVE fields from the shadow, the others as they are; clamped. -/
def State.captured (s : State) (off : Nat) : Nat :=
  match s.fields off with
  | some fs => fs.foldl (fun (x : Nat) f => match f.acc with | .rws => f.put x (tget 0#32 s.cfg.shadow off).toNat | _ => x) (s.reg off)
  | none => s.reg off

/-- The units that adopt commits: tiles in service and the global units (32). -/
def State.units (s : State) : List Nat := (List.range s.part.tiles).filter s.inService ++ [32]

/-- A tile that adopts a commit: W follows one that changes JOB_BATCH_WIN: MIN, or clamped into its bounds where the tile has an
open round (12 R346); BATCH_EN = 0b closes its open rounds (12 R345). -/
def State.windowFollows (s : State) (t : Nat) (changed : Bool) : State :=
  let b := windowBounds (s.reg 0x3104)
  let opened := s.sched.rounds.filter (fun r => r.tile = t)
  let w := if opened = [] then b.1 else min b.2 (max b.1 (s.windowOf t))
  let s : State := if changed then { s with sched := { s.sched with window := tset 0 s.sched.window t w } } else s
  if bit (s.reg 0x310C) 0 then s else opened.foldl State.closeRound s

/-- One commit: capture, clamps, adoption begins. -/
def State.commit (s : State) : State :=
  let s := { s with cfg := { s.cfg with seq := (s.cfg.seq + 1) % 65536 } }
  if s.early then s else
  let old := liveRegs.foldl (fun (t : Tab Word) o => tset 0#32 t o (BitVec.ofNat 32 (s.reg o))) []
  let take (a : State) (o : Nat) : State :=
    let v := s.captured o
    let a := a.setReg o (clamp o v)
    if clamp o v = v then a else a.clampEntry o
  let s := liveRegs.foldl take s
  { s with cfg := { s.cfg with
    pendingUnits := s.units, adopted := s.units.foldl (fun (t : Tab (Tab Word)) u => tset [] t u old) s.cfg.adopted } }

/-- A write of COMMIT: a commit that is pending goes first. -/
def State.commitWrite (s : State) (v : Nat) : State :=
  if !bit v 0 then s
  else if s.cfg.pendingUnits = [] then s.commit
  else { s with cfg := { s.cfg with commitAgain := s.cfg.commitAgain + 1 } }

/-- One unit adopts; with the last one PENDING clears and a commit that waits runs. -/
def State.adopt (s : State) (u : Nat) : State :=
  if !s.cfg.pendingUnits.contains u then s else
  let changed := decide ((tget 0#32 (tget [] s.cfg.adopted u) 0x3104).toNat ≠ s.reg 0x3104)
  let s := { s with cfg := { s.cfg with pendingUnits := s.cfg.pendingUnits.erase u, adopted := tset [] s.cfg.adopted u [] } }
  let s := if u < 32 then s.windowFollows u changed else s
  if s.cfg.pendingUnits = [] ∧ 0 < s.cfg.commitAgain then
    ({ s with cfg := { s.cfg with commitAgain := s.cfg.commitAgain - 1 } }).commit
  else s

/-! ### The commands -/

def execResetNLow (s : State) : Out := .next (s.off false s.cfg.pwrOk)

def execResetNRise (s : State) : Out := .next s.boot

def execPwrOkFall (s : State) : Out := .next s.powerFails

def execPllLockTimeout (tile : BitVec 5) (pll : Pll) (s : State) : Out := onTile s tile.toNat (s.pllTimeout tile.toNat pll)

def execBootDone (report : BootReport) (s : State) : Out := .next (s.bootDone report)

def execNvmBurst (bytes : List Byte) (s : State) : Out := .next (s.nvmBurst bytes)

def execNvmTimeout (s : State) : Out := .next s.nvmTimeout

def execVerify (s : State) : Out := .next s.verify

/-- What the memories meet while INIT runs comes first. -/
def State.initEvents (s : State) : State :=
  if s.cfg.mode = .init then ({ s with cfg := { s.cfg with initMet := [] } }).memEvents s.cfg.initMet else s

def execInit (s : State) : Out := .next s.initEvents.init

def execPairTimeout (s : State) : Out := .next s.pairTimeout

def execTamper (s : State) : Out := .next s.tamper

def execCommitAdoption (unit : BitVec 6) (s : State) : Out := .next (s.adopt unit.toNat)

end Sys2Proof.Machine
end

