-- ==== Sys2Proof/Machine/Twin.lean ====
section
/-! DEFINITION. The twin link controller: the Worlek link, hello and negotiation, heartbeats, attach and detach (15 R407 to
R417, R425 to R428, R434 to R436). -/

namespace Sys2Proof.Machine

/-! ### State (15 R425) -/

/-- Whether the link controller works: from PAIR on, on a part with a link (14 R386, 15 R407). -/
def State.twinOn (s : State) : Bool := [Mode.pair, .ready, .drain, .maint].contains s.cfg.mode && decide (s.part.lanes ≠ 0)

/-- STATE changes; with IRQ_EN the change asks for a message (R425). -/
def State.setTwin (s : State) (st : TwinSt) : State :=
  if st = s.twin.st then s else
  { s with twin := { s.twin with st := st }, errs := { s.errs with irqTwin := s.errs.irqTwin || bit (s.reg 0xE000) 3 } }

/-- An entry of the link controller. -/
def State.twinEntry (s : State) (sev cause : Nat) : State := s.report { severity := sev, cause := cause, unit := 0x08, tile := s.errs.anchor }

/-- Codes of STATE (R425). -/
def TwinSt.code : TwinSt → Nat
  | .unpaired => 0 | .pending => 1 | .syncing => 2 | .paired => 3 | .suspect => 4 | .castling => 5 | .castled => 6 | .yielded => 7

/-! ### Lanes (R407, R410) -/

/-- Lanes that have not failed. -/
def State.goodLanes (s : State) : List Nat := (List.range (s.part.lanes + 2)).filter (fun l => !s.twin.badLanes.contains l)

/-- The lanes that carry traffic: A of the good ones, A / 2 where fewer than A are good, none where fewer than A / 2. -/
def State.pickLanes (s : State) : List Nat :=
  let a := s.part.lanes
  let good := s.goodLanes
  if a ≤ good.length then good.take a else if a / 2 ≤ good.length then good.take (a / 2) else []

/-- Lanes that a link keeps when its lanes fail one by one: never more than before. -/
def State.keepLanes (s : State) : List Nat := s.pickLanes.take s.twin.lanes.length

/-- The link goes down. -/
def State.linkDown (s : State) : State := { s with twin := { s.twin with linkUp := false, lanes := [] } }

/-- A lane fails: a spare takes its place, or the link halves, or it goes down (R410). -/
def State.loseLane (s : State) (l : Nat) : State :=
  if s.part.lanes + 2 ≤ l ∨ s.twin.badLanes.contains l then s else
  let s := { s with twin := { s.twin with badLanes := insertKey l s.twin.badLanes } }
  if !s.twin.linkUp then s else
  let lanes := s.keepLanes
  if lanes = [] then s.linkDown
  else
    let was := s.twin.lanes.length
    let s := { s with twin := { s.twin with lanes := lanes } }
    if lanes.length < was then s.twinEntry sevDegrade 0x46 else s

/-- Lanes that the repair map of tile 0 lists (19 R496, KIND 5). -/
def State.mappedLanes (s : State) : List Nat :=
  (tget [] s.test.repair 0).filterMap (fun v => if v < 2 ^ 32 ∧ bit v 31 ∧ bits v 3 0 = 5 then some (bits v 8 4) else none)

/-- A retrain of a link that is down starts over with every lane that the repair map does not list (log entry 72). -/
def State.retrain (s : State) : State :=
  if s.twin.linkUp then s else { s with twin := { s.twin with badLanes := s.mappedLanes.foldl (fun l x => insertKey x l) [] } }

/-! ### Frames (R408, R409) -/

/-- Takes acknowledged frames out of the replay buffer: all before the one that the partner expects. -/
def Twin.acked (x : Twin) (seq : Nat) : Twin :=
  if seq = x.txSeq then { x with replay := [] }
  else if x.replay.any (fun p => p.1 = seq) then { x with replay := x.replay.dropWhile (fun p => p.1 ≠ seq) }
  else x

/-- Resends every frame of the replay buffer; TWN_REPLAY_CNT counts them. -/
def State.resendAll (s : State) : State :=
  if !s.twin.linkUp then s else
  ({ s with twin := { s.twin with tx := s.twin.tx ++ s.twin.replay.map Prod.snd } }).bump 0xE040 s.twin.replay.length

/-- An ACK arrives. -/
def State.takeAck (s : State) (seq : Nat) : State :=
  let x := s.twin.acked seq
  { s with twin := x.drain x.unsent.length }

/-- A NAK arrives: go-back-N from its SEQ. -/
def State.takeNak (s : State) (seq : Nat) : State :=
  let s := s.takeAck seq
  if s.twin.replay.head?.map Prod.fst = some seq then s.resendAll else s

/-- Whether a frame's CRC-32C and length hold (R408). -/
def frameGood (b : List Byte) : Bool :=
  decide (b.length = 256) && decide (fieldAt b 252 4 = (crc32c (b.take 252)).toNat) && decide (fieldAt b 8 1 ≤ 240)

/-- A link frame arrives; `fec` says that the FEC corrected its codewords. A bad frame of VC 2 is dropped, any other bad
frame or one out of order is dropped with a NAK (R409). -/
def State.takeFrame (s : State) (b : List Byte) (fec : Bool) : State :=
  if !s.twin.linkUp then s else
  let s := if fec then s else s.bump 0xE044 1
  let vc := bits (fieldAt b 0 4) 25 24
  let seq := bits (fieldAt b 0 4) 23 0
  let w := fieldAt b 4 4
  let ok := fec && frameGood b
  let s := if !ok then s else if bit w 28 then s.takeNak (bits w 23 0) else s.takeAck (bits w 23 0)
  if ok ∧ 2 ≤ vc then s
  else if !ok ∧ fec ∧ vc = 2 then s
  else if ok ∧ seq = s.twin.rxSeq then
    let s := { s with twin := { s.twin with rxSeq := (s.twin.rxSeq + 1) % 2 ^ 24 } }
    s.tell (.ack s.twin.rxSeq false)
  else s.tell (.ack s.twin.rxSeq true)

/-! ### Frames set aside for the partner (R417) -/

/-- Whether a map key lies in a mirror block. -/
def State.inMirrorBlock (s : State) (k : Nat) : Bool := decide (524288 ≤ k / 256 % 1048576) && !s.store.blocks.contains (k / 256)

/-- Mirror map blocks and the cold records they name are free. -/
def State.clearMirrorMaps (s : State) : State :=
  let gone := s.store.map.filter (fun p => s.inMirrorBlock p.1)
  let cold := gone.filterMap (fun p => match p.2 with | .cold r => some r | _ => none)
  { s with store := { s.store with map := s.store.map.filter (fun p => !s.inMirrorBlock p.1)
                                   cold := s.store.cold.filter (fun p => !cold.contains p.1) } }

/-- A partner's EVICT or RECALL in progress ends. -/
def Mig.ofPartner (m : Mig) : Bool := match m.why with | .mirror _ => true | _ => false

/-- Every MIRROR frame of a part that gives its mirror up becomes FREE (08 R226). -/
def State.releaseMirror (s : State) : State :=
  if !s.mirrored then s else
  let free (p : Nat × Frame) : Nat × Frame :=
    if s.ownFrames ≤ frameLocal p.1 ∧ p.2.st = .mirror then (p.1, { gen := p.2.next.gen }) else p
  let s := s.clearMirrorMaps
  { s with
    store := { s.store with frames := s.store.frames.map free, mirrorGen := (s.store.mirrorGen + 1) % 2 ^ 32
                            migs := s.store.migs.filter (fun m => !m.ofPartner) }
    errs := { s.errs with resending := [] } }

/-- The frames of index N_own and above become MIRROR. -/
def State.setMirror (s : State) : State :=
  if s.cfg.image.pairing ≠ 2 then s else
  let take (p : Nat × Frame) : Nat × Frame :=
    if s.ownFrames ≤ frameLocal p.1 then (p.1, { st := .mirror, gen := p.2.next.gen }) else p
  { s with store := { s.store with frames := s.store.frames.map take, mirrorGen := (s.store.mirrorGen + 1) % 2 ^ 32 } }

/-- What the mirror holds is dropped, the frames staying MIRROR: every row is synchronized anew (R427). -/
def State.emptyMirror (s : State) : State :=
  if !s.mirrored then s else
  let clear (p : Nat × Frame) : Nat × Frame :=
    if s.ownFrames ≤ frameLocal p.1 ∧ p.2.st = .mirror then (p.1, p.2.clearMirror) else p
  let s := s.clearMirrorMaps
  { s with store := { s.store with frames := s.store.frames.map clear, migs := s.store.migs.filter (fun m => !m.ofPartner) }
           errs := { s.errs with resending := [] } }

/-- Rows of the partner's half in use. -/
def State.partnerRows (s : State) : List Nat := s.rowsInUse.filter (fun r => !ownRow s.twin.role r)

/-- The partner's rows become FREE, with their directory entries (R433, R436). -/
def State.releasePartner (s : State) : State :=
  let s := s.partnerRows.foldl (fun s r => s.freeRow r) s
  { s with store := { s.store with dir := s.store.dir.filter (fun p => ownRow s.twin.role (p.1 / 256)) } }

/-! ### Pages in transit when pairing ends or starts over (R423, R434) -/

/-- An eviction that waits for the partner ends before its map switch: the frame stays resident (08 R226, 09 R232). -/
def State.keepResident (s : State) (m : Mig) : State :=
  let x := s.frame m.frame
  let s := (s.setFrame m.frame { x.next with st := .isSealed }).chargeFrame m.frame x.cls
  let s := s.dropMig m.slot
  let s := if m.released then s.unrefFrame m.frame else s
  (s.tellEnd m false).pump

/-- Every eviction that waits for the partner's answer stays. -/
def State.keepAll (s : State) : State :=
  (s.store.migs.filter (fun m => m.evict && !m.acked)).foldl (fun s m => s.keepResident m) s

/-- A refetch finds no other copy: the page is lost (16 R453, R454, 15 R434). -/
def State.refetchFails (s : State) (p : Nat × Nat) : State :=
  let s := { s with errs := { s.errs with refetching := s.errs.refetching.erase p } }
  let s := s.freeFrame p.2
  let s := s.report { severity := sevContext, cause := 0x02, unit := 0x04, tile := frameTile p.1, addr := p.1 }
  s.loseFrame p.1

/-- Every refetch under way fails. -/
def State.refetchesFail (s : State) : State := s.errs.refetching.foldl State.refetchFails s

/-- Records held for the partner's acknowledgements are released (R429 step 2). -/
def State.releaseRecords (s : State) : State :=
  { s with sched := { s.sched with jobs := s.sched.jobs.map (fun j => { j with groups := [] }) } }

/-- Everything of a pairing that its end leaves behind is dropped. -/
def Twin.unpair (x : Twin) : Twin :=
  { x with mode := 0, fallback := false, auto := false, mine := none, peer := none, helloing := false, retryAt := false
           groups := [], lastSeq := [], syncLeft := [], peerSynced := [], syncOut := false, detaching := false }

/-! ### Hello (R411 to R414) -/

/-- The part's link keys, lowest KEY_ID first. -/
def State.linkKeys (s : State) : List (Nat × List Byte) :=
  ((s.cleanSeal.keys.map (fun k => (k.2.1, k.2.2))).filter (fun k => decide (k.1 ≠ 0))).mergeSort (fun a b => decide (a.1 ≤ b.1))

/-- The key of a KEY_ID. -/
def State.keyFor (s : State) (id : Nat) : Option (List Byte) := (s.linkKeys.find? (fun k => k.1 = id)).map Prod.snd

/-- CRC-32C of CFG_BAND[0–31] and CFG_LAYER_MAP[0–63] in register order. -/
def State.bandCrc (s : State) : Nat :=
  (crc32c ((List.range 32).flatMap (fun i => leBytes 4 (s.reg (0x1100 + 4 * i))) ++
           (List.range 64).flatMap (fun i => leBytes 4 (s.reg (0x1200 + 4 * i))))).toNat

/-- The half that a part claims: the one that holds its rows, else TWN_CTL.HALF (R413, R435). -/
def State.claim (s : State) : Bool := if s.rowsInUse = [] then bit (s.reg 0xE000) 2 else s.rowsInUse.any (fun r => decide (8192 ≤ r))

/-- The part's HELLO. -/
def State.ownHello (s : State) (id : Nat) (nonce : List Byte) : Hello :=
  let h := s.cfg.image
  { keyId := BitVec.ofNat 32 id, nonce := nonce, serial := BitVec.ofNat 64 s.cfg.fuses.serial, config := BitVec.ofNat 4 s.part.code
    linkLevel := BitVec.ofNat 8 h.linkLevel, pageFmtLevel := BitVec.ofNat 8 h.pageFmtLevel, np := BitVec.ofNat 2 h.np
    pairing := BitVec.ofNat 2 h.pairing, partnerPct := BitVec.ofNat 8 h.partnerPct, flags := BitVec.ofNat 8 h.flags
    coldSlots := BitVec.ofNat 24 s.coldSlots, bandCrc := BitVec.ofNat 32 s.bandCrc, half := s.claim
    holdsRows := decide (s.rowsInUse ≠ []), epoch := BitVec.ofNat 32 s.twin.epoch }

/-- A parameter set as the AUTH covers it (log entry 73). -/
def helloBytes (h : Hello) : List Byte :=
  leBytes 8 h.serial.toNat ++ leBytes 1 h.config.toNat ++ leBytes 1 h.linkLevel.toNat ++ leBytes 1 h.pageFmtLevel.toNat ++
  leBytes 1 h.np.toNat ++ leBytes 1 h.pairing.toNat ++ leBytes 1 h.partnerPct.toNat ++ leBytes 1 h.flags.toNat ++
  leBytes 4 h.coldSlots.toNat ++ leBytes 4 h.bandCrc.toNat ++ leBytes 1 (b2n h.half + 2 * b2n h.holdsRows) ++ leBytes 4 h.epoch.toNat

/-- An AUTH of a sender, over both HELLOs (R412 step 2). -/
def authCode (key : List Byte) (a b : Hello) (sender : Nat) : List Byte :=
  let x := if a.serial.toNat < b.serial.toNat then (a, b) else (b, a)
  (hmac384 key (x.1.nonce ++ x.2.nonce ++ helloBytes x.1 ++ helloBytes x.2 ++ leBytes 8 sender)).take 32

/-- The hello fails: counted, logged, and repeated 10 ms later. -/
def State.helloFails (s : State) (cause : Nat) : State :=
  (({ s with twin := { s.twin with mine := none, peer := none, helloing := false, retryAt := true } }).bump 0xE04C 1).twinEntry sevNote cause

/-- Sends AUTH when the part holds the other's key (R412 step 2). -/
def State.sendAuth (s : State) (a b : Hello) : State :=
  match s.keyFor b.keyId.toNat with
  | some k => s.tell (.auth (authCode k a b a.serial.toNat))
  | none => s.helloFails 0x40

/-- A hello starts, when the link is up (R412 step 1). -/
def State.startHello (s : State) (nonce : List Byte) : State :=
  if !s.twin.linkUp ∨ s.twin.st ≠ .pending then s else
  match s.linkKeys with
  | [] => s.helloFails 0x40
  | k :: _ =>
    let h := s.ownHello k.1 (padTo 32 nonce)
    let s := ({ s with twin := { s.twin with mine := some h, helloing := true, retryAt := false } }).tell (.hello h)
    match s.twin.peer with
    | some p => s.sendAuth h p
    | none => s

/-- A HELLO arrives in PENDING. -/
def State.takeHello (s : State) (p : Hello) : State :=
  if s.twin.st ≠ .pending ∨ !s.twin.linkUp then s else
  let s := { s with twin := { s.twin with peer := some p, peerEpoch := p.epoch.toNat } }
  match s.twin.mine with
  | some h => s.sendAuth h p
  | none => s

/-- The role of a part (R413), none where the claims conflict. -/
def roleFor (a b : Hello) : Option Bool :=
  match a.holdsRows, b.holdsRows with
  | true, true => if a.half = b.half then none else some a.half
  | true, false => some a.half
  | false, true => some !b.half
  | false, false => if a.half = b.half then some (decide (b.serial.toNat < a.serial.toNat)) else some a.half

/-- Whether two parameter sets allow MIRROR (R414, third column). -/
def mirrorsAlike (a b : Hello) : Bool :=
  a.pageFmtLevel = b.pageFmtLevel && a.np = b.np && a.config = b.config && a.partnerPct = b.partnerPct && a.bandCrc = b.bandCrc &&
  a.coldSlots = b.coldSlots

/-- The mode in force and FALLBACK (R414); none where the levels differ by more than 1. -/
def modeFor (a b : Hello) : Option (Nat × Bool) :=
  let x := a.linkLevel.toNat
  let y := b.linkLevel.toNat
  if x + 1 < y ∨ y + 1 < x then none
  else if a.pairing = 1 ∨ b.pairing = 1 then some (1, false)
  else if mirrorsAlike a b then some (2, false)
  else some (1, true)

/-- SYNCING begins: every row of both halves is to be synchronized (R435, log entry 70). -/
def State.startSync (s : State) : State :=
  let s := s.setTwin .syncing
  ({ s with twin := { s.twin with syncLeft := halfRows s.twin.role, peerSynced := [], syncOut := false } }).syncNext

/-- The hello passes: role, mode, level and AUTO_CASTLE are decided, and pairing goes on (R413, R414, R425, 14 R386). -/
def State.helloPasses (s : State) (a b : Hello) (role : Bool) (mode : Nat) (fallback : Bool) : State :=
  let s := if mode = 2 then s else s.releaseMirror
  let s := { s with twin := { s.twin with
    role := role, mode := mode, fallback := fallback, auto := bit a.flags.toNat 0 && bit b.flags.toNat 0
    level := min a.linkLevel.toNat b.linkLevel.toNat, mine := none, peer := none, helloing := false, retryAt := false } }
  let s := if fallback then ({ s with errs := { s.errs with alertFallback := true } }).twinEntry sevDegrade 0x43 else s
  let s := if a.holdsRows ∨ b.holdsRows then s.startSync else s.setTwin .paired
  if s.cfg.mode = .pair then s.goReady else s

/-- An AUTH arrives: checked under the part's own key, then the roles and the mode are decided (R412 to R414). -/
def State.takeAuth (s : State) (code : List Byte) : State :=
  match s.twin.mine, s.twin.peer with
  | some a, some b =>
    if s.twin.st ≠ .pending then s
    else if s.keyFor a.keyId.toNat = none ∨ (s.keyFor a.keyId.toNat).map (fun k => authCode k a b b.serial.toNat) ≠ some code then s.helloFails 0x40
    else match roleFor a b, modeFor a b with
      | none, _ => s.helloFails 0x41
      | some _, none => s.helloFails 0x42
      | some r, some m => s.helloPasses a b r m.1 m.2
  | _, _ => s

/-- No answer within 1 ms. -/
def State.helloTimeout (s : State) : State := if s.twin.helloing then s.helloFails 0x40 else s

/-- 10 ms after a failed hello. -/
def State.helloRetry (s : State) (nonce : List Byte) : State := if s.twin.retryAt then s.startHello nonce else s

/-- The link comes up. A retrain that restarts SEQ empties the replay buffers and raises LINK_EPOCH (R410, R427). -/
def State.linkComesUp (s : State) (restarts : Bool) (nonce : List Byte) : State :=
  if s.twin.linkUp ∨ s.pickLanes = [] then s else
  let s := { s with twin := { s.twin with linkUp := true, lanes := s.pickLanes } }
  let s := if restarts then { s with twin := { s.twin with
      epoch := (s.twin.epoch + 1) % 2 ^ 32, replay := [], unsent := [], txSeq := 0, rxSeq := 0 } } else s
  let s := { s with twin := s.twin.drain s.twin.unsent.length }
  if s.twin.helloing then s else s.startHello nonce

/-! ### Heartbeats (R426, R427) -/

/-- States in which heartbeats are sent. -/
def State.beats (s : State) : Bool :=
  match s.twin.st with
  | .pending | .syncing | .paired | .suspect => true
  | _ => false

/-- Both halves are synchronized: PAIRED (R425). -/
def State.checkSynced (s : State) : State :=
  if s.twin.st = .syncing ∧ s.twin.syncLeft = [] ∧ 8192 ≤ s.twin.peerSynced.length then s.setTwin .paired else s

/-- What waits in SUSPECT for the partner is asked for again. -/
def State.askAgain (s : State) : State :=
  let s := s.errs.refetching.foldl (fun s p => s.askRefetch p.1) s
  s.errs.resending.foldl (fun s f => if (s.frame f).st = .mirror then s.askResend f else s) s

/-- Heartbeats resume in SUSPECT: back to the state before with the same LINK_EPOCH, else every row is synchronized anew
(R427). -/
def State.resumes (s : State) (epoch : Nat) : State :=
  if epoch = s.twin.peerEpoch then (s.setTwin s.twin.before).askAgain
  else
    let s := s.keepAll.emptyMirror
    let s := { s with twin := { s.twin with groups := [], peerEpoch := epoch } }
    (s.startSync).askAgain

/-- A good heartbeat arrives. -/
def State.takeBeat (s : State) (time epoch : Nat) : State :=
  if !s.beats then s else
  let d : Int := (time : Int) - (s.now : Int)
  let s := { s with twin := { s.twin with hbLast := s.now, peerOffset := max (-2147483648) (min 2147483647 d) } }
  if s.twin.st = .suspect then s.resumes epoch else { s with twin := { s.twin with peerEpoch := epoch } }

/-- Heartbeats are missed: PAIRED enters SUSPECT (R425, R426). -/
def State.missBeats (s : State) : State :=
  if s.twin.st ≠ .paired then s else
  (({ s with twin := { s.twin with before := s.twin.st } }).setTwin .suspect |>.bump 0xE03C 1).twinEntry sevNote 0x44

/-! ### Attach and detach (R435, R436) -/

/-- Rows taken in a half. -/
def State.rowsTaken (s : State) (high : Bool) : Nat := (s.rowsInUse.filter (fun r => decide (8192 ≤ r) = high)).length

/-- Frames of index N_own and above that are not FREE, over all tiles (TWN_ATTACH_FRAMES). -/
def State.framesTaken (s : State) : Nat :=
  if s.mirrored then s.part.tiles * s.mirrorFrames
  else (s.store.frames.filter (fun p => decide (s.ownFrames ≤ frameLocal p.1) && decide (p.2.st ≠ .free))).length

/-- Whether ATTACH is refused (R435). -/
def State.attachRefused (s : State) : Bool :=
  decide (s.cfg.image.pairing = 0) || !(s.twin.st = .unpaired || s.twin.st = .castled || s.twin.st = .yielded) ||
  (decide (0 < s.rowsTaken false) && decide (0 < s.rowsTaken true)) ||
  (decide (s.cfg.image.pairing = 2) && decide (0 < s.framesTaken))

/-- ATTACH: the limits apply, the half is claimed, the hello starts. -/
def State.attach (s : State) (nonce : List Byte) : State :=
  let s := s.setMirror.setTwin .pending
  let s := { s with twin := { s.twin.unpair with mode := s.cfg.image.pairing, role := s.claim, deadTiles := [] } }
  s.startHello nonce

/-- The end of a DETACH: the partner's rows, mirrors and staging are released; UNPAIRED. -/
def State.detached (s : State) : State :=
  let s := s.keepAll.refetchesFail
  let s := s.releaseMirror.releasePartner.releaseRecords
  ({ s with twin := s.twin.unpair }).setTwin .unpaired

/-- States that a DETACH leaves (R425). -/
def State.detachable (s : State) : Bool := s.twin.st = .pending || s.twin.st = .syncing || s.twin.st = .paired

/-- DETACH is written: it is sent, and the partner's answer completes it. -/
def State.sendDetach (s : State) : State :=
  if s.detachable then { s.tell .detach with twin := { (s.tell .detach).twin with detaching := true } } else s

/-- DETACH arrives: the answer to the part's own, or the partner's, which is answered. -/
def State.takeDetach (s : State) : State :=
  if !s.detachable then s
  else if s.twin.detaching then s.detached
  else (s.tell .detach).detached

/-! ### The commands -/

def execLinkUp (restartsSeq : Bool) (nonce : List Byte) (s : State) : Out := .next (s.whenever s.twinOn (s.linkComesUp restartsSeq nonce))

def execLinkRetrain (s : State) : Out := .next (s.whenever s.twinOn s.retrain)

def execLaneLoss (lane : BitVec 5) (s : State) : Out := .next (s.whenever s.twinOn (s.loseLane lane.toNat))

def execLinkFrame (bytes : List Byte) (good : Bool) (s : State) : Out := .next (s.whenever s.twinOn (s.takeFrame bytes good))

def execNak (seq : BitVec 24) (s : State) : Out := .next (s.whenever (s.twinOn && s.twin.linkUp) (s.takeNak seq.toNat))

def execReplayTimeout (s : State) : Out := .next (s.whenever s.twinOn s.resendAll)

def execHello (msg : Hello) (s : State) : Out := .next (s.whenever s.twinOn (s.takeHello msg))

def execAuth (code : List Byte) (s : State) : Out := .next (s.whenever s.twinOn (s.takeAuth code))

def execHelloTimeout (s : State) : Out := .next (s.whenever s.twinOn s.helloTimeout)

def execHelloRetry (nonce : List Byte) (s : State) : Out := .next (s.whenever s.twinOn (s.helloRetry nonce))

def execHeartbeatSend (s : State) : Out :=
  .next (s.whenever (s.twinOn && s.beats) (s.tell (.heartbeat s.now s.twin.st.code s.twin.epoch)))

def execHeartbeat (time : BitVec 64) (_state : BitVec 4) (epoch : BitVec 32) (s : State) : Out :=
  .next (s.whenever s.twinOn (s.takeBeat time.toNat epoch.toNat))

def execHeartbeatMiss (s : State) : Out := .next (s.whenever s.twinOn s.missBeats)

def execDetachTimeout (s : State) : Out := .next (s.whenever (s.twinOn && s.twin.detaching) s.detached)

end Sys2Proof.Machine
end

