-- ==== Sys2Proof/Machine/Ledger.lean ====
section
/-! DEFINITION. The twin's ledger on the side that receives: staging and applying groups, mirror frames, EVICT and RECALL,
REFETCH and RESEND (15 R417 to R424, 16 R453). -/

namespace Sys2Proof.Machine

/-! ### Numbers of the partner (R417) -/

/-- Whether deltas are received. -/
def State.receives (s : State) : Bool :=
  s.twinOn && (s.twin.st = .syncing || s.twin.st = .paired || s.twin.st = .suspect)

/-- The local frame that mirrors a partner frame; none where it has no mirror. -/
def State.mirrorOf (s : State) (f : Nat) : Option Nat :=
  if s.mirrored ∧ frameLocal f < s.mirrorFrames ∧ s.hasTile (frameTile f) ∧ !s.twin.deadTiles.contains (frameTile f) then
    some (frameNum (frameTile f) (s.ownFrames + frameLocal f)) else none

/-- The local cold record that mirrors a partner's: its index. -/
def State.mirrorRecord (s : State) (r : Nat) : Nat := s.coldSlots / 2 + r

/-- The map key of an entry of a mirror block. -/
def mirrorKey (t b slot : Nat) : Nat := mapKey t (524288 + b % 524288) slot

/-- Whether a mirror block is the interior block of a partner stream (08 R236). -/
def State.mirrorInner (s : State) (t b : Nat) : Bool :=
  s.store.dir.any (fun p => !ownRow s.twin.role (p.1 / 256) && p.2.valid && p.2.depth && decide (p.2.root = 524288 + b % 524288) &&
    decide (s.homeTile p.2.layer (p.1 / 256) (p.1 % 256) = t))

/-- A mirrored map entry, its numbers rewritten (R417). -/
def State.mirrorEntry (s : State) (t b w : Nat) : MapEntry :=
  if !bit w 24 then .empty
  else if bit w 25 then .cold (8388608 * t + s.mirrorRecord (bits w 22 0))
  else if s.mirrorInner t b then .inner (524288 + bits w 18 0)
  else match s.mirrorOf (bits w 23 0) with
    | some f => .frame f
    | none => .lost

/-- A mirrored directory entry, its ROOT rewritten. -/
def State.mirrorDir (s : State) (w : Nat) : DirEntry :=
  let d := dirOfWord w
  if s.twin.mode = 2 then (if d.hasRoot then { d with root := 524288 + d.root % 524288 } else d)
  else { d with root := 0, pages := 0, hasRoot := false }

/-! ### Mirror frames (R418, R420) -/

/-- A field of the sidecar of a mirror frame. -/
def Frame.side (x : Frame) (off n : Nat) : Nat :=
  ofLe ((List.range n).map (fun i => tget 0#8 x.raw (65536 + off + i)))

/-- The slot that a byte of a mirror frame belongs to, by its format: none for header, summaries and bytes of no slot. -/
def Frame.slotAt (x : Frame) (off : Nat) : Option Nat :=
  let f : PageFmt := { x.page.fmt with hd := x.side 4 2 }
  let t := x.side 6 2
  let at_ (o w : Nat) : Option Nat := if w = 0 ∨ t = 0 ∨ 2 * t * w ≤ o then none else some (o / w % t)
  if off < 65536 then at_ off f.rowBytes
  else if off - 65536 < 64 + 8 * f.hd then none
  else at_ (off - 65536 - (64 + 8 * f.hd)) f.blocks

/-- Whether BYTES may be written on arrival: into a frame whose shadow is FREE, or at slots at or above the shadow
VALID_ROWS (R420). -/
def Frame.takesBytes (x : Frame) (off n : Nat) : Bool :=
  x.shadowSt = .free || (List.range n).all (fun i => match x.slotAt (off + i) with | some k => decide (x.shadowRows ≤ k) | none => false)

/-- Writes bytes into a mirror frame. -/
def State.mirrorBytes (s : State) (m off : Nat) (bs : List Byte) : State :=
  let x := s.frame m
  if x.st = .mirror then s.setFrame m { x.next with raw := putRaw x.raw off (bs.take (frameBytes - off)) } else s

/-- The state of a shadow by its STATE code: a code of no shadow state clears it. -/
def shadowStOf (n : Nat) : FrameSt :=
  match frameStOf n with
  | .priv => .priv
  | .shared => .shared
  | .isSealed => .isSealed
  | .bad => .bad
  | _ => .free

/-- Updates a shadow; a frame whose shadow becomes SEALED is checked, and its page asked for when it fails (R424). -/
def State.mirrorShadow (s : State) (m w ref : Nat) : State :=
  let x := s.frame m
  let st := shadowStOf (bits w 3 0)
  let s := if st = .free then { s with errs := { s.errs with resending := s.errs.resending.erase m } } else s
  let y : Frame := if st = .free then { x.clearMirror with st := x.st } else
    { x.next with shadowSt := st, shadowRef := ref, shadowRows := bits w 22 12, published := bit w 23, cls := bits w 25 24
                  reserve := bit w 26, page := { fmt := { fmt := bits w 7 4, layout := bits w 9 8, block := bits w 11 10 } } }
  let s := s.setFrame m y
  if x.st = .mirror ∧ st = .isSealed ∧ x.shadowSt ≠ .isSealed ∧ !s.store.migs.any (fun g => g.frame = m) ∧ !bytesGood y.bytes then
    (s.bumpTile (frameTile m) 0x148 1).askResend m
  else s

/-- Copies a mirror frame into another as 10 R279 copies rows. -/
def State.mirrorCopy (s : State) (a b rows : Nat) : State :=
  let p := pageOfBytes (s.frame a).bytes
  let q : Page := { p with k := p.k.take rows, v := p.v.take rows, isSealed := false, published := false, sealGen := 0#32
                           prefixHash := 0#64, checksum := 0#32 }
  let x := s.frame b
  if x.st = .mirror then s.setFrame b { x.next with raw := rawOf (q.dataBytes ++ q.sidecarBytes) } else s

/-- Starts reading the part's own pool slot of a mirrored record into a mirror frame; without the record the page is asked
for (R419, R424). -/
def State.mirrorRecall (s : State) (own m t record b slot : Nat) : State :=
  let key := 8388608 * t + s.mirrorRecord record
  match tget none s.store.cold key with
  | none => s.askResend m
  | some c =>
    let g : Mig := { slot := s.store.nextMig, evict := false, frame := m, loc := mirrorKey t b slot, stream := 0, page := 0, home := t
                     record := s.mirrorRecord record, host := c.addr, why := .mirror own, acked := true }
    { s with store := { s.store with migs := s.store.migs ++ [g], nextMig := s.store.nextMig + 1 } }

/-- EVICT: the mirror frame is pinned and written to the part's own pool slot of the mirrored record; without frame or
record the answer is NAK (R423). -/
def State.mirrorEvict (s : State) (own t record b slot : Nat) : State :=
  match s.mirrorOf own with
  | none => s.tell (.evictNak own)
  | some m =>
    let x := s.frame m
    if decide (x.st ≠ .mirror) || decide (x.shadowSt ≠ .isSealed) || s.errs.resending.contains m ||
        decide (s.coldSlots ≤ s.mirrorRecord record) || !s.hasTile t || s.store.migs.any (fun g => g.frame = m) then s.tell (.evictNak own)
    else
      let g : Mig := { slot := s.store.nextMig, evict := true, frame := m, loc := mirrorKey t b slot, stream := 0, page := 0, home := t
                       record := s.mirrorRecord record, host := s.coldAddr t (s.mirrorRecord record), why := .mirror own, acked := true }
      let s := s.setFrame m { x with pincnt := x.pincnt + 1 }
      ({ s with store := { s.store with migs := s.store.migs ++ [g], nextMig := s.store.nextMig + 1 } }).pump

/-! ### Groups (R419, R420) -/

/-- The present state of a partner row is dropped, before its synchronization writes it. -/
def State.forgetRow (s : State) (row : Nat) : State :=
  let blocks := (s.streamsOf row).flatMap (fun d =>
    let h := s.homeOf row d.1
    (1048576 * h + d.2.root) :: (if d.2.depth then (List.range 256).filterMap (fun g =>
      match s.mapAt (mapKey h d.2.root g) with | .inner b => some (1048576 * h + b) | _ => none) else []))
  { s with store := { s.store with
      map := s.store.map.filter (fun p => !(s.inMirrorBlock p.1 && blocks.contains (p.1 / 256)))
      dir := s.store.dir.filter (fun p => p.1 / 256 ≠ row) } }

/-- Applies one delta of a group. Rows of the part's own half are not the partner's to write (R416). -/
def State.applyDelta (sync : Bool) (s : State) (d : Delta) : State :=
  match d with
  | .row r b => if ownRow s.twin.role r.toNat then s else (if sync then s.forgetRow r.toNat else s).setRow r.toNat (ctxRowOfBytes b)
  | .dir r st w => if ownRow s.twin.role r.toNat then s else s.setDir r.toNat st.toNat (s.mirrorDir w.toNat)
  | .map t b slot w =>
    if !s.mirrored then s else s.setMapAt (mirrorKey t.toNat b.toNat slot.toNat) (s.mirrorEntry t.toNat b.toNat w.toNat)
  | .frame f w ref => match s.mirrorOf f.toNat with | some m => s.mirrorShadow m w.toNat ref.toNat | none => s
  | .bytes f off data => match s.mirrorOf f.toNat with | some m => s.mirrorBytes m off.toNat data | none => s
  | .copy a b rows =>
    match s.mirrorOf a.toNat, s.mirrorOf b.toNat with
    | some x, some y => s.mirrorCopy x y rows.toNat
    | _, _ => s
  | .recall f t r b slot => match s.mirrorOf f.toNat with | some m => s.mirrorRecall f.toNat m t.toNat r.toNat b.toNat slot.toNat | none => s
  | .evict _ _ _ _ _ => s

/-- Puts a delta into the staging area, at the end of its group. -/
def State.stageDelta (s : State) (g : GroupId) (d : Delta) : State :=
  let add (x : Group) : Group := if x.id = g then { x with deltas := x.deltas ++ [d] } else x
  let known := s.twin.groups.any (fun x => x.id = g)
  { s with twin := { s.twin with groups := if known then s.twin.groups.map add else s.twin.groups ++ [{ id := g, deltas := [d] }] } }

/-- A COMMIT arrives: its group is applied in one step and acknowledged (R420). -/
def State.commitGroup (s : State) (g : GroupId) : State :=
  let ds := ((s.twin.groups.find? (fun x => x.id = g)).map (fun x => x.deltas)).getD []
  let s := { s with twin := { s.twin with groups := s.twin.groups.filter (fun x => x.id ≠ g) } }
  let s := ds.foldl (State.applyDelta (isSync g)) s
  let s := if isBackground g then s else
    { s with twin := { s.twin with lastSeq := tset 0 s.twin.lastSeq (rowOf g) (2 ^ 38 + 2 ^ 32 * g.ring.toNat + g.seq.toNat) } }
  let s := if isSync g && !ownRow s.twin.role (rowOf g) then
    { s with twin := { s.twin with peerSynced := insertKey (rowOf g) s.twin.peerSynced } } else s
  (s.tell (.groupAck g)).checkSynced.pump

/-- A delta arrives. BYTES that no applied group reads are written at once, every other delta waits (R420). -/
def State.takeDelta (s : State) (g : GroupId) (d : Delta) : State :=
  match d with
  | .bytes f off data =>
    match s.mirrorOf f.toNat with
    | some m => if (s.frame m).takesBytes off.toNat data.length then s.mirrorBytes m off.toNat data else s.stageDelta g d
    | none => s
  | .evict f t r b slot => if s.mirrored then s.mirrorEvict f.toNat t.toNat r.toNat b.toNat slot.toNat else s
  | _ => s.stageDelta g d

/-! ### Answers from the partner -/

/-- The partner has applied a group: records that wait for it are released, a row is synchronized (R422, R435). -/
def State.takeGroupAck (s : State) (g : GroupId) : State :=
  let drop (j : Job) : Job :=
    { j with groups := j.groups.filter (fun x => x ≠ g && !(isSync g && rowOf x = rowOf g)) }
  let s := { s with sched := { s.sched with jobs := s.sched.jobs.map drop } }
  if !isSync g then s else
  let s := { s with twin := { s.twin with syncLeft := s.twin.syncLeft.erase (rowOf g), syncOut := false } }
  s.syncNext.checkSynced

/-- The eviction of a frame that waits for the partner. -/
def State.toldEviction (s : State) (f : Nat) : Option Mig := s.store.migs.find? (fun m => m.evict && m.frame = f && !m.acked)

/-- ACK of an EVICT: the frame may be freed once its own writes are acknowledged (R423). -/
def State.takeEvictAck (s : State) (f : Nat) : State :=
  match s.toldEviction f with
  | some m => s.putMig { m with acked := true }
  | none => s

/-- NAK of an EVICT: the eviction ends before the map switch (R423). -/
def State.takeEvictNak (s : State) (f : Nat) : State :=
  match s.toldEviction f with
  | some m => s.keepResident m
  | none => s

/-! ### REFETCH and RESEND (R424, 16 R453) -/

/-- The bytes of a mirror frame with every BYTES delta received, staged ones included. -/
def State.refetchBytes (s : State) (f m : Nat) : List Byte :=
  let put (t : Tab Byte) (d : Delta) : Tab Byte :=
    match d with | .bytes g off data => if g.toNat = f then putRaw t off.toNat data else t | _ => t
  rawFrom frameBytes 0 (s.twin.groups.foldl (fun t g => g.deltas.foldl put t) (s.frame m).raw)

/-- REFETCH arrives. -/
def State.takeRefetch (s : State) (f : Nat) : State :=
  match s.mirrorOf f with
  | some m => s.ledgerSend [.refetchData f (s.refetchBytes f m)]
  | none => s

/-- The copy of a BAD frame takes its place: counts, charge, pins and map entries go over (16 R453). -/
def State.landRefetch (s : State) (p : Nat × Nat) (bs : List Byte) : State :=
  let before := s.store
  let x := s.frame p.1
  let y := s.frame p.2
  let q := pageOfBytes bs
  let st : FrameSt := if q.rows = q.tspan then .isSealed else if 2 ≤ x.refcnt then .shared else .priv
  let s := { s with errs := { s.errs with refetching := s.errs.refetching.erase p } }
  let s := s.setFrame p.2 { y.next with st := st, page := q, refcnt := x.refcnt, pincnt := x.pincnt, published := x.published
                                        cls := x.cls, charged := x.charged, lastUse := x.lastUse }
  let s := (s.substFrame p.1 p.2).setFrame p.1 { x with refcnt := 0, pincnt := 0, published := false, charged := false, page := {} }
  let s := s.report { severity := sevNote, cause := 0x0A, unit := 0x04, tile := frameTile p.1, addr := p.1 }
  let s := ((s.settle p.1).settle p.2).sendGroup [] before (backgroundGroup 0xFFFFFFFF)
  s.pump

/-- The partner's copy arrives and is checked, a sealed page by its checksum. -/
def State.takeRefetchData (s : State) (f : Nat) (bs : List Byte) : State :=
  match s.errs.refetching.find? (fun p => p.1 = f) with
  | none => s
  | some p =>
    let good := decide (bs.length = frameBytes) && (!(pageOfBytes bs).isSealed || bytesGood bs)
    if good then s.landRefetch p bs else (s.bumpTile (frameTile f) 0x148 1).refetchFails p

/-- RESEND arrives: the owner sends its page. -/
def State.takeResend (s : State) (f : Nat) : State :=
  let x := s.frame f
  match x.st with
  | .priv | .shared | .isSealed => s.ledgerSend [.resendData f x.bytes]
  | _ => s

/-- The owner's page arrives for a mirror frame; one that fails its checksum is asked for again. -/
def State.takeResendData (s : State) (f : Nat) (bs : List Byte) : State :=
  match s.mirrorOf f with
  | none => s
  | some m =>
    let x := s.frame m
    if !s.errs.resending.contains m ∨ x.st ≠ .mirror then s
    else if bs.length = frameBytes ∧ (!(pageOfBytes bs).isSealed ∨ bytesGood bs) then
      let s := { s with errs := { s.errs with resending := s.errs.resending.erase m } }
      s.setFrame m { x.next with raw := rawOf bs }
    else (s.bumpTile (frameTile m) 0x148 1).askResend m

/-! ### The commands -/

def execRowDelta (g : GroupId) (row : BitVec 14) (bytes : List Byte) (s : State) : Out :=
  .next (s.whenever s.receives (s.takeDelta g (.row row bytes)))

def execDirDelta (g : GroupId) (row : BitVec 14) (stream : BitVec 8) (entry : BitVec 64) (s : State) : Out :=
  .next (s.whenever s.receives (s.takeDelta g (.dir row stream entry)))

def execMapDelta (g : GroupId) (tile : BitVec 5) (block : BitVec 20) (slot : BitVec 8) (entry : BitVec 32) (s : State) : Out :=
  .next (s.whenever s.receives (s.takeDelta g (.map tile block slot entry)))

def execFrameDelta (g : GroupId) (frame : BitVec 24) (word0 : BitVec 32) (refcnt : BitVec 16) (s : State) : Out :=
  .next (s.whenever s.receives (s.takeDelta g (.frame frame word0 refcnt)))

def execBytesDelta (g : GroupId) (frame : BitVec 24) (off : BitVec 17) (data : List Byte) (s : State) : Out :=
  .next (s.whenever s.receives (s.takeDelta g (.bytes frame off data)))

def execCopyDelta (g : GroupId) (src dst : BitVec 24) (rows : BitVec 11) (s : State) : Out :=
  .next (s.whenever s.receives (s.takeDelta g (.copy src dst rows)))

def execEvictDelta (g : GroupId) (frame : BitVec 24) (tile : BitVec 5) (record : BitVec 23) (block : BitVec 20)
    (slot : BitVec 8) (s : State) : Out :=
  .next (s.whenever s.receives (s.takeDelta g (.evict frame tile record block slot)))

def execRecallDelta (g : GroupId) (frame : BitVec 24) (tile : BitVec 5) (record : BitVec 23) (block : BitVec 20)
    (slot : BitVec 8) (s : State) : Out :=
  .next (s.whenever s.receives (s.takeDelta g (.recall frame tile record block slot)))

def execCommitDelta (g : GroupId) (s : State) : Out := .next (s.whenever s.receives (s.commitGroup g))

def execGroupAck (g : GroupId) (s : State) : Out := .next (s.whenever s.receives (s.takeGroupAck g))

def execEvictAck (frame : BitVec 24) (s : State) : Out := .next (s.whenever s.receives (s.takeEvictAck frame.toNat))

def execEvictNak (frame : BitVec 24) (s : State) : Out := .next (s.whenever s.receives (s.takeEvictNak frame.toNat))

def execRefetch (frame : BitVec 24) (s : State) : Out := .next (s.whenever s.receives (s.takeRefetch frame.toNat))

def execRefetchData (frame : BitVec 24) (data : List Byte) (s : State) : Out :=
  .next (s.whenever s.receives (s.takeRefetchData frame.toNat data))

def execResend (frame : BitVec 24) (s : State) : Out := .next (s.whenever s.receives (s.takeResend frame.toNat))

def execResendData (frame : BitVec 24) (data : List Byte) (s : State) : Out :=
  .next (s.whenever s.receives (s.takeResendData frame.toNat data))

end Sys2Proof.Machine
end

