-- ==== Sys2Proof/Machine/Castle.lean ====
section
/-! DEFINITION. Castling and yielding (15 R427 to R434). -/

namespace Sys2Proof.Machine

/-! ### Confirmation (R427, R429 steps 1 and 2) -/

/-- Evictions of the partner that are being written end; their frames keep their shadow. -/
def State.dropPartnerEvicts (s : State) : State :=
  (s.store.migs.filter (fun m => m.evict && m.ofPartner)).foldl (fun s m => (s.unpinMirror m.frame).dropMig m.slot) s

/-- Castling is confirmed: receiving stops, groups without COMMIT are discarded, records held are released, evictions that
wait for the partner stay resident, refetches end without another copy (R429, R434). -/
def State.confirm (s : State) (cause : Nat) : State :=
  let x := s.twin
  let s := { s with twin := { x with
    castleCause := cause, castleTime := s.now, discarded := x.groups.length, groups := [], syncLeft := [], syncOut := false
    unsent := [], before := if x.st = TwinSt.suspect then x.before else x.st } }
  let s := s.dropPartnerEvicts.releaseRecords
  (s.setTwin .castling).keepAll.refetchesFail

/-- Whether castling may be confirmed by a message or a fence. -/
def State.mayCastle (s : State) : Bool := s.twin.st = .syncing || s.twin.st = .paired || s.twin.st = .suspect

/-- DYING arrives. -/
def State.takeDying (s : State) : State := if s.mayCastle then s.confirm 1 else s

/-- TWN_FENCE is written: with KEY CA57h it confirms castling, else it is ignored and logged. -/
def State.fence (s : State) (key : Nat) : State :=
  if key = 0xCA57 ∧ s.twinOn ∧ s.mayCastle then s.confirm 2 else s.twinEntry sevNote 0x33

/-! ### Promotion (R429 steps 3 to 6, R430, R431) -/

/-- A mirror frame turns into a frame of the part (R431). A frame without good bytes is BAD, as one whose shadow is. -/
def State.sweepFrame (s : State) (p : Nat × Frame) : State :=
  let f := p.1
  let x := p.2
  let cls := x.cls
  let bad (s : State) (y : Frame) : State :=
    let s := { s with errs := { s.errs with repairTests := if s.errs.retired.contains f then s.errs.repairTests else insertKey f s.errs.repairTests } }
    (s.setFrame f { y with refcnt := x.shadowRef, reserve := x.reserve }).chargeFrame f cls
  if x.st = .bad then bad s x
  else if x.st ≠ .mirror then s
  else if x.shadowSt = .free ∨ (x.shadowRef = 0 ∧ x.shadowSt ≠ .bad) then s.setFrame f { gen := x.next.gen }
  else if x.shadowSt = .bad ∨ s.errs.resending.contains f then bad s { st := .bad, gen := x.next.gen, cls := cls }
  else
    let q := pageOfBytes x.bytes
    let st : FrameSt := if q.rows = q.tspan then .isSealed else if 2 ≤ x.shadowRef then .shared else .priv
    (s.setFrame f { st := st, gen := x.next.gen, cls := cls, reserve := x.reserve, refcnt := x.shadowRef, lastUse := s.use
                    page := { q with published := false } }).chargeFrame f cls

/-- Frames that the sweep promotes: those that end neither FREE nor BAD. -/
def State.promotedFrames (before after : State) : Nat :=
  (after.store.frames.filter (fun p => (before.frame p.1).st = .mirror &&
    (match p.2.st with | .priv | .shared | .isSealed => true | _ => false))).length

/-- Step 4: every frame of index N_own and above; step 5: the mirror blocks join the part's own. -/
def State.sweep (s : State) : State :=
  if !s.mirrored then s else
  let mine := s.store.frames.filter (fun p => decide (s.ownFrames ≤ frameLocal p.1))
  let blocks := ((s.store.map.filter (fun p => s.inMirrorBlock p.1)).map (fun p => p.1 / 256)).eraseDups
  let roots := s.store.dir.filterMap (fun p =>
    if !ownRow s.twin.role (p.1 / 256) && p.2.hasRoot then some (1048576 * s.homeTile p.2.layer (p.1 / 256) (p.1 % 256) + p.2.root) else none)
  let s := { s with store := { s.store with
    mirrorGen := (s.store.mirrorGen + 1) % 2 ^ 32, blocks := (blocks ++ roots).foldl (fun l k => insertKey k l) s.store.blocks } }
  let s := mine.foldl State.sweepFrame s
  let taken (f : Nat) : Bool := (s.frame f).st ≠ .free
  { s with store := { s.store with freed := s.store.freed.map (fun p => (p.1, p.2.filter (fun f => !taken f))) }
           errs := { s.errs with resending := [] } }

/-- Whether a map entry of a partner row has lost its page: no mirror, a BAD mirror, a tile out of service, or no record. -/
def State.entryLost (s : State) (e : MapEntry) : Bool :=
  match e with
  | .lost => true
  | .frame f => (s.frame f).st = .bad || s.errs.resending.contains f || s.twin.deadTiles.contains (frameTile f)
  | .cold r => (tget none s.store.cold r).isNone
  | _ => false

/-- The lowest page index of a row that has been lost, none where every mapped page is mirrored. -/
def State.lostPage (s : State) (row : Nat) : Option Nat :=
  ((s.streamsOf row).flatMap (fun d => (List.range d.2.pages).filter (fun p => s.entryLost (s.pageEntry row d.1 p)))).min?

/-- What R430 gives a row. -/
inductive Promote where
  | keep | empty | fail (page : Nat) | close
  deriving DecidableEq, Repr

/-- The row's line of R430: the mode in force, whether SYNCING had left it unsynchronized, its pages. -/
def State.promoteRow (s : State) (row : Nat) : Promote :=
  if s.twin.mode ≠ 2 ∨ (s.twin.before = .syncing ∧ !s.twin.peerSynced.contains row) then .empty
  else match (s.row row).state with
    | 2 => .close
    | 1 | 3 => match s.lostPage row with | some p => .fail p | none => .keep
    | _ => .keep

/-- Promotes one row in place. -/
def State.applyPromote (s : State) (p : Nat × Promote) : State :=
  let row := p.1
  let x := s.row row
  match p.2 with
  | .keep => if x.state = 3 then s.setRow row { x with state := 1 } else s
  | .fail page => s.setRow row { x with state := 4, lostPage := page }
  | .close => s.closeContext row
  | .empty =>
    let s := s.setRow row { x with state := 4, lostPage := 0 }
    (s.streamsOf row).foldl (fun s d => s.setDir row d.1 { d.2 with root := 0, depth := false, pages := 0, hasRoot := false }) s

/-- The state after steps 3 to 6, before the record; the rows with FAILED by R430; the frames promoted. -/
def State.promote (s : State) : State × List (Nat × Bool) × Nat :=
  let plan := s.partnerRows.map (fun r => (r, s.promoteRow r))
  let t := s.sweep
  let frames := s.promotedFrames t
  let u := { t with twin := { t.twin with st := .castled } }
  let u := plan.foldl State.applyPromote u
  let rows := (plan.filter (fun p => (u.row p.1).state ≠ 0)).map (fun p =>
    (p.1, match p.2 with | .empty => true | .fail _ => true | _ => false))
  (u, rows, frames)

/-! ### The castle record (R432) -/

/-- One entry. -/
def State.castleEntry (s : State) (p : Nat × Bool) : List Byte :=
  let v := tget 0 s.twin.lastSeq p.1
  leBytes 4 (s.handle p.1) ++ leBytes 4 (v % 2 ^ 32) ++ leBytes 1 (v / 2 ^ 32 % 64 + 64 * b2n (v ≠ 0) + 128 * b2n p.2) ++ zeroBytes 7

/-- The record's bytes. -/
def State.castleRecord (s : State) (rows : List (Nat × Bool)) (frames : Nat) : List Byte :=
  leBytes 4 (s.twin.castleCause + 16 * s.twin.mode) ++ leBytes 4 rows.length ++ leBytes 8 s.twin.castleTime ++ leBytes 4 frames ++
  leBytes 4 s.twin.discarded ++ zeroBytes 40 ++ rows.flatMap s.castleEntry

/-- Castling completes: the promoted state, CASTLED, counted and logged; the record goes out when its address is
translated, and the message of R425 follows it. -/
def State.finishCastle (s : State) (t : Option Trans) (va : Nat) : State :=
  let r := s.promote
  let bytes := s.castleRecord r.2.1 r.2.2
  let u := r.1
  let u := { u with twin := u.twin.unpair }
  let u := ((u.bump 0xE050 1).twinEntry sevDegrade 0x45).pump
  match t with
  | some tr => (u.moveVirt u.errs.anchor true .castle tr va 0 bytes.length bytes).1
  | none => u.castleEnds

/-- CASTLED (R429, R432). It waits for what is read back of the partner's cold pages and for the translation of
TWN_CASTLE_BASE (log entry 75). -/
def State.castle (s : State) : State :=
  if s.twin.st ≠ .castling || s.store.migs.any Mig.ofPartner then s else
  let va := s.reg64 0xE010
  match s.translateAll s.errs.anchor .castle (needs va (64 + 16 * s.promote.2.1.length) 1) with
  | .wait s' => s'
  | .failed _ s' => s'.finishCastle none va
  | .ok t s' => s'.finishCastle (some t) va

/-! ### Yielding (R433) -/

/-- Unstarted items end with ABORTED_BY_CASTLING; so do the jobs whose records are held. -/
def State.yieldJobs (s : State) : State :=
  let s := (s.sched.jobs.map (fun j => j.id)).foldl (fun s id => (s.abortJob id stAbortCastle).1) s
  let held (j : Job) : Job := if j.groups = [] then j else { j with groups := [], status := stAbortCastle }
  { s with sched := { s.sched with jobs := s.sched.jobs.map held } }

/-- The part yields: it closes every row of both halves and releases its MIRROR frames. -/
def State.yield (s : State) : State :=
  let s := s.keepAll.refetchesFail.yieldJobs
  let own := s.rowsInUse.filter (ownRow s.twin.role)
  let s := own.foldl (fun s r => s.closeContext r) s
  let s := s.releaseMirror.releasePartner
  ({ s with twin := s.twin.unpair }).setTwin .yielded

/-- SUSPECT has lasted TWN_AUTO_TIMEOUT (R427). -/
def State.autoTimeout (s : State) : State :=
  if s.twin.st ≠ .suspect ∨ !s.twin.auto then s else if s.twin.role then s.yield else s.confirm 3

/-! ### The commands -/

def execDying (s : State) : Out := .next (s.whenever s.twinOn s.takeDying)

def execCastled (s : State) : Out := .next (s.whenever s.twinOn s.castle)

def execTwnAutoTimeout (s : State) : Out := .next (s.whenever s.twinOn s.autoTimeout)

end Sys2Proof.Machine
end

