-- ==== Sys2Proof/Machine/Test.lean ====
section
/-! DEFINITION. Test access: the TAP and its instructions, BIST, the repair map, the life-cycle state and the link keys (19
R488 to R499, 03 R100, R101). -/

namespace Sys2Proof.Machine

/-! ### The TAP (R488 to R491) -/

/-- Whether an instruction acts in the present life-cycle and device state; any other code acts as BYPASS (R488). -/
def State.tapAllows (s : State) (code : Nat) : Bool :=
  let lc := s.lcState
  match code with
  | 0xFF | 0x02 | 0x01 => true
  | 0x00 => decide (lc ≠ 0) && (s.cfg.mode = .boot || s.cfg.mode = .halted)
  | 0x10 | 0x11 => decide (lc ≠ 0)
  | 0x20 => decide (lc = 1)
  | 0x30 => decide (1 ≤ lc) && decide (lc ≤ 3)
  | 0x31 => decide (lc = 2)
  | _ => false

/-- The bypass register is selected: it captures 0 (log entry 80). -/
def State.tapBypass (s : State) (code : Nat) : State :=
  { s with test := { s.test with ir := code, bypassBit := false, out := 0 } }

/-- An instruction with its data register, or BYPASS where it does not act. In OFF the TAP has no power. -/
def State.tap (s : State) (code : Nat) (act : State → State) : State :=
  if s.cfg.mode = .off then s
  else if s.tapAllows code then act { s with test := { s.test with ir := code } }
  else s.tapBypass code

/-- What a data register shifts out. -/
def State.shiftOut (s : State) (v : Nat) : State := { s with test := { s.test with out := v } }

/-- Shifts out bits that the spec does not give (log entry 11). -/
def State.shiftFree (s : State) : State :=
  { s with test := { s.test with out := Config.freeBits s.test.asked, asked := s.test.asked + 1 } }

/-- The identification code (R489). -/
def State.idCode (s : State) : Nat := 1 + 2 * 0x4B3 + 2 ^ 12 * (0x5200 + s.part.code) + 2 ^ 28 * (s.stepping % 16)

/-- The boundary register: pins are captured and shifted out, the bits shifted in stand in it. -/
def State.boundaryScan (s : State) (v : Nat) : State := { s.shiftFree with test := { s.shiftFree.test with boundary := v } }

/-- A life-cycle step: the key and hash regions of every store are wiped, then the new state is written (R491, 03 R101). -/
def State.lifeStep (s : State) (code : Nat) : State :=
  let s := s.shiftOut 0
  if code ≠ s.lcState + 1 then s else
  let s := s.wipeSeals
  let write (x : Seal) : Seal := { x with lc := code }
  { s with seals := s.seals.map write, lcState := code }

/-- Writes one key slot of a store; KEY_ID 0 empties it (15 R411). -/
def Seal.putKey (x : Seal) (slot : Nat) (image : List Byte) : Seal :=
  let id := fieldAt image 48 4
  let rest := x.keys.filter (fun k => k.1 ≠ slot)
  { x with keys := if id = 0 then rest else (rest ++ [(slot, id, bytesAt image 0 48)]).mergeSort (fun a b => decide (a.1 ≤ b.1)) }

/-- A key slot is written into the store of every tile (R491). -/
def State.keyWrite (s : State) (slot : Nat) (image : List Byte) : State :=
  let put (x : Seal) : Seal := x.putKey slot image
  { s.shiftOut 0 with seals := s.seals.map put }

/-! ### BIST (R493 to R495) -/

/-- Whether INDEX names something that the target has (R499). -/
def State.indexOk (s : State) (v : Nat) : Bool :=
  let i := cmdIndex v
  match cmdTarget v with
  | 0 | 1 => if cmdPhys v then decide (i < s.part.cores / 64 * 66) else decide (i < s.part.cores)
  | 2 => decide (i ≤ 4)
  | 3 => decide (i ≤ 63)
  | 4 => if cmdTile v = 0 then decide (i ≤ 17) else decide (i ≤ 3)
  | _ => true

/-- Whether every frame of a tile is FREE, RESERVED or BAD. -/
def State.tileClear (s : State) (t : Nat) : Bool :=
  (decide (s.mirrorFrames = 0) || !s.mirrored) &&
  (s.store.frames.filter (fun p => frameTile p.1 = t)).all (fun p => p.2.st = .free || p.2.st = .reserved || p.2.st = .bad)

/-- Acceptance of a BIST command (R494). -/
def State.bistAccepts (s : State) (v : Nat) : Bool :=
  let t := cmdTile v
  let m := s.cfg.mode
  let quiet := m = .maint || m = .halted
  s.hasTile t && decide (tget 0 s.test.running t = 0) && s.indexOk v &&
  (match cmdTarget v with
   | 0 | 1 => m = .ready || m = .drain || quiet
   | 2 => m = .halted || (m = .maint && s.errs.tileOut.contains t)
   | 3 | 5 => quiet && s.tileClear t
   | 4 => quiet
   | _ => false)

/-- The expected signature of core logic: the first stepping's is given (R493). -/
def State.expected (s : State) : Nat := if s.stepping = 0 then 0x9D4C11E73A0B62F5 else Config.freeBits s.test.asked % 2 ^ 64

/-- Takes a BIST command. -/
def State.startBist (s : State) (v : Nat) : State :=
  if !bit v 31 then s
  else if !s.bistAccepts v then { s with test := { s.test with bistRefused := true } }
  else
    let logic := decide (cmdTarget v = 0) || decide (cmdTarget v = 5)
    let s := { s with errs := { s.errs with coresOut := (s.underTest v).foldl (fun l k => insertKey k l) s.errs.coresOut } }
    { s with test := { s.test with
        running := tset 0 s.test.running (cmdTile v) v, bistState := 1, bistTile := cmdTile v, bistErrors := 0, bistFail := 0
        bistSig := 0, bistExp := if logic then s.expected else s.test.bistExp
        asked := if logic ∧ s.stepping ≠ 0 then s.test.asked + 1 else s.test.asked } }

/-- Whether a run has passed: core logic by its signature, a link by its error count (R493). -/
def bistGood (r : BistResult) (target expected : Nat) : Bool :=
  match target with
  | 0 => decide (r.signature.toNat = expected)
  | 4 => decide (r.errors = 0#24)
  | _ => r.pass

/-- A core that passed is cleared, reloaded and back; one that failed is handled as 16 R451 says. -/
def State.coreTested (s : State) (pass : Bool) (k : Nat) : State :=
  if s.errs.coresRetired.contains k then s
  else if pass then { s.clearCore k with errs := { s.errs with coresOut := s.errs.coresOut.erase k } }
  else s.substitute (coreOf k) false

/-- A tile's frame data is zeroed, its reserve and free list are built anew: the lowest frames that are not BAD (R495, 09
R253). -/
def State.rebuildFrames (s : State) (t : Nat) : State :=
  let isBad (f : Nat) : Bool := (s.frame f).st = .bad
  let n := s.reg 0x8014
  let bads := (s.store.frames.filter (fun p => frameTile p.1 = t && p.2.st = .bad)).length
  let res := ((List.range (min s.part.frames (n + bads))).map (frameNum t)).filter (fun f => !isBad f) |>.take n
  let old := s.reserveOf t
  let s := (old.filter (fun f => !res.contains f)).foldl (fun s f => s.setFrame f { gen := (s.frame f).next.gen }) s
  let s := (res.filter (fun f => !old.contains f)).foldl (fun s f => s.setFrame f { st := .reserved, gen := (s.frame f).next.gen }) s
  let zero (p : Nat × Frame) : Nat × Frame :=
    if frameTile p.1 = t ∧ p.2.page ≠ {} then (p.1, { p.2.next with page := {} }) else p
  { s with store := { s.store with
      frames := s.store.frames.map zero, reserve := tset [] s.store.reserve t res
      freed := tset [] s.store.freed t [], next := tset 0 s.store.next t 0 } }

/-- A bank is rebuilt (R495, 16 R456): the Context Table from its live copy, a Job Tracker slice from the descriptor store,
which gives the entries as they were; the LAB, the look-aside and the prefix hash cache empty. -/
def State.rebuildBank (s : State) (t b : Nat) : State :=
  match b with
  | 0 => (match s.globalCopy with
    | some g => { s with store := { s.store with rows := g.rows } }
    | none => s)
  | 4 => if t = s.errs.anchor then { s with store := { s.store with hashCache := [] } } else s
  | 2 => { s with store := { s.store with lab := s.store.lab.filter (fun p => p.1 ≠ t) } }
  | 3 => { s with host := { s.host with look := s.host.look.filter (fun p => p.1 ≠ t) } }
  | _ => s

/-- A run ends (R495). -/
def State.bistEnds (s : State) (t : Nat) (r : BistResult) : State :=
  let v := tget 0 s.test.running t
  if v = 0 then s else
  let s := s.memEvents r.met
  let hit (k : Nat) : Bool := s.cores.conflicts.contains k
  let pass := bistGood r (cmdTarget v) s.test.bistExp && !(s.underTest v).any hit
  let s := { s with cores := { s.cores with conflicts := s.cores.conflicts.filter (fun k => k / 4096 ≠ t) } }
  let s := { s with test := { s.test with
    running := tset 0 s.test.running t 0, bistState := if pass then 2 else 3, bistTile := t, bistErrors := r.errors.toNat
    bistFail := r.failAddr.toNat, bistSig := r.signature.toNat } }
  match cmdTarget v with
  | 0 | 1 => (s.underTest v).foldl (fun s k => s.coreTested pass k) s
  | 2 => s.rebuildBank t (cmdIndex v)
  | 3 => s.rebuildFrames t
  | 5 => ((s.underTest v).foldl (fun s k => s.coreTested (!hit k) k) ((s.rebuildFrames t).rebuildBank t 2)).rebuildBank t 3 |>.rebuildBank t 4
  | _ => s

/-! ### The repair map (R496, R498) -/

/-- Entries of a repair map. -/
def repairEntries : Nat := 4096

/-- Takes a burn of an entry on a tile; `allowed` is what R498 says of the state and the path. -/
def State.startBurn (s : State) (t entry : Nat) (allowed : Bool) : State :=
  let s := { s with test := { s.test with repairTile := some t } }
  let full := decide (repairEntries ≤ (tget [] s.test.repair t).length)
  if allowed && s.hasTile t && s.test.repairBusy.isNone && !full then
    { s with test := { s.test with repairBusy := some (t, entry) } }
  else { s with test := { s.test with repairFail := true } }

/-- A burn of TST_REPAIR_CMD: in MAINT and in HALTED. -/
def State.burnCmd (s : State) (v : Nat) : State :=
  if bit v 0 then s.startBurn (bits v 5 1) (s.reg 0x18020) (s.cfg.mode = .maint || s.cfg.mode = .halted)
  else { s with test := { s.test with repairTile := some (bits v 5 1) } }

/-- A burn completes, and its entry is read back; one that reads back wrong has a failing code, kept as 2^32 + entry. -/
def State.burnEnds (s : State) (good : Bool) : State :=
  match s.test.repairBusy with
  | none => s
  | some b =>
    let e := if good then b.2 else 2 ^ 32 + b.2
    { s with test := { s.test with
        repairBusy := none, repair := tset [] s.test.repair b.1 (tget [] s.test.repair b.1 ++ [e])
        repairFail := s.test.repairFail || !good } }

/-! ### The IEEE 1687 network (R492) -/

/-- The bit that opens an instrument of a tile's segment. -/
def instrumentPlace : Instrument → Nat
  | .bist _ => 0 | .repair _ => 1 | .ucie m _ => 2 + m.toNat | .sensors => 6 | .worlek _ => 7

/-- Whether the life-cycle state opens an instrument (R488), and the tile has it (R492). -/
def State.instrumentOk (s : State) (t : Nat) (x : Instrument) : Bool :=
  match x with
  | .bist _ => true
  | .repair _ => decide (s.lcState ≠ 4)
  | .worlek _ => decide (s.lcState ≤ 2) && t = 0 && decide (s.part.lanes ≠ 0)
  | .ucie m _ => decide (s.lcState ≤ 2) && decide (m.toNat < s.part.modules)
  | .sensors => decide (s.lcState ≤ 2)

/-- One access of an instrument: its segment is opened, then it acts; what it shifts out is not given (log entry 11). -/
def State.useInstrument (s : State) (t : Nat) (x : Instrument) : State :=
  if !s.instrumentOk t x then s.shiftOut 0 else
  let s := { s with test := { s.test with segments := insertKey (t * 8 + instrumentPlace x) s.test.segments } }
  let s := s.shiftFree
  match x with
  | .bist c => s.startBist (c.toNat - cmdTile c.toNat * 8 + t * 8)
  | .repair e => s.startBurn t e.toNat true
  | _ => s

/-! ### The commands -/

def execTrstN (s : State) : Out := .next { s with test := { s.test with ir := 0x02 } }

def execBypass (code : BitVec 8) (s : State) : Out := .next (s.whenever (decide (s.cfg.mode ≠ .off)) (s.tapBypass code.toNat))

def execIdcode (s : State) : Out := .next (s.tap 0x02 (fun s => s.shiftOut s.idCode))

def execSamplePreload (bits : Nat) (s : State) : Out := .next (s.tap 0x01 (fun s => s.boundaryScan bits))

def execExtest (bits : Nat) (s : State) : Out := .next (s.tap 0x00 (fun s => s.boundaryScan bits))

def execIjtag (tile : BitVec 5) (instrument : Instrument) (s : State) : Out :=
  onTile s tile.toNat (s.tap 0x10 (fun s => s.useInstrument tile.toNat instrument))

def execScan (_bits : Nat) (s : State) : Out := .next (s.tap 0x20 State.shiftFree)

def execLcStep (code : BitVec 8) (s : State) : Out := .next (s.tap 0x30 (fun s => s.lifeStep code.toNat))

def execKeyWrite (slot : BitVec 8) (image : List Byte) (s : State) : Out :=
  .next (s.tap 0x31 (fun s => s.keyWrite slot.toNat image))

def execBistDone (tile : BitVec 5) (result : BistResult) (s : State) : Out := onTile s tile.toNat (s.bistEnds tile.toNat result)

def execBurnDone (good : Bool) (s : State) : Out := .next (s.burnEnds good)

end Sys2Proof.Machine
end

