-- ==== Sys2Proof/Machine/MgtRead.lean ====
section
/-! DEFINITION. Management reads: the value of every register (20 R507, R510, with the field tables they name), and the
capture of high words (00 R13). -/

namespace Sys2Proof.Machine

/-! ### Pieces -/

/-- Code of a device state (14 R385). -/
def Mode.code : Mode → Nat
  | .off => 0 | .boot => 1 | .load => 2 | .verify => 3 | .init => 4 | .pair => 5 | .ready => 6 | .drain => 7 | .maint => 8
  | .halted => 9

/-- A mask with the bits of a list. -/
def maskOf (l : List Nat) : Nat := l.foldl withBit 0

/-- The two words of a 64-bit quantity. -/
def loWord (v : Nat) : Nat := v % 2 ^ 32
def hiWord (v : Nat) : Nat := v / 2 ^ 32 % 2 ^ 32

/-- Whether an image has been loaded: fields marked "img" hold zero before (00 R18). -/
def State.imageIn (s : State) : Bool := decide (s.cfg.image.length ≠ 0)

/-- Whether INIT has built a tile's free list and reserve. -/
def State.built (s : State) (t : Nat) : Bool := decide (tget 0 s.store.next t ≠ 0) || decide (s.reserveOf t ≠ [])

/-- The 8 words of a log entry (16 R444). -/
def LogEntry.words (e : LogEntry) : List Nat :=
  [e.severity + 8 * b2n e.escalated + 256 * e.cause + 65536 * (e.ring.getD 0) + 2 ^ 22 * b2n e.ring.isSome + 2 ^ 24 * e.unit,
   e.tile + 32 * e.index + 2 ^ 25 * e.count, loWord e.addr, hiWord e.addr, e.ctx, e.seq, loWord e.time, hiWord e.time]

/-! ### MGT and CFG (01 R28, 03 R104, 14 R406, 20 R506) -/

/-- MGT_SEAL_STATUS. -/
def State.sealStatus (s : State) : Nat :=
  let keys := decide (s.lcState ≠ 0) && (s.seals.take s.part.tiles).all (fun x => x.good && decide (x.keys ≠ []))
  s.lcState + 8 * b2n keys + 16 * b2n s.wiped + 32 * b2n s.tamperSeen + 256 * s.wipeCount

def State.mgtValue (s : State) (off : Nat) : Nat :=
  match off with
  | 0x0000 => s.mgtId
  | 0x0004 => s.cfg.mode.code + 256 * s.cfg.haltCause
  | 0x000C => s.cfg.check + 256 * s.cfg.sectionIdx + 65536 * s.cfg.bootMs
  | 0x0010 => b2n s.cfg.fuses.bootBist + 256 * s.cfg.fuses.minMajor
  | 0x0018 => loWord s.cfg.fuses.serial
  | 0x001C => hiWord s.cfg.fuses.serial
  | 0x0040 => s.sealStatus
  | _ => 0

/-- The table that CFG_TBL_SEL selects. -/
def State.selected (s : State) : Option TableDef := s.table (bits (s.reg 0x1020) 1 0) (bits (s.reg 0x1020) 15 8)

/-- Whether a TABLE_LOAD of a table runs: its item has started. -/
def State.loadRuns (s : State) (t : TableDef) : Bool :=
  t.loading.any (fun id => match s.item id 0 with | some i => i.started | none => false)

/-- CFG_TBL_GEN and CFG_TBL_REFS; before INIT there are no tables and both read their reset value. -/
def State.tableGen (s : State) : Nat :=
  match s.selected with
  | some t => t.gen
  | none => if [Mode.boot, .load, .verify, .init].contains s.cfg.mode then 0 else 0xFFFFFFFF

def State.tableRefs (s : State) : Nat :=
  match s.selected with
  | some t => min 0xFFFF t.refsCur + 65536 * min 0x7FFF t.refsOld + 2 ^ 31 * b2n (s.loadRuns t)
  | none => 0

/-- CFG_LEVELS. -/
def ImageHdr.levels (h : ImageHdr) : Nat :=
  h.linkLevel + 256 * h.pageFmtLevel + 2 ^ 16 * h.np + 2 ^ 18 * h.pairing + 2 ^ 20 * h.partnerPct + 2 ^ 28 * (h.flags % 4)

def State.cfgValue (s : State) (off : Nat) : Nat :=
  match off with
  | 0x1004 => b2n (decide (s.cfg.pendingUnits ≠ [])) + 65536 * s.cfg.seq
  | 0x1010 => s.cfg.image.version
  | 0x1014 => s.cfg.image.levels
  | 0x1024 => s.tableGen
  | 0x1028 => s.tableRefs
  | _ => s.reg off

/-! ### JOB (11 R299, R326) -/

/-- JOB_RING_STATUS. -/
def Ring.status (x : Ring) : Nat := b2n x.heldTrk + 2 * b2n x.heldCpl + 4 * b2n x.aged + 8 * b2n x.draining

/-- Free tracker entries of a tile as its counter shows them. -/
def State.trkFree (s : State) (t : Nat) : Nat := if s.imageIn then s.trackersFree t else 0

def State.jobValue (s : State) (off : Nat) : Nat :=
  if off < 0x3000 then (if off % 0x40 = 0x34 then (s.ring ((off - 0x2000) / 0x40)).status else s.reg off)
  else if off = 0x3000 then ((List.range s.part.tiles).map s.trkFree).foldl (· + ·) 0
  else s.reg off

/-! ### CTX, PGS, PFX (09 R267, 10 R297) -/

/-- Rows not FREE; own rows only while pairing limits hold (15 R416). -/
def State.ctxActive (s : State) : Nat :=
  (s.store.rows.filter (fun p => decide (p.2.state ≠ 0) && (!s.limited || ownRow s.twin.role p.1))).length

/-- Nodes in a state. -/
def State.nodesIn (s : State) (st : Nat) : Nat := (s.store.nodes.filter (fun p => p.2.state = st)).length

def State.storeValue (s : State) (off : Nat) : Nat :=
  match off with
  | 0x4000 => s.ctxActive
  | 0x4004 => (s.store.rows.filter (fun p => p.2.state = 4)).length
  | 0x4008 => (s.store.slots.filter (fun p => p.2.valid)).length
  | 0x8030 => tget 0 s.store.used 0
  | 0x8034 => tget 0 s.store.used 1
  | 0x8038 => tget 0 s.store.used 2
  | 0x803C => tget 0 s.store.used 3
  | 0xA008 => loWord s.cfg.image.salt
  | 0xA00C => hiWord s.cfg.image.salt
  | 0xA018 => s.nodesIn 2
  | 0xA01C => s.nodesIn 1
  | _ => s.reg off

/-! ### HAT and DMA (13 R381) -/

def State.hatValue (s : State) (off : Nat) : Nat := if off = 0xC044 then s.host.faults.length else s.reg off

/-! ### TWN and TIM (15 R437, 17 R475) -/

/-- TWN_STATUS. -/
def State.twinStatus (s : State) : Nat :=
  let x := s.twin
  let spares := (x.lanes.filter (fun l => decide (s.part.lanes ≤ l))).length
  x.st.code + 16 * x.mode + 64 * b2n x.role + 128 * b2n x.fallback + 256 * x.lanes.length + 2 ^ 13 * spares +
  2 ^ 15 * b2n x.auto + 2 ^ 16 * x.level

/-- TWN_SYNC_LEFT: rows of both halves still to synchronize (log entry 70). -/
def State.syncRows (s : State) : Nat :=
  if s.twin.st = .syncing then s.twin.syncLeft.length + (8192 - s.twin.peerSynced.length) else 0

/-- TWN_ACK_WAIT: jobs whose records wait for the partner. -/
def State.ackWait (s : State) : Nat := (s.sched.jobs.filter (fun j => j.complete && decide (j.groups ≠ []))).length

def State.twnValue (s : State) (off : Nat) : Nat :=
  match off with
  | 0xE008 => s.twinStatus
  | 0xE024 => s.syncRows
  | 0xE028 => s.rowsTaken false + 2 ^ 14 * s.rowsTaken true
  | 0xE02C => s.framesTaken
  | 0xE030 => loWord s.twin.hbLast
  | 0xE034 => hiWord s.twin.hbLast
  | 0xE038 => signed32 s.twin.peerOffset
  | 0xE048 => maskOf s.twin.lanes
  | 0xE054 => s.ackWait
  | 0xF000 => loWord s.now
  | 0xF004 => hiWord s.now
  | 0xF014 => signed32 s.health.ppsOffset
  | _ => s.reg off

/-! ### ERR, HLT, TST (16 R463, 17 R475, 19 R499) -/

/-- ERR_ALERT_STATUS. -/
def State.alertStatus (s : State) : Nat :=
  b2n s.errs.alertLog + 2 * b2n (decide (s.cfg.mode = .halted)) + 4 * b2n s.errs.alertFallback + 8 * b2n s.errs.alertMonitor

/-- ERR_ANCHOR. -/
def Errors.anchorWord (x : Errors) : Nat := x.anchor + 32 * x.spare + 2 ^ 10 * b2n x.spareValid + 2 ^ 11 * b2n x.spareBuilding

/-- HLT_TILE_AWAKE, from INIT on. -/
def State.awakeMask (s : State) : Nat := maskOf ((List.range s.part.tiles).filter (fun t => s.built t && s.awake t))

/-- TST_REPAIR_STATUS. -/
def Test.repairStatus (x : Test) : Nat :=
  ((x.repairTile.map (fun t => (tget [] x.repair t).length)).getD 0) + 2 ^ 13 * b2n x.repairBusy.isSome + 2 ^ 14 * b2n x.repairFail

def State.errValue (s : State) (off : Nat) : Nat :=
  match off with
  | 0x10000 => s.errs.fifo.length + 256 * s.errs.lostSev + 2 ^ 11 * b2n s.errs.lost
  | 0x1000C => s.alertStatus
  | 0x10024 => maskOf s.errs.tileOut
  | 0x10028 => s.errs.anchorWord
  | 0x14008 => s.cfg.fuses.alertPct + 256 * s.cfg.fuses.tripPct + 65536 * s.cfg.fuses.roFloor
  | 0x14018 => s.awakeMask
  | 0x18004 => s.test.bistState + 4 * b2n s.test.bistRefused + 8 * s.test.bistTile + 256 * s.test.bistErrors
  | 0x18008 => loWord s.test.bistFail
  | 0x1800C => hiWord s.test.bistFail
  | 0x18010 => loWord s.test.bistSig
  | 0x18014 => hiWord s.test.bistSig
  | 0x18018 => loWord s.test.bistExp
  | 0x1801C => hiWord s.test.bistExp
  | 0x18028 => s.test.repairStatus
  | _ =>
    if 0x10040 ≤ off ∧ off ≤ 0x1005C then
      (match s.errs.fifo with | e :: _ => e.words.getD ((off - 0x10040) / 4) 0 | [] => 0)
    else s.reg off

/-! ### Per-tile windows (20 R509, R510) -/

/-- HLT_TILE_INFO. -/
def State.tileInfo (s : State) (t : Nat) : Nat :=
  t + 32 * (s.bandsOf t).headD 0 + 2 ^ 10 * b2n (decide (t = s.errs.anchor)) +
  2 ^ 11 * b2n (decide (t = s.errs.spare) && s.errs.spareValid) + 2 ^ 12

/-- Spare cores of a tile that are taken. -/
def State.sparesTaken (s : State) (t : Nat) : Nat :=
  ((List.range (s.part.cores / 64)).map (fun r =>
    let m := tget 0 s.errs.sparesUsed (t * 64 + r)
    m % 2 + m / 2 % 2)).foldl (· + ·) 0

/-- HLT_SPARES. -/
def State.sparesWord (s : State) (t : Nat) : Nat :=
  (s.part.cores / 64 * sparesPerRank - s.sparesTaken t) + 128 * (s.errs.coresOut.filter (fun k => k / 4096 = t)).length

/-- HLT_ROW_SPARE_LEFT: the spares the tile is built with less those taken, from BOOT's loading on (19 R497). -/
def State.rowSparesLeft (s : State) (t : Nat) : Nat :=
  if s.lcState = 0 then 0 else
  let used := ((s.errs.rowsUsed.filter (fun p => p.1 / 4096 = t)).map Prod.snd).foldl (· + ·) 0
  (Config.rowSpares t - used) % 2 ^ 17

/-- HLT_CCLK. -/
def State.cclkWord (s : State) (t : Nat) : Nat :=
  let h := s.tileHealth t
  (if s.part = .aeS then 0 else h.cur + 16 * h.target) + 256 * h.fmaxAged + 2 ^ 12 * b2n h.switching

/-- A temperature as 8 bits: 0 below 0 °C. -/
def temp8 (v : Int) : Nat := min 255 v.toNat

/-- HLT_TEMP_HOT. -/
def TileHealth.hotWord (h : TileHealth) : Nat :=
  temp8 h.hot + 256 * ((h.hottest.map Prod.fst).getD 0) + 2 ^ 12 * maskOf h.tempOut

/-- Packs readings `n` of them to a word from index `i` on, `w` bits each. -/
def packed (w n i : Nat) (l : List Nat) : Nat :=
  ((List.range n).map (fun j => l.getD (i + j) 0 % 2 ^ w * 2 ^ (w * j))).foldl (· + ·) 0

/-- Requesters parked on open faults of a tile. -/
def State.parkedOn (s : State) (t : Nat) : Nat :=
  ((s.host.faults.filter (fun f => f.tile = t)).map (fun f => f.who.length)).foldl (· + ·) 0

def State.healthValue (s : State) (t w : Nat) : Nat :=
  let h := s.tileHealth t
  match w with
  | 0x1CC => s.cclkWord t
  | 0x1D4 => h.hotWord
  | 0x1D8 => packed 8 4 0 (h.temps.map temp8)
  | 0x1DC => packed 8 4 4 (h.temps.map temp8)
  | 0x1E0 => packed 8 4 8 (h.temps.map temp8)
  | 0x1E4 => packed 8 4 12 (h.temps.map temp8)
  | 0x1E8 => packed 16 2 0 h.volts
  | 0x1EC => packed 16 2 2 h.volts
  | 0x1F0 => packed 16 2 4 h.volts
  | 0x1F4 => packed 16 2 6 h.volts
  | 0x1F8 => packed 16 2 0 h.procs
  | 0x1FC => packed 16 2 2 h.procs
  | 0x200 => h.power
  | _ => s.reg (win t w)

def State.windowValue (s : State) (t w : Nat) : Nat :=
  match w with
  | 0x000 => s.tileInfo t
  | 0x170 => if s.built t then s.freeCount t else 0
  | 0x174 => (s.reserveOf t).length
  | 0x178 => s.trkFree t
  | 0x17C => s.windowOf t
  | 0x194 => s.parkedOn t
  | 0x1A4 => tget 0 s.host.up t + 16 * tget 0 s.host.degraded t
  | 0x1B8 => s.sparesWord t
  | 0x1BC => s.rowSparesLeft t
  | 0x1C0 => (s.store.frames.filter (fun p => frameTile p.1 = t && p.2.st = .bad)).length
  | 0x1C8 => tget 0 s.errs.tileState t
  | _ => s.healthValue t w

/-! ### Reads -/

/-- The value of the register at an aligned offset below 04_0000h; an unoccupied one reads 0 (20 R501). -/
def State.valueAt (s : State) (off : Nat) : Nat :=
  if (s.fields off).isNone then 0
  else if off < 0x1000 then s.mgtValue off
  else if off < 0x2000 then s.cfgValue off
  else if off < 0x4000 then s.jobValue off
  else if off < 0xC000 then s.storeValue off
  else if off < 0xE000 then s.hatValue off
  else if off < 0x10000 then s.twnValue off
  else if off < 0x20000 then s.errValue off
  else s.windowValue ((off - 0x20000) / 0x1000) (off % 0x1000)

/-- Low words of the pairs whose high word a read captures (20 R504). -/
def readPair (off : Nat) : Bool :=
  pairLow off || [0x0018, 0xA008, 0xD008, 0xE030, 0xF000, 0x18008, 0x18010, 0x18018].contains off

/-- Requesters: the host, whatever module carries its access (13 R352), and the TAP. -/
def hostRequester : Nat := 0
def tapRequester : Nat := 1

/-- One read of an aligned offset: a captured high word is returned once, a low word captures its high word (00 R13). -/
def State.readReg (s : State) (who off : Nat) : State × Nat :=
  let key := 2 ^ 18 * who + off
  match tget none s.cfg.highCap key with
  | some w => ({ s with cfg := { s.cfg with highCap := tset none s.cfg.highCap key none } }, w.toNat)
  | none =>
    let v := s.valueAt off
    if readPair off && (s.fields off).isSome then
      let high := some (BitVec.ofNat 32 (s.valueAt (off + 4)))
      ({ s with cfg := { s.cfg with highCap := tset none s.cfg.highCap (key + 4) high } }, v)
    else (s, v)

/-- A management read: refused and logged where it is misaligned or beyond the space (13 R356, 20 R500). The last part is
the value, none where the read is refused. -/
def State.mgtRead (s : State) (who off : Nat) : State × Option Nat :=
  if off % 4 ≠ 0 ∨ 0x40000 ≤ off then (s.rejected off, none)
  else let r := s.readReg who off; (r.1, some r.2)

end Sys2Proof.Machine
end

