-- ==== Sys2Proof/Machine/Mgt.lean ====
section
/-! DEFINITION. Management writes: what each register refuses and what a write to it does (00 R6, R13 to R17, 11 R300, R301,
13 R356, R371, R381, 14 R386, R398 to R401, 15 R427, R435 to R437, 16 R446, 17 R474, 19 R490, R494, R498, 20 R500 to
R505). -/

namespace Sys2Proof.Machine

/-! ### What is refused (00 R6) -/

/-- Distance from index `a` to index `b`, both free-running 32-bit counters (11 R298). -/
def ahead (a b : Nat) : Nat := (b + 2 ^ 32 - a) % 2 ^ 32

/-- Whether a pair reads ENABLE or DRAINING 1b. -/
def State.ringBusy (s : State) (r : Nat) : Bool := bit (s.reg (ringReg r 8)) 0 || (s.ring r).draining

/-- Ring registers (11 R300, R301, 20 R505). -/
def State.ringBarred (s : State) (r o v : Nat) : Bool :=
  let ctl := s.reg (ringReg r 8)
  match o with
  | 0x08 => if s.ringBusy r then decide (bits v 10 1 ≠ bits ctl 10 1) else bit v 0 && !bit (s.reg 0xC000) 0
  | 0x0C => !bit ctl 0 || decide (2 ^ bits ctl 5 1 < ahead (s.reg (ringReg r 0x10)) v)
  | 0x20 => decide (ahead (s.reg (ringReg r 0x20)) (s.reg (ringReg r 0x1C)) < ahead (s.reg (ringReg r 0x20)) v)
  | 0x2C => s.ringBusy r
  | _ => false

/-- Whether a REQ is listed for the present state; RESUME also needs every tile in service awake (14 R386, 17 R474). -/
def State.reqBarred (s : State) (req : Nat) : Bool :=
  match req with
  | 0 => false
  | 3 => !(s.cfg.mode = .drain || s.cfg.mode = .maint) || decide (s.reg 0x14010 ≠ 0) || decide (s.reg 0x14014 ≠ 0) ||
         (List.range s.part.tiles).any (fun t => s.inService t && !s.awake t)
  | _ => decide (s.cfg.mode ≠ .ready)

/-- Whether a write of a register that is no 64-bit pair is refused. -/
def State.writeBarred (s : State) (off v : Nat) : Bool :=
  if 0x2000 ≤ off ∧ off < 0x3000 then s.ringBarred ((off - 0x2000) / 0x40) (off % 0x40) v else
  match off with
  | 0x0008 => s.reqBarred (bits v 1 0)
  | 0xC000 => !bit v 0 && ((List.range s.part.rings).any s.ringBusy || decide (s.host.faults ≠ []))
  | 0xC020 => bit (s.reg 0xC020) 0 && decide (bits v 5 1 ≠ bits (s.reg 0xC020) 5 1)
  | 0xC028 => decide (ahead (s.reg 0xC028) (s.reg 0xC024) < ahead (s.reg 0xC028) v)
  | 0xE000 => decide (bits v 1 0 = 1) && s.attachRefused
  | _ => false

/-- Whether the write of the high word of a pair is refused: an RW pair whose low word is not held (00 R6, 20 R504), an address
of more than 48 bits that it would set (13 R358), a pair of a ring in service (11 R300), the root or the fault queue in
service (13 R381). -/
def State.pairBarred (s : State) (off v : Nat) : Bool :=
  let ring := decide (0x2000 ≤ off) && decide (off < 0x3000)
  s.lowMissing off || (vaHigh off && (ring || s.early) && decide (v / 65536 ≠ 0)) || (ring && s.ringBusy ((off - 0x2000) / 0x40)) ||
  (decide (off = 0xC00C) && bit (s.reg 0xC000) 0) || (decide (off = 0xC01C) && bit (s.reg 0xC020) 0)

/-! ### What a write does -/

/-- JOB_RING_CTL. ENABLE from 0b to 1b clears the indices and SEQ; ENABLE = 0b stops intake, and ENABLE and DRAINING read 1b
until the last record of the pair's jobs is written (11 R300). -/
def State.writeRingCtl (s : State) (fs : List Fld) (r v : Nat) : State :=
  let x := s.ring r
  let on := bit (s.reg (ringReg r 8)) 0
  let t := s.writeReg fs (ringReg r 8) v
  if !on && bit v 0 then
    let t := [0x0C, 0x10, 0x1C, 0x20, 0x3C].foldl (fun (t : State) o => t.setReg (ringReg r o) 0) t
    let t := t.setRing r { irqWant := x.irqWant }
    { t with host := { t.host.dropCarried (.intake r) with failed := t.host.failed.filter (fun p => p.1 ≠ .intake r) } }
  else if on && !bit v 0 then
    let jobs := s.sched.jobs.any (fun j => j.ring = r)
    let y : Ring := { x with draining := jobs, heldTrk := false, heldCpl := false, aged := false, agedAt := 0, needs := [], reading := [] }
    (t.setRing r y).setReg (ringReg r 8) (if jobs then v % 4096 / 2 * 2 + 1 else v % 4096)
  else t

/-- MGT_CTL.REQ (14 R386). -/
def State.takeReq (s : State) (req : Nat) : State :=
  match req with
  | 1 => { s with cfg := { s.cfg with mode := .drain, toMaint := false } }
  | 2 => ({ s with cfg := { s.cfg with mode := .drain, toMaint := true } }).settleDrain
  | 3 => { s with cfg := { s.cfg with mode := .ready, toMaint := false } }
  | _ => s

/-- MGT_SEAL_STATUS: WIPED and TAMPER_SEEN are cleared, the latter in the stores too (03 R104). -/
def State.clearSeal (s : State) (v : Nat) : State :=
  let clear (x : Seal) : Seal := { x with tamperSeen := x.tamperSeen && !bit v 5 }
  { s with wiped := s.wiped && !bit v 4, tamperSeen := s.tamperSeen && !bit v 5, seals := s.seals.map clear }

/-- The fault queue goes on: records that wait are written while it is in service and has room (13 R369). -/
def State.fqGoes (s : State) : State := if bit (s.reg 0xC020) 0 then s.drainFaults s.host.faults.length else s

/-- HAT_FAULT_RESP (13 R371). -/
def State.faultResp (s : State) (v : Nat) : State :=
  (if bit v 24 then s.failFault (bits v 23 0) else s.retryFault (bits v 23 0)).pump

/-- TWN_CTL: HALF and IRQ_EN, then REQ. In PENDING a part without rows claims the half named (15 R413). -/
def State.writeTwn (s : State) (fs : List Fld) (v : Nat) (nonce : List Byte) : State :=
  let s := s.writeReg fs 0xE000 v
  let s := if s.twin.st = .pending ∧ s.rowsInUse = [] then { s with twin := { s.twin with role := bit v 2 } } else s
  match bits v 1 0 with
  | 1 => s.attach nonce
  | 2 => s.sendDetach
  | _ => s

/-- ERR_LOG_STATUS.LOST; clearing it clears LOST_SEV (16 R463). -/
def State.clearLost (s : State) (v : Nat) : State :=
  if bit v 11 then { s with errs := { s.errs with lost := false, lostSev := 0 } } else s

/-- ERR_LOG_POP removes the oldest entry (16 R446). -/
def State.popLog (s : State) (v : Nat) : State :=
  if bit v 0 then { s with errs := { s.errs with fifo := s.errs.fifo.tail } } else s

/-- ERR_ALERT_STATUS. -/
def State.clearAlert (s : State) (v : Nat) : State :=
  { s with errs := { s.errs with alertLog := s.errs.alertLog && !bit v 0, alertFallback := s.errs.alertFallback && !bit v 2
                                 alertMonitor := s.errs.alertMonitor && !bit v 3 } }

/-- The effect of a write that no rule refuses, of a register that is no pair. -/
def State.takeWrite (s : State) (fs : List Fld) (off v : Nat) (nonce : List Byte) : State :=
  if 0x2000 ≤ off ∧ off < 0x3000 then
    (if off % 0x40 = 8 then s.writeRingCtl fs ((off - 0x2000) / 0x40) v else s.writeReg fs off v) else
  match off with
  | 0x0008 => s.takeReq (bits v 1 0)
  | 0x0040 => s.clearSeal v
  | 0x1000 => s.commitWrite v
  | 0xC020 => (s.writeReg fs off v).fqGoes
  | 0xC028 => (s.writeReg fs off v).fqGoes
  | 0xC040 => s.faultResp v
  | 0xD004 => if bit v 31 then s.setReg 0xD004 (s.reg 0xD004 % 2 ^ 31) else s
  | 0xE000 => s.writeTwn fs v nonce
  | 0xE004 => s.fence (v % 65536)
  | 0x10000 => s.clearLost v
  | 0x10008 => s.popLog v
  | 0x1000C => s.clearAlert v
  | 0x14010 => (s.writeReg fs off v).powerFollow
  | 0x14014 => (s.writeReg fs off v).powerFollow
  | 0x18000 => s.startBist v
  | 0x18004 => if bit v 2 then { s with test := { s.test with bistRefused := false } } else s
  | 0x18024 => s.burnCmd v
  | 0x18028 => if bit v 14 then { s with test := { s.test with repairFail := false } } else s
  | _ => s.writeReg fs off v

/-- A management write; the last part tells whether it is answered OK. -/
def State.mgtWrite (s : State) (off v : Nat) (nonce : List Byte) : State × Bool :=
  match s.checkWrite off v with
  | .refused => (s.rejected off, false)
  | .reserved => (s.reservedWrite off, true)
  | .take fs =>
    if pairLow off then (s.holdLow off v, true)
    else if pairHigh off then (if s.pairBarred off v then (s.rejected off, false) else (s.applyPair fs off v, true))
    else if s.writeBarred off v then (s.rejected off, false)
    else (s.takeWrite fs off v nonce, true)

/-! ### Accesses (13 R355, R356, 19 R490) -/

/-- Whether a module has as many requests of the host waiting as it may (13 R355): all others are answered at once. -/
def State.excess (s : State) (q : Req) : Bool :=
  decide (64 ≤ (s.host.invals.filter (fun i => i.q.tile = q.tile && i.q.module = q.module)).length)

/-- A write of the host, answered on the module that carried it. In OFF nothing arrives. -/
def State.hostWrite (s : State) (q : Req) (off v : Nat) (nonce : List Byte) : State :=
  if s.cfg.mode = .off then s
  else if s.excess q then s.answer q false 0
  else let r := s.mgtWrite off v nonce; r.1.answer q r.2 0

/-- A read of the host. -/
def State.hostRead (s : State) (q : Req) (off : Nat) : State :=
  if s.cfg.mode = .off then s
  else if s.excess q then s.answer q false 0
  else let r := s.mgtRead hostRequester off; r.1.answer q r.2.isSome (r.2.getD 0)

/-- The nonce of a hello that no command names: 32 bytes that nothing constrains (log entry 11). -/
def State.freeNonce (s : State) : List Byte := leBytes 32 (Config.freeBits s.test.asked)

/-- The same state with one more question asked. -/
def State.asks (s : State) : State := { s with test := { s.test with asked := s.test.asked + 1 } }

/-- A doorbell: a write of JOB_RING_TAIL without response (13 R356). -/
def State.doorbell (s : State) (q : Req) (aux addr : Nat) : State :=
  if s.cfg.mode = .off then s
  else if bits aux 31 6 ≠ 0 then s.badPacket q
  else (s.mgtWrite (ringReg (bits aux 5 0) 0x0C) (addr % 2 ^ 32) []).1

/-- What MGT_ACCESS captures (19 R490). -/
def Test.captured (x : Test) : Nat := x.mgtData + 2 ^ 49 * b2n x.mgtDone + 2 ^ 50 * b2n x.mgtRefused

/-- The end of an access of the TAP. -/
def State.accessDone (s : State) (data : Nat) (ok : Bool) : State :=
  { s with test := { s.test with mgtData := data, mgtDone := true, mgtRefused := !ok } }

/-- Whether a write of a register is an ATTACH, whose hello needs a nonce. -/
def isAttach (off v : Nat) : Bool := decide (off = 0xE000) && decide (bits v 1 0 = 1)

/-- A write of the host to any register. -/
def State.hostWriteAny (s : State) (q : Req) (off v : Nat) : State :=
  if isAttach off v then s.asks.hostWrite q off v s.freeNonce else s.hostWrite q off v []

/-- A write of the TAP to any register. -/
def State.tapWrite (s : State) (off v : Nat) : State × Bool :=
  if isAttach off v then s.asks.mgtWrite off v s.freeNonce else s.mgtWrite off v []

/-- MGT_ACCESS: the last access is shifted out, then this one is made; in RETIRED there are reads only (19 R488, R490). -/
def State.tapAccess (s : State) (word : Nat) (write : Bool) (data : Nat) : State :=
  let s := s.shiftOut s.test.captured
  if write && decide (s.lcState = 4) then s.accessDone data false
  else if write then let r := s.tapWrite (4 * word) data; r.1.accessDone data r.2
  else let r := s.mgtRead tapRequester (4 * word); r.1.accessDone (r.2.getD 0) r.2.isSome

/-- A write of the host on a tile of the part. -/
def State.writeFrom (s : State) (q : Req) (off v : Nat) : Out := onTile s q.tile.toNat (s.hostWrite q off v [])

/-- TWN_CTL with a REQ, its other fields as they are. -/
def State.twnReq (s : State) (req : Nat) : Nat := req + bits (s.reg 0xE000) 3 2 * 4

/-! ### The commands -/

def execMgtAccess (word : BitVec 16) (write : Bool) (data : BitVec 32) (s : State) : Out :=
  .next (s.tap 0x11 (fun s => s.tapAccess word.toNat write data.toNat))

def execDbell (q : Req) (aux : BitVec 32) (addr : BitVec 64) (s : State) : Out :=
  onTile s q.tile.toNat (s.doorbell q aux.toNat addr.toNat)

def execMgrd (q : Req) (addr : BitVec 64) (s : State) : Out := onTile s q.tile.toNat (s.hostRead q addr.toNat)

def execRegisterWrite (q : Req) (addr : BitVec 64) (value : BitVec 32) (s : State) : Out :=
  onTile s q.tile.toNat (s.hostWriteAny q addr.toNat value.toNat)

def execRingEnable (q : Req) (ring : BitVec 6) (value : BitVec 32) (s : State) : Out :=
  s.writeFrom q (ringReg ring.toNat 0x08) value.toNat

def execRingDisable (q : Req) (ring : BitVec 6) (value : BitVec 32) (s : State) : Out :=
  s.writeFrom q (ringReg ring.toNat 0x08) value.toNat

def execJobRingTail (q : Req) (ring : BitVec 6) (value : BitVec 32) (s : State) : Out :=
  s.writeFrom q (ringReg ring.toNat 0x0C) value.toNat

def execJobCplHead (q : Req) (ring : BitVec 6) (value : BitVec 32) (s : State) : Out :=
  s.writeFrom q (ringReg ring.toNat 0x20) value.toNat

def execHatFqHead (q : Req) (value : BitVec 32) (s : State) : Out := s.writeFrom q 0xC028 value.toNat

def execRetry (q : Req) (fault : BitVec 24) (s : State) : Out := s.writeFrom q 0xC040 fault.toNat

def execFail (q : Req) (fault : BitVec 24) (s : State) : Out := s.writeFrom q 0xC040 (2 ^ 24 + fault.toNat)

def execHatEnable (q : Req) (s : State) : Out := s.writeFrom q 0xC000 1

def execHatDisable (q : Req) (s : State) : Out := s.writeFrom q 0xC000 0

def execCfgCommit (q : Req) (value : BitVec 32) (s : State) : Out := s.writeFrom q 0x1000 value.toNat

def execReqDrain (q : Req) (s : State) : Out := s.writeFrom q 0x0008 1

def execReqMaint (q : Req) (s : State) : Out := s.writeFrom q 0x0008 2

def execReqResume (q : Req) (s : State) : Out := s.writeFrom q 0x0008 3

def execHltTileRetain (q : Req) (value : BitVec 32) (s : State) : Out := s.writeFrom q 0x14010 value.toNat

def execHltTileGate (q : Req) (value : BitVec 32) (s : State) : Out := s.writeFrom q 0x14014 value.toNat

def execErrLogPop (q : Req) (value : BitVec 32) (s : State) : Out := s.writeFrom q 0x10008 value.toNat

def execBistStart (q : Req) (value : BitVec 32) (s : State) : Out := s.writeFrom q 0x18000 value.toNat

def execBurn (q : Req) (value : BitVec 32) (s : State) : Out := s.writeFrom q 0x18024 value.toNat

def execTwnFence (q : Req) (value : BitVec 32) (s : State) : Out := s.writeFrom q 0xE004 value.toNat

def execAttach (q : Req) (nonce : List Byte) (s : State) : Out :=
  onTile s q.tile.toNat (s.hostWrite q 0xE000 (s.twnReq 1) nonce)

def execDetach (q : Option Req) (s : State) : Out :=
  match q with
  | some q => s.writeFrom q 0xE000 (s.twnReq 2)
  | none => .next (s.whenever s.twinOn s.takeDetach)

end Sys2Proof.Machine
end

