-- ==== Sys2Proof/Machine/Dispatch.lean ====
section
/-! DEFINITION. One arm per command: each calls the command's meaning. -/

namespace Sys2Proof.Machine

def exec (i : Instr) (s : State) : Host.Outcome State Fault Refusal :=
  match i with
  | .resetNLow => Sys2Proof.Machine.execResetNLow s
  | .resetNRise => Sys2Proof.Machine.execResetNRise s
  | .pwrOkFall => Sys2Proof.Machine.execPwrOkFall s
  | .pllLockTimeout tile pll => Sys2Proof.Machine.execPllLockTimeout tile pll s
  | .bootDone report => Sys2Proof.Machine.execBootDone report s
  | .nvmBurst bytes => Sys2Proof.Machine.execNvmBurst bytes s
  | .nvmTimeout => Sys2Proof.Machine.execNvmTimeout s
  | .verify => Sys2Proof.Machine.execVerify s
  | .init => Sys2Proof.Machine.execInit s
  | .pairTimeout => Sys2Proof.Machine.execPairTimeout s
  | .tamper => Sys2Proof.Machine.execTamper s
  | .trstN => Sys2Proof.Machine.execTrstN s
  | .bypass code => Sys2Proof.Machine.execBypass code s
  | .idcode => Sys2Proof.Machine.execIdcode s
  | .samplePreload bits => Sys2Proof.Machine.execSamplePreload bits s
  | .extest bits => Sys2Proof.Machine.execExtest bits s
  | .ijtag tile instrument => Sys2Proof.Machine.execIjtag tile instrument s
  | .mgtAccess word write data => Sys2Proof.Machine.execMgtAccess word write data s
  | .scan bits => Sys2Proof.Machine.execScan bits s
  | .lcStep code => Sys2Proof.Machine.execLcStep code s
  | .keyWrite slot image => Sys2Proof.Machine.execKeyWrite slot image s
  | .dbell q aux addr => Sys2Proof.Machine.execDbell q aux addr s
  | .mgrd q addr => Sys2Proof.Machine.execMgrd q addr s
  | .registerWrite q addr value => Sys2Proof.Machine.execRegisterWrite q addr value s
  | .hostPacket q word0 aux addr => Sys2Proof.Machine.execHostPacket q word0 aux addr s
  | .cpl q status payload => Sys2Proof.Machine.execCpl q status payload s
  | .wack q status => Sys2Proof.Machine.execWack q status s
  | .inval q aux addr => Sys2Proof.Machine.execInval q aux addr s
  | .invalAck q => Sys2Proof.Machine.execInvalAck q s
  | .requestTimeout q => Sys2Proof.Machine.execRequestTimeout q s
  | .ucieModuleUp tile module degraded => Sys2Proof.Machine.execUcieModuleUp tile module degraded s
  | .ucieModuleDown tile module => Sys2Proof.Machine.execUcieModuleDown tile module s
  | .ringEnable q ring value => Sys2Proof.Machine.execRingEnable q ring value s
  | .ringDisable q ring value => Sys2Proof.Machine.execRingDisable q ring value s
  | .jobRingTail q ring value => Sys2Proof.Machine.execJobRingTail q ring value s
  | .jobCplHead q ring value => Sys2Proof.Machine.execJobCplHead q ring value s
  | .descriptorIntake hv => Sys2Proof.Machine.execDescriptorIntake hv s
  | .descriptorAged ring => Sys2Proof.Machine.execDescriptorAged ring s
  | .openCtx job hv => Sys2Proof.Machine.execOpenCtx job hv s
  | .close job => Sys2Proof.Machine.execClose job s
  | .fork job => Sys2Proof.Machine.execFork job s
  | .forkBinding job => Sys2Proof.Machine.execForkBinding job s
  | .park job => Sys2Proof.Machine.execPark job s
  | .unpark job hv => Sys2Proof.Machine.execUnpark job hv s
  | .append job item hv => Sys2Proof.Machine.execAppend job item hv s
  | .attendDecode job item hv => Sys2Proof.Machine.execAttendDecode job item hv s
  | .attendPrefill job item hv => Sys2Proof.Machine.execAttendPrefill job item hv s
  | .attendPartial job item hv => Sys2Proof.Machine.execAttendPartial job item hv s
  | .attendBackward job item hv => Sys2Proof.Machine.execAttendBackward job item hv s
  | .prefixLookup job hv => Sys2Proof.Machine.execPrefixLookup job hv s
  | .prefixPublish job hv => Sys2Proof.Machine.execPrefixPublish job hv s
  | .prefixDrop job hv => Sys2Proof.Machine.execPrefixDrop job hv s
  | .evict job => Sys2Proof.Machine.execEvict job s
  | .prefetch job => Sys2Proof.Machine.execPrefetch job s
  | .truncate job hv => Sys2Proof.Machine.execTruncate job hv s
  | .tableLoad job hv => Sys2Proof.Machine.execTableLoad job hv s
  | .tableLoadProceed job hv => Sys2Proof.Machine.execTableLoadProceed job hv s
  | .barrier job => Sys2Proof.Machine.execBarrier job s
  | .phaseSwitch job => Sys2Proof.Machine.execPhaseSwitch job s
  | .nop job => Sys2Proof.Machine.execNop job s
  | .workItemDispatch tile => Sys2Proof.Machine.execWorkItemDispatch tile s
  | .itemAged job item => Sys2Proof.Machine.execItemAged job item s
  | .workItemComplete job item => Sys2Proof.Machine.execWorkItemComplete job item s
  | .completionRecord job => Sys2Proof.Machine.execCompletionRecord job s
  | .interruptMessage src => Sys2Proof.Machine.execInterruptMessage src s
  | .batchRoundClose tile frame => Sys2Proof.Machine.execBatchRoundClose tile frame s
  | .batchWindowAdapt tile => Sys2Proof.Machine.execBatchWindowAdapt tile s
  | .remoteRead job item core quarter off words => Sys2Proof.Machine.execRemoteRead job item core quarter off words s
  | .credit receiver window units => Sys2Proof.Machine.execCredit receiver window units s
  | .wdata receiver window flit => Sys2Proof.Machine.execWdata receiver window flit s
  | .wfence receiver window => Sys2Proof.Machine.execWfence receiver window s
  | .creditHoldTimeout sender => Sys2Proof.Machine.execCreditHoldTimeout sender s
  | .mergeNode job item target lo n => Sys2Proof.Machine.execMergeNode job item target lo n s
  | .atomicAdd job item row source => Sys2Proof.Machine.execAtomicAdd job item row source s
  | .waveFold job target wave => Sys2Proof.Machine.execWaveFold job target wave s
  | .hatWalk tile va hv => Sys2Proof.Machine.execHatWalk tile va hv s
  | .hatFqHead q value => Sys2Proof.Machine.execHatFqHead q value s
  | .retry q fault => Sys2Proof.Machine.execRetry q fault s
  | .fail q fault => Sys2Proof.Machine.execFail q fault s
  | .hatTimeout tile place => Sys2Proof.Machine.execHatTimeout tile place s
  | .hatEnable q => Sys2Proof.Machine.execHatEnable q s
  | .hatDisable q => Sys2Proof.Machine.execHatDisable q s
  | .dmaDescriptorEnd tile channel how => Sys2Proof.Machine.execDmaDescriptorEnd tile channel how s
  | .backgroundEviction tile => Sys2Proof.Machine.execBackgroundEviction tile s
  | .evictionDone slot => Sys2Proof.Machine.execEvictionDone slot s
  | .evictionWriteFail slot => Sys2Proof.Machine.execEvictionWriteFail slot s
  | .recallDone slot => Sys2Proof.Machine.execRecallDone slot s
  | .recallFail slot => Sys2Proof.Machine.execRecallFail slot s
  | .cfgCommit q value => Sys2Proof.Machine.execCfgCommit q value s
  | .commitAdoption unit => Sys2Proof.Machine.execCommitAdoption unit s
  | .reqDrain q => Sys2Proof.Machine.execReqDrain q s
  | .reqMaint q => Sys2Proof.Machine.execReqMaint q s
  | .reqResume q => Sys2Proof.Machine.execReqResume q s
  | .hltTileRetain q value => Sys2Proof.Machine.execHltTileRetain q value s
  | .hltTileGate q value => Sys2Proof.Machine.execHltTileGate q value s
  | .tileWake tile => Sys2Proof.Machine.execTileWake tile s
  | .sramRetention tile bank => Sys2Proof.Machine.execSramRetention tile bank s
  | .sramWake tile bank => Sys2Proof.Machine.execSramWake tile bank s
  | .sramBackgroundTest tile bank bad => Sys2Proof.Machine.execSramBackgroundTest tile bank bad s
  | .spdScrub core bank finding => Sys2Proof.Machine.execSpdScrub core bank finding s
  | .scrubClaim core bank => Sys2Proof.Machine.execScrubClaim core bank s
  | .pageMemoryScrub tile channel report => Sys2Proof.Machine.execPageMemoryScrub tile channel report s
  | .coreFault core kind => Sys2Proof.Machine.execCoreFault core kind s
  | .coreStallTimeout core => Sys2Proof.Machine.execCoreStallTimeout core s
  | .coreSubstitution core pass => Sys2Proof.Machine.execCoreSubstitution core pass s
  | .relocationDone tile => Sys2Proof.Machine.execRelocationDone tile s
  | .anchorTakeover => Sys2Proof.Machine.execAnchorTakeover s
  | .spareAnchorBuilt => Sys2Proof.Machine.execSpareAnchorBuilt s
  | .errLogPop q value => Sys2Proof.Machine.execErrLogPop q value s
  | .bistStart q value => Sys2Proof.Machine.execBistStart q value s
  | .bistDone tile result => Sys2Proof.Machine.execBistDone tile result s
  | .burn q value => Sys2Proof.Machine.execBurn q value s
  | .burnDone good => Sys2Proof.Machine.execBurnDone good s
  | .stepWindow tile => Sys2Proof.Machine.execStepWindow tile s
  | .cclkPllLock tile => Sys2Proof.Machine.execCclkPllLock tile s
  | .pllUnlock tile => Sys2Proof.Machine.execPllUnlock tile s
  | .tempReading tile values => Sys2Proof.Machine.execTempReading tile values s
  | .voltReading tile values nominal => Sys2Proof.Machine.execVoltReading tile values nominal s
  | .processReading tile values => Sys2Proof.Machine.execProcessReading tile values s
  | .sensorFail tile kind sensor => Sys2Proof.Machine.execSensorFail tile kind sensor s
  | .ppsEdge falling => Sys2Proof.Machine.execPpsEdge falling s
  | .ppsMiss => Sys2Proof.Machine.execPpsMiss s
  | .linkUp restartsSeq nonce => Sys2Proof.Machine.execLinkUp restartsSeq nonce s
  | .linkRetrain => Sys2Proof.Machine.execLinkRetrain s
  | .laneLoss lane => Sys2Proof.Machine.execLaneLoss lane s
  | .linkFrame bytes good => Sys2Proof.Machine.execLinkFrame bytes good s
  | .nak seq => Sys2Proof.Machine.execNak seq s
  | .replayTimeout => Sys2Proof.Machine.execReplayTimeout s
  | .hello msg => Sys2Proof.Machine.execHello msg s
  | .auth code => Sys2Proof.Machine.execAuth code s
  | .helloTimeout => Sys2Proof.Machine.execHelloTimeout s
  | .helloRetry nonce => Sys2Proof.Machine.execHelloRetry nonce s
  | .heartbeatSend => Sys2Proof.Machine.execHeartbeatSend s
  | .heartbeat time state epoch => Sys2Proof.Machine.execHeartbeat time state epoch s
  | .heartbeatMiss => Sys2Proof.Machine.execHeartbeatMiss s
  | .twnAutoTimeout => Sys2Proof.Machine.execTwnAutoTimeout s
  | .dying => Sys2Proof.Machine.execDying s
  | .twnFence q value => Sys2Proof.Machine.execTwnFence q value s
  | .castled => Sys2Proof.Machine.execCastled s
  | .attach q nonce => Sys2Proof.Machine.execAttach q nonce s
  | .detach q => Sys2Proof.Machine.execDetach q s
  | .detachTimeout => Sys2Proof.Machine.execDetachTimeout s
  | .rowDelta g row bytes => Sys2Proof.Machine.execRowDelta g row bytes s
  | .dirDelta g row stream entry => Sys2Proof.Machine.execDirDelta g row stream entry s
  | .mapDelta g tile block slot entry => Sys2Proof.Machine.execMapDelta g tile block slot entry s
  | .frameDelta g frame word0 refcnt => Sys2Proof.Machine.execFrameDelta g frame word0 refcnt s
  | .bytesDelta g frame off data => Sys2Proof.Machine.execBytesDelta g frame off data s
  | .copyDelta g src dst rows => Sys2Proof.Machine.execCopyDelta g src dst rows s
  | .evictDelta g frame tile record block slot => Sys2Proof.Machine.execEvictDelta g frame tile record block slot s
  | .recallDelta g frame tile record block slot => Sys2Proof.Machine.execRecallDelta g frame tile record block slot s
  | .commitDelta g => Sys2Proof.Machine.execCommitDelta g s
  | .groupAck g => Sys2Proof.Machine.execGroupAck g s
  | .evictAck frame => Sys2Proof.Machine.execEvictAck frame s
  | .evictNak frame => Sys2Proof.Machine.execEvictNak frame s
  | .refetch frame => Sys2Proof.Machine.execRefetch frame s
  | .refetchData frame data => Sys2Proof.Machine.execRefetchData frame data s
  | .resend frame => Sys2Proof.Machine.execResend frame s
  | .resendData frame data => Sys2Proof.Machine.execResendData frame data s
  | .repairTestDone frame pass => Sys2Proof.Machine.execRepairTestDone frame pass s
  | .evictBudgetElapsed job item => Sys2Proof.Machine.execEvictBudgetElapsed job item s

end Sys2Proof.Machine
end

