-- ==== Sys2Proof/Safety.lean ====
section
/-! DEFINITION. What a safe run is, and the frames that the statements name: what a command leaves as it was. -/

namespace Sys2Proof.Safety

open Sys2Proof.Machine

/-- A step that neither faults nor refuses. -/
def StepSafe (s : State) : Prop := ∃ t, step s = .next t

/-- The canonical form of the tables that commands of the host write: registers and the scratchpads. -/
def State.tablesOk (s : State) : Bool := tabOk 0#32 s.regs && tabOk none s.cores.spd

/-! ### The state table (14 R386) -/

/-- The changes that 14 R386 lists one by one. -/
def stateTable : List (Mode × Mode) :=
  [(.off, .boot), (.boot, .load), (.load, .verify), (.verify, .init), (.init, .ready), (.init, .pair), (.pair, .ready),
   (.ready, .drain), (.drain, .maint), (.drain, .ready), (.maint, .ready)]

/-- One change of the state: none, a listed one, HALTED from any state but OFF, or OFF. A request for MAINT that finds
every record written passes through DRAIN at once. -/
def Follows (a b : Mode) : Prop :=
  a = b ∨ b = .off ∨ (b = .halted ∧ a ≠ .off) ∨ (a, b) ∈ stateTable ∨ (a = .ready ∧ b = .maint)

/-! ### What VERIFY accepts -/

/-- The hash of the image's key is one that the part accepts: the one in fuses, or in PROVISION and DEPLOYED one of the
sealed store (14 R394 step 1). -/
def KeyKnown (s : State) : Prop :=
  sha384 ((sigBlock s.cfg.staged).take 96) = s.cfg.fuses.keyHash ∨
  ((s.lcState = 2 ∨ s.lcState = 3) ∧ sha384 ((sigBlock s.cfg.staged).take 96) ∈ (s.sealOf 0).hashes)

/-- The image's signature verifies (14 R394 step 2). -/
def Signed (s : State) : Prop :=
  ecdsaOk ((sigBlock s.cfg.staged).take 96) (((sigBlock s.cfg.staged).drop 96).take 96)
    (s.cfg.staged.take (s.cfg.staged.length - 256)) = true

/-! ### Bounds -/

/-- The error log holds at most 64 entries (16 R446), and the register store is canonical. -/
abbrev Bounded (s : State) : Prop := s.errs.fifo.length ≤ 64 ∧ tabOk 0#32 s.regs = true

/-! ### Frames -/

/-- Straps, fuses and the queue are as they were. -/
def SamePart (s t : State) : Prop :=
  t.part = s.part ∧ t.stepping = s.stepping ∧ t.cfg.fuses = s.cfg.fuses ∧ t.pending = s.pending

/-- The sealed stores, and what the part has loaded from them, are as they were. -/
def SameSeals (s t : State) : Prop :=
  t.seals = s.seals ∧ t.lcState = s.lcState ∧ t.wiped = s.wiped ∧ t.tamperSeen = s.tamperSeen ∧ t.wipeCount = s.wipeCount

/-- Every volatile state is at its reset value (14 R384). -/
def Volatile (t : State) : Prop :=
  t.regs = State.reset.regs ∧ t.host = {} ∧ t.sched = {} ∧ t.store = {} ∧ t.cores = {} ∧ t.health = {} ∧
  t.errs.fifo = [] ∧ t.cfg.tables = [] ∧ t.cfg.shadow = State.reset.cfg.shadow ∧ t.cfg.staged = []

/-! ### Management accesses -/

/-- A management access arrives: its tile exists, the part has power, and the module has room for one more. -/
abbrev Arrives (s : State) (q : Req) : Prop := s.hasTile q.tile.toNat = true ∧ s.cfg.mode ≠ .off ∧ s.excess q = false

/-- The states in which management writes of every block are taken (14 R398). -/
abbrev Managed (s : State) : Prop :=
  s.cfg.mode = .init ∨ s.cfg.mode = .pair ∨ s.cfg.mode = .ready ∨ s.cfg.mode = .drain ∨ s.cfg.mode = .maint

/-! ### Host packets -/

/-- The pages that an INVAL covers by its SCOPE, SIZE, COUNT and ADDRESS (13 R366): an aligned page of a legal size, a run of
4 KiB pages, or everything. -/
def Covers (aux addr first n : Nat) : Prop :=
  (bits aux 1 0 = 0 ∧ bits aux 3 2 ≠ 3 ∧ addr % (4096 * 512 ^ bits aux 3 2) = 0 ∧ first = addr / 4096 ∧ n = 512 ^ bits aux 3 2) ∨
  (bits aux 1 0 = 1 ∧ bits aux 31 12 ≠ 0 ∧ addr % 4096 = 0 ∧ first = addr / 4096 ∧ n = bits aux 31 12) ∨
  (bits aux 1 0 = 2 ∧ first = 0 ∧ n = 2 ^ 52)

/-- Whether a look-aside entry maps a page of a range. -/
def Meets (e : LookEntry) (first n : Nat) : Prop := e.first < first + n ∧ first < e.first + e.run * e.span

/-- INVALs of a module that are not acknowledged. -/
def waitingInvals (s : State) (q : Req) : Nat :=
  (s.host.invals.filter (fun i => i.q.tile = q.tile && i.q.module = q.module)).length

/-- The INVAL_ACK of a packet. -/
def invalAckOf (q : Req) (status : Nat) : Pkt :=
  { typ := 0x21, tile := q.tile.toNat, module := q.module.toNat, tag := q.tag.toNat, status := status }

/-! ### Jobs and items -/

/-- A command of a kind finds its job and item: the engine runs, the item runs on a tile in service, awaits no write and
holds every translation it needs. -/
abbrev Runs (s : State) (id k kind : Nat) (j : Job) (i : Item) : Prop :=
  s.job id = some j ∧ s.item id k = some i ∧ s.engineOn = true ∧ j.kind = kind ∧ i.st = .running ∧ i.writesLeft = 0 ∧
  s.inService i.tile = true ∧ ∀ n ∈ s.needsOf j k i, ∃ p ∈ i.trans, p.1 = n.page

/-- The one item of a job has ended with a status and RESULT0, and nothing but the job list has changed. -/
def Ended (s t : State) (id status r0 : Nat) : Prop :=
  t = { s with sched := { s.sched with jobs := t.sched.jobs } } ∧
  (∃ j i, t.job id = some j ∧ t.item id 0 = some i ∧ i.st = .computed ∧ i.status = status ∧ i.started = true ∧ j.r0 = r0) ∧
  ∀ q, q ≠ id → t.job q = s.job q

/-! ### What an attention item computes -/

/-- Every page that the rows of an item read is bound to a frame, and no segment IDs are to be read. -/
def PagesBound (s : State) (j : Job) (i : Item) (e : Entry) : Prop :=
  j.bySegment = false ∧ ∀ p ∈ (s.rowEnv j i e []).pages e (e.itemRows j.kind i)
    (if j.qt then (s.dirOf (bits e.handle 13 0) i.stream).pages else i.bind.dir.pages), (i.frameOf p).isSome = true

/-- The leaf of a row on a page: the null leaf where the page is out of the row's reach, else what the page in its frame
gives (06 R168, R169). -/
def leafOf (s : State) (v : RowEnv) (i : Item) (q : QRow) (p : Nat) : TreeNode :=
  ⟨p, 1, match (if isNullLeaf v.mc q v.tspan p then none else i.frameOf p) with
    | none => nullLeaf v.hd
    | some f => (runFM (pageLeaf v.pf v.num (v.sums p) v.mc q (s.frame f).page p v.tspan v.hd)).1⟩

/-- A forward row with its leaves, none skipped (06 R162). -/
def fwdRow (s : State) (j : Job) (i : Item) (e : Entry) (x : RowIn) : FwdRow :=
  let v := s.rowEnv j i e []
  let q := (runFM (v.query e (fmtOf (bits (j.word 9) 2 0)) x.row x.member x.q)).1
  let n := leafCount v.mc q v.tspan
  { stream := i.stream, member := x.member, row := x.row, pos := e.pos0 + x.row, leaves := n
    nodes := (List.range n).map (leafOf s v i q), ext := x.ext, skipped := 0 }

end Sys2Proof.Safety
end

