-- ==== Sys2Proof/Certificates/Slice0/Obligations.lean ====
section
/-! DEFINITION. The statements for the provers. -/

open Sys2Proof Sys2Proof.Machine Sys2Proof.Safety

/-! ### The whole machine -/

/-- With a command at the front of the queue, a step is that command on the state with the queue's rest. -/
def Obligations.StepRunsFront : Prop :=
  ∀ (s : State) (c : Instr) (rest : List Instr), s.pending = c :: rest → step s = exec c { s with pending := rest }

/-- Every step changes the device state along the table of 14 R386 only, and HALTED is left only through OFF. -/
def Obligations.StepFollowsStateTable : Prop :=
  ∀ s t : State, step s = .next t →
    Follows s.cfg.mode t.cfg.mode ∧ (s.cfg.mode = .halted → t.cfg.mode = .halted ∨ t.cfg.mode = .off)

/-- Every step keeps the error log within its 64 entries (16 R446) and the register store canonical. -/
def Obligations.StepKeepsBounds : Prop :=
  ∀ s t : State, Bounded s → step s = .next t → Bounded t

/-- The state after reset is within the bounds. -/
def Obligations.ResetBounded : Prop :=
  Bounded State.reset

/-- Every step takes the command at the front of the queue, and leaves straps and fuses as they are. -/
def Obligations.StepTakesOneCommand : Prop :=
  ∀ s t : State, step s = .next t →
    t.pending = s.pending.tail ∧ t.part = s.part ∧ t.stepping = s.stepping ∧ t.cfg.fuses = s.cfg.fuses

/-- The life-cycle state of every sealed store stays, or an LC_STEP advances each by one from the state the part is in and
wipes keys and hashes (03 R101). -/
def Obligations.LifeCycleAdvancesByOne : Prop :=
  ∀ (s t : State) (c : Instr) (rest : List Instr), s.pending = c :: rest → step s = .next t →
    t.seals.map Seal.lc = s.seals.map Seal.lc ∨
    (∃ code : BitVec 8, c = .lcStep code ∧ code.toNat = s.lcState + 1 ∧ 1 ≤ s.lcState ∧ s.lcState ≤ 3 ∧ t.lcState = s.lcState + 1 ∧
      ∀ x ∈ t.seals, x.lc = s.lcState + 1 ∧ x.keys = [] ∧ x.hashes = [])

/-- Keys enter a sealed store by KEY_WRITE in life-cycle state PROVISION only: every other step leaves the keys of each store
as they were, or empty (03 R100). -/
def Obligations.KeysEnterInProvisionOnly : Prop :=
  ∀ (s t : State) (c : Instr) (rest : List Instr), s.pending = c :: rest → step s = .next t →
    List.Forall₂ (fun x y : Seal => y.keys = x.keys ∨ y.keys = []) s.seals t.seals ∨
    (s.lcState = 2 ∧ ∃ (slot : BitVec 8) (image : List Byte), c = .keyWrite slot image)

/-! ### Power, reset and start-up (14) -/

/-- RESET_N low, or the loss of PWR_OK, puts the part in OFF: volatile state is lost, sealed stores, fuses and straps stay (14
R384). With the link up, the loss of PWR_OK sends DYING three times (15 R428). The rise of RESET_N in OFF begins BOOT with TIM_NOW at 0 (14 R384, R386, 17 R469). -/
def Obligations.PowerAndResetChangeState : Prop :=
  (∀ s : State,
     (∃ t, exec .resetNLow s = .next t ∧ t.cfg.mode = .off ∧ t.cfg.resetN = false ∧ t.cfg.pwrOk = s.cfg.pwrOk ∧
       Volatile t ∧ t.twin = {} ∧ t.seals = s.seals ∧ SamePart s t) ∧
     (∃ t, exec .pwrOkFall s = .next t ∧ t.cfg.mode = .off ∧ t.cfg.pwrOk = false ∧ t.seals = s.seals ∧ SamePart s t ∧
       (s.cfg.mode ≠ .off → Volatile t ∧
         t.twin.tx = if s.twin.linkUp then s.twin.tx ++ [.dying, .dying, .dying] else s.twin.tx))) ∧
  (∀ s : State, s.cfg.mode = .off →
     ∃ t, exec .resetNRise s = .next t ∧ t.cfg.mode = .boot ∧ t.now = 0 ∧ Volatile t ∧ t.seals = s.seals ∧ SamePart s t)

/-- How BOOT ends (14 R386, R387, 03 R103, R104): in LOAD with the sealed stores read, a store that reads back with good ECC giving
the life-cycle state, where no repair map has an entry, no wipe is pending and boot BIST is not fused on; in HALTED for a bad fuse word, a PLL of tile 0 or the MCLK PLL. A PLL of another tile
that is not the anchor quarantines that tile. PAIR ends after its time in READY, pairing pending (14 R386), each batching window at MIN (12 R346). -/
def Obligations.BootAndPairEnd : Prop :=
  (∀ s : State, s.cfg.mode = .boot →
     (∀ (r : BootReport) (u : State), r.fuseBad = false → s.test.repair = [] → s.seals.any (fun x => x.wipePending) = false →
       s.cfg.fuses.bootBist = false → u = s.checkSeals r.sealBad →
       exec (.bootDone r) s = .next { s with
         cfg := { s.cfg with mode := .load, initMet := r.met }, seals := u.seals, lcState := u.cleanSeal.lc
         tamperSeen := u.cleanSeal.tamperSeen, wipeCount := u.cleanSeal.wipeCount } ∧
       List.Forall₂ (fun x y : Seal => y = { x with good := y.good }) s.seals u.seals) ∧
     (∀ r : BootReport, r.fuseBad = true →
       ∃ t, exec (.bootDone r) s = .next t ∧ t.cfg.mode = .halted ∧ t.cfg.haltCause = 0x01 ∧ SamePart s t ∧ SameSeals s t) ∧
     (∀ (n : BitVec 5) (p : Pll), n.toNat = 0 ∨ (p = .mclk ∧ s.hasTile n.toNat = true) →
       ∃ t, exec (.pllLockTimeout n p) s = .next t ∧ t.cfg.mode = .halted ∧ t.cfg.haltCause = 0x0D) ∧
     (∀ (n : BitVec 5) (p : Pll), n.toNat ≠ 0 → p ≠ .mclk → s.hasTile n.toNat = true → n.toNat ≠ s.errs.anchor →
       s.errs.tileOut.contains n.toNat = false →
       ∃ t, exec (.pllLockTimeout n p) s = .next t ∧ t.cfg.mode = .boot ∧ n.toNat ∈ t.errs.tileOut ∧ SamePart s t ∧
         SameSeals s t)) ∧
  (∀ s : State, s.cfg.mode = .pair →
     ∃ t : State, exec .pairTimeout s = .next t ∧ t.cfg.mode = .ready ∧ t.twin = s.twin ∧ t.store = s.store ∧ t.regs = s.regs ∧
       SamePart s t ∧ SameSeals s t ∧
       t.sched.window = (List.range s.part.tiles).foldl (fun w k => tset 0 w k (bits (s.reg 0x3104) 15 0)) s.sched.window)

/-- LOAD (14 R389, R390): a burst is staged; the one that completes the image ends LOAD in VERIFY; a bad header after the
first burst ends in HALTED with HEADER; a burst that times out is repeated three times, then HALTED with NVM_TIMEOUT. -/
def Obligations.LoadReadsImage : Prop :=
  ∀ s : State, s.cfg.mode = .load →
    (∀ b : List Byte, (s.cfg.staged ≠ [] ∨ imageHeaderOk b = true) →
      (s.cfg.staged ++ b).length < imageLength (s.cfg.staged ++ b) →
      exec (.nvmBurst b) s = .next { s with cfg := { s.cfg with staged := s.cfg.staged ++ b, repeats := 0 } }) ∧
    (∀ b : List Byte, (s.cfg.staged ≠ [] ∨ imageHeaderOk b = true) →
      imageLength (s.cfg.staged ++ b) ≤ (s.cfg.staged ++ b).length →
      exec (.nvmBurst b) s = .next { s with cfg := { s.cfg with
        staged := (s.cfg.staged ++ b).take (imageLength (s.cfg.staged ++ b)), repeats := 0, mode := .verify } }) ∧
    (∀ b : List Byte, s.cfg.staged = [] → imageHeaderOk b = false → exec (.nvmBurst b) s = .next (s.halt 0x04)) ∧
    (s.cfg.repeats < 3 → exec .nvmTimeout s = .next { s with cfg := { s.cfg with repeats := s.cfg.repeats + 1 } }) ∧
    (3 ≤ s.cfg.repeats → exec .nvmTimeout s = .next (s.halt 0x03))

/-- VERIFY (14 R394, R395): RETIRED, an unknown key, a bad signature and a rollback halt the part in that order; then the
first consistency check that fails does, with its number and section; else INIT follows with the image. -/
def Obligations.VerifyAuthenticatesThenChecks : Prop :=
  ∀ s : State, s.cfg.mode = .verify →
    (s.lcState = 4 → exec .verify s = .next (s.halt 0x08)) ∧
    (s.lcState ≠ 4 → ¬ KeyKnown s → exec .verify s = .next (s.halt 0x05)) ∧
    (s.lcState ≠ 4 → KeyKnown s → ¬ Signed s → exec .verify s = .next (s.halt 0x06)) ∧
    (s.lcState ≠ 4 → KeyKnown s → Signed s → hdrField s.cfg.staged 19 1 < s.cfg.fuses.minMajor →
      exec .verify s = .next (s.halt 0x07)) ∧
    (s.lcState ≠ 4 → KeyKnown s → Signed s → s.cfg.fuses.minMajor ≤ hdrField s.cfg.staged 19 1 →
      (∀ check sect : Nat, s.consistency s.cfg.staged = some (check, sect) →
        exec .verify s = .next (({ s with cfg := { s.cfg with check := check, sectionIdx := min 255 sect } }).halt 0x09)) ∧
      (s.consistency s.cfg.staged = none →
        exec .verify s = .next { s with cfg := { s.cfg with
          mode := .init, verified := s.cfg.staged, staged := [], image := imageHdr s.cfg.staged } }))

/-- INIT (14 R396, 09 R253). What the memories meet while it runs comes first (log entry 244, the model's choice: BOOT_DONE has
reported it); then tables, nests and resident regions are those of the image, ring registers read zero, every tile
gets its reserve; SOLO goes to READY with every batching window at MIN, another pairing to PAIR with the twin pending. -/
def Obligations.InitBuildsTables : Prop :=
  (∀ s u : State, s.cfg.mode = .init → u = ({ s with cfg := { s.cfg with initMet := [] } } : State).memEvents s.cfg.initMet →
    exec .init s = exec .init u) ∧
  ∀ s : State, s.cfg.mode = .init → s.cfg.initMet = [] →
    ∃ t : State, exec .init s = .next t ∧ SamePart s t ∧ SameSeals s t ∧ t.test = s.test ∧
      t.cfg.mode = (if s.cfg.image.pairing = 0 then .ready else .pair) ∧
      t.cfg.tables = imageTables s.cfg.verified ∧ t.cfg.nests = imageNests s.cfg.verified ∧
      t.cfg.selects = imageSelects s.cfg.verified ∧
      (∀ p ∈ t.regs, p.1 < 0x2000 ∨ 0x3000 ≤ p.1) ∧
      t.store.reserve = (List.range s.part.tiles).foldl
        (fun r k => tset [] r k ((List.range (t.reg 0x8014)).map (frameNum k))) s.store.reserve ∧
      (s.cfg.image.pairing = 0 → t.sched.window = (List.range s.part.tiles).foldl
        (fun w k => tset 0 w k (bits (t.reg 0x3104) 15 0)) s.sched.window) ∧
      (s.cfg.image.pairing ≠ 0 → t.twin.st = .pending ∧ t.twin.mode = s.cfg.image.pairing)

/-- TAMPER_N (03 R102): the key and hash regions of every store are wiped, the life-cycle state is kept, a BLOCK entry with
cause TAMPER is reported and the part is in HALTED. Entering HALTED (14 R386, 15 R428): once, from any state but OFF, with DYING sent three times over a link that is up. -/
def Obligations.HaltsSendDying : Prop :=
  (∀ s : State, s.cfg.mode ≠ .off →
     ∃ t : State, exec .tamper s = .next t ∧ t.cfg.mode = .halted ∧ (s.cfg.mode ≠ .halted → t.cfg.haltCause = 0x0A) ∧
       t.seals.length = s.seals.length ∧ (∀ x ∈ t.seals, x.keys = [] ∧ x.hashes = [] ∧ x.wipePending = false ∧ x.tamperSeen = true) ∧
       t.seals.map Seal.lc = s.seals.map Seal.lc ∧ t.lcState = s.lcState ∧ t.wiped = true ∧ t.tamperSeen = true ∧ SamePart s t ∧
       t.errs.fifo = (s.report { severity := sevBlock, cause := 0x50, unit := 0x0C }).errs.fifo) ∧
  (∀ (s : State) (cause : Nat),
     (s.cfg.mode = .off ∨ s.cfg.mode = .halted → s.halt cause = s) ∧
     (s.cfg.mode ≠ .off → s.cfg.mode ≠ .halted → s.halt cause = { s with
       cfg := { s.cfg with mode := .halted, haltCause := cause }
       twin := { s.twin with tx := if s.twin.linkUp then s.twin.tx ++ [.dying, .dying, .dying] else s.twin.tx } }))

/-- A report reaches the error log (16 R446): it is appended with its time while fewer than 64 entries stand, and is lost,
with LOST and the highest severity, when 64 stand. ERR_LOG_POP removes the oldest entry, also in HALTED, and does nothing where the log is empty or POP is 0b (16 R446). -/
def Obligations.ErrorLogTakesAndGivesEntries : Prop :=
  (∀ (s : State) (e : LogEntry), e.cause ≠ 0x01 → e.cause ≠ 0x11 →
     (s.errs.fifo.length < 64 → (s.report e).errs.fifo = s.errs.fifo ++ [{ e with time := s.now }] ∧
       (s.report e).errs.lost = s.errs.lost) ∧
     (64 ≤ s.errs.fifo.length → (s.report e).errs.fifo = s.errs.fifo ∧ (s.report e).errs.lost = true ∧
       (s.report e).errs.lostSev = max s.errs.lostSev e.severity ∧
       (Bounded s → (s.report e).reg 0x10004 = min 0xFFFFFFFF (s.reg 0x10004 + 1))) ∧
     (s.report e).errs.alertLog = (s.errs.alertLog || bit (s.reg 0x10010) e.severity) ∧
     (s.report e).store = s.store ∧ (s.report e).sched = s.sched ∧ (s.report e).cfg = s.cfg ∧ (s.report e).host = s.host ∧
     (s.report e).twin = s.twin ∧ (s.report e).cores = s.cores ∧ (s.report e).test = s.test ∧ SamePart s (s.report e) ∧
     SameSeals s (s.report e)) ∧
  (∀ (s : State) (q : Req) (v : BitVec 32), Arrives s q → Managed s ∨ s.cfg.mode = .halted →
     (bit v.toNat 0 = true →
       exec (.errLogPop q v) s = .next (({ s with errs := { s.errs with fifo := s.errs.fifo.tail } }).answer q true 0)) ∧
     (bit v.toNat 0 = false → exec (.errLogPop q v) s = .next (s.answer q true 0)))

/-! ### Test access (19) -/

/-- The TAP (19 R488, R489): IDCODE shifts out the code of the part, BYPASS one zero bit; TRST_N puts the TAP at IDCODE and
does nothing else. Each changes the TAP alone. Boundary and internal scans (19 R488). SAMPLE/PRELOAD always acts; EXTEST in BOOT and HALTED once the life-cycle state is
known; SCAN in MANUFACTURE. Each holds the bits shifted in or shifts bits out, and changes the TAP alone. Elsewhere EXTEST and
SCAN act as BYPASS. The IEEE 1687 network (19 R492, R488): an instrument that the life-cycle state opens has its segment bit open afterwards;
one that it does not open shifts out 0 and changes nothing else. -/
def Obligations.TapIdentifiesScansAndOpens : Prop :=
  (∀ s : State,
     exec .trstN s = .next { s with test := { s.test with ir := 0x02 } } ∧
     (s.cfg.mode ≠ .off →
       exec .idcode s = .next { s with test := { s.test with
         ir := 0x02, out := 1 + 2 * 0x4B3 + 2 ^ 12 * (0x5200 + s.part.code) + 2 ^ 28 * (s.stepping % 16) } } ∧
       ∀ code : BitVec 8,
         exec (.bypass code) s = .next { s with test := { s.test with ir := code.toNat, bypassBit := false, out := 0 } })) ∧
  (∀ (s : State) (v : Nat), s.cfg.mode ≠ .off →
     (∃ t : State, exec (.samplePreload v) s = .next t ∧ t.test.boundary = v ∧ t.test.ir = 0x01 ∧ t = { s with test := t.test }) ∧
     (s.lcState ≠ 0 → s.cfg.mode = .boot ∨ s.cfg.mode = .halted →
       ∃ t : State, exec (.extest v) s = .next t ∧ t.test.boundary = v ∧ t.test.ir = 0x00 ∧ t = { s with test := t.test }) ∧
     (s.lcState = 0 ∨ (s.cfg.mode ≠ .boot ∧ s.cfg.mode ≠ .halted) →
       exec (.extest v) s = .next { s with test := { s.test with ir := 0x00, bypassBit := false, out := 0 } }) ∧
     (s.lcState = 1 → ∃ t : State, exec (.scan v) s = .next t ∧ t.test.ir = 0x20 ∧ t.test.boundary = s.test.boundary ∧
       t = { s with test := t.test }) ∧
     (s.lcState ≠ 1 → exec (.scan v) s = .next { s with test := { s.test with ir := 0x20, bypassBit := false, out := 0 } })) ∧
  (∀ (s : State) (tile : BitVec 5) (x : Instrument), s.cfg.mode ≠ .off → s.lcState ≠ 0 → s.hasTile tile.toNat = true →
     (s.instrumentOk tile.toNat x = true →
       ∃ t : State, exec (.ijtag tile x) s = .next t ∧ (tile.toNat * 8 + instrumentPlace x) ∈ t.test.segments ∧ t.test.ir = 0x10 ∧
         SamePart s t ∧ SameSeals s t ∧ t.regs = s.regs ∧ t.cfg = s.cfg ∧ t.store = s.store ∧ t.sched = s.sched ∧ t.host = s.host) ∧
     (s.instrumentOk tile.toNat x = false →
       exec (.ijtag tile x) s = .next { s with test := { s.test with ir := 0x10, out := 0 } }))

/-- LC_STEP (19 R491, 03 R101): no other command changes the life-cycle state of a store; the code of the next state wipes every store's keys and hashes and writes that state; any
other value changes nothing but the TAP; in RETIRED, and before the state is loaded, it acts as BYPASS. KEY_WRITE (19 R491): in PROVISION the slot of every store holds the image's key under its KEY_ID, or is empty where
that is 0, the other slots stay, and zeros are shifted out. In another state it acts as BYPASS. -/
def Obligations.LifeCycleAndKeys : Prop :=
  ((∀ s t : State, step s = .next t → t.seals.map Seal.lc = s.seals.map Seal.lc ∨ ∃ code rest, s.pending = .lcStep code :: rest) ∧
   ∀ (s : State) (code : BitVec 8), s.cfg.mode ≠ .off →
     (1 ≤ s.lcState → s.lcState ≤ 3 → code.toNat = s.lcState + 1 →
       ∃ t : State, exec (.lcStep code) s = .next t ∧ t.lcState = s.lcState + 1 ∧ t.wiped = true ∧ t.seals.length = s.seals.length ∧
         (∀ x ∈ t.seals, x.lc = s.lcState + 1 ∧ x.keys = [] ∧ x.hashes = []) ∧
         t = { s with test := t.test, seals := t.seals, wiped := true, wipeCount := t.wipeCount, lcState := t.lcState }) ∧
     (1 ≤ s.lcState → s.lcState ≤ 3 → code.toNat ≠ s.lcState + 1 →
       exec (.lcStep code) s = .next { s with test := { s.test with ir := 0x30, out := 0 } }) ∧
     (s.lcState = 0 ∨ 4 ≤ s.lcState →
       exec (.lcStep code) s = .next { s with test := { s.test with ir := 0x30, bypassBit := false, out := 0 } })) ∧
  (∀ (s : State) (slot : BitVec 8) (image : List Byte), s.cfg.mode ≠ .off →
     (s.lcState = 2 →
       ∃ t : State, exec (.keyWrite slot image) s = .next t ∧ t = { s with test := { s.test with ir := 0x31, out := 0 }, seals := t.seals } ∧
         List.Forall₂ (fun x y : Seal =>
           (∀ id key, (slot.toNat, id, key) ∈ y.keys ↔ id ≠ 0 ∧ id = fieldAt image 48 4 ∧ key = bytesAt image 0 48) ∧
           (∀ k, k.1 ≠ slot.toNat → (k ∈ y.keys ↔ k ∈ x.keys)) ∧ y.lc = x.lc ∧ y.hashes = x.hashes) s.seals t.seals) ∧
     (s.lcState ≠ 2 →
       exec (.keyWrite slot image) s = .next { s with test := { s.test with ir := 0x31, bypassBit := false, out := 0 } }))

/-- MGT_ACCESS (19 R490): the last access is shifted out; a read captures the register, a write goes as a host's write does,
and in RETIRED a write is refused (R488). -/
def Obligations.MgtAccessReadsAndWrites : Prop :=
  ∀ (s s1 : State) (word : BitVec 16) (data : BitVec 32), s.cfg.mode ≠ .off → s.lcState ≠ 0 →
    s1 = { s with test := { s.test with ir := 0x11, out := s.test.captured } } →
    (exec (.mgtAccess word false data) s = .next (((s1.mgtRead 1 (4 * word.toNat)).1).accessDone
      ((s1.mgtRead 1 (4 * word.toNat)).2.getD 0) (s1.mgtRead 1 (4 * word.toNat)).2.isSome)) ∧
    (s.lcState = 4 → exec (.mgtAccess word true data) s = .next { s1 with
      test := { s1.test with mgtData := data.toNat, mgtDone := true, mgtRefused := true } }) ∧
    (s.lcState ≠ 4 → isAttach (4 * word.toNat) data.toNat = false → exec (.mgtAccess word true data) s =
      .next (((s1.mgtWrite (4 * word.toNat) data.toNat []).1).accessDone data.toNat (s1.mgtWrite (4 * word.toNat) data.toNat []).2)) ∧
    (s.lcState ≠ 4 → isAttach (4 * word.toNat) data.toNat = true → exec (.mgtAccess word true data) s =
      .next (((s1.asks.mgtWrite 0xE000 data.toNat s1.freeNonce).1).accessDone data.toNat
        (s1.asks.mgtWrite 0xE000 data.toNat s1.freeNonce).2))

/-! ### The management plane (00 R6, R12 to R17, 13 R356, 14 R398, 20 R500, R501) -/

/-- A management read (00 R12, R13, 13 R356, 20 R500, R501). An aligned offset below 04_0000h is answered OK with the
register's value, an unoccupied one with 0; the low word of a pair captures the high word, which the next read of that returns
once. A misaligned offset or one beyond the space is answered REFUSED with a REJECTED_ACCESS entry. Nothing else changes. -/
def Obligations.ManagementReadIsServedOrRefused : Prop :=
  ∀ (s : State) (q : Req) (addr : BitVec 64), Arrives s q →
    (addr.toNat % 4 = 0 → addr.toNat < 0x40000 → tget none s.cfg.highCap addr.toNat = none →
      (readPair addr.toNat = false ∨ s.fields addr.toNat = none →
        exec (.mgrd q addr) s = .next (s.answer q true (s.valueAt addr.toNat))) ∧
      (readPair addr.toNat = true → s.fields addr.toNat ≠ none →
        exec (.mgrd q addr) s = .next (({ s with cfg := { s.cfg with
          highCap := tset none s.cfg.highCap (addr.toNat + 4) (some (BitVec.ofNat 32 (s.valueAt (addr.toNat + 4)))) } }).answer q true
            (s.valueAt addr.toNat)))) ∧
    (∀ w : Word, addr.toNat % 4 = 0 → addr.toNat < 0x40000 → tget none s.cfg.highCap addr.toNat = some w →
      exec (.mgrd q addr) s = .next (({ s with cfg := { s.cfg with
        highCap := tset none s.cfg.highCap addr.toNat none } }).answer q true w.toNat)) ∧
    (addr.toNat % 4 ≠ 0 ∨ 0x40000 ≤ addr.toNat → exec (.mgrd q addr) s = .next (s.refuse q addr.toNat)) ∧
    (s.fields addr.toNat = none → s.valueAt addr.toNat = 0) ∧
    s.valueAt 0x0000 = s.mgtId ∧ s.valueAt 0x0004 = s.cfg.mode.code + 256 * s.cfg.haltCause ∧
    s.valueAt 0x10000 = s.errs.fifo.length + 256 * s.errs.lostSev + 2 ^ 11 * b2n s.errs.lost

/-- A register write is taken, ignored or refused by the access type of the field and the device state (00 R14 to R17, 14
R398), here on one register of each type: RW takes the value, a counter is cleared, RO ignores the write, RWL keeps its value
outside INIT and PAIR and counts one that differs, a LIVE field changes only its shadow. -/
def Obligations.RegisterWriteFollowsAccessType : Prop :=
  ∀ (s : State) (q : Req) (v : BitVec 32), Arrives s q → Bounded s →
    (Managed s → exec (.registerWrite q 0x18020 v) s = .next (({ s with regs := tset 0#32 s.regs 0x18020 v }).answer q true 0)) ∧
    (Managed s → exec (.registerWrite q 0x3008 v) s = .next (({ s with regs := tset 0#32 s.regs 0x3008 0 }).answer q true 0)) ∧
    (Managed s → exec (.registerWrite q 0x3000 v) s = .next (s.answer q true 0)) ∧
    (s.cfg.mode = .ready ∨ s.cfg.mode = .drain ∨ s.cfg.mode = .maint →
      (s.reg 0xA000 % 2 ^ 23 = v.toNat % 2 ^ 23 → exec (.registerWrite q 0xA000 v) s = .next (s.answer q true 0)) ∧
      (s.reg 0xA000 % 2 ^ 23 ≠ v.toNat % 2 ^ 23 → exec (.registerWrite q 0xA000 v) s = .next ((s.lockedWrite 0xA000).answer q true 0)) ∧
      ∃ t : State, exec (.registerWrite q 0x8004 v) s = .next (t.answer q true 0) ∧ t = { s with cfg := { s.cfg with shadow := t.cfg.shadow } } ∧
        (tabOk 0#32 s.cfg.shadow = true →
          (tget 0#32 t.cfg.shadow 0x8004).toNat % 65536 = v.toNat % 65536 ∧
          ∀ o, o ≠ 0x8004 → tget 0#32 t.cfg.shadow o = tget 0#32 s.cfg.shadow o))

/-- A write that places a reserved encoding changes no field and is logged as RESERVED_ENCODING (00 R17), here of
CFG_TBL_SEL.TKIND. Writes that are refused (00 R6, 13 R356, 14 R398, 20 R500, R501): a misaligned offset, one beyond the space, an unoccupied
one, and any write in BOOT, LOAD and VERIFY, answered REFUSED with a REJECTED_ACCESS entry and no other effect. A 65th access
that a module's waiting ones do not leave room for is answered REFUSED and changes nothing (13 R355). -/
def Obligations.RefusedAndReservedWrites : Prop :=
  (∀ (s : State) (q : Req) (v : BitVec 32), Arrives s q → Managed s → v.toNat % 4 = 3 →
     exec (.registerWrite q 0x1020 v) s = .next ((s.report
       { severity := sevNote, cause := 0x32, unit := 0x0A, addr := 0x1020 }).answer q true 0)) ∧
  (∀ (s : State) (q : Req) (addr : BitVec 64) (v : BitVec 32), isAttach addr.toNat v.toNat = false →
     (Arrives s q →
       addr.toNat % 4 ≠ 0 ∨ 0x40000 ≤ addr.toNat ∨ s.fields addr.toNat = none ∨
         s.cfg.mode = .boot ∨ s.cfg.mode = .load ∨ s.cfg.mode = .verify →
       exec (.registerWrite q addr v) s = .next ((s.report
         { severity := sevJob, cause := 0x15, unit := 0x0A, addr := addr.toNat }).answer q false 0)) ∧
     (s.hasTile q.tile.toNat = true → s.cfg.mode ≠ .off → s.excess q = true →
       exec (.registerWrite q addr v) s = .next (s.answer q false 0)))

/-- DBELL (13 R356, 11 R301): in a state that takes writes the ring's TAIL takes the index where the pair is enabled and the
index is no more than the ring's size ahead of HEAD; else the access is logged as rejected. No packet answers it. JOB_RING_TAIL and JOB_CPL_HEAD (11 R301): TAIL takes an index at most the ring's size ahead of HEAD while the pair is
enabled, CPL_HEAD one that does not pass CPL_TAIL; any other write of them is refused. -/
def Obligations.TailAndHeadStayInBounds : Prop :=
  (∀ (s : State) (q : Req) (aux : BitVec 32) (addr : BitVec 64),
     s.hasTile q.tile.toNat = true → Managed s → aux.toNat < 64 → aux.toNat < s.part.rings →
       (bit (s.reg (ringReg aux.toNat 8)) 0 = true →
         ahead (s.reg (ringReg aux.toNat 0x10)) (addr.toNat % 2 ^ 32) ≤ 2 ^ bits (s.reg (ringReg aux.toNat 8)) 5 1 →
         exec (.dbell q aux addr) s = .next { s with
           regs := tset 0#32 s.regs (ringReg aux.toNat 0x0C) (BitVec.ofNat 32 (addr.toNat % 2 ^ 32)) }) ∧
       (bit (s.reg (ringReg aux.toNat 8)) 0 = false ∨
         2 ^ bits (s.reg (ringReg aux.toNat 8)) 5 1 < ahead (s.reg (ringReg aux.toNat 0x10)) (addr.toNat % 2 ^ 32) →
         exec (.dbell q aux addr) s = .next (s.rejected (ringReg aux.toNat 0x0C)))) ∧
  (∀ (s : State) (q : Req) (ring : BitVec 6) (v : BitVec 32), Arrives s q → Managed s → ring.toNat < s.part.rings →
     (bit (s.reg (ringReg ring.toNat 8)) 0 = true →
       ahead (s.reg (ringReg ring.toNat 0x10)) v.toNat ≤ 2 ^ bits (s.reg (ringReg ring.toNat 8)) 5 1 →
       exec (.jobRingTail q ring v) s = .next (({ s with regs := tset 0#32 s.regs (ringReg ring.toNat 0x0C) v }).answer q true 0)) ∧
     (bit (s.reg (ringReg ring.toNat 8)) 0 = false ∨
       2 ^ bits (s.reg (ringReg ring.toNat 8)) 5 1 < ahead (s.reg (ringReg ring.toNat 0x10)) v.toNat →
       exec (.jobRingTail q ring v) s = .next (s.refuse q (ringReg ring.toNat 0x0C))) ∧
     (ahead (s.reg (ringReg ring.toNat 0x20)) v.toNat ≤ ahead (s.reg (ringReg ring.toNat 0x20)) (s.reg (ringReg ring.toNat 0x1C)) →
       exec (.jobCplHead q ring v) s = .next (({ s with regs := tset 0#32 s.regs (ringReg ring.toNat 0x20) v }).answer q true 0)) ∧
     (ahead (s.reg (ringReg ring.toNat 0x20)) (s.reg (ringReg ring.toNat 0x1C)) < ahead (s.reg (ringReg ring.toNat 0x20)) v.toNat →
       exec (.jobCplHead q ring v) s = .next (s.refuse q (ringReg ring.toNat 0x20))))

/-! ### Rings (11 R299 to R301) -/

/-- ENABLE from 0b to 1b (11 R300): with the translator on and legal sizes the pair takes its control word and HEAD, TAIL,
CPL_TAIL, CPL_HEAD and SEQ are 0; every other register stays. With the translator off it is refused. ENABLE = 0b (11 R300): the pair drains while jobs of it are in flight, ENABLE still reading 1b, and reads 0b at once
where there are none; nothing else changes. -/
def Obligations.RingEnableAndDisable : Prop :=
  (∀ (s : State) (q : Req) (ring : BitVec 6) (v : BitVec 32), Arrives s q → Managed s → Bounded s → ring.toNat < s.part.rings →
     s.ringBusy ring.toNat = false → bit v.toNat 0 = true →
     4 ≤ bits v.toNat 5 1 → bits v.toNat 5 1 ≤ 16 → 4 ≤ bits v.toNat 10 6 → bits v.toNat 10 6 ≤ 16 →
     (bit (s.reg 0xC000) 0 = true →
       ∃ t : State, exec (.ringEnable q ring v) s = .next t ∧
         t.reg (ringReg ring.toNat 8) % 4096 = v.toNat % 4096 ∧
         (∀ o ∈ [0x0C, 0x10, 0x1C, 0x20, 0x3C], t.reg (ringReg ring.toNat o) = 0) ∧
         (∀ off, off ∉ [0x08, 0x0C, 0x10, 0x1C, 0x20, 0x3C].map (ringReg ring.toNat) → t.reg off = s.reg off) ∧
         t.host.tx = (s.answer q true 0).host.tx ∧ t.store = s.store ∧ t.sched.jobs = s.sched.jobs ∧ t.cfg = s.cfg ∧
         t.cores = s.cores ∧ t.twin = s.twin ∧ t.errs = s.errs ∧ t.test = s.test ∧ SamePart s t ∧ SameSeals s t) ∧
     (bit (s.reg 0xC000) 0 = false → exec (.ringEnable q ring v) s = .next (s.refuse q (ringReg ring.toNat 8)))) ∧
  (∀ (s : State) (q : Req) (ring : BitVec 6) (v : BitVec 32), Arrives s q → Managed s → Bounded s → ring.toNat < s.part.rings →
     bit (s.reg (ringReg ring.toNat 8)) 0 = true → bit v.toNat 0 = false →
     bits v.toNat 10 1 = bits (s.reg (ringReg ring.toNat 8)) 10 1 →
     4 ≤ bits v.toNat 5 1 → bits v.toNat 5 1 ≤ 16 → 4 ≤ bits v.toNat 10 6 → bits v.toNat 10 6 ≤ 16 → tabOk {} s.sched.rings = true →
     ∃ t : State, exec (.ringDisable q ring v) s = .next t ∧
       (t.ring ring.toNat).draining = s.sched.jobs.any (fun j => decide (j.ring = ring.toNat)) ∧
       bit (t.reg (ringReg ring.toNat 8)) 0 = s.sched.jobs.any (fun j => decide (j.ring = ring.toNat)) ∧
       (∀ off, off ≠ ringReg ring.toNat 8 → t.reg off = s.reg off) ∧
       t.host = (s.answer q true 0).host ∧ t.store = s.store ∧ t.sched.jobs = s.sched.jobs ∧ t.cfg = s.cfg ∧ t.cores = s.cores ∧
       t.twin = s.twin ∧ t.errs = s.errs ∧ t.test = s.test ∧ SamePart s t ∧ SameSeals s t)

/-! ### Device states, commits (14 R386, R400, R401) -/

/-- DRAIN, MAINT and RESUME (14 R386). DRAIN is entered from READY. A request for MAINT enters DRAIN, and MAINT at once
where nothing is left to complete. RESUME returns to READY with every tile in service awake and none retained or gated. From
any other state the write is refused. HLT_TILE_RETAIN and HLT_TILE_GATE (17 R473, R474, 00 R15): in MAINT the tiles follow the value written; outside MAINT the
registers keep theirs, and a value that differs is counted. -/
def Obligations.StatesAndTilePower : Prop :=
  (∀ (s : State) (q : Req), Arrives s q →
     (s.cfg.mode = .ready → exec (.reqDrain q) s =
       .next (({ s with cfg := { s.cfg with mode := .drain, toMaint := false } }).answer q true 0)) ∧
     (s.cfg.mode = .ready → exec (.reqMaint q) s =
       .next ((({ s with cfg := { s.cfg with mode := .drain, toMaint := true } }).settleDrain).answer q true 0)) ∧
     (s.cfg.mode = .drain ∨ s.cfg.mode = .maint → s.reg 0x14010 = 0 → s.reg 0x14014 = 0 →
       (∀ t, s.inService t = true → s.awake t = true) →
       exec (.reqResume q) s = .next (({ s with cfg := { s.cfg with mode := .ready, toMaint := false } }).answer q true 0)) ∧
     (s.cfg.mode ≠ .ready → exec (.reqDrain q) s = .next (s.refuse q 0x0008) ∧ exec (.reqMaint q) s = .next (s.refuse q 0x0008)) ∧
     (s.cfg.mode ≠ .drain → s.cfg.mode ≠ .maint → exec (.reqResume q) s = .next (s.refuse q 0x0008))) ∧
  (∀ (s : State) (q : Req) (v : BitVec 32), Arrives s q → Bounded s →
     (s.cfg.mode = .maint →
       exec (.hltTileRetain q v) s = .next ((({ s with regs := tset 0#32 s.regs 0x14010 v } : State).powerFollow).answer q true 0) ∧
       exec (.hltTileGate q v) s = .next ((({ s with regs := tset 0#32 s.regs 0x14014 v } : State).powerFollow).answer q true 0)) ∧
     (Managed s → s.cfg.mode ≠ .maint →
       (s.reg 0x14010 = v.toNat → exec (.hltTileRetain q v) s = .next (s.powerFollow.answer q true 0)) ∧
       (s.reg 0x14010 ≠ v.toNat → exec (.hltTileRetain q v) s = .next ((s.lockedWrite 0x14010).powerFollow.answer q true 0)) ∧
       (s.reg 0x14014 = v.toNat → exec (.hltTileGate q v) s = .next (s.powerFollow.answer q true 0)) ∧
       (s.reg 0x14014 ≠ v.toNat → exec (.hltTileGate q v) s = .next ((s.lockedWrite 0x14014).powerFollow.answer q true 0))))

/-- A commit (14 R400) with none pending: SEQ rises, every LIVE register takes its captured and clamped
shadow, and each unit in service works with the old values until it adopts. A write of 0b does nothing. A unit adopts a commit (14 R400): its own copy of the old values is gone. With no commit waiting, of a tile without open round
beside it only the batching window changes, to MIN, where the commit changes JOB_BATCH_WIN (12 R346); under BATCH_EN = 0b a tile's
open rounds close (12 R345). A unit that has adopted already changes nothing. Where an event that a clause names cannot occur, it
changes nothing (log entry 2, the model's choice). -/
def Obligations.CommitRunsAndIsAdopted : Prop :=
  (∀ (s : State) (q : Req) (v : BitVec 32), Arrives s q → Bounded s →
     s.cfg.mode = .ready ∨ s.cfg.mode = .drain ∨ s.cfg.mode = .maint → s.cfg.pendingUnits = [] →
          (bit v.toNat 0 = true →
       ∃ t : State, exec (.cfgCommit q v) s = .next t ∧ t.cfg.seq = (s.cfg.seq + 1) % 65536 ∧ t.cfg.pendingUnits = s.units ∧
         (∀ off ∈ liveRegs, t.reg off = clamp off (s.captured off) % 2 ^ 32) ∧
         (∀ off, off ∉ liveRegs → off ≠ 0x10004 → t.reg off = s.reg off) ∧
         t.cfg.shadow = s.cfg.shadow ∧ t.cfg.mode = s.cfg.mode ∧ t.store = s.store ∧ t.sched = s.sched ∧ t.twin = s.twin ∧
                  SamePart s t ∧ SameSeals s t) ∧
              (bit v.toNat 0 = false → exec (.cfgCommit q v) s = .next (s.answer q true 0))) ∧
  (∀ (s : State) (unit : BitVec 6),
     (unit.toNat ∈ s.cfg.pendingUnits → s.cfg.commitAgain = 0 → ∀ (u : State) (changed : Prop),
       (changed ↔ unit.toNat < 32 ∧ (tget 0#32 (tget [] s.cfg.adopted unit.toNat) 0x3104).toNat ≠ s.reg 0x3104) →
       u = { s with cfg := { s.cfg with
         pendingUnits := s.cfg.pendingUnits.erase unit.toNat, adopted := tset [] s.cfg.adopted unit.toNat [] } } →
       ((∀ r ∈ s.sched.rounds, r.tile ≠ unit.toNat) →
         (¬ changed → exec (.commitAdoption unit) s = .next u) ∧
         (changed → exec (.commitAdoption unit) s = .next { u with sched := { s.sched with
           window := tset 0 s.sched.window unit.toNat (bits (s.reg 0x3104) 15 0) } })) ∧
       ∃ t : State, exec (.commitAdoption unit) s = .next t ∧ t.cfg = u.cfg ∧ t.store = s.store ∧ t.sched.jobs = s.sched.jobs ∧
         t.host = s.host ∧ t.twin = s.twin ∧ t.errs = s.errs ∧ SamePart s t ∧ SameSeals s t ∧
         (unit.toNat < 32 → bit (s.reg 0x310C) 0 = false → ∀ r ∈ t.sched.rounds, r.tile ≠ unit.toNat)) ∧
     (unit.toNat ∉ s.cfg.pendingUnits → exec (.commitAdoption unit) s = .next s))

/-! ### The translator's registers, tiles, the error log, BIST and repairs by register -/

/-- HAT_CTL.ENABLE (13 R381): the write sets it; clearing it is refused while a ring is enabled or draining or a fault is
open. HAT_FQ_HEAD (13 R369, R381): an index that does not pass HAT_FQ_TAIL is taken, and fault records that waited for room
are written; another is refused. -/
def Obligations.TranslatorAndFaultQueue : Prop :=
  (∀ (s : State) (q : Req), Arrives s q → Managed s →
     (∃ t : State, exec (.hatEnable q) s = .next (t.answer q true 0) ∧ t = { s with regs := t.regs } ∧
       (Bounded s → bit (t.reg 0xC000) 0 = true ∧ ∀ o, o ≠ 0xC000 → t.reg o = s.reg o)) ∧
     ((∀ r, r < s.part.rings → s.ringBusy r = false) → s.host.faults = [] →
       ∃ t : State, exec (.hatDisable q) s = .next (t.answer q true 0) ∧ t = { s with regs := t.regs } ∧
         (Bounded s → bit (t.reg 0xC000) 0 = false ∧ ∀ o, o ≠ 0xC000 → t.reg o = s.reg o)) ∧
     ((∃ r, r < s.part.rings ∧ s.ringBusy r = true) ∨ s.host.faults ≠ [] → exec (.hatDisable q) s = .next (s.refuse q 0xC000))) ∧
  (∀ (s : State) (q : Req) (v : BitVec 32), Arrives s q → Managed s →
     (ahead (s.reg 0xC028) v.toNat ≤ ahead (s.reg 0xC028) (s.reg 0xC024) →
       exec (.hatFqHead q v) s = .next ((({ s with regs := tset 0#32 s.regs 0xC028 v } : State).fqGoes).answer q true 0)) ∧
     (ahead (s.reg 0xC028) (s.reg 0xC024) < ahead (s.reg 0xC028) v.toNat → exec (.hatFqHead q v) s = .next (s.refuse q 0xC028)))

/-- The answers to a fault (13 R371). RETRY closes the fault that FAULT_ID names and every joined requester walks again with
the deadline it had; FAIL closes it and fails each with HOST_FAULT; a stale FAULT_ID is logged and changes nothing. -/
def Obligations.FaultIsRetriedOrFailed : Prop :=
  ∀ (s : State) (q : Req) (id : BitVec 24), Arrives s q → Managed s →
    (∀ f, s.host.faultOf id.toNat = some f →
      exec (.retry q id) s = .next (({ s with host := { s.host.closeFault f with
        walks := (s.host.closeFault f).walks ++ [{ tile := f.tile, page := f.page, acc := f.acc, both := f.both
                                                   who := f.who.map (fun p => (p.1, some p.2)) }] } } : State).pump.answer q true 0) ∧
      exec (.fail q id) s = .next (({ s with host := { s.host.closeFault f with
        failed := (s.host.closeFault f).failed ++ f.who.map (fun p => (p.1, 0x40)) } } : State).pump.answer q true 0)) ∧
    (s.host.faultOf id.toNat = none →
      exec (.retry q id) s = .next ((s.staleResp id.toNat).pump.answer q true 0) ∧
      exec (.fail q id) s = .next ((s.staleResp id.toNat).pump.answer q true 0))

/-- TST_BIST_CMD (19 R494): a command that the table accepts starts a run of the tile, its cores out of service; one that it
refuses sets REFUSED and changes nothing else. The accepting conditions are those of R494, stated one by one. TST_REPAIR_CMD with BURN (19 R498): in MAINT and HALTED the entry of TST_REPAIR_ENTRY is being burned for the tile named;
with a burn under way, a full map or in another state FAIL is set instead. A BIST run ends (19 R495, 03 R76): after what the memories met, its status, errors, failing address and signature are shown
and the tile's controller is free; a run that met a conflict on a core under test has failed. For a link run that is all. A burn ends (19 R498): the tile's map has one more entry, the one that was to be burned where it reads back good, else
one with a failing code, which sets FAIL. -/
def Obligations.BistAndBurnsRun : Prop :=
  (∀ (s : State) (q : Req) (v : BitVec 32), Arrives s q → Managed s ∨ s.cfg.mode = .halted → bit v.toNat 31 = true →
     cmdTarget v.toNat ≤ 5 →
     (s.hasTile (cmdTile v.toNat) = true → tget 0 s.test.running (cmdTile v.toNat) = 0 → s.indexOk v.toNat = true →
       (cmdTarget v.toNat ≤ 1 → s.cfg.mode ≠ .init → s.cfg.mode ≠ .pair →
         ∃ t : State, exec (.bistStart q v) s = .next (t.answer q true 0) ∧ t.test.running = tset 0 s.test.running (cmdTile v.toNat) v.toNat ∧
           t.test.bistState = 1 ∧ t.test.bistRefused = s.test.bistRefused ∧ (∀ k ∈ s.underTest v.toNat, k ∈ t.errs.coresOut) ∧
           t = { s with test := t.test, errs := { s.errs with coresOut := t.errs.coresOut } }) ∧
       (cmdTarget v.toNat = 4 → s.cfg.mode = .maint ∨ s.cfg.mode = .halted →
         ∃ t : State, exec (.bistStart q v) s = .next (t.answer q true 0) ∧ t.test.running = tset 0 s.test.running (cmdTile v.toNat) v.toNat ∧
           t.test.bistState = 1 ∧ t = { s with test := t.test }) ∧
       (cmdTarget v.toNat = 2 → s.cfg.mode = .maint → cmdTile v.toNat ∉ s.errs.tileOut →
         exec (.bistStart q v) s = .next (({ s with test := { s.test with bistRefused := true } }).answer q true 0))) ∧
     (tget 0 s.test.running (cmdTile v.toNat) ≠ 0 →
       exec (.bistStart q v) s = .next (({ s with test := { s.test with bistRefused := true } }).answer q true 0))) ∧
  (∀ (s : State) (q : Req) (v : BitVec 32), Arrives s q → Managed s ∨ s.cfg.mode = .halted → bit v.toNat 0 = true →
     (s.cfg.mode = .maint ∨ s.cfg.mode = .halted → s.hasTile (bits v.toNat 5 1) = true → s.test.repairBusy = none →
       (tget [] s.test.repair (bits v.toNat 5 1)).length < 4096 →
       exec (.burn q v) s = .next (({ s with test := { s.test with
         repairTile := some (bits v.toNat 5 1), repairBusy := some (bits v.toNat 5 1, s.reg 0x18020) } }).answer q true 0)) ∧
     ((s.cfg.mode ≠ .maint ∧ s.cfg.mode ≠ .halted) ∨ s.hasTile (bits v.toNat 5 1) = false ∨ s.test.repairBusy ≠ none ∨
       4096 ≤ (tget [] s.test.repair (bits v.toNat 5 1)).length →
       exec (.burn q v) s = .next (({ s with test := { s.test with
         repairTile := some (bits v.toNat 5 1), repairFail := true } }).answer q true 0))) ∧
  (∀ (s u : State) (tile : BitVec 5) (r : BistResult), s.hasTile tile.toNat = true → tget 0 s.test.running tile.toNat ≠ 0 →
    u = s.memEvents r.met →
    (∃ t : State, exec (.bistDone tile r) s = .next t ∧
      t.test = { s.test with
        running := tset 0 s.test.running tile.toNat 0
        bistState := if bistGood r (cmdTarget (tget 0 s.test.running tile.toNat)) s.test.bistExp = true ∧
          (∀ k ∈ u.underTest (tget 0 s.test.running tile.toNat), k ∉ u.cores.conflicts) then 2 else 3
        bistTile := tile.toNat, bistErrors := r.errors.toNat, bistFail := r.failAddr.toNat, bistSig := r.signature.toNat } ∧
      SamePart s t ∧ SameSeals s t ∧ (cmdTarget (tget 0 s.test.running tile.toNat) = 4 →
        t = { u with test := t.test, cores := { u.cores with conflicts := t.cores.conflicts } }))) ∧
  (∀ (s : State) (tile entry : Nat), s.test.repairBusy = some (tile, entry) →
     exec (.burnDone true) s = .next { s with test := { s.test with
       repairBusy := none, repair := tset [] s.test.repair tile (tget [] s.test.repair tile ++ [entry])
       repairFail := s.test.repairFail } } ∧
     exec (.burnDone false) s = .next { s with test := { s.test with
       repairBusy := none, repair := tset [] s.test.repair tile (tget [] s.test.repair tile ++ [2 ^ 32 + entry])
       repairFail := true } })

/-! ### The host port and the translator (13) -/

/-- Responses (13 R355, R372): a CPL or WACK whose tag names no waiting request of its kind is discarded and logged; the late
one of a request that timed out frees its tag too; any other ends its request, for its owner, with OK or, where STATUS is
another or the data are short, as BUS_ERROR. A request that has no response within HAT_TIMEOUT ends with HOST_FAULT, logged,
its tag held back; the second time its tag is free. Where an event that a clause names cannot occur, it
changes nothing (log entry 2, the model's choice). -/
def Obligations.ResponsesMatchTags : Prop :=
  ∀ (s : State) (q : Req) (st : BitVec 4) (p : List Byte), s.hasTile q.tile.toNat = true →
    (s.host.match q = none →
      exec (.cpl q st p) s = .next (s.strayResponse q) ∧ exec (.wack q st) s = .next (s.strayResponse q) ∧
      exec (.requestTimeout q) s = .next s) ∧
    (∀ r, s.host.match q = some r → r.dead = true →
      exec (.cpl q st p) s = .next (({ s with host := s.host.release r } : State).strayResponse q) ∧
      exec (.wack q st) s = .next (({ s with host := s.host.release r } : State).strayResponse q) ∧
      exec (.requestTimeout q) s = .next { s with host := s.host.release r }) ∧
    (∀ r, s.host.match q = some r → r.dead = false →
      (r.write = false → exec (.wack q st) s = .next (s.strayResponse q) ∧
        exec (.cpl q st p) s = .next (({ s with host := s.host.release r } : State).ends r
          (if st = 0 ∧ p.length = 64 * unitsOf r.addr r.bytes then 0 else 0x41) p)) ∧
      (r.write = true → exec (.cpl q st p) s = .next (s.strayResponse q) ∧
        exec (.wack q st) s = .next (({ s with host := s.host.release r } : State).ends r (if st = 0 then 0 else 0x41) [])) ∧
      exec (.requestTimeout q) s = .next
        ((({ s with host := { s.host with reqs := s.host.reqs.map (fun x => if x = r then { x with dead := true } else x) } } : State).report
          ((s.ownerInfo r.owner).names { severity := sevJob, cause := 0x23, unit := 0x06, tile := r.tile, index := 1
                                         addr := r.where_ })).ends r 0x40 []))

/-- INVAL (13 R366 to R368): a malformed one, and a 65th on its module, is answered with an INVAL_ACK of STATUS 2h. Any other
drops every look-aside entry and held translation of a page it covers and keeps all others, and waits for its
acknowledgement. It is acknowledged and counted once no request issued under a page it covers waits for its response. Where an event that a clause names cannot occur, it
changes nothing (log entry 2, the model's choice). -/
def Obligations.InvalidationDropsCovered : Prop :=
  ∀ (s : State) (q : Req) (aux : BitVec 32) (addr : BitVec 64),
    (s.hasTile q.tile.toNat = true →
      ((¬ ∃ first n, Covers aux.toNat addr.toNat first n) ∨ 64 ≤ waitingInvals s q →
        exec (.inval q aux addr) s = .next (s.send (invalAckOf q 2))) ∧
      (∀ first n, Covers aux.toNat addr.toNat first n → waitingInvals s q < 64 →
        ∃ t : State, exec (.inval q aux addr) s = .next t ∧ t.host.invals = s.host.invals ++ [⟨q, first, n⟩] ∧
          (∀ e, e ∈ t.host.look ↔ e ∈ s.host.look ∧ ¬ Meets e.2 first n) ∧
          (∀ c, c ∈ t.host.carried ↔ c ∈ s.host.carried ∧ ¬ (first ≤ c.page ∧ c.page < first + n)) ∧
          (∀ j ∈ t.sched.jobs, ∀ i ∈ j.items, ∀ p ∈ i.trans, ¬ (first ≤ p.1 ∧ p.1 < first + n)) ∧
          (∀ m ∈ t.store.migs, ∀ p ∈ m.trans, ¬ (first ≤ p.1 ∧ p.1 < first + n)) ∧
          t = { s with
            host := { s.host with look := t.host.look, carried := t.host.carried, invals := t.host.invals }
            sched := { s.sched with jobs := t.sched.jobs }, store := { s.store with migs := t.store.migs } })) ∧
    (s.host.invals.find? (fun x => x.q = q) = none → exec (.invalAck q) s = .next s) ∧
    (∀ i, s.host.invals.find? (fun x => x.q = q) = some i →
      (s.host.covered i = true → exec (.invalAck q) s = .next s) ∧
      (s.host.covered i = false →
        exec (.invalAck q) s = .next ((({ s with host := { s.host with invals := s.host.invals.erase i } } : State).send
          (invalAckOf q 0)).bump 0xC048 1)))

/-- Packets and modules. A packet of a type that the host does not send, or with a reserved STATUS, is discarded and logged;
another changes nothing by itself (13 R354). A module that trains is up, degraded or not; one that fails is down, logged, its
waiting requests go to another, and with the last one the part is in HALTED (13 R351). The oldest descriptor of a DMA channel ends (13 R378, R380). One that is done counts its 64 B units read, and those written after its conversion (13 R379). One
that is BAD counts, and the first one's tile, channel, STATUS, owner and address are captured; later ones leave the capture as it
is. A channel without descriptor changes nothing. Where an event that a clause names cannot occur, it
changes nothing (log entry 2, the model's choice). -/
def Obligations.PacketsModulesAndDma : Prop :=
  (∀ s : State,
     (∀ (q : Req) (w aux : BitVec 32) (addr : BitVec 64),
       (bits w.toNat 7 0 ∉ [0x04, 0x05, 0x10, 0x11, 0x12, 0x20] ∨ (bits w.toNat 7 0 ∉ [0x04, 0x05] ∧ bits w.toNat 23 20 ≠ 0) ∨
         (bits w.toNat 7 0 = 0x10 ∧ bits aux.toNat 31 6 ≠ 0) →
         exec (.hostPacket q w aux addr) s = .next (s.badPacket q)) ∧
       (bits w.toNat 7 0 ∈ [0x04, 0x05] ∨ (bits w.toNat 7 0 ∈ [0x11, 0x12, 0x20] ∧ bits w.toNat 23 20 = 0) ∨
         (bits w.toNat 7 0 = 0x10 ∧ bits w.toNat 23 20 = 0 ∧ bits aux.toNat 31 6 = 0) →
         exec (.hostPacket q w aux addr) s = .next s)) ∧
     (∀ (tile : BitVec 5) (m : BitVec 2) (d : Bool), s.hasTile tile.toNat = true → s.cfg.mode ≠ .off → m.toNat < s.part.modules →
       ∃ t : State, exec (.ucieModuleUp tile m d) s = .next t.pump ∧ bit (tget 0 t.host.up tile.toNat) m.toNat = true ∧
         bit (tget 0 t.host.degraded tile.toNat) m.toNat = d ∧
         (∀ n, n ≠ m.toNat → bit (tget 0 t.host.up tile.toNat) n = bit (tget 0 s.host.up tile.toNat) n) ∧
         t = { s with host := { s.host with up := t.host.up, degraded := t.host.degraded } }) ∧
     (∀ (tile : BitVec 5) (m : BitVec 2), s.hasTile tile.toNat = true →
       (bit (tget 0 s.host.up tile.toNat) m.toNat = false → exec (.ucieModuleDown tile m) s = .next s) ∧
       (bit (tget 0 s.host.up tile.toNat) m.toNat = true → tabOk 0 s.host.up = true →
         ∃ u t : State, bit (tget 0 u.host.up tile.toNat) m.toNat = false ∧
           (∀ n, n ≠ m.toNat → bit (tget 0 u.host.up tile.toNat) n = bit (tget 0 s.host.up tile.toNat) n) ∧
           u = { s with host := { s.host with up := u.host.up, degraded := u.host.degraded } } ∧
           t = (u.reroute tile.toNat m.toNat).report { severity := sevDegrade, cause := 0x26, unit := 0x07, tile := tile.toNat, index := m.toNat } ∧
                     ((∀ p ∈ s.host.waiting, p.1.tile = tile.toNat → p.1.module ≠ m.toNat) → u.reroute tile.toNat m.toNat = u) ∧
           ((∃ k, k < s.part.tiles ∧ tget 0 u.host.up k ≠ 0) → exec (.ucieModuleDown tile m) s = .next t) ∧
           ((∀ k, k < s.part.tiles → tget 0 u.host.up k = 0) → exec (.ucieModuleDown tile m) s = .next
             (t.block { severity := sevBlock, cause := 0x27, unit := 0x07, tile := tile.toNat, index := m.toNat } 0x0B))))) ∧
  (∀ (s : State) (tile : BitVec 5) (ch : BitVec 4) (how : DmaEnd), s.hasTile tile.toNat = true →
     (tget [] s.host.dma (tile.toNat * 16 + ch.toNat) = [] → exec (.dmaDescriptorEnd tile ch how) s = .next s) ∧
     (∀ (d : DmaDesc) (rest : List DmaDesc) (u : State), tget [] s.host.dma (tile.toNat * 16 + ch.toNat) = d :: rest →
       u = { s with host := { s.host with dma := tset [] s.host.dma (tile.toNat * 16 + ch.toNat) rest } } →
       (how = .done → exec (.dmaDescriptorEnd tile ch how) s =
         .next ((u.bumpTile tile.toNat 0x198 (ceilDiv d.count 64)).bumpTile tile.toNat 0x19C (ceilDiv d.landed 64))) ∧
       (how = .bus ∨ how = .timeout ∨ how = .fault → Bounded s →
         ∃ t : State, exec (.dmaDescriptorEnd tile ch how) s = .next t ∧ t = { u with regs := t.regs } ∧
           t.reg 0xD000 = min 0xFFFFFFFF (s.reg 0xD000 + 1) ∧
           (bit (s.reg 0xD004) 31 = true → t.reg 0xD004 = s.reg 0xD004 ∧ t.reg 0xD008 = s.reg 0xD008 ∧ t.reg 0xD00C = s.reg 0xD00C) ∧
           (bit (s.reg 0xD004) 31 = false → t.reg 0xD004 = 2 ^ 31 + 131072 * d.owner.kindCode + 512 * how.code + 32 * ch.toNat + tile.toNat ∧
             t.reg 0xD008 = d.failAddr.getD d.host % 2 ^ 32 ∧ t.reg 0xD00C = d.failAddr.getD d.host / 2 ^ 32 % 2 ^ 32)) ∧
       (how = .media → exec (.dmaDescriptorEnd tile ch how) s =
         .next ((u.captureBad tile.toNat ch.toNat d how).mediaBad tile.toNat ch.toNat d))))

/-- HAT_WALK (13 R360, R363, R364): with one walk of the page among the 64 in flight, a leaf that grants the access fills the look-aside with its
run and gives the translation to every requester; one that is absent, denied or malformed opens a fault; an access that ends
with BUS_ERROR fails the requesters with HOST_BUS_ERROR. Without a walk of the page nothing is read. The deadline of an open fault (13 R371): the requesters whose deadline is the earliest fail with HOST_FAULT and an entry
with cause HAT_TIMEOUT is logged; the fault closes when none is left, and stays open for the others. Where an event that a clause names cannot occur, it
changes nothing (log entry 2, the model's choice). -/
def Obligations.WalkFillsFaultsOrExpires : Prop :=
  (∀ (s : State) (tile : BitVec 5) (va : BitVec 48) (hv : HostView), s.hasTile tile.toNat = true →
     ((s.host.inFlight tile.toNat).filter (fun k => k.page = va.toNat / 4096) = [] →
       exec (.hatWalk tile va hv) s = .next s.pump) ∧
     (∀ (k : Walk) (u : State), (s.host.inFlight tile.toNat).filter (fun k => k.page = va.toNat / 4096) = [k] →
       u = { s with host := { s.host with walks := s.host.walks.erase k } } →
       (∀ level e table, walkFrom hv k.page k.acc k.both 4 (s.reg64 0xC008 / 4096) = .leaf level e table →
         exec (.hatWalk tile va hv) s = .next ({ u with host := { u.host with
           look := fillLook k.tile (leafRun hv level e table k.page) s.host.look
           carried := s.host.carried ++ k.gives ((leafRun hv level e table k.page).phys k.page) } } : State).pump) ∧
       (∀ c l, walkFrom hv k.page k.acc k.both 4 (s.reg64 0xC008 / 4096) = .fault c l →
         exec (.hatWalk tile va hv) s = .next (u.openFault k c l).pump) ∧
       (walkFrom hv k.page k.acc k.both 4 (s.reg64 0xC008 / 4096) = .bus →
         exec (.hatWalk tile va hv) s = .next ({ u with host := { u.host with
           failed := s.host.failed ++ (k.who.map Prod.fst).map (fun w => (w, 0x41)) } } : State).pump))) ∧
  (∀ (s : State) (tile : BitVec 5) (place : BitVec 8), s.hasTile tile.toNat = true →
     (s.host.faults.find? (fun f => f.tile = tile.toNat && f.place = place.toNat) = none →
       exec (.hatTimeout tile place) s = .next s.pump) ∧
     (∀ (f : HatFault) (out : List Waiter), s.host.faults.find? (fun f => f.tile = tile.toNat && f.place = place.toNat) = some f →
       out = (f.who.filter (fun p => p.2 = f.due)).map Prod.fst →
       ((∀ p ∈ f.who, p.2 = f.due) → exec (.hatTimeout tile place) s =
         .next (({ s with host := { s.host.closeFault f with
           failed := (s.host.closeFault f).failed ++ out.map (fun w => (w, 0x40)) } } : State).timeoutEntry tile.toNat f.page out).pump) ∧
       ((∃ p ∈ f.who, p.2 ≠ f.due) → exec (.hatTimeout tile place) s =
         .next (({ s with host := { s.host with
           faults := s.host.faults.map (fun g => if g = f then { g with who := f.who.filter (fun p => p.2 ≠ f.due) } else g)
           failed := s.host.failed ++ out.map (fun w => (w, 0x40)) } } : State).timeoutEntry tile.toNat f.page out).pump)))

/-! ### Intake, scheduling, completion (11, 12) -/

/-- Intake (11 R301 to R304, R313). It runs in READY only and takes the ring whose turn it is. With no completion slot free its
descriptor is held and stays where it is. A descriptor of a kind without batch that has been read, passes its checks and fits the
trackers is accepted: HEAD and SEQ rise by 1 and a job with one item on the anchor waits. One that fails its checks gets a
record with INVALID_DESCRIPTOR and no item, and SEQ stays. Nothing else of the store, the twin and the cores changes. -/
def Obligations.IntakeHoldsRefusesOrAccepts : Prop :=
  ∀ (s : State) (hv : HostView), Bounded s →
    (s.cfg.mode ≠ .ready ∨ s.errs.takeover = true ∨ s.nextRing = none → exec (.descriptorIntake hv) s = .next s) ∧
    (∀ r, s.cfg.mode = .ready → s.errs.takeover = false → s.nextRing = some r →
      (s.slotFree r = false →
        exec (.descriptorIntake hv) s = .next
          (({ s with sched := { s.sched with lastRing := r, intakeOf := some r } } : State).hold r false [])) ∧
      (∀ j : Job, s.slotFree r = true → (s.ring r).reading ≠ [] → r < 64 →
        j = { id := s.sched.nextJob, ring := r, seq := s.reg (ringReg r 0x3C), desc := (s.ring r).reading } →
        (s.descOk j = false →
          ∃ t : State, exec (.descriptorIntake hv) s = .next t ∧ t.sched.jobs = s.sched.jobs ++
              [{ j with refused := true, st := .settled, status := 0x30 }] ∧
            t.reg (ringReg r 0x10) = (s.reg (ringReg r 0x10) + 1) % 2 ^ 32 ∧ t.reg (ringReg r 0x3C) = s.reg (ringReg r 0x3C) ∧
            t.store = s.store ∧ t.twin = s.twin ∧ t.cores = s.cores ∧ t.cfg = s.cfg ∧ t.host = s.host ∧ t.errs = s.errs) ∧
        (s.descOk j = true → isBatch j.kind = false → s.fits r [(s.errs.anchor, 1)] = true →
          ∃ t : State, exec (.descriptorIntake hv) s = .next t ∧ t.sched.jobs = s.sched.jobs ++
              [{ j with items := [{ tile := s.errs.anchor, entry := 0 }] }] ∧
            t.reg (ringReg r 0x10) = (s.reg (ringReg r 0x10) + 1) % 2 ^ 32 ∧
            t.reg (ringReg r 0x3C) = (s.reg (ringReg r 0x3C) + 1) % 2 ^ 32 ∧
            t.store = s.store ∧ t.twin = s.twin ∧ t.cores = s.cores ∧ t.host = s.host ∧ t.errs = s.errs)))

/-- Ageing (11 R304, 12 R344, 09 R252). A held descriptor gains ageing priority once, behind those that have it; one that is not
held, and an item that does not exist, change nothing (log entry 2, the model's choice). An item that is ready, or that waits for
an eviction, gains it, and the open rounds that hold an item's rows close. An item that waits on evictions for longer than its budget is ready
again, its budget out. Batching (12 R345, R346). A round whose time has come closes: it is counted with its rows, its tile's window sees it, and beside
those counts and the cores' caches nothing changes. After
1,024 closed rounds the window doubles where the rounds were less than a quarter full, halves from three quarters on, stays
otherwise, within MIN and MAX; before that nothing changes. -/
def Obligations.AgeingRoundsAndWindows : Prop :=
  (∀ s : State,
     (∀ ring : BitVec 6,
       ((s.ring ring.toNat).aged = false → (s.ring ring.toNat).heldTrk = true ∨ (s.ring ring.toNat).heldCpl = true →
         exec (.descriptorAged ring) s = .next { s with sched := { s.sched with
           agedSeq := s.sched.agedSeq + 1
           rings := tset {} s.sched.rings ring.toNat { s.ring ring.toNat with aged := true, agedAt := s.sched.agedSeq + 1 } } }) ∧
       ((s.ring ring.toNat).aged = true ∨ ((s.ring ring.toNat).heldTrk = false ∧ (s.ring ring.toNat).heldCpl = false) →
         exec (.descriptorAged ring) s = .next s)) ∧
     (∀ (id k : Nat) (i : Item), s.item id k = some i →
       (s.ageable id k i = true → i.aged = 0 → s.roundsOf id k = [] →
         exec (.itemAged id k) s = .next (({ s with sched := { s.sched with agedSeq := s.sched.agedSeq + 1 } } : State).modItem id k
           (fun i => { i.foundReady s.now with aged := s.sched.agedSeq + 1 }))) ∧
       (∀ r, s.ageable id k i = false ∨ i.aged ≠ 0 → s.roundsOf id k = [r] → exec (.itemAged id k) s = .next (s.closeRound r)) ∧
       (i.st = .evictWait → ∃ t : State, exec (.evictBudgetElapsed id k) s = .next t ∧
         t.item id k = some { i with st := .waiting, budgetOut := true } ∧
         t = { s with sched := { s.sched with jobs := t.sched.jobs } }) ∧
       (i.st ≠ .evictWait → ∃ t : State, exec (.evictBudgetElapsed id k) s = .next t ∧ t.item id k = some i ∧
         t = { s with sched := { s.sched with jobs := t.sched.jobs } })) ∧
     (∀ id k, s.item id k = none → exec (.itemAged id k) s = .next s)) ∧
  (∀ (s : State) (tile : BitVec 5), s.hasTile tile.toNat = true →
     (∀ (f : BitVec 24) (r : Round),
       s.sched.rounds.find? (fun r => r.tile = tile.toNat && r.frame = f.toNat && decide (r.closeAt ≤ s.now)) = some r →
       ∃ t : State, exec (.batchRoundClose tile f) s = .next t ∧ t.sched = { s.sched with
           rounds := s.sched.rounds.erase r
           adaptRounds := tset 0 s.sched.adaptRounds tile.toNat (tget 0 s.sched.adaptRounds tile.toNat + 1)
           adaptRows := tset 0 s.sched.adaptRows tile.toNat (tget 0 s.sched.adaptRows tile.toNat + r.rows.length) } ∧
         (Bounded s → t.reg (win tile.toNat 0x180) = min 0xFFFFFFFF (s.reg (win tile.toNat 0x180) + 1) ∧
           t.reg (win tile.toNat 0x184) = min 0xFFFFFFFF (s.reg (win tile.toNat 0x184) + r.rows.length)) ∧
         t = { s with sched := t.sched, regs := t.regs, cores := { s.cores with cache := t.cores.cache } }) ∧
              (∀ f : BitVec 24,
           s.sched.rounds.find? (fun r => r.tile = tile.toNat && r.frame = f.toNat && decide (r.closeAt ≤ s.now)) = none →
       exec (.batchRoundClose tile f) s = .next s) ∧
     (tget 0 s.sched.adaptRounds tile.toNat < 1024 → exec (.batchWindowAdapt tile) s = .next s) ∧
     (∀ n rows lo hi : Nat, n = tget 0 s.sched.adaptRounds tile.toNat → rows = tget 0 s.sched.adaptRows tile.toNat → 1024 ≤ n →
       lo = bits (s.liveFor tile.toNat 0x3104) 15 0 → hi = max lo (bits (s.liveFor tile.toNat 0x3104) 31 16) →
       ∃ w : Nat, exec (.batchWindowAdapt tile) s = .next { s with sched := { s.sched with
           window := tset 0 s.sched.window tile.toNat w
           adaptRounds := tset 0 s.sched.adaptRounds tile.toNat 0, adaptRows := tset 0 s.sched.adaptRows tile.toNat 0 } } ∧
         (rows * 4 < 32 * n → w = min hi (if s.windowOf tile.toNat = 0 then 1 else 2 * s.windowOf tile.toNat)) ∧
         (32 * n ≤ rows * 4 → rows * 4 < 96 * n → w = s.windowOf tile.toNat) ∧
         (96 * n ≤ rows * 4 → w = max lo (s.windowOf tile.toNat / 2))))

/-- What the control SRAMs met since the last dispatch comes first (03 R94 to R96). A tile dispatches in READY and DRAIN, in service
and awake (12 R343, 14 R385). With no ready item it only notes that no class is ready. With one ready item it tries that item; where its
job is no batch job and needs no translation and no staging space, and no aged item waits for frames, the item runs, its LIVE values
bound, and nothing else changes. A tile that does not dispatch does nothing (log entry 2, the model's choice). -/
def Obligations.DispatchStartsReadyItem : Prop :=
  ∀ (s : State) (tile : BitVec 5), s.hasTile tile.toNat = true →
    (∀ srams, exec (.workItemDispatch ⟨tile, srams⟩) s = exec (.workItemDispatch ⟨tile, []⟩) (s.sramEvents tile.toNat srams)) ∧
    (s.dispatches tile.toNat = false → exec (.workItemDispatch ⟨tile, []⟩) s = .next s) ∧
    (s.dispatches tile.toNat = true → s.readyItems tile.toNat = [] →
      exec (.workItemDispatch ⟨tile, []⟩) s = .next { s with sched := { s.sched with wasReady := tset 0 s.sched.wasReady tile.toNat 0 } }) ∧
    (∀ p : Job × Nat × Item, s.dispatches tile.toNat = true → s.readyItems tile.toNat = [p] →
      exec (.workItemDispatch ⟨tile, []⟩) s = .next ((((s.modItem p.1.id p.2.1 (fun i => i.foundReady s.now)).noteReady tile.toNat
        [p.1.cls]).tryItem tile.toNat (p.1, p.2.1, p.2.2.foundReady s.now) s.agedWaits).1)) ∧
    (∀ (j : Job) (i : Item), s.dispatches tile.toNat = true → s.readyItems tile.toNat = [(j, 0, i)] →
      isBatch j.kind = false → s.jobNeeds j = [] → j.roles = [] → s.job j.id = some j → s.item j.id 0 = some i → i.served = false →
      (∀ p ∈ s.host.failed, p.1 ≠ .item j.id 0) → s.agedWaits = false →
      ∃ t : State, exec (.workItemDispatch ⟨tile, []⟩) s = .next t ∧
        (∃ x, t.item j.id 0 = some x ∧ x.st = .running ∧ x.started = decide (j.kind ≠ 0x03) ∧ x.trans = [] ∧ x.tile = i.tile ∧
          x.bind.lens ≠ []) ∧
        (∀ q, q ≠ j.id → t.job q = s.job q) ∧ t.store = s.store ∧ t.host.tx = s.host.tx ∧ t.cfg = s.cfg ∧ t.cores = s.cores ∧
        t.twin = s.twin ∧ t.errs = s.errs ∧ t.test = s.test ∧ SamePart s t ∧ SameSeals s t)

/-- WORK_ITEM_COMPLETE (11 R314). What the memories met comes first; an item whose windows await their WFENCE does not complete (03 R84). The item of a job without batch that has computed and awaits nothing is done: its job is
settled with it, what it held is released. A batch item that has failed is done too, and one whose result can be formed commits
it, issues its output writes and is done; one whose merge tree lacks its root waits. An item that has not computed, that awaits
a write or a migration, or a part that runs no jobs changes nothing more (log entry 2, the model's choice). -/
def Obligations.ItemsComplete : Prop :=
  ∀ (s u : State) (id k : Nat) (met : List MemEvent), u = s.itemEvents id k met →
    (s.engineOn = false → exec (.workItemComplete id ⟨k, met⟩) s = .next s) ∧
    (s.engineOn = true → u.windowsFenced id k = false → exec (.workItemComplete id ⟨k, met⟩) s = .next u) ∧
    (∀ (j : Job) (i : Item), s.engineOn = true → u.windowsFenced id k = true → u.job id = some j → u.item id k = some i →
      (i.st ≠ .computed ∨ i.writesLeft ≠ 0 ∨ j.migs ≠ [] → exec (.workItemComplete id ⟨k, met⟩) s = .next u) ∧
      (i.st = .computed → i.writesLeft = 0 → j.migs = [] →
        (isBatch j.kind = false → exec (.workItemComplete id ⟨k, met⟩) s = .next (u.itemDone j k)) ∧
        (isBatch j.kind = true → failing i.status = true → exec (.workItemComplete id ⟨k, met⟩) s =
          .next ((u.dropAppend id k i.status).itemDone j k)) ∧
        (isBatch j.kind = true → failing i.status = false → (∀ n ∈ u.needsOf j k i, ∃ p ∈ i.trans, p.1 = n.page) →
          (u.itemResult j k i = none → exec (.workItemComplete id ⟨k, met⟩) s = .next u) ∧
          (∀ o, u.itemResult j k i = some o → exec (.workItemComplete id ⟨k, met⟩) s = .next ((o.2.writeRows j k i o.1).itemDone j k)) ∧
          (j.kind = 0x10 → ∀ e, j.entries[i.entry]? = some e →
            exec (.workItemComplete id ⟨k, met⟩) s = .next (((u.commitItem j k e).writeRows j k i []).itemDone j k)))))

/-- Completion records and interrupt messages (11 R315, R319, R320, 13 R374). A job that may not write its record yet changes
nothing. With its address translated the record goes out as one write at CPL_TAIL and the job is recording; where the translation fails
the record is not written, CPL_TAIL rises all the same. A message that is wanted, its holdoff passed, goes out with its data at
its address and its time is kept; a ring's message whose address fails is dropped and logged; one that is not wanted does not go. Where an event that a clause names cannot occur, it
changes nothing (log entry 2, the model's choice). -/
def Obligations.RecordsAndMessages : Prop :=
  ∀ s : State,
    (∀ id : Nat, (s.job id = none → exec (.completionRecord id) s = .next s) ∧
      (∀ j, s.job id = some j → s.statsDue j = true → exec (.completionRecord id) s = .next (s.writeStats j)) ∧
      (∀ j, s.job id = some j → s.statsDue j = false →
        (s.mayRecord j = false → exec (.completionRecord id) s = .next s) ∧
        (∀ va x log2 : Nat, s.mayRecord j = true → x = s.reg (ringReg j.ring 0x1C) → log2 = bits (s.reg (ringReg j.ring 8)) 10 6 →
          va = s.reg64 (ringReg j.ring 0x14) + 32 * (x % 2 ^ log2) →
          (∀ tr t, s.translateAll s.errs.anchor (.record id) (needs va 32 1) = .ok tr t →
            exec (.completionRecord id) s = .next
              ((t.moveVirt t.errs.anchor true (.record id) tr va 0 32 (j.record x log2 t.now)).1.modJob id (fun j => { j with st := .recording }))) ∧
          (∀ e t, s.translateAll s.errs.anchor (.record id) (needs va 32 1) = .failed e t →
            exec (.completionRecord id) s = .next (t.recordDone id false)) ∧
          (∀ t, s.translateAll s.errs.anchor (.record id) (needs va 32 1) = .wait t →
            exec (.completionRecord id) s = .next t)))) ∧
    (∀ src : IrqSrc,
      (s.cfg.mode = .off ∨ s.irqWanted src = false ∨ s.holdoffPassed src = false → exec (.interruptMessage src) s = .next s) ∧
      (s.cfg.mode ≠ .off → s.irqWanted src = true → s.holdoffPassed src = true →
        (∀ r, src = .ring r → ∀ tr t, s.translateAll s.errs.anchor (.irq r.toNat)
            (needs (s.reg64 (ringReg r.toNat 0x24)) 4 1) = .ok tr t →
          exec (.interruptMessage src) s = .next ((t.moveVirt t.errs.anchor true (.irq src) tr (s.reg64 (ringReg r.toNat 0x24)) 0 4
            (leBytes 4 (s.reg (ringReg r.toNat 0x2C)))).1.irqIssued src)) ∧
        (∀ r, src = .ring r → ∀ e t, s.translateAll s.errs.anchor (.irq r.toNat)
            (needs (s.reg64 (ringReg r.toNat 0x24)) 4 1) = .failed e t →
          exec (.interruptMessage src) s = .next ((t.clearIrq src).irqDropped src)) ∧
        ((∀ r, src ≠ .ring r) → exec (.interruptMessage src) s = .next
          ((s.movePhys s.errs.anchor true (.irq src) none (s.reg64 (irqRegs src).1) 0 4 (leBytes 4 (s.reg (irqRegs src).2))).1.irqIssued src))))

/-! ### Jobs of contexts, prefixes and pages (10, 11) -/

/-- A job's command for an item that does not run, on a part whose job engine does not run, or for a job of another kind
changes nothing (log entry 2, the model's choice); a batch kind and a kind of one item are treated alike. -/
def Obligations.IdleJobCommandsChangeNothing : Prop :=
  ∀ (s : State) (c : Instr) (id k kind : Nat) (hv : HostView) (bad : List BadCompare),
      (c, k, kind) ∈ [(.openCtx id hv, 0, 0x01), (.close id, 0, 0x02), (.fork id, 0, 0x03), (.forkBinding id, 0, 0x03),
      (.park id, 0, 0x04), (.unpark id hv, 0, 0x05), (.append id k hv, k, 0x10), (.attendDecode id k hv, k, 0x11),
      (.attendPrefill id k hv, k, 0x12), (.attendBackward id k hv, k, 0x13), (.attendPartial id k hv, k, 0x14),
      (.prefixLookup id ⟨hv, bad⟩, 0, 0x20), (.prefixPublish id ⟨hv, bad⟩, 0, 0x21), (.prefixDrop id ⟨hv, bad⟩, 0, 0x22), (.evict id, 0, 0x30),
      (.prefetch id, 0, 0x31), (.truncate id hv, 0, 0x32), (.tableLoad id hv, 0, 0x40), (.tableLoadProceed id hv, 0, 0x40),
      (.barrier id, 0, 0x50), (.phaseSwitch id, 0, 0x51), (.nop id, 0, 0x7F)] →
    s.engineOn = false ∨ (∀ j, s.job id = some j → j.kind ≠ kind) ∨ (∀ i, s.item id k = some i → i.st ≠ .running) →
    exec c s = .next s

/-- NOP and BARRIER end with OK and change nothing else (11 R323). A PHASE_SWITCH without release and abort waits, changing
nothing, while a record of the class's earlier jobs is not written, and then ends with OK, no item aborted, no row closed; one
that releases closes the class's rows one by one and reports how many (11 R325). Where an event that a clause names cannot occur, it
changes nothing (log entry 2, the model's choice). -/
def Obligations.ControlJobsEnd : Prop :=
  ∀ (s : State) (id : Nat) (j : Job) (i : Item),
    (Runs s id 0 0x7F j i → ∃ t : State, exec (.nop id) s = .next t ∧ Ended s t id 0 0) ∧
    (Runs s id 0 0x50 j i → ∃ t : State, exec (.barrier id) s = .next t ∧ Ended s t id 0 0) ∧
    (Runs s id 0 0x51 j i → bit (j.word 4) 5 = false →
      (s.phaseJobs j ≠ [] → exec (.phaseSwitch id) s = .next s) ∧
      (s.phaseJobs j = [] → bit (j.word 4) 4 = false → ∃ t : State, exec (.phaseSwitch id) s = .next t ∧ Ended s t id 0 0) ∧
      (s.phaseJobs j = [] → bit (j.word 4) 4 = true → s.phaseWaits (bits (j.word 4) 1 0) = true →
        exec (.phaseSwitch id) s = .next s) ∧
      (s.phaseJobs j = [] → bit (j.word 4) 4 = true → s.phaseWaits (bits (j.word 4) 1 0) = false →
        exec (.phaseSwitch id) s = .next (((s.phaseRows (bits (j.word 4) 1 0)).foldl (fun s r => s.phaseClose j r) s).endJob id 0
          (s.phaseRows (bits (j.word 4) 1 0)).length)))

/-- OPEN (10 R273, R274): a stream list that cannot be read, or that fails its checks, or a full Context Table ends the job with
that status and changes nothing else; else the lowest free row holds the descriptor's context, ACTIVE, every other row is as it
was, and RESULT0 is its handle. CLOSE (10 R276): a stale handle, or a row CLOSING or PARKING, ends with CONTEXT_BAD_STATE; another row is
closed and reported to the twin. -/
def Obligations.ContextsOpenAndClose : Prop :=
  ∀ (s : State) (id : Nat) (j : Job) (i : Item) (hv : HostView),
    (Runs s id 0 0x01 j i →
      (∀ e, readVirt hv i.trans (j.dword 9) (4 * bits (j.word 5) 8 0) = .fail e →
        ∃ t : State, exec (.openCtx id hv) s = .next t ∧ Ended s t id e 0) ∧
      (∀ bs, readVirt hv i.trans (j.dword 9) (4 * bits (j.word 5) 8 0) = .ok bs →
        (s.openListOk j (wordsOf bs (bits (j.word 5) 8 0)) = false →
          ∃ t : State, exec (.openCtx id hv) s = .next t ∧ Ended s t id 0x30 0) ∧
        (s.openListOk j (wordsOf bs (bits (j.word 5) 8 0)) = true → s.lowestRows 1 = [] →
          ∃ t : State, exec (.openCtx id hv) s = .next t ∧ Ended s t id 0x10 0) ∧
        (∀ r, s.openListOk j (wordsOf bs (bits (j.word 5) 8 0)) = true → s.lowestRows 1 = [r] → tabOk {} s.store.rows = true →
          ∃ t : State, exec (.openCtx id hv) s = .next t ∧ t.row r = j.openRow r (s.row r).gen ∧
            (∀ q, q ≠ r → t.row q = s.row q) ∧ (∃ x i, t.job id = some x ∧ x.r0 = t.handle r ∧ t.item id 0 = some i ∧
              i.st = .computed ∧ i.status = 0) ∧
            t.store.map = s.store.map ∧ t.store.frames = s.store.frames ∧ t.store.nodes = s.store.nodes ∧ t.cfg = s.cfg ∧
            t.cores = s.cores ∧ t.host = s.host ∧ t.test = s.test ∧ SamePart s t ∧ SameSeals s t))) ∧
    (Runs s id 0 0x02 j i →
      (s.live? (j.word 4) = none → ∃ t : State, exec (.close id) s = .next t ∧ Ended s t id 0x11 0) ∧
      (∀ r, s.live? (j.word 4) = some r →
        ((s.row r).state = 2 ∨ (s.row r).state = 3 → ∃ t : State, exec (.close id) s = .next t ∧ Ended s t id 0x11 0) ∧
        ((s.row r).state ≠ 2 → (s.row r).state ≠ 3 →
          exec (.close id) s = .next (((s.closeContext r).sendPart [] s.store (j.group (j.word 4)) id).endJob id 0 0))))

/-- FORK, PARK, UNPARK and TRUNCATE where they end at once (10 R272, R277, R278, R281 to R285): a context whose state does not
allow the job ends it with CONTEXT_BAD_STATE, or MEDIA_UNCORRECTABLE for a TRUNCATE above LOST_PAGE; a FORK beyond the free rows ends with
CONTEXT_TABLE_FULL, a PARK without free slot too; an UNPARK whose record is damaged ends with DESCRIPTOR_INVALID. Nothing else
changes. A PARK that may go on takes its slot and issues its record; a TRUNCATE goes on with the cut. -/
def Obligations.ContextJobsCheckState : Prop :=
  ∀ (s : State) (id : Nat) (j : Job) (i : Item) (hv : HostView),
    (Runs s id 0 0x03 j i →
      ((s.live? (j.word 4) = none ∨ ∃ r, s.live? (j.word 4) = some r ∧ (s.row r).state ≠ 1) →
        (∃ t : State, exec (.fork id) s = .next t ∧ Ended s t id 0x11 0) ∧
        (∃ t : State, exec (.forkBinding id) s = .next t ∧ Ended s t id 0x11 0)) ∧
      (∀ r f u, s.live? (j.word 4) = some r → (s.row r).state = 1 → s.findPages r i (s.allPages r) = (f, u) → f.wait = false →
        f.cold = [] → exec (.fork id) s = .next u ∧
          (∀ st, u.forkRefusal j = some st → exec (.forkBinding id) s = .next (u.endJob id st 0)) ∧
          (u.forkRefusal j = none → exec (.forkBinding id) s = .next (u.forkBind j i r)))) ∧
    (Runs s id 0 0x04 j i →
      ((s.live? (j.word 4) = none ∨ ∃ r, s.live? (j.word 4) = some r ∧ (s.row r).state ≠ 1) →
        ∃ t : State, exec (.park id) s = .next t ∧ Ended s t id 0x11 0) ∧
      (∀ r, s.live? (j.word 4) = some r → (s.row r).state = 1 →
        (s.freeSlot = none → ∃ t : State, exec (.park id) s = .next t ∧ Ended s t id 0x10 0) ∧
        (∀ n, s.freeSlot = some n → exec (.park id) s = .next (s.parkAt j i r n)))) ∧
    (Runs s id 0 0x05 j i → i.writeStatus = 0 → j.claim = [] →
      (∀ e, readVirt hv i.trans (j.dword 4) 2368 = .fail e → ∃ t : State, exec (.unpark id hv) s = .next t ∧ Ended s t id e 0) ∧
      (∀ b, readVirt hv i.trans (j.dword 4) 2368 = .ok b →
        (fieldAt b 2312 4 ≠ (crc32c (b.take 2312)).toNat →
          ∃ t : State, exec (.unpark id hv) s = .next t ∧ Ended s t id 0x30 0) ∧
        (∀ r, fieldAt b 2312 4 = (crc32c (b.take 2312)).toNat → (s.slotAt (fieldAt b 2304 2)).crc = fieldAt b 2312 4 →
          (s.slotAt (fieldAt b 2304 2)).valid = true → (s.slotAt (fieldAt b 2304 2)).gen = fieldAt b 2306 2 →
          s.unparkRow b = some r → exec (.unpark id hv) s = .next (s.unparkGo j b r hv)))) ∧
    (Runs s id 0 0x32 j i →
      ((s.live? (j.word 4) = none ∨ ∃ r, s.live? (j.word 4) = some r ∧ (s.row r).state ≠ 1 ∧ (s.row r).state ≠ 4) →
        ∃ t : State, exec (.truncate id hv) s = .next t ∧ Ended s t id 0x11 0) ∧
      (∀ r, s.live? (j.word 4) = some r →
        ((s.row r).state = 4 → (s.row r).lostPage * (s.row r).tspan < j.word 5 →
          ∃ t : State, exec (.truncate id hv) s = .next t ∧ Ended s t id 0x50 0) ∧
        ((s.row r).state = 1 ∨ ((s.row r).state = 4 ∧ j.word 5 ≤ (s.row r).lostPage * (s.row r).tspan) →
          exec (.truncate id hv) s = .next (s.cutJob j i r (j.word 5) hv))))

/-- APPEND items (09 R245, R251, R255, R256, 12 R344). One that must leave frames to an aged item waits. With its rows read and its quota,
frames and blocks had, the item has staged its pages and has computed; its pages are committed when it completes. A read that fails
ends it, once the quota holds and the frames are had, with the host's status. Where an event that a clause names cannot occur, it
changes nothing (log entry 2, the model's choice). -/
def Obligations.AppendStagesItsPages : Prop :=
  ∀ (s : State) (id k : Nat) (j : Job) (i : Item) (e : Entry) (hv : HostView), j.entries[i.entry]? = some e → Runs s id k 0x10 j i →
    (s.yields i = true → exec (.append id k hv) s = .next s) ∧
    (∀ (ks vs : List Byte) (ps : List StagedPage) (acc : Acc) (u : State), s.yields i = false →
      readVirt hv i.trans (e.slot 0) (e.kvBytes (fmtOf (bits (j.word 9) 2 0)) (s.row (bits e.handle 13 0)).hd) = .ok ks →
      readVirt hv i.trans (e.slot 1) (e.kvBytes (fmtOf (bits (j.word 9) 2 0)) (s.row (bits e.handle 13 0)).hd) = .ok vs →
      runFM (s.stageEntry (s.appendCtl j i (bits e.handle 13 0) e) j i.entry (bits e.handle 13 0) e ks vs) = (ps, acc) →
      s.acquireAppend j k i e (bits e.handle 13 0) (reencoded ps) = (u, true) →
      ∃ t : State, exec (.append id k hv) s = .next t ∧
        (∀ x, u.item id k = some x → ∃ y, t.item id k = some y ∧ y.st = .computed ∧ y.staged = ps ∧
          y.reencodes = ps.foldl (fun n p => n + p.reencodes) 0 ∧ y.acq = x.acq ∧ y.blocks = x.blocks) ∧
        t.store = u.store ∧ t.host = u.host ∧ t.cfg = u.cfg ∧ t.twin = u.twin ∧ t.errs = u.errs) ∧
    (∀ (st : Nat) (u : State), s.yields i = false →
      readVirt hv i.trans (e.slot 0) (e.kvBytes (fmtOf (bits (j.word 9) 2 0)) (s.row (bits e.handle 13 0)).hd) = .fail st →
      s.acquireAppend j k i e (bits e.handle 13 0) (fun _ => false) = (u, true) →
      exec (.append id k hv) s = .next (u.failItem id k st))

/-- The attention kinds (06 R162, R167, R177, 07 R195). An item that makes no append, whose leaf tasks stand in no open round, whose pages
are all bound and whose inputs can be read computes: a forward item has one row for each that it reads, with the leaves of its
pages, or null leaves; a backward item the rows of its block and its masked rows counted. The store, the host port and the twin are as they
were. A forward item whose leaf tasks stand in an open round waits. Here SEGMENT and, for a forward item, SKIP are 0b. -/
def Obligations.AttentionItemsCompute : Prop :=
  ∀ (s : State) (id k kind : Nat) (c : Instr) (j : Job) (i : Item) (e : Entry) (hv : HostView), j.entries[i.entry]? = some e →
    ((kind = 0x11 ∧ c = .attendDecode id k hv) ∨ (kind = 0x12 ∧ c = .attendPrefill id k hv) ∨ (kind = 0x14 ∧ c = .attendPartial id k hv) →
      Runs s id k kind j i →
      (s.roundsOf id k ≠ [] → exec c s = .next s) ∧
      (∀ xs, s.roundsOf id k = [] → e.app ≠ 2 → j.appends k i = false → PagesBound s j i e → i.leafAt ≠ [] ∨ kind ≠ 0x11 →
        bit j.ctl 10 = false → j.readRows hv i e i.bind.ctx.group i.bind.ctx.hd = .ok xs →
        ∃ t : State, exec c s = .next t ∧ (∃ x, t.item id k = some x ∧ x.st = .computed ∧ x.started = true ∧ x.bind = i.bind ∧
            x.rows = i.rows ++ xs.map (fwdRow s j i e)) ∧
          (∀ q, q ≠ id → t.job q = s.job q) ∧ t.store = s.store ∧ t.host = s.host ∧ t.cfg = s.cfg ∧ t.twin = s.twin ∧ t.errs = s.errs ∧
          SamePart s t ∧ SameSeals s t)) ∧
    (Runs s id k 0x13 j i →
      (∀ xs, PagesBound s j i e → j.readBwd hv i e i.bind.ctx.group i.bind.ctx.hd = .ok xs →
        ∃ t : State, exec (.attendBackward id k hv) s = .next t ∧ (∃ x, t.item id k = some x ∧ x.st = .computed ∧ x.started = true ∧
            x.bwd.length = xs.length ∧ x.masked = i.masked + (xs.filter (fun y => decide (y.lse = 0xFF800000#32))).length) ∧
          (∀ q, q ≠ id → t.job q = s.job q) ∧ t.store = s.store ∧ t.host = s.host ∧ t.cfg = s.cfg ∧ t.twin = s.twin ∧ t.errs = s.errs ∧
          SamePart s t ∧ SameSeals s t))

/-- Prefix jobs (10 R289, R293 to R296). Each waits its turn among the tree's operations. A LOOKUP of a context that is not ACTIVE, or
holds pages, ends with CONTEXT_BAD_STATE; a PUBLISH of one that is not ACTIVE too. Tokens that cannot be read end the job with that
status. The nodes that match are locked; a LOOKUP that matches fewer than it asks for ends with PREFIX_MISMATCH, mapping nothing. A
DROP of mode ALL removes every node and reports how many. Where an event that a clause names cannot occur, it
changes nothing (log entry 2, the model's choice). -/
def Obligations.PrefixJobsMatchInTurn : Prop :=
  ∀ (s u : State) (id : Nat) (j : Job) (i : Item) (hv : HostView) (bad : List BadCompare),
    u = s.modJob id (fun j => { j with begun := true }) →
    (s.treeTurn j = false →
      (Runs s id 0 0x20 j i → exec (.prefixLookup id ⟨hv, bad⟩) s = .next s) ∧
      (Runs s id 0 0x21 j i → exec (.prefixPublish id ⟨hv, bad⟩) s = .next s) ∧
      (Runs s id 0 0x22 j i → exec (.prefixDrop id ⟨hv, bad⟩) s = .next s)) ∧
    (Runs s id 0 0x20 j i → s.treeTurn j = true →
      ((s.live? (j.word 4) = none ∨ ∃ r, s.live? (j.word 4) = some r ∧
          ((s.row r).state ≠ 1 ∨ ∃ d ∈ s.streamsOf r, d.2.pages ≠ 0)) →
        ∃ t : State, exec (.prefixLookup id ⟨hv, bad⟩) s = .next t ∧ Ended s t id 0x11 0) ∧
      (∀ r, s.live? (j.word 4) = some r → (s.row r).state = 1 → (∀ d ∈ s.streamsOf r, d.2.pages = 0) →
        (∀ e, readVirt hv i.trans (j.dword 7) (4 * j.word 5) = .fail e →
          ∃ t : State, exec (.prefixLookup id ⟨hv, bad⟩) s = .next t ∧ Ended s t id e 0) ∧
        (∀ toks hs ns m v, readVirt hv i.trans (j.dword 7) (4 * j.word 5) = .ok toks → m = .done ∨ m = .differs →
          hs = s.runHashes ((s.row r).run false true) (j.word 5 / (s.row r).tspan) toks →
          u.matchPages ((s.row r).run false true) i.tile id hv bad hs 0 toks [] = (ns, m, v) →
          exec (.prefixLookup id ⟨hv, bad⟩) s = .next (((v.lockNodes j ns).cacheTree hs ns).lookupMap j r ns) ∧
          (ns.length < j.word 6 → exec (.prefixLookup id ⟨hv, bad⟩) s =
            .next (((v.lockNodes j ns).cacheTree hs ns).endJob id 0x22 (ns.length * (v.row r).tspan)))))) ∧
    (Runs s id 0 0x21 j i → s.treeTurn j = true → j.build = [] →
      ((s.live? (j.word 4) = none ∨ ∃ r, s.live? (j.word 4) = some r ∧ (s.row r).state ≠ 1) →
        ∃ t : State, exec (.prefixPublish id ⟨hv, bad⟩) s = .next t ∧ Ended s t id 0x11 0) ∧
      (∀ r toks hs ns v, s.live? (j.word 4) = some r → (s.row r).state = 1 →
        readVirt hv i.trans (j.dword 6) (4 * j.word 5 * (s.row r).tspan) = .ok toks →
        hs = s.runHashes ((s.row r).run true false) (j.word 5) toks →
        u.matchPages ((s.row r).run true false) i.tile id hv bad hs 0 toks [] = (ns, .done, v) →
        (ns.length = j.word 5 → exec (.prefixPublish id ⟨hv, bad⟩) s =
          .next ((((v.lockNodes j ns).touchNodes ns).cacheTree hs ns).endJob id 0 0)) ∧
        (ns.length ≠ j.word 5 → exec (.prefixPublish id ⟨hv, bad⟩) s = .next ((v.lockNodes j ns).publishAcquire j i r ns.length hs toks)))) ∧
    (Runs s id 0 0x22 j i → s.treeTurn j = true →
      (bit (j.word 4) 0 = false → exec (.prefixDrop id ⟨hv, bad⟩) s = .next (u.dropAll.1.endJob id 0 u.dropAll.2)) ∧
      (bit (j.word 4) 0 = true → s.live? (j.word 5) = none →
        ∃ t : State, exec (.prefixDrop id ⟨hv, bad⟩) s = .next t ∧ Ended s t id 0x11 0) ∧
      (bit (j.word 4) 0 = true → 16384 ≤ j.word 6 → (s.live? (j.word 5)).isSome →
        ∃ t : State, exec (.prefixDrop id ⟨hv, bad⟩) s = .next t ∧ Ended s t id 0 0))

/-- EVICT and PREFETCH (09 R261): a context that does not let them run ends the job with CONTEXT_BAD_STATE; else every page named is handled,
in page order. TABLE_LOAD (14 R402 to R404): while items still use the older copy, or an earlier load of the table runs, the job
waits, and a non-blocking one ends with TABLE_GENERATION_BUSY; a load reads its source by DMA; contents that pass every check become the next generation, the copy of its
parity; contents that do not end the job with DESCRIPTOR_INVALID, both copies as they were. TABLE_LOAD_PROCEED goes on once it no longer
waits. Where an event that a clause names cannot occur, it
changes nothing (log entry 2, the model's choice). -/
def Obligations.MovesAndTableLoads : Prop :=
  ∀ (s : State) (id : Nat) (j : Job) (i : Item) (hv : HostView),
    (s.runsMoves (j.word 4) = none →
      (Runs s id 0 0x30 j i → ∃ t : State, exec (.evict id) s = .next t ∧ Ended s t id 0x11 0) ∧
      (Runs s id 0 0x31 j i → ∃ t : State, exec (.prefetch id) s = .next t ∧ Ended s t id 0x11 0)) ∧
    (∀ r, s.runsMoves (j.word 4) = some r →
      (Runs s id 0 0x30 j i → exec (.evict id) s = .next (((j.namedPages.zipIdx).foldl (fun s p =>
        s.evictPage id r p.2 (bit (tget 0#32 i.bind.commit 0x8000).toNat 0) p.1) s).allHandled id)) ∧
      (Runs s id 0 0x31 j i → exec (.prefetch id) s = .next (s.prefetchFrom j r (allocCtl i.bind.commit false j.cls i.budgetOut)
        ((j.namedPages.zipIdx).drop j.pageNext)))) ∧
    (Runs s id 0 0x40 j i → ∀ t, s.loadTable j = some t →
      (t.waits id = true →
        exec (.tableLoadProceed id hv) s = .next s ∧
        (j.nonblock = false → exec (.tableLoad id hv) s = .next s) ∧
        (j.nonblock = true → exec (.tableLoad id hv) s = .next (s.loadEnds t id 0x60))) ∧
      (t.waits id = false → exec (.tableLoad id hv) s = exec (.tableLoadProceed id hv) s ∧
        (∀ tr v u bs, s.translateAll i.tile (.item id 0) (needs (j.dword 6) (j.word 5) 0) = .ok tr v →
          u = v.fetch i.tile (.table id) (runFetches [(j.dword 6, j.word 5)]) →
          readVirt hv tr (j.dword 6) (j.word 5) = .ok bs →
          (tableBytesOk t.kind (padTo t.size bs) = true → (∀ r ∈ u.rowsInUse, u.rowTakes t.kind t.num (padTo t.size bs) r = true) →
            exec (.tableLoadProceed id hv) s =
              .next (u.loadEnds (t.flip (padTo t.size bs)) id 0) ∧
            (t.flip (padTo t.size bs)).gen = (t.gen + 1) % 2 ^ 32 ∧
            (t.gen % 2 = 0 → (t.flip (padTo t.size bs)).copy1 = padTo t.size bs ∧ (t.flip (padTo t.size bs)).copy0 = t.copy0) ∧
            (t.gen % 2 = 1 → (t.flip (padTo t.size bs)).copy0 = padTo t.size bs ∧ (t.flip (padTo t.size bs)).copy1 = t.copy1)) ∧
          (tableBytesOk t.kind (padTo t.size bs) = false →
            exec (.tableLoadProceed id hv) s = .next (u.loadEnds t id 0x30)))))

/-! ### Cores, scratchpads, control SRAMs (03, 16) -/

/-- Remote reads and receive windows (03 R70, R83 to R86). A read within reach returns the receiver's words and changes nothing
else; one that reaches a hole is handled as a bad access. A CREDIT returns units that have been consumed, never more; the first one of a
window opens it with its whole size. A WDATA writes its flit's 16 words at the next 64 B of the ring, takes a credit, and
leaves every other word of every scratchpad as it was; into a window that is closed it is logged and dropped, without a credit it waits.
A WFENCE says that every flit before it is written. A read of a core without power, a CREDIT beyond what has been consumed, one that opens
no window, and a WFENCE for a closed window change nothing (log entry 2, the model's choice). -/
def Obligations.ScratchpadsAndWindows : Prop :=
  ∀ (s : State) (c : CoreId) (w : BitVec 3), s.hasTile c.tile.toNat = true →
    (∀ (id k : Nat) (q : BitVec 2) (off n : BitVec 16),
      (s.powered c.tile.toNat = true → s.reaches c q.toNat off.toNat n.toNat = true →
        exec (.remoteRead id k c q off n) s = .next { s with cores := { s.cores with
          remote := (List.range n.toNat).map (fun i => s.spdWord c.key q.toNat (off.toNat + 4 * i)) } }) ∧
      (s.powered c.tile.toNat = true → s.reaches c q.toNat off.toNat n.toNat = false →
        exec (.remoteRead id k c q off n) s = .next (s.badAccess id k c q.toNat off.toNat)) ∧
      (s.powered c.tile.toNat = false → exec (.remoteRead id k c q off n) s = .next s)) ∧
    (∀ (units : BitVec 10) (x : Window), x = s.window c.key w.toNat →
      (x.opened = true → units.toNat ≤ x.unread → exec (.credit c w units) s =
        .next (s.setWindow c.key w.toNat { x with credits := x.credits + units.toNat, unread := x.unread - units.toNat })) ∧
      (x.opened = true → x.unread < units.toNat → exec (.credit c w units) s = .next s) ∧
      (∀ y, x.opened = false → s.windowFor c.key w.toNat = some y →
        (units.toNat = y.size → exec (.credit c w units) s = .next (s.setWindow c.key w.toNat y)) ∧
        (units.toNat ≠ y.size → exec (.credit c w units) s = .next s)) ∧
      (x.opened = false → s.windowFor c.key w.toNat = none → exec (.credit c w units) s = .next s)) ∧
    (∀ (flit : List Byte) (x : Window), x = s.window c.key w.toNat →
      (x.opened = false → exec (.wdata c w flit) s = .next (s.report
        { severity := sevJob, cause := 0x12, unit := 0x01, tile := c.tile.toNat, index := c.index, addr := x.base })) ∧
      (x.opened = true → x.credits = 0 → exec (.wdata c w flit) s = .next s) ∧
      (x.opened = true → 0 < x.credits → State.tablesOk s = true → ∀ a, a = x.base + 64 * x.pos →
        ∃ t : State, exec (.wdata c w flit) s = .next t ∧
          t.window c.key w.toNat = { x with pos := (x.pos + 1) % x.size, credits := x.credits - 1, unread := x.unread + 1, fenced := false } ∧
          (∀ n, n < 16 → t.spdWord c.key ((a + 4 * n) / 65536) ((a + 4 * n) % 65536) = BitVec.ofNat 32 (fieldAt flit (4 * n) 4)) ∧
          (∀ key, (∀ n, n < 16 → key ≠ spdKey c.key ((a + 4 * n) / 65536) ((a + 4 * n) % 65536)) →
            tget none t.cores.spd key = tget none s.cores.spd key) ∧
          t = { s with cores := { s.cores with spd := t.cores.spd, windows := t.cores.windows } })) ∧
    ((s.window c.key w.toNat).opened = true →
      exec (.wfence c w) s = .next (s.setWindow c.key w.toNat { s.window c.key w.toNat with fenced := true })) ∧
    ((s.window c.key w.toNat).opened = false → exec (.wfence c w) s = .next s)

/-- Core faults (16 R449 to R451). A fault, a stall and a held credit take the core out of service, logged, and retry the items that
ran on it; a core that the configuration lacks, and a substitution of one in service or out for good, change nothing (log entry 2, the model's
choice). A core out of service that passes its test is back; one that fails gives its address to a spare of its rank, its scratchpad
empty, or, with no spare left, stays out for good. -/
def Obligations.CoreFaultsAndSpares : Prop :=
  ∀ (s : State) (c : CoreId), s.hasTile c.tile.toNat = true →
    (s.hasCore c = true →
      (∀ kind : BitVec 2, exec (.coreFault c kind) s = .next (s.coreFault c kind.toNat) ∧
        (s.errs.coresOut.contains c.key = false → c.key ∈ (s.coreFault c kind.toNat).errs.coresOut)) ∧
      exec (.creditHoldTimeout c) s = .next (s.coreFault c 2) ∧ exec (.coreStallTimeout c) s = .next (s.coreFault c 3)) ∧
    (s.hasCore c = false → (∀ kind : BitVec 2, exec (.coreFault c kind) s = .next s) ∧
      exec (.creditHoldTimeout c) s = .next s ∧ exec (.coreStallTimeout c) s = .next s) ∧
    (∀ pass : Bool, c.key ∉ s.errs.coresOut ∨ c.key ∈ s.errs.coresRetired → exec (.coreSubstitution c pass) s = .next s) ∧
    (∀ u v : State, s.hasCore c = true → c.key ∈ s.errs.coresOut → c.key ∉ s.errs.coresRetired → u = s.finish (coreRef c.key) →
      v = { u with errs := { u.errs with coresOut := s.errs.coresOut.erase c.key } } →
      exec (.coreSubstitution c true) s = .next v ∧
      (∀ i k, k = c.tile.toNat * 64 + c.rank.toNat → lowestClear 2 (tget 0 s.errs.sparesUsed k) = some i →
        ∃ t : State, exec (.coreSubstitution c false) s = .next (t.report
            { severity := sevDegrade, cause := 0x07, unit := 0x00, tile := c.tile.toNat, index := c.index }) ∧
          t.errs.coresOut = v.errs.coresOut ∧ bit (tget 0 t.errs.sparesUsed k) i = true ∧ tget none t.errs.bound c.key = some i ∧
          (∀ p ∈ t.cores.spd, p.1 / 65536 ≠ c.key) ∧ (∀ p, p.1 / 65536 ≠ c.key → (p ∈ t.cores.spd ↔ p ∈ s.cores.spd)) ∧
          t.store = s.store ∧ t.sched = s.sched ∧ t.regs = s.regs) ∧
      (lowestClear 2 (tget 0 s.errs.sparesUsed (c.tile.toNat * 64 + c.rank.toNat)) = none →
        exec (.coreSubstitution c false) s = .next (({ u with errs := { u.errs with
          coresRetired := insertKey c.key s.errs.coresRetired } } : State).report
            { severity := sevDegrade, cause := 0x08, unit := 0x00, tile := c.tile.toNat, index := c.index })))

/-- Scrubbing of scratchpads (03 R92, 16 R438, R439). Each read moves the bank's pointer to its next word. A clean word, and one in the
idle part of the cache quarter, do nothing more; a corrected one is counted and noted; an uncorrectable one of the cache is discarded,
counted and noted, another is a core fault. A
scrub that takes a feeder's cycle moves the pointer too and, on a feeder's bank, counts a delay. A core that is not scrubbed changes nothing (log
entry 2, the model's choice). Control SRAMs (03 R97 to R99, 16 R456, 17 R474). A bank goes to retention while its tile is ACTIVE and the setting asks for it, and
leaves it at a wake; a background test reads the bank's next region, at most one per millisecond, and moves on; failing words are
reported and the region remapped. Elsewhere nothing changes (log entry 2). -/
def Obligations.ScratchpadsAreScrubbedAndScreened : Prop :=
  (∀ (s : State) (c : CoreId) (bank : BitVec 6), s.hasTile c.tile.toNat = true →
     ((s.hasCore c = false ∨ s.scrubs c = false) →
       (∀ f, exec (.spdScrub c bank f) s = .next s) ∧ exec (.scrubClaim c bank) s = .next s) ∧
     (∀ (u : State) (w : Nat × Nat) (e : LogEntry), s.hasCore c = true → s.scrubs c = true →
       u = { s with cores := { s.cores with
         scrub := tset 0 s.cores.scrub (c.key * 64 + bank.toNat) ((tget 0 s.cores.scrub (c.key * 64 + bank.toNat) + 1) % 768) } } →
       w = scrubWord bank.toNat (tget 0 s.cores.scrub (c.key * 64 + bank.toNat)) →
       e = { severity := sevNote, cause := 0x01, unit := 0x01, tile := c.tile.toNat, index := c.index, addr := 65536 * w.1 + w.2 } →
       exec (.spdScrub c bank .clean) s = .next u ∧
       (s.idleCache c.key w.1 w.2 = true → exec (.spdScrub c bank .corrected) s = .next u ∧
                exec (.spdScrub c bank .uncorrectable) s = .next u) ∧
              (s.idleCache c.key w.1 w.2 = false → exec (.spdScrub c bank .corrected) s = .next ((u.bumpTile c.tile.toNat 0x1AC 1).report e)) ∧
              (s.inCache c.key w.1 w.2 = true → exec (.spdScrub c bank .uncorrectable) s =
                .next (((u.dropLine c.key (65536 * w.1 + w.2)).bumpTile c.tile.toNat 0x1B0 1).report { e with cause := 0x13 })) ∧
              (s.inCache c.key w.1 w.2 = false → s.idleCache c.key w.1 w.2 = false → exec (.spdScrub c bank .uncorrectable) s = .next (u.coreFault c 0)) ∧
       exec (.scrubClaim c bank) s = .next (if bank.toNat < 32 then u.bumpTile c.tile.toNat 0x110 1 else u))) ∧
  (∀ (s : State) (tile : BitVec 5) (b : BitVec 3), s.hasTile tile.toNat = true →
     (bit (s.liveFor tile.toNat 0x1400C) 0 = true → s.powered tile.toNat = true → s.hasBank tile.toNat b.toNat = true →
       exec (.sramRetention tile b) s = .next { s with cores := { s.cores with
         retained := insertKey (tile.toNat * 8 + b.toNat) s.cores.retained } }) ∧
     (bit (s.liveFor tile.toNat 0x1400C) 0 = false ∨ s.powered tile.toNat = false ∨ s.hasBank tile.toNat b.toNat = false →
       exec (.sramRetention tile b) s = .next s) ∧
     exec (.sramWake tile b) s = .next { s with cores := { s.cores with
       retained := s.cores.retained.erase (tile.toNat * 8 + b.toNat) } } ∧
     (∀ (bad : List (BitVec 8)) (k region : Nat) (u : State), k = tile.toNat * 8 + b.toNat → region = tget 0 s.cores.region k →
       u = { s with cores := { s.cores with
         region := tset 0 s.cores.region k ((region + 1) % bankRegions b.toNat), regionAt := tset 0 s.cores.regionAt k (s.now + 1) } } →
       (s.cfg.mode = .ready ∨ s.cfg.mode = .drain ∨ s.cfg.mode = .maint → s.hasBank tile.toNat b.toNat = true →
         s.cores.retained.contains k = false → tget 0 s.cores.regionAt k = 0 ∨ tget 0 s.cores.regionAt k + 999999 ≤ s.now →
         (bad = [] ∨ (k, region) ∈ s.cores.shadowed → exec (.sramBackgroundTest tile b bad) s = .next u) ∧
         (bad ≠ [] → (k, region) ∉ s.cores.shadowed → exec (.sramBackgroundTest tile b bad) s =
           .next (u.failRegion tile.toNat b.toNat region (bad.map (fun w => w.toNat)).eraseDups))) ∧
       ((s.cfg.mode ≠ .ready ∧ s.cfg.mode ≠ .drain ∧ s.cfg.mode ≠ .maint) ∨ s.hasBank tile.toNat b.toNat = false ∨
         s.cores.retained.contains k = true ∨ (tget 0 s.cores.regionAt k ≠ 0 ∧ s.now < tget 0 s.cores.regionAt k + 999999) →
         exec (.sramBackgroundTest tile b bad) s = .next s)))

/-- Merge trees, atomic contributions, waves (06 R172, 07 R204 to R206). A node of a forward row replaces its two children; a
backward one joins the item's nodes, for dK and dV that of each page; a contribution is added into its row's target once, and a second one of
the same tile is discarded and counted; a wave's fold joins its row or its pages and frees its slots. An item that is not merging, or a child
or contribution that is missing, changes nothing (log entry 2, the model's choice). -/
def Obligations.ReductionsCombine : Prop :=
  ∀ (s : State) (id k : Nat) (j : Job) (i : Item), s.job id = some j → s.item id k = some i →
    (i.merging = false → (∀ target lo n, exec (.mergeNode id k target lo n) s = .next s) ∧
      (∀ row source, exec (.atomicAdd id k row source) s = .next s)) ∧
    (i.merging = true → isAttend j.kind = true → ∀ target lo n w, i.rows[target]? = some w →
      (w.merge (profileOf s.cfg.image.np) (bit j.nctl 2) lo n = none → exec (.mergeNode id k target lo n) s = .next s) ∧
      (∀ c, w.merge (profileOf s.cfg.image.np) (bit j.nctl 2) lo n = some c →
        exec (.mergeNode id k target lo n) s = .next ((s.took id k i.mergeCore (runFM c).2).modItem id k (fun i =>
                  { i with rows := i.rows.set target (runFM c).1 })) ∧
        (∀ x ∈ (runFM c).1.nodes, x ∈ w.nodes ∨ (x.lo = lo ∧ x.n = n)) ∧ (∃ x ∈ (runFM c).1.nodes, x.lo = lo ∧ x.n = n))) ∧
    (i.merging = true → j.kind = 0x13 → bit j.ctl 10 = false → ∀ target lo n w, target < 1048576 → i.bwd[target / 64]? = some w →
      ∀ c, mergeNodes (bit j.nctl 2) w.nodes (target % 64) (w.heldBy (target % 64)) lo n = some c →
        exec (.mergeNode id k target lo n) s = .next ((s.took id k i.mergeCore (runFM c).2).modItem id k (fun i =>
                  { i with bwd := i.bwd.set (target / 64) { w with nodes := w.nodes ++ [(runFM c).1] } }))) ∧
    (i.merging = true → j.kind = 0x13 → bit j.ctl 10 = false → ∀ e lo n cs, j.entries[i.entry]? = some e →
      (j.keyPages i e).mapM (fun p => mergeNodes (bit j.nctl 2) (j.keyNodes i) p e.blocks.length lo n) = some cs →
      ∃ t : State, exec (.mergeNode id k 1048576 lo n) s = .next t ∧
        (∃ x, t.item id k = some x ∧ x.grads = i.grads ++ cs.map (fun c => (runFM c).1)) ∧
        t.store = s.store ∧ t.host = s.host ∧ t.errs = s.errs ∧ t.twin = s.twin ∧ t.cfg = s.cfg) ∧
    (i.merging = true → bit j.ctl 10 = false → ∀ row source w v, i.bwd[row]? = some w →
      nodeVals w.nodes source 0 (w.heldBy source) = some v →
      (source ∈ w.applied → exec (.atomicAdd id k row source) s = .next (s.bumpTile i.tile 0x134 1)) ∧
      (source ∉ w.applied → ∃ sum : List (DWord × Bool), ∃ t : State, exec (.atomicAdd id k row source) s = .next t ∧
        (∃ x, t.item id k = some x ∧ x.bwd[row]? = some { w with target := sum, applied := w.applied ++ [source] }) ∧
        sum = (runFM (gradsAdd (bit j.nctl 2) false (if w.target = [] then v.map (fun _ => (0#64, false)) else w.target) v)).1 ∧
        t.store = s.store ∧ t.host = s.host ∧ t.errs = s.errs ∧ t.twin = s.twin ∧ t.cfg = s.cfg ∧ t.cores = s.cores)) ∧
    (i.merging = true → j.kind = 0x13 → bit j.ctl 10 = true → ∀ e wave cs, j.entries[i.entry]? = some e →
      (j.keyPages i e).mapM (fun p => foldWave (bit j.nctl 2) (j.keyNodes i) p e.blocks.length wave) = some cs → cs ≠ [] →
      ∃ t : State, exec (.waveFold id (2048 * k + 1024) wave) s = .next t ∧
        (∃ x y, t.item id k = some x ∧ x.grads = y ++ cs.map (fun c => (runFM c).1) ∧ ∀ g ∈ y, g ∈ i.grads ∧
          (wave < e.blocks.length / 64 → g.lo < 64 * wave ∨ 64 * wave + 64 < g.lo + g.n)) ∧
        t.store = s.store ∧ t.host = s.host ∧ t.errs = s.errs ∧ t.twin = s.twin ∧ t.cfg = s.cfg) ∧
    (i.merging = true → j.kind = 0x13 → bit j.ctl 10 = true → ∀ row wave w c, row < 1024 → i.bwd[row]? = some w →
      foldWave (bit j.nctl 2) w.nodes 0 w.leaves wave = some c →
        exec (.waveFold id (2048 * k + row) wave) s = .next (((if wave < w.leaves / 64 then s.bumpTile i.tile 0x138 1
          else s).took id k i.mergeCore (runFM c).2).modItem id k (fun i => { i with
            bwd := i.bwd.set row { w with nodes := freeWave (runFM c).1 w.nodes } }))) ∧
    (i.merging = false → ∀ t wave, t < 2048 → exec (.waveFold id (2048 * k + t) wave) s = .next s)

/-! ### Pages in transit, repairs (09, 16) -/

/-- Migrations (09 R258 to R266, 13 R373). One that has not come to its end changes nothing (log entry 2, the model's choice). An eviction whose every write is
acknowledged writes its record, switches its map entry unless the page was released, frees its frame, which goes to whoever waits
first, and is counted; a failed write is
repeated, and after its fourth failure the frame is BAD. A recall whose bytes have all arrived ends in its frame; one that fails leaves
its record as it was. Background eviction stops where it is not enabled or enough frames are free. -/
def Obligations.MigrationsEnd : Prop :=
  ∀ s : State,
    (∀ slot, s.mig slot = none → exec (.evictionDone slot) s = .next s ∧ exec (.evictionWriteFail slot) s = .next s ∧
      exec (.recallDone slot) s = .next s ∧ exec (.recallFail slot) s = .next s) ∧
    (∀ slot m, s.mig slot = some m →
      (m.evicted = false → exec (.evictionDone slot) s = .next s) ∧
      (m.evicted = true → exec (.evictionDone slot) s = .next (s.evictionDone m)) ∧
      (∀ u : State, m.evicted = true → m.ofPartner = false → u = s.dropLabFrame m.frame →
        exec (.evictionDone slot) s = .next ((((((if m.released then u else { u with store := { u.store with
              cold := tset none u.store.cold (8388608 * m.home + m.record) (some ((s.frame m.frame).cold m.host))
              map := tset .empty u.store.map m.loc (.cold (8388608 * m.home + m.record)) } }).dropMig m.slot).freeFrame
              m.frame).wakeGranted).bumpTile (frameTile m.frame) 0x158 1).tellEnd m true).pump) ∧
      (m.evict = false ∨ m.redo = [] → exec (.evictionWriteFail slot) s = .next s) ∧
      (m.evict = true → m.redo ≠ [] → m.ofPartner = false →
        ((∃ p ∈ m.fails, 4 ≤ p.2) → exec (.evictionWriteFail slot) s = .next
          ((((s.frameBad m.frame 0x04 (frameTile m.frame) 0 m.frame).dropMig m.slot).tellEnd m false).pump)) ∧
        ((∀ p ∈ m.fails, p.2 < 4) → m.issued = true → exec (.evictionWriteFail slot) s = .next
          (m.redo.foldl (fun s w => s.redoWrite m.slot w) s)) ∧
        ((∀ p ∈ m.fails, p.2 < 4) → m.issued = false → exec (.evictionWriteFail slot) s = .next
          ((s.putMig { m with status := 0, redo := [] }).pump))) ∧
      (m.arrived = false → exec (.recallDone slot) s = .next s) ∧
      (m.arrived = true → exec (.recallDone slot) s = .next (s.recallDone m)) ∧
      (m.evict = true ∨ m.status = 0 → exec (.recallFail slot) s = .next s) ∧
      (m.evict = false → m.status ≠ 0 → exec (.recallFail slot) s = .next (s.recallFails m)) ∧
      (m.evict = false → m.status ≠ 0 → m.ofPartner = false → (∀ id i, m.why ≠ .item id i) → (s.frame m.frame).st = .moving →
        exec (.recallFail slot) s = .next ((((s.freeFrame m.frame).dropMig m.slot).tellEnd m false).pump))) ∧
    (∀ (tile : BitVec 5) (ctl wm low high : Nat), s.hasTile tile.toNat = true → ctl = s.liveFor tile.toNat 0x8000 →
      wm = s.liveFor tile.toNat 0x8010 → low = bits wm 15 0 → high = max (bits wm 31 16) low →
      (bit ctl 0 = false ∨ bit ctl 1 = false ∨ high ≤ s.freeCount tile.toNat ∨
        (low ≤ s.freeCount tile.toNat ∧ tile.toNat ∉ s.store.bg) →
        exec (.backgroundEviction tile) s = .next { s with store := { s.store with bg := s.store.bg.erase tile.toNat } }) ∧
      (bit ctl 0 = true → bit ctl 1 = true → s.freeCount tile.toNat < high → s.freeCount tile.toNat < low ∨ tile.toNat ∈ s.store.bg →
        exec (.backgroundEviction tile) s = .next (({ s with store := { s.store with
          bg := insertKey tile.toNat s.store.bg } } : State).bgLoop 4 tile.toNat).pump))

/-- Self-repair (16 R440, R452, R453, R459, R460). A clean burst of the page-memory scrubber counts only the pass it ends; a corrected one
is counted and noted; a failing row takes a spare. A repair test that fails leaves its frame BAD for good; one of a frame not under
test changes nothing. A relocation that may not end changes nothing (log entry 2, the model's choice); one that ends leaves its tile quarantined. The spare anchor
takes over with the anchor's waiting items; a spare that is complete is valid. -/
def Obligations.SelfRepair : Prop :=
  ∀ s : State,
    (∀ (tile : BitVec 5) (ch : BitVec 6) (r : ScrubReport), s.hasTile tile.toNat = true →
      (s.scrubsPages tile.toNat = false → exec (.pageMemoryScrub tile ch r) s = .next s) ∧
      (s.scrubsPages tile.toNat = true → r.rowFailing = false →
        (r.finding = .clean → exec (.pageMemoryScrub tile ch r) s =
          .next (if r.passEnd then s.bumpTile tile.toNat 0x1C4 1 else s)) ∧
        (r.finding = .corrected → r.passEnd = false → exec (.pageMemoryScrub tile ch r) s =
          .next ((s.bumpTile tile.toNat 0x1AC 1).raise
            { severity := sevNote, cause := 0x01, unit := 0x03, tile := tile.toNat,
              index := ch.toNat + 64 * r.layer.toNat + 256 * r.bank.toNat, addr := r.row.toNat } none)) ∧
        (r.finding = .uncorrectable → r.passEnd = false → exec (.pageMemoryScrub tile ch r) s =
          .next (s.scrubLost tile.toNat ch.toNat r))) ∧
      (s.scrubsPages tile.toNat = true → r.rowFailing = true → r.finding = .clean → r.passEnd = false →
        exec (.pageMemoryScrub tile ch r) s = .next (s.spareRow tile.toNat ch.toNat r))) ∧
    (∀ (f : BitVec 24) (pass : Bool),
      (f.toNat ∉ s.errs.repairTests → exec (.repairTestDone f pass) s = .next s) ∧
      (∀ u : State, f.toNat ∈ s.errs.repairTests → u = { s.finish f.toNat with errs := { (s.finish f.toNat).errs with
          repairTests := s.errs.repairTests.erase f.toNat } } →
        exec (.repairTestDone f false) s = .next { u with errs := { u.errs with
          retired := insertKey f.toNat s.errs.retired, resending := s.errs.resending.erase f.toNat } } ∧
        (f.toNat ∉ s.errs.resending → exec (.repairTestDone f true) s =
          .next (if (s.frame f.toNat).st = .free then u.offer f.toNat else u.settle f.toNat)) ∧
        (f.toNat ∈ s.errs.resending → exec (.repairTestDone f true) s = .next
          ((u.setFrame f.toNat { (s.frame f.toNat).next with st := .mirror, raw := [] }).askResend f.toNat)))) ∧
    (∀ tile : BitVec 5, s.hasTile tile.toNat = true →
      (tget 0 s.errs.tileState tile.toNat ≠ 1 → exec (.relocationDone tile) s = .next s) ∧
      (∀ u : State, u = { s with errs := { s.errs with relocated := insertKey tile.toNat s.errs.relocated } } →
        tget 0 s.errs.tileState tile.toNat = 1 →
        (s.relocationBusy tile.toNat (s.rehomed u) = true → exec (.relocationDone tile) s = .next s) ∧
        (s.relocationBusy tile.toNat (s.rehomed u) = false → ∃ t : State,
          exec (.relocationDone tile) s = .next ((t.sendGroup [] s.store (backgroundGroup 0xFFFFFFFF)).pump) ∧
          tget 0 t.errs.tileState tile.toNat = 2))) ∧
    (s.errs.takeover = false → exec .anchorTakeover s = .next s) ∧
    (s.errs.takeover = true → ∃ u : State, exec .anchorTakeover s = .next ((u.report
        { severity := sevDegrade, cause := 0x0E, unit := 0x0B, tile := s.errs.spare }).buildSpare) ∧ u.errs = { s.errs with anchor := s.errs.spare, takeover := false } ∧
      (∀ j ∈ u.sched.jobs, isBatch j.kind = false → ∀ i ∈ j.items, i.tile = s.errs.anchor → s.errs.anchor = s.errs.spare) ∧
      u = { s with errs := u.errs, sched := { s.sched with jobs := u.sched.jobs } }) ∧
    (s.errs.spareBuilding = true → exec .spareAnchorBuilt s = .next { s with errs := { s.errs with spareBuilding := false, spareValid := true } }) ∧
    (s.errs.spareBuilding = false → exec .spareAnchorBuilt s = .next s)

/-! ### Clocks, monitors, the time base (17) -/

/-- Clock steps and wakes (17 R467, R468, R473). A window's end sets the target by the first matching row: 0 after a voltage alert,
one code down at ALERT, one down but not below the floor at STEP, one up after ten cool windows, else the same within floor and ceiling;
another target starts a step. The idle PLL's lock switches a tile that runs no item at once, and counts the step. A PLL that does not
lock in a step or a wake quarantines its tile, in AE1 the fault is of BLOCK severity (01 R24). A tile that wakes is ACTIVE. A lock, or
the want of one, of a tile that makes no step, and a wake of one that does not wake, change nothing (log entry 2, the model's choice). -/
def Obligations.ClockStepsAndWakes : Prop :=
  ∀ (s : State) (tile : BitVec 5) (h : TileHealth), s.hasTile tile.toNat = true → h = s.tileHealth tile.toNat →
    (∀ cool thr, s.part ≠ .aeS → thr = s.tempThr tile.toNat →
      (h.voltAlert = true ∨ s.now < h.voltUntil → s.nextTarget tile.toNat cool = 0) ∧
      (h.voltAlert = false → h.voltUntil ≤ s.now →
        (thr.2.2.1 ≤ h.hot → s.nextTarget tile.toNat cool = h.target - 1) ∧
        (h.hot < thr.2.2.1 → thr.1 ≤ h.hot → s.nextTarget tile.toNat cool =
          s.inRange tile.toNat (max (bits (s.liveFor tile.toNat 0x14000) 7 4) (h.target - 1))) ∧
        (h.hot < thr.2.2.1 → h.hot < thr.1 → 10 ≤ cool → s.nextTarget tile.toNat cool = s.inRange tile.toNat (h.target + 1)) ∧
        (h.hot < thr.2.2.1 → h.hot < thr.1 → cool < 10 → s.nextTarget tile.toNat cool = s.inRange tile.toNat h.target))) ∧
    (∀ cool c, s.cfg.mode ≠ .off →
      cool = (if h.hotWindow = true ∨ (s.tempThr tile.toNat).1 - (s.tempThr tile.toNat).2.1 ≤ h.hot then 0 else min 10 (h.cool + 1)) →
      c = s.nextTarget tile.toNat cool →
      (s.part = .aeS ∨ c = h.target →
        exec (.stepWindow tile) s = .next (s.setHealth tile.toNat { h with cool := cool, hotWindow := false })) ∧
      (s.part ≠ .aeS → c ≠ h.target → exec (.stepWindow tile) s = .next (s.setHealth tile.toNat
        { h with cool := cool, hotWindow := false, target := c, switching := true, locked := false, holders := [] }))) ∧
    (h.switching = false ∨ h.locked = true → exec (.cclkPllLock tile) s = .next s) ∧
    (h.switching = true → h.locked = false → tabOk {} s.health.tiles = true →
      s.itemsWhere (fun _ i => decide (i.tile = tile.toNat) && i.active) = [] →
      ∃ t : State, exec (.cclkPllLock tile) s = .next (t.bumpTile tile.toNat 0x1D0 1) ∧
        t.tileHealth tile.toNat = { h with cur := h.target, switching := false, locked := false, holders := [] } ∧
        (∀ k, k ≠ tile.toNat → t.tileHealth k = s.tileHealth k) ∧
        t = { s with health := { s.health with tiles := t.health.tiles } }) ∧
    ((h.switching = true ∧ h.locked = false) ∨ h.power = 3 →
          (s.part ≠ .ae1 → exec (.pllUnlock tile) s = .next ((s.report
            { severity := sevTile, cause := 0x66, unit := 0x0D, tile := tile.toNat }).quarantine tile.toNat)) ∧
          (s.part = .ae1 → exec (.pllUnlock tile) s = .next (s.block
            { severity := sevTile, cause := 0x66, unit := 0x0D, tile := tile.toNat } 0x0B))) ∧
    ((h.switching = false ∨ h.locked = true) → h.power ≠ 3 → exec (.pllUnlock tile) s = .next s) ∧
    (h.power = 3 → exec (.tileWake tile) s = .next (s.setHealth tile.toNat { h with power := 0 })) ∧
    (h.power ≠ 3 → exec (.tileWake tile) s = .next s)

/-- Monitors (17 R471). A reading is kept. Temperatures below ALERT, voltages within the alert band and oscillators above the floor
raise nothing; a sensor in service that reads TRIP twice in a row halts the part with THERM_TRIP, one that has been outside the trip
band for ten readings halts it too; a slow oscillator lowers FMAX_AGED by one code, at most once a second. A sensor that fails leaves
service, once, and is logged. Where an event that a clause names cannot occur, it
changes nothing (log entry 2, the model's choice). -/
def Obligations.MonitorsAlertAndTrip : Prop :=
  ∀ (s : State) (tile : BitVec 5) (h : TileHealth), s.hasTile tile.toNat = true → s.cfg.mode ≠ .off → h = s.tileHealth tile.toNat →
    tabOk {} s.health.tiles = true →
    (∀ (vs : List Int) (g : TileHealth), (∀ v ∈ vs, v ≤ 150) → g = { h with temps := vs } →
      (g.hot < (s.tempThr tile.toNat).2.2.1 → (∀ p ∈ g.sensorsIn, p.2 < (s.tempThr tile.toNat).2.2.2) →
        ∃ t : State, exec (.tempReading tile vs) s = .next t ∧
          t.tileHealth tile.toNat = { g with tempAlert := false
                                             hotWindow := h.hotWindow || decide ((s.tempThr tile.toNat).1 - (s.tempThr tile.toNat).2.1 ≤ g.hot) } ∧
          (∀ k, k ≠ tile.toNat → t.tileHealth k = s.tileHealth k) ∧ t = { s with health := { s.health with tiles := t.health.tiles } }) ∧
      ((∃ p ∈ g.sensorsIn, (s.tempThr tile.toNat).2.2.2 ≤ p.2 ∧ p.1 < h.temps.length ∧
          (s.tempThr tile.toNat).2.2.2 ≤ h.temps.getD p.1 0) →
        ∃ t : State, exec (.tempReading tile vs) s = .next t ∧ t.cfg.mode = .halted ∧ t.errs.thermTrip = true ∧
          (s.cfg.mode ≠ .halted → t.cfg.haltCause = 0x0C) ∧ (t.tileHealth tile.toNat).temps = vs)) ∧
    (∀ (vs : List (BitVec 16)) (nom : BitVec 16) (out : Nat → Nat → Prop),
      (∀ pct i, out pct i ↔ i < 8 ∧ h.otherOut.contains (32 + i) = false ∧
        outside nom.toNat pct ((vs.map BitVec.toNat).getD i nom.toNat) = true) →
      ((∀ i, ¬ out s.cfg.fuses.alertPct i ∧ ¬ out s.cfg.fuses.tripPct i) →
        ∃ t : State, exec (.voltReading tile vs nom) s = .next t ∧ t.tileHealth tile.toNat = { h with
            volts := vs.map BitVec.toNat, voltAlert := false, voltRun := List.replicate 8 0
            voltUntil := if h.voltAlert then 1000000 + s.now else h.voltUntil } ∧
          (∀ k, k ≠ tile.toNat → t.tileHealth k = s.tileHealth k) ∧ t = { s with health := { s.health with tiles := t.health.tiles } }) ∧
      (∀ i, out s.cfg.fuses.tripPct i → 9 ≤ h.voltRun.getD i 0 →
        ∃ t : State, exec (.voltReading tile vs nom) s = .next t ∧ t.cfg.mode = .halted ∧
          (s.cfg.mode ≠ .halted → t.cfg.haltCause = 0x0B) ∧ (t.tileHealth tile.toNat).volts = vs.map BitVec.toNat)) ∧
    (∀ (vs : List (BitVec 16)) (slow : Nat → Prop),
      (∀ i, slow i ↔ i < 4 ∧ h.otherOut.contains (64 + i) = false ∧
        (vs.map BitVec.toNat).getD i s.cfg.fuses.roFloor < s.cfg.fuses.roFloor) →
      ((∀ i, ¬ slow i) → exec (.processReading tile vs) s = .next (s.setHealth tile.toNat
        { h with procs := vs.map BitVec.toNat, procAlert := false })) ∧
      ((∃ i, slow i) → ∃ t : State, exec (.processReading tile vs) s = .next t ∧
        (t.tileHealth tile.toNat).procAlert = true ∧ (t.tileHealth tile.toNat).procs = vs.map BitVec.toNat ∧
        (0 < h.fmaxAged → (∀ a, h.agedAt = some a → 1000000000 + a ≤ s.now) →
          (t.tileHealth tile.toNat).fmaxAged = h.fmaxAged - 1 ∧ (t.tileHealth tile.toNat).agedAt = some s.now) ∧
        (∀ a, h.agedAt = some a → s.now < 1000000000 + a → (t.tileHealth tile.toNat).fmaxAged = h.fmaxAged ∧
          (t.tileHealth tile.toNat).agedAt = h.agedAt) ∧
        (h.procAlert = true → t.errs = s.errs))) ∧
    (∀ sensor : BitVec 5,
      (sensor.toNat < 16 → h.tempOut.contains sensor.toNat = false → exec (.sensorFail tile 0 sensor) s = .next
        ((s.setHealth tile.toNat { h with tempOut := insertKey sensor.toNat h.tempOut }).report
          (monitorEntry sevDegrade 0x65 tile.toNat 0 sensor.toNat))) ∧
      (16 ≤ sensor.toNat ∨ h.tempOut.contains sensor.toNat = true → exec (.sensorFail tile 0 sensor) s = .next s) ∧
      (∀ kind : BitVec 2, kind ≠ 0 →
        (sensor.toNat < (if kind = 1 then 8 else if kind = 2 then 4 else 0) → h.otherOut.contains (kind.toNat * 32 + sensor.toNat) = false →
          exec (.sensorFail tile kind sensor) s = .next
            ((s.setHealth tile.toNat { h with otherOut := insertKey (kind.toNat * 32 + sensor.toNat) h.otherOut }).report
              (monitorEntry sevDegrade 0x65 tile.toNat kind.toNat sensor.toNat))) ∧
        ((if kind = 1 then 8 else if kind = 2 then 4 else 0) ≤ sensor.toNat ∨
          h.otherOut.contains (kind.toNat * 32 + sensor.toNat) = true → exec (.sensorFail tile kind sensor) s = .next s)))

/-- The PPS input (17 R470). With PPS_EN and the polarity of TIM_CTL an edge more than 500 ms after the last one is accepted: OFFSET takes
TIM_NOW − TIM_NEXT, an early edge holds TIM_NOW for as many nanoseconds, another sets it two nanoseconds past TIM_NEXT, the count rises, and with
AUTO_NEXT TIM_NEXT advances by one second. An edge within 500 ms is counted as missed, as 1,500 ms without edge are; any other
edge changes nothing. Where an event that a clause names cannot occur, it
changes nothing (log entry 2, the model's choice). -/
def Obligations.PpsDisciplinesTime : Prop :=
  ∀ (s : State) (falling : Bool), Bounded s →
    (s.cfg.mode = .off ∨ bit (s.reg 0xF010) 0 = false ∨ bit (s.reg 0xF010) 1 ≠ falling → exec (.ppsEdge falling) s = .next s) ∧
    (s.cfg.mode ≠ .off → bit (s.reg 0xF010) 0 = true → bit (s.reg 0xF010) 1 = falling →
      (∀ n, s.health.sincePps = some n → n ≤ 500000000 →
        ∃ t : State, exec (.ppsEdge falling) s = .next t ∧ t = { s with regs := t.regs } ∧
          bits (t.reg 0xF01C) 31 16 = min 0xFFFF (bits (s.reg 0xF01C) 31 16 + 1) ∧
          bits (t.reg 0xF01C) 15 0 = bits (s.reg 0xF01C) 15 0 ∧ ∀ o, o ≠ 0xF01C → t.reg o = s.reg o) ∧
      (∀ next, (∀ n, s.health.sincePps = some n → 500000000 < n) → next = s.reg64 0xF008 →
        ∃ t : State, exec (.ppsEdge falling) s = .next t ∧ t.health = { s.health with
            sincePps := some 0, ppsOffset := (s.now : Int) - (next : Int), holdNs := if s.now < next then next - s.now else 0
            now := if s.now < next then s.health.now else (next + 2) % 2 ^ 64 } ∧
          t.reg 0xF018 = min 0xFFFFFFFF (s.reg 0xF018 + 1) ∧
          (bit (s.reg 0xF010) 2 = true → t.reg64 0xF008 = (1000000000 + next) % 2 ^ 64) ∧
          (bit (s.reg 0xF010) 2 = false → t.reg64 0xF008 = next) ∧
          (s.now ≤ 1000 + next → t.host = s.host) ∧ t.store = s.store ∧ t.sched = s.sched ∧ t.errs = s.errs ∧ t.cfg = s.cfg ∧
          t.cores = s.cores ∧ t.twin = s.twin ∧ t.test = s.test ∧ SamePart s t ∧ SameSeals s t)) ∧
    (s.cfg.mode ≠ .off → bit (s.reg 0xF010) 0 = true →
      ∃ t : State, exec .ppsMiss s = .next t ∧ t = { s with regs := t.regs } ∧
        bits (t.reg 0xF01C) 15 0 = min 0xFFFF (bits (s.reg 0xF01C) 15 0 + 1) ∧
        bits (t.reg 0xF01C) 31 16 = bits (s.reg 0xF01C) 31 16 ∧ ∀ o, o ≠ 0xF01C → t.reg o = s.reg o) ∧
    (s.cfg.mode = .off ∨ bit (s.reg 0xF010) 0 = false → exec .ppsMiss s = .next s)

/-- With no command waiting a step is one cycle of TBCLK (17 R469; that it runs then is the model's choice, log entry 97): TIM_NOW rises by
one nanosecond, or a hold counts down; in OFF nothing moves. Nothing else changes. -/
def Obligations.IdleStepTicks : Prop :=
  ∀ s : State, s.pending = [] →
    (s.cfg.mode = .off → step s = .next s) ∧
    (s.cfg.mode ≠ .off → ∃ t : State, step s = .next t ∧ t = { s with health := t.health } ∧ t.health.tiles = s.health.tiles ∧
      t.health.ppsOffset = s.health.ppsOffset ∧ t.health.sincePps = s.health.sincePps.map (· + 1) ∧
      (s.health.holdNs = 0 → t.now = (s.now + 1) % 2 ^ 64 ∧ t.health.holdNs = 0) ∧
      (0 < s.health.holdNs → t.now = s.now ∧ t.health.holdNs = s.health.holdNs - 1))

/-! ### The twin (15) -/

/-- The Worlek link (15 R408 to R410, R427). It comes up on A good lanes, or A / 2; a retrain that restarts SEQ empties the replay
buffer and raises LINK_EPOCH; what waits goes out, and in PENDING a hello starts. A lane that fails is replaced, halves the link
(TWIN_LANES), or takes it down. A bad frame, or one out of order, is dropped with a NAK of the SEQ expected, one in order advances it;
a frame of VC 2 is neither; an ACK empties the replay buffer up to its SEQ and a NAK or 10 µs without progress resends from there and
counts. Where an event that a clause names cannot occur, it
changes nothing (log entry 2, the model's choice). -/
def Obligations.WorlekLinkRecovers : Prop :=
  ∀ s : State,
    (s.twinOn = false → ∀ c : Instr, (∃ b n, c = .linkUp b n) ∨ c = .linkRetrain ∨ (∃ l, c = .laneLoss l) ∨ (∃ b g, c = .linkFrame b g) ∨
      (∃ n, c = .nak n) ∨ c = .replayTimeout → exec c s = .next s) ∧
    (s.twinOn = true →
      (∀ restarts nonce, (s.twin.linkUp = true ∨ s.pickLanes = [] → exec (.linkUp restarts nonce) s = .next s) ∧
        (∀ x y : Twin, s.twin.linkUp = false → s.pickLanes ≠ [] →
          x = (if restarts then { s.twin with linkUp := true, lanes := s.pickLanes, epoch := (s.twin.epoch + 1) % 2 ^ 32, replay := []
                                              unsent := [], txSeq := 0, rxSeq := 0 }
               else { s.twin with linkUp := true, lanes := s.pickLanes }) →
          y = x.drain x.unsent.length →
          (s.twin.helloing = true ∨ s.twin.st ≠ .pending → exec (.linkUp restarts nonce) s = .next { s with twin := y }) ∧
          (s.twin.helloing = false → s.twin.st = .pending →
            exec (.linkUp restarts nonce) s = exec (.helloRetry nonce) { s with twin := { y with retryAt := true } }))) ∧
      (s.part.lanes ≤ s.goodLanes.length → s.pickLanes = s.goodLanes.take s.part.lanes) ∧
      (s.goodLanes.length < s.part.lanes → s.part.lanes / 2 ≤ s.goodLanes.length → s.pickLanes = s.goodLanes.take (s.part.lanes / 2)) ∧
      (s.goodLanes.length < s.part.lanes / 2 → s.pickLanes = []) ∧
      (s.twin.linkUp = true → exec .linkRetrain s = .next s) ∧
      (s.twin.linkUp = false → ∃ t : State, exec .linkRetrain s = .next t ∧ (∀ l, l ∈ t.twin.badLanes ↔ l ∈ s.mappedLanes) ∧
        t = { s with twin := { s.twin with badLanes := t.twin.badLanes } }) ∧
      (∀ lane : BitVec 5, (s.part.lanes + 2 ≤ lane.toNat ∨ s.twin.badLanes.contains lane.toNat = true → exec (.laneLoss lane) s = .next s) ∧
        (∀ u v : State, lane.toNat < s.part.lanes + 2 → s.twin.badLanes.contains lane.toNat = false →
          u = { s with twin := { s.twin with badLanes := insertKey lane.toNat s.twin.badLanes } } →
          v = { u with twin := { u.twin with lanes := u.keepLanes } } →
          (s.twin.linkUp = false → exec (.laneLoss lane) s = .next u) ∧
          (s.twin.linkUp = true → u.keepLanes = [] →
            exec (.laneLoss lane) s = .next { u with twin := { u.twin with linkUp := false, lanes := [] } }) ∧
          (s.twin.linkUp = true → u.keepLanes ≠ [] → s.twin.lanes.length ≤ u.keepLanes.length → exec (.laneLoss lane) s = .next v) ∧
          (s.twin.linkUp = true → u.keepLanes ≠ [] → u.keepLanes.length < s.twin.lanes.length → exec (.laneLoss lane) s = .next (v.report
            { severity := sevDegrade, cause := 0x46, unit := 0x08, tile := s.errs.anchor })))) ∧
      (s.twin.linkUp = false → ∀ b g n, exec (.linkFrame b g) s = .next s ∧ exec (.nak n) s = .next s ∧ exec .replayTimeout s = .next s) ∧
      (s.twin.linkUp = true →
        (∀ b, exec (.linkFrame b false) s = .next ((s.bump 0xE044 1).tell (.ack s.twin.rxSeq true))) ∧
        (∀ b, frameGood b = false →
          (bits (fieldAt b 0 4) 25 24 = 2 → exec (.linkFrame b true) s = .next s) ∧
          (bits (fieldAt b 0 4) 25 24 ≠ 2 → exec (.linkFrame b true) s = .next (s.tell (.ack s.twin.rxSeq true)))) ∧
        (∀ (b : List Byte) (u : State), frameGood b = true →
          u = (if bit (fieldAt b 4 4) 28 then s.takeNak (bits (fieldAt b 4 4) 23 0) else s.takeAck (bits (fieldAt b 4 4) 23 0)) →
          (2 ≤ bits (fieldAt b 0 4) 25 24 → exec (.linkFrame b true) s = .next u) ∧
          (bits (fieldAt b 0 4) 25 24 < 2 → bits (fieldAt b 0 4) 23 0 = s.twin.rxSeq → exec (.linkFrame b true) s =
            .next (({ u with twin := { u.twin with rxSeq := (s.twin.rxSeq + 1) % 2 ^ 24 } } : State).tell
              (.ack ((s.twin.rxSeq + 1) % 2 ^ 24) false))) ∧
          (bits (fieldAt b 0 4) 25 24 < 2 → bits (fieldAt b 0 4) 23 0 ≠ s.twin.rxSeq → exec (.linkFrame b true) s =
            .next (u.tell (.ack s.twin.rxSeq true)))) ∧
        (∀ (seq : BitVec 24) (x y : Twin),
          (seq.toNat = s.twin.txSeq → x = { s.twin with replay := [] }) →
          (seq.toNat ≠ s.twin.txSeq → s.twin.replay.any (fun p => decide (p.1 = seq.toNat)) = true →
            x = { s.twin with replay := s.twin.replay.dropWhile (fun p => decide (p.1 ≠ seq.toNat)) }) →
          (seq.toNat ≠ s.twin.txSeq → s.twin.replay.any (fun p => decide (p.1 = seq.toNat)) = false → x = s.twin) →
          y = x.drain x.unsent.length →
          (y.replay.head?.map Prod.fst = some seq.toNat → exec (.nak seq) s = .next
            (({ s with twin := { y with tx := y.tx ++ y.replay.map Prod.snd } } : State).bump 0xE040 y.replay.length)) ∧
          (y.replay.head?.map Prod.fst ≠ some seq.toNat → exec (.nak seq) s = .next { s with twin := y })) ∧
        exec .replayTimeout s = .next
          (({ s with twin := { s.twin with tx := s.twin.tx ++ s.twin.replay.map Prod.snd } } : State).bump 0xE040 s.twin.replay.length)))

/-- The hello (15 R412 to R414, R425). Role 0 owns rows 0 to 8,191 and role 1 the others; parts without rows claim HALF. A retry sends a HELLO under the lowest KEY_ID; a HELLO in PENDING is answered by the AUTH under its
key; a missing key, a wrong AUTH or no answer fails it: counted in TWN_HELLO_FAIL, logged as HELLO_FAIL, conflicting claims as ROLE_CONFLICT,
levels more than one apart as HELLO_LEVEL. One that passes sets role, mode, level and AUTO_CASTLE; parts without rows are
PAIRED, and PAIR ends in READY. Heartbeats (15 R425 to R427). In PENDING, SYNCING, PAIRED and SUSPECT a heartbeat tells TIM_NOW, STATE and LINK_EPOCH, and one that
arrives sets TWN_HB_LAST and the clamped TWN_PEER_OFFSET; in SUSPECT the same LINK_EPOCH returns to the state before. Missed heartbeats take
PAIRED to SUSPECT, counted in TWN_HB_MISS and logged as TWIN_SUSPECT. Where an event that a clause names cannot occur, it
changes nothing (log entry 2, the model's choice). -/
def Obligations.HelloAndHeartbeats : Prop :=
  ((∀ row, (ownRow false row = true ↔ row < 8192) ∧ (ownRow true row = true ↔ 8192 ≤ row)) ∧
   (∀ (s : State) (id : Nat) (nonce : List Byte), ((s.ownHello id nonce).holdsRows = true ↔ s.rowsInUse ≠ []) ∧
     (s.rowsInUse = [] → (s.ownHello id nonce).half = bit (s.reg 0xE000) 2) ∧
     (s.rowsInUse ≠ [] → ((s.ownHello id nonce).half = true ↔ ∃ r ∈ s.rowsInUse, 8192 ≤ r))) ∧
   (∀ a b : Hello,
     (a.holdsRows = true → b.holdsRows = true → roleFor a b = if a.half = b.half then none else some a.half) ∧
     (a.holdsRows = true → b.holdsRows = false → roleFor a b = some a.half) ∧
     (a.holdsRows = false → b.holdsRows = true → roleFor a b = some !b.half) ∧
     (a.holdsRows = false → b.holdsRows = false →
       roleFor a b = if a.half = b.half then some (decide (b.serial.toNat < a.serial.toNat)) else some a.half) ∧
     (a.linkLevel.toNat + 1 < b.linkLevel.toNat ∨ b.linkLevel.toNat + 1 < a.linkLevel.toNat → modeFor a b = none) ∧
     (a.linkLevel.toNat ≤ b.linkLevel.toNat + 1 → b.linkLevel.toNat ≤ a.linkLevel.toNat + 1 →
       (a.pairing = 1 ∨ b.pairing = 1 → modeFor a b = some (1, false)) ∧
       (a.pairing ≠ 1 → b.pairing ≠ 1 →
         (a.pageFmtLevel = b.pageFmtLevel ∧ a.np = b.np ∧ a.config = b.config ∧ a.partnerPct = b.partnerPct ∧ a.bandCrc = b.bandCrc ∧
           a.coldSlots = b.coldSlots → modeFor a b = some (2, false)) ∧
         (¬ (a.pageFmtLevel = b.pageFmtLevel ∧ a.np = b.np ∧ a.config = b.config ∧ a.partnerPct = b.partnerPct ∧ a.bandCrc = b.bandCrc ∧
           a.coldSlots = b.coldSlots) → modeFor a b = some (1, true))))) ∧
   (∀ (s : State) (fails : State → Nat → State),
     (∀ u c, fails u c = (({ u with twin := { u.twin with mine := none, peer := none, helloing := false, retryAt := true } } : State).bump 0xE04C 1).report
       { severity := sevNote, cause := c, unit := 0x08, tile := u.errs.anchor }) →
     (s.twinOn = false → ∀ c : Instr, (∃ m, c = .hello m) ∨ (∃ m, c = .auth m) ∨ c = .helloTimeout ∨ (∃ n, c = .helloRetry n) →
       exec c s = .next s) ∧
     (s.twinOn = true →
       (∀ p : Hello,
         (s.twin.st ≠ .pending ∨ s.twin.linkUp = false → exec (.hello p) s = .next s) ∧
         (∀ u : State, s.twin.st = .pending → s.twin.linkUp = true →
           u = { s with twin := { s.twin with peer := some p, peerEpoch := p.epoch.toNat } } →
           (s.twin.mine = none → exec (.hello p) s = .next u) ∧
           (∀ h k, s.twin.mine = some h → s.keyFor p.keyId.toNat = some k →
             exec (.hello p) s = .next (u.tell (.auth (authCode k h p h.serial.toNat)))) ∧
           (∀ h, s.twin.mine = some h → s.keyFor p.keyId.toNat = none → exec (.hello p) s = .next (fails u 0x40)))) ∧
       (s.twin.helloing = true → exec .helloTimeout s = .next (fails s 0x40)) ∧
       (s.twin.helloing = false → exec .helloTimeout s = .next s) ∧
       (∀ nonce,
         (s.twin.retryAt = false ∨ s.twin.linkUp = false ∨ s.twin.st ≠ .pending → exec (.helloRetry nonce) s = .next s) ∧
         (s.twin.retryAt = true → s.twin.linkUp = true → s.twin.st = .pending →
           (s.linkKeys = [] → exec (.helloRetry nonce) s = .next (fails s 0x40)) ∧
           (∀ k rest h, s.linkKeys = k :: rest → h = s.ownHello k.1 (padTo 32 nonce) → s.twin.peer = none →
             exec (.helloRetry nonce) s = .next { s with twin := { s.twin with
               mine := some h, helloing := true, retryAt := false, tx := s.twin.tx ++ [.hello h] } }))) ∧
       (∀ code, s.twin.mine = none ∨ s.twin.peer = none ∨ s.twin.st ≠ .pending → exec (.auth code) s = .next s) ∧
       (∀ (code : List Byte) (a b : Hello), s.twin.mine = some a → s.twin.peer = some b → s.twin.st = .pending →
         (s.keyFor a.keyId.toNat = none → exec (.auth code) s = .next (fails s 0x40)) ∧
         (∀ k, s.keyFor a.keyId.toNat = some k →
           (authCode k a b b.serial.toNat ≠ code → exec (.auth code) s = .next (fails s 0x40)) ∧
           (authCode k a b b.serial.toNat = code →
             (roleFor a b = none → exec (.auth code) s = .next (fails s 0x41)) ∧
             (∀ r, roleFor a b = some r → modeFor a b = none → exec (.auth code) s = .next (fails s 0x42)) ∧
             (∀ r m, roleFor a b = some r → modeFor a b = some m →
               ∃ t : State, exec (.auth code) s = .next t ∧ t.twin.role = r ∧ t.twin.mode = m.1 ∧ t.twin.fallback = m.2 ∧
                 t.twin.level = min a.linkLevel.toNat b.linkLevel.toNat ∧
                 t.twin.auto = (bit a.flags.toNat 0 && bit b.flags.toNat 0) ∧
                 (a.holdsRows = false → b.holdsRows = false → t.twin.st = .paired) ∧
                 (s.cfg.mode = .pair → t.cfg.mode = .ready) ∧ (s.cfg.mode ≠ .pair → t.cfg.mode = s.cfg.mode)))))))) ∧
  (∀ s : State,
     (s.twinOn = false → ∀ c : Instr, c = .heartbeatSend ∨ (∃ x y z, c = .heartbeat x y z) ∨ c = .heartbeatMiss → exec c s = .next s) ∧
     (s.twinOn = true →
       (s.twin.st ∉ [TwinSt.pending, .syncing, .paired, .suspect] →
         exec .heartbeatSend s = .next s ∧ ∀ x y z, exec (.heartbeat x y z) s = .next s) ∧
       (∀ n, (s.twin.st, n) ∈ [(TwinSt.pending, 1), (.syncing, 2), (.paired, 3), (.suspect, 4)] →
         (s.twin.linkUp = true → exec .heartbeatSend s = .next { s with twin := { s.twin with
           tx := s.twin.tx ++ [.heartbeat s.now n s.twin.epoch] } }) ∧
         (s.twin.linkUp = false → exec .heartbeatSend s = .next s)) ∧
       (∀ (time : BitVec 64) (st : BitVec 4) (epoch : BitVec 32) (u : State),
         u = { s with twin := { s.twin with hbLast := s.now, peerOffset := max (-2147483648) (min 2147483647 ((time.toNat : Int) - (s.now : Int))) } } →
         (s.twin.st ∈ [TwinSt.pending, .syncing, .paired] →
           exec (.heartbeat time st epoch) s = .next { u with twin := { u.twin with peerEpoch := epoch.toNat } }) ∧
         (s.twin.st = .suspect → epoch.toNat = s.twin.peerEpoch →
           ∃ t : State, exec (.heartbeat time st epoch) s = .next t ∧ t.twin.st = s.twin.before ∧ t.twin.hbLast = s.now ∧
             t.twin.peerOffset = u.twin.peerOffset ∧ t.store = s.store ∧ t.sched = s.sched ∧ t.cfg = s.cfg) ∧
         (s.twin.st = .suspect → epoch.toNat ≠ s.twin.peerEpoch → s.store.migs = [] →
           ∃ t : State, exec (.heartbeat time st epoch) s = .next t ∧ t.twin.st = .syncing ∧ t.twin.syncLeft = halfRows s.twin.role ∧
             t.twin.peerSynced = [] ∧ t.twin.groups = [] ∧ t.twin.peerEpoch = epoch.toNat ∧ t.twin.hbLast = s.now)) ∧
       (s.twin.st ≠ .paired → exec .heartbeatMiss s = .next s) ∧
       (s.twin.st = .paired → exec .heartbeatMiss s = .next ((({ s with
         twin := { s.twin with before := .paired, st := .suspect }
         errs := { s.errs with irqTwin := s.errs.irqTwin || bit (s.reg 0xE000) 3 } } : State).bump 0xE03C 1).report
           { severity := sevNote, cause := 0x44, unit := 0x08, tile := s.errs.anchor }))))

/-- ATTACH and DETACH (15 R425, R435, R436). A refused ATTACH changes nothing and is logged; one that is taken enters PENDING, claiming the half
that holds rows, else HALF. DETACH is sent in PENDING, SYNCING and PAIRED; the partner's, or 1 ms without an answer, ends the pairing:
UNPAIRED in mode SOLO, with the partner's rows FREE and the part's own as they were. Where an event that a clause names cannot occur, it
changes nothing (log entry 2, the model's choice). -/
def Obligations.AttachAndDetach : Prop :=
  ∀ s : State,
    (∀ (q : Req) (nonce : List Byte), Arrives s q → Managed s → Bounded s →
      (s.attachRefused = true → exec (.attach q nonce) s = .next (s.refuse q 0xE000)) ∧
      (s.attachRefused = false → ∃ t : State, exec (.attach q nonce) s = .next (t.answer q true 0) ∧ t.twin.st = .pending ∧
        t.twin.mode = s.cfg.image.pairing ∧ t.twin.role = s.claim ∧ t.twin.deadTiles = [] ∧ t.sched = s.sched ∧ t.store.rows = s.store.rows ∧
        SamePart s t ∧ SameSeals s t) ∧
      (s.detachable = true → ∃ t : State, exec (.detach (some q)) s = .next (t.answer q true 0) ∧ t.twin.detaching = true ∧
        t.twin.st = s.twin.st ∧ t.twin.tx = (if s.twin.linkUp then s.twin.tx ++ [.detach] else s.twin.tx) ∧ t.store = s.store ∧
        t.sched = s.sched ∧ SamePart s t ∧ SameSeals s t) ∧
      (s.detachable = false → ∃ t : State, exec (.detach (some q)) s = .next (t.answer q true 0) ∧ t.twin = s.twin ∧ t.store = s.store ∧
        t.sched = s.sched ∧ SamePart s t ∧ SameSeals s t)) ∧
    (s.twinOn = false → exec (.detach none) s = .next s ∧ exec .detachTimeout s = .next s) ∧
    (s.detachable = false → exec (.detach none) s = .next s) ∧
    (s.twin.detaching = false → exec .detachTimeout s = .next s) ∧
    (∀ c : Instr, s.twinOn = true → (c = .detach none ∧ s.detachable = true) ∨ (c = .detachTimeout ∧ s.twin.detaching = true) →
      ∃ t : State, exec c s = .next t ∧ t.twin.st = .unpaired ∧ t.twin.mode = 0 ∧ t.twin.groups = [] ∧ t.twin.detaching = false ∧
        (s.store.migs = [] → s.errs.refetching = [] → tabOk {} s.store.rows = true →
          (∀ r, ownRow s.twin.role r = false → (t.row r).state = 0) ∧ (∀ r, ownRow s.twin.role r = true → t.row r = s.row r)))

/-- Castling is confirmed (15 R427 to R429). DYING, TWN_FENCE with KEY CA57h, and a SUSPECT of TWN_AUTO_TIMEOUT in role 0 under AUTO_CASTLE
enter CASTLING from SYNCING, PAIRED and SUSPECT: staged groups are discarded and counted, held records released, cause and time kept. Role 1 yields.
Any other fence is logged as TWN_FENCE and ignored. Castling completes (15 R429 to R432) once nothing of the partner's is read back and the castle record's address is translated: CASTLED,
counted, logged as TWIN_CASTLED, the record written at TWN_CASTLE_BASE with its header of R432. A row of the partner is promoted by R430: in
LEDGER to FAILED with LOST_PAGE 0 and empty directory entries; in MIRROR unchanged, or FAILED at the lowest lost page; a row
that was closing is closed. Where an event that a clause names cannot occur, it
changes nothing (log entry 2, the model's choice). -/
def Obligations.CastlingRuns : Prop :=
  (∀ (s : State) (castles : Nat → State), s.store.migs = [] → s.errs.refetching = [] →
     (∀ n, castles n = { s with
       twin := { s.twin with
         st := .castling, castleCause := n, castleTime := s.now, discarded := s.twin.groups.length, groups := [], syncLeft := []
         syncOut := false, unsent := [], before := if s.twin.st = .suspect then s.twin.before else s.twin.st }
       sched := { s.sched with jobs := s.sched.jobs.map (fun j => { j with groups := [] }) }
       errs := { s.errs with irqTwin := s.errs.irqTwin || bit (s.reg 0xE000) 3 } }) →
     (s.twinOn = true → s.mayCastle = true → exec .dying s = .next (castles 1)) ∧
     (s.twinOn = false ∨ s.mayCastle = false → exec .dying s = .next s) ∧
     (s.mayCastle = true ↔ s.twin.st = .syncing ∨ s.twin.st = .paired ∨ s.twin.st = .suspect) ∧
     (∀ (q : Req) (v : BitVec 32), Arrives s q → Managed s →
       (v.toNat % 65536 = 0xCA57 → s.twinOn = true → s.mayCastle = true → exec (.twnFence q v) s = .next ((castles 2).answer q true 0)) ∧
       (v.toNat % 65536 ≠ 0xCA57 ∨ s.twinOn = false ∨ s.mayCastle = false → exec (.twnFence q v) s = .next ((s.report
         { severity := sevNote, cause := 0x33, unit := 0x08, tile := s.errs.anchor }).answer q true 0))) ∧
     (s.twinOn = false ∨ s.twin.st ≠ .suspect ∨ s.twin.auto = false → exec .twnAutoTimeout s = .next s) ∧
     (s.twinOn = true → s.twin.st = .suspect → s.twin.auto = true →
       (s.twin.role = false → exec .twnAutoTimeout s = .next (castles 3)) ∧
       (s.twin.role = true → ∃ t : State, exec .twnAutoTimeout s = .next t ∧ t.twin.st = .yielded ∧ t.twin.mode = 0))) ∧
  (∀ s : State,
     (s.twinOn = false ∨ s.twin.st ≠ .castling ∨ s.store.migs.any Mig.ofPartner = true → exec .castled s = .next s) ∧
     (∀ row, (s.twin.mode ≠ 2 ∨ (s.twin.before = .syncing ∧ row ∉ s.twin.peerSynced) → s.promoteRow row = .empty) ∧
       (s.twin.mode = 2 → (s.twin.before ≠ .syncing ∨ row ∈ s.twin.peerSynced) →
         ((s.row row).state = 2 → s.promoteRow row = .close) ∧
         ((s.row row).state = 1 ∨ (s.row row).state = 3 →
           (s.lostPage row = none → s.promoteRow row = .keep) ∧ (∀ p, s.lostPage row = some p → s.promoteRow row = .fail p)))) ∧
     (∀ (p : State) (rows : List (Nat × Bool)) (n : Nat), (p, rows, n) = s.promote → s.twin.mode = 1 → tabOk {} s.store.rows = true →
       p.twin.st = .castled ∧ p.twin.castleTime = s.twin.castleTime ∧ p.store.frames = s.store.frames ∧
       (∀ r ∈ s.partnerRows, (p.row r).state = 4 ∧ (p.row r).lostPage = 0 ∧ (p.row r).gen = (s.row r).gen ∧ (r, true) ∈ rows) ∧
       (∀ r, r ∉ s.partnerRows → p.row r = s.row r)) ∧
     (s.twinOn = true → s.twin.st = .castling → s.store.migs.any Mig.ofPartner = false → ∀ x,
       x = s.translateAll s.errs.anchor .castle (needs (s.reg64 0xE010) (64 + 16 * s.promote.2.1.length) 1) →
       (∀ s', x = .wait s' → exec .castled s = .next s') ∧
       (∀ (s' p u : State) (rows : List (Nat × Bool)) (n : Nat), (p, rows, n) = s'.promote →
         u = ((({ p with twin := p.twin.unpair } : State).bump 0xE050 1).report
           { severity := sevDegrade, cause := 0x45, unit := 0x08, tile := p.errs.anchor }).pump →
         (∀ t, x = .ok t s' → exec .castled s = .next (u.moveVirt u.errs.anchor true .castle t (s.reg64 0xE010) 0 (64 + 16 * rows.length)
           (s'.castleRecord rows n)).1) ∧
         (∀ e, x = .failed e s' → exec .castled s = .next u.castleEnds))) ∧
     (∀ rows n, (s.castleRecord rows n).length = 64 + 16 * rows.length ∧
       (s.castleRecord rows n).take 24 = leBytes 4 (s.twin.castleCause + 16 * s.twin.mode) ++ leBytes 4 rows.length ++
         leBytes 8 s.twin.castleTime ++ leBytes 4 n ++ leBytes 4 s.twin.discarded))

/-- Deltas wait in the staging area until their COMMIT (15 R419, R420). ROW, DIR, MAP, FRAME, COPY and RECALL join their group, at its end. BYTES that
no applied group reads go into the mirror frame at once, others wait; EVICT pins its sealed mirror and starts the write to the part's own
pool slot of the mirrored record, and without such a mirror or record is answered NAK (R423). No delta
counts outside SYNCING, PAIRED and SUSPECT. A COMMIT applies its group's deltas in order, in one step, and acknowledges it; the row's LAST_SEQ follows unless the group is of a
background action (15 R416, R419, R420, R432): here of groups of one ROW or DIR delta, of the partner's half and of the
part's own, which is not written. The acknowledgement of a part's own group releases the record that waits for it, and a synchronized row
leaves TWN_SYNC_LEFT (15 R422, R435). Where an event that a clause names cannot occur, it
changes nothing (log entry 2, the model's choice). -/
def Obligations.LedgerWaitsForCommit : Prop :=
  (∀ (s : State) (g : GroupId),
     (∀ (c : Instr) (d : Delta),
       (∃ r b, c = .rowDelta g r b ∧ d = .row r b) ∨ (∃ r st w, c = .dirDelta g r st w ∧ d = .dir r st w) ∨
       (∃ t b slot w, c = .mapDelta g t b slot w ∧ d = .map t b slot w) ∨ (∃ f w n, c = .frameDelta g f w n ∧ d = .frame f w n) ∨
       (∃ x y n, c = .copyDelta g x y n ∧ d = .copy x y n) ∨ (∃ f t r b slot, c = .recallDelta g f t r b slot ∧ d = .recall f t r b slot) →
       (s.receives = false → exec c s = .next s) ∧
       (s.receives = true → s.twin.groups.any (fun x => decide (x.id = g)) = false →
         exec c s = .next { s with twin := { s.twin with groups := s.twin.groups ++ [{ id := g, deltas := [d] }] } }) ∧
       (∀ before x after, s.receives = true → s.twin.groups = before ++ x :: after → x.id = g → (∀ y ∈ before ++ after, y.id ≠ g) →
         exec c s = .next { s with twin := { s.twin with groups := before ++ { x with deltas := x.deltas ++ [d] } :: after } })) ∧
     (∀ (f : BitVec 24) (off : BitVec 17) (data : List Byte),
       (s.receives = false ∨ s.mirrorOf f.toNat = none → exec (.bytesDelta g f off data) s = .next s) ∧
       (∀ m, s.receives = true → s.mirrorOf f.toNat = some m →
         ((s.frame m).takesBytes off.toNat data.length = true → (s.frame m).st = .mirror → exec (.bytesDelta g f off data) s =
           .next (s.setFrame m { (s.frame m).next with raw := putRaw (s.frame m).raw off.toNat (data.take (frameBytes - off.toNat)) })) ∧
         ((s.frame m).takesBytes off.toNat data.length = true → (s.frame m).st ≠ .mirror → exec (.bytesDelta g f off data) s = .next s) ∧
         ((s.frame m).takesBytes off.toNat data.length = false → s.twin.groups.any (fun x => decide (x.id = g)) = false →
           exec (.bytesDelta g f off data) s = .next { s with twin := { s.twin with
                     groups := s.twin.groups ++ [{ id := g, deltas := [.bytes f off data] }] } }))) ∧
     (∀ (f : BitVec 24) (tile : BitVec 5) (r : BitVec 23) (b : BitVec 20) (slot : BitVec 8),
       (s.receives = false ∨ s.mirrored = false → exec (.evictDelta g f tile r b slot) s = .next s) ∧
       (s.receives = true → s.mirrored = true →
         (s.mirrorOf f.toNat = none → exec (.evictDelta g f tile r b slot) s = .next (s.tell (.evictNak f.toNat))) ∧
         (∀ m, s.mirrorOf f.toNat = some m →
           (s.frame m).st ≠ .mirror ∨ (s.frame m).shadowSt ≠ .isSealed ∨ s.errs.resending.contains m = true ∨ s.coldSlots ≤ s.mirrorRecord r.toNat →
           exec (.evictDelta g f tile r b slot) s = .next (s.tell (.evictNak f.toNat))) ∧
         (∀ (m : Nat) (mig : Mig) (u : State), s.mirrorOf f.toNat = some m → (s.frame m).st = .mirror → (s.frame m).shadowSt = .isSealed →
           s.errs.resending.contains m = false → s.mirrorRecord r.toNat < s.coldSlots → s.hasTile tile.toNat = true →
           (∀ x ∈ s.store.migs, x.frame ≠ m) →
           mig = { slot := s.store.nextMig, evict := true, frame := m, loc := mirrorKey tile.toNat b.toNat slot.toNat, stream := 0, page := 0
                   home := tile.toNat, record := s.mirrorRecord r.toNat, host := s.coldAddr tile.toNat (s.mirrorRecord r.toNat)
                   why := .mirror f.toNat, acked := true } →
           u = s.setFrame m { s.frame m with pincnt := (s.frame m).pincnt + 1 } →
           exec (.evictDelta g f tile r b slot) s =
             .next ({ u with store := { u.store with migs := s.store.migs ++ [mig], nextMig := s.store.nextMig + 1 } } : State).pump)))) ∧
  (∀ (s : State) (g : GroupId),
     (s.receives = false → exec (.commitDelta g) s = .next s ∧ exec (.groupAck g) s = .next s) ∧
     (∀ (d : Delta) (u v : State), s.receives = true → s.twin.groups = [{ id := g, deltas := [d] }] → isSync g = false → s.store.migs = [] →
       s.twin.st = .paired ∨ s.twin.st = .suspect →
       (∀ r b, d = .row r b → u = if ownRow s.twin.role r.toNat then s else s.setRow r.toNat (ctxRowOfBytes b)) →
       (∀ r st w, d = .dir r st w → u = if ownRow s.twin.role r.toNat then s else s.setDir r.toNat st.toNat (s.mirrorDir w.toNat)) →
       (∃ r b, d = .row r b) ∨ (∃ r st w, d = .dir r st w) →
       (isBackground g = true → v = { u with twin := { s.twin with groups := [] } }) →
       (isBackground g = false → v = { u with twin := { s.twin with
         groups := [], lastSeq := tset 0 s.twin.lastSeq (rowOf g) (2 ^ 38 + 2 ^ 32 * g.ring.toNat + g.seq.toNat) } }) →
       exec (.commitDelta g) s = .next (v.tell (.groupAck g))) ∧
     (s.receives = true → isSync g = false → exec (.groupAck g) s = .next { s with sched := { s.sched with
       jobs := s.sched.jobs.map (fun j => { j with groups := j.groups.filter (fun x => decide (x ≠ g)) }) } }) ∧
     (∀ r rest, s.receives = true → isSync g = true → s.twin.syncLeft = r :: rest → rowOf g = r → s.twin.st = .syncing → rest ≠ [] →
       ∃ t : State, exec (.groupAck g) s = .next t ∧ t.twin.syncLeft = rest ∧ t.twin.st = .syncing))

/-- Answers about frames (15 R423, R424, 16 R453). ACK of an EVICT lets the eviction go on, NAK ends it with the frame resident. REFETCH is
answered with the mirror's bytes, RESEND with the owner's page. The bytes that come back stand in the frame when they pass the
check of 08 R223; else a mirror asks again, and a refetch ends without another copy. Where an event that a clause names cannot occur, it
changes nothing (log entry 2, the model's choice). -/
def Obligations.PagesComeBackFromTheTwin : Prop :=
  ∀ (s : State) (f : BitVec 24),
    (s.receives = false → ∀ c : Instr, c = .evictAck f ∨ c = .evictNak f ∨ c = .refetch f ∨ (∃ d, c = .refetchData f d) ∨ c = .resend f ∨
      (∃ d, c = .resendData f d) → exec c s = .next s) ∧
    (s.receives = true →
      (s.toldEviction f.toNat = none → exec (.evictAck f) s = .next s ∧ exec (.evictNak f) s = .next s) ∧
      (∀ m, s.toldEviction f.toNat = some m →
        exec (.evictAck f) s = .next (s.putMig { m with acked := true }) ∧ exec (.evictNak f) s = .next (s.keepResident m)) ∧
      (s.mirrorOf f.toNat = none → exec (.refetch f) s = .next s) ∧
      (∀ m, s.mirrorOf f.toNat = some m → s.twin.groups = [] →
        exec (.refetch f) s = .next { s with twin := s.twin.push (.refetchData f.toNat (rawFrom frameBytes 0 (s.frame m).raw)) }) ∧
      ((s.frame f.toNat).st ∈ [FrameSt.priv, .shared, .isSealed] →
        exec (.resend f) s = .next { s with twin := s.twin.push (.resendData f.toNat (s.frame f.toNat).bytes) }) ∧
      ((s.frame f.toNat).st ∉ [FrameSt.priv, .shared, .isSealed] → exec (.resend f) s = .next s) ∧
      (∀ d, s.errs.refetching.find? (fun p => decide (p.1 = f.toNat)) = none → exec (.refetchData f d) s = .next s) ∧
      (∀ d p, s.errs.refetching.find? (fun p => decide (p.1 = f.toNat)) = some p →
        d.length ≠ frameBytes ∨ ((pageOfBytes d).isSealed = true ∧ bytesGood d = false) →
        exec (.refetchData f d) s = .next ((s.bumpTile (frameTile f.toNat) 0x148 1).refetchFails p)) ∧
      (∀ d m, s.mirrorOf f.toNat = some m →
        (s.errs.resending.contains m = false ∨ (s.frame m).st ≠ .mirror → exec (.resendData f d) s = .next s) ∧
        (s.errs.resending.contains m = true → (s.frame m).st = .mirror →
          (d.length = frameBytes → (pageOfBytes d).isSealed = false ∨ bytesGood d = true → exec (.resendData f d) s =
            .next (({ s with errs := { s.errs with resending := s.errs.resending.erase m } } : State).setFrame m
              { (s.frame m).next with raw := rawOf d })) ∧
          (d.length ≠ frameBytes ∨ ((pageOfBytes d).isSealed = true ∧ bytesGood d = false) →
            exec (.resendData f d) s = .next ((s.bumpTile (frameTile m) 0x148 1).askResend m)))))
end

