-- ==== Sys2Proof/Laws/Tab.lean ====
section
/-! SUPPORT. Sparse tables: the canonical form is kept by every operation on them, and reading after writing. -/

namespace Sys2Proof.Machine

variable {α : Type} [DecidableEq α]

/-- The canonical form of a list's tail, and what it says of the head. -/
theorem tabOk_cons (d : α) (a : Nat × α) (t : Tab α) :
    tabOk d (a :: t) = true ↔ (∀ p ∈ t, a.1 < p.1) ∧ a.2 ≠ d ∧ tabOk d t = true := by
  induction t generalizing a with
  | nil => simp [tabOk]
  | cons b rest ih => grind [tabOk]

/-- The canonical form in terms of the list: keys strictly rising, no default listed. -/
theorem tabOk_iff (d : α) (t : Tab α) :
    tabOk d t = true ↔ t.Pairwise (fun a b => a.1 < b.1) ∧ ∀ p ∈ t, p.2 ≠ d := by
  induction t with
  | nil => simp [tabOk]
  | cons a rest ih => grind [tabOk_cons, List.pairwise_cons]

/-- Every key that a write leaves listed is the key written or was listed. -/
theorem mem_tset {d : α} {t : Tab α} {k : Nat} {v : α} {p : Nat × α} (h : p ∈ tset d t k v) : p.1 = k ∨ p ∈ t := by
  induction t with grind [tset]

/-- A write keeps the canonical form. -/
theorem tabOk_tset {d : α} {t : Tab α} (h : tabOk d t = true) (k : Nat) (v : α) : tabOk d (tset d t k v) = true := by
  induction t with
  | nil => grind [tset, tabOk]
  | cons a rest ih =>
    have hm : ∀ q ∈ tset d rest k v, q.1 = k ∨ q ∈ rest := fun _ => mem_tset
    have hc : ∀ (b : Nat × α) (t : Tab α), (∀ q ∈ t, b.1 < q.1) → b.2 ≠ d → tabOk d t = true → tabOk d (b :: t) = true :=
      fun b t h1 h2 h3 => (tabOk_cons d b t).2 ⟨h1, h2, h3⟩
    grind [tset, tabOk_cons]

/-- A filter keeps the canonical form. -/
theorem tabOk_filter {d : α} {t : Tab α} (h : tabOk d t = true) (p : Nat × α → Bool) :
    tabOk d (t.filter p) = true := by
  rw [tabOk_iff] at h ⊢
  exact ⟨h.1.filter _, fun q hq => h.2 q (List.mem_filter.1 hq).1⟩

/-- Erasing a key keeps the canonical form. -/
theorem tabOk_terase {d : α} {t : Tab α} (h : tabOk d t = true) (k : Nat) : tabOk d (terase t k) = true :=
  tabOk_filter h _

omit [DecidableEq α] in
/-- A key below every key listed reads as the default. -/
theorem tget_below {d : α} {t : Tab α} {k : Nat} (h : ∀ p ∈ t, k < p.1) : tget d t k = d := by
  cases t with grind [tget]

/-- Reading the key just written gives the value written. -/
theorem tget_tset_self {d : α} {t : Tab α} (h : tabOk d t = true) (k : Nat) (v : α) : tget d (tset d t k v) k = v := by
  induction t with
  | nil => grind [tset, tget]
  | cons a rest ih => grind [tset, tget, tabOk_cons, tget_below]

/-- A write leaves every other key as it was. -/
theorem tget_tset_ne {d : α} {t : Tab α} (h : tabOk d t = true) {k j : Nat} (v : α) (hj : j ≠ k) :
    tget d (tset d t k v) j = tget d t j := by
  induction t with
  | nil => grind [tset, tget]
  | cons a rest ih => grind [tset, tget, tabOk_cons, tget_below]

/-- Writing what a key holds changes nothing. -/
theorem tset_tget {d : α} {t : Tab α} (h : tabOk d t = true) (k : Nat) : tset d t k (tget d t k) = t := by
  induction t with
  | nil => grind [tset, tget]
  | cons a t ih => grind [tset, tget, tabOk_cons, tget_below]

end Sys2Proof.Machine
end

