-- ==== Sys2Proof/Laws/Keep.lean ====
section
/-! SUPPORT. What most operations leave alone, and the bounds they keep: the relation `Keeps`, and its steps. -/

namespace Sys2Proof.Machine

/-- State that only start-up, the sealed stores, the test logic and the management of those change. -/
structure Still where
  part : Part
  stepping : Nat
  fuses : Fuses
  pending : List Instr
  seals : List Seal
  lcState : Nat
  wiped : Bool
  tamperSeen : Bool
  wipeCount : Nat
  test : Test
  image : ImageHdr

/-- The still part of a state. -/
def State.still (s : State) : Still :=
  { part := s.part, stepping := s.stepping, fuses := s.cfg.fuses, pending := s.pending, seals := s.seals
    lcState := s.lcState, wiped := s.wiped, tamperSeen := s.tamperSeen, wipeCount := s.wipeCount, test := s.test
    image := s.cfg.image }

/-- The error log holds at most 64 entries (16 R446), and the register store is canonical. -/
def State.Bounded (s : State) : Prop := s.errs.fifo.length ≤ 64 ∧ tabOk 0#32 s.regs = true

/-- Mode changes that lie inside an operation (14 R386): into HALTED, DRAIN to MAINT, PAIR to READY. -/
def Inner (a b : Mode) : Prop :=
  a = b ∨ (a ≠ .off ∧ b = .halted) ∨ (a = .drain ∧ b = .maint) ∨ (a = .pair ∧ b = .ready)

theorem Inner.refl (a : Mode) : Inner a a := Or.inl rfl

theorem Inner.trans {a b c : Mode} (h : Inner a b) (k : Inner b c) : Inner a c := by
  obtain rfl | ⟨h, rfl⟩ | ⟨rfl, rfl⟩ | ⟨rfl, rfl⟩ := h
  · exact k
  all_goals obtain rfl | ⟨k, rfl⟩ | ⟨k, rfl⟩ | ⟨k, rfl⟩ := k <;> simp_all [Inner]

/-- `s` comes from `u` by operations that leave the still part alone, change the mode inside R386 and keep the bounds. -/
structure Keeps (u s : State) : Prop where
  still : s.still = u.still
  mode : Inner u.cfg.mode s.cfg.mode
  bounded : u.Bounded → s.Bounded

theorem Keeps.refl (s : State) : Keeps s s := ⟨rfl, Inner.refl _, id⟩

theorem Keeps.trans {s t u : State} (h : Keeps s t) (k : Keeps t u) : Keeps s u :=
  ⟨k.1.trans h.1, h.2.trans k.2, k.3 ∘ h.3⟩

/-- `Keeps` by fields that agree. -/
theorem Keeps.by_eq {s t : State} (h1 : t.still = s.still) (h2 : t.cfg.mode = s.cfg.mode) (h3 : s.Bounded → t.Bounded) :
    Keeps s t := ⟨h1, h2 ▸ Inner.refl _, h3⟩

/-- A state that agrees with another on all that `Keeps` looks at. -/
theorem Keeps.of_eq {u s t : State} (h : Keeps u s) (h1 : t.still = s.still) (h2 : t.cfg.mode = s.cfg.mode)
    (h3 : t.errs.fifo = s.errs.fifo) (h4 : t.regs = s.regs) : Keeps u t :=
  ⟨h1.trans h.1, h2 ▸ h.2, fun b => by
    have := h.3 b
    unfold State.Bounded at *
    rwa [h3, h4]⟩

/-- An update of fields that `Keeps` looks at only in part. -/
theorem Keeps.upd {u s : State} {c : Cfg} {e : Errors} {ho : HostPort} {sc : Sched} {st : Store} {co : Cores} {tw : Twin}
    {he : Health} (h : Keeps u s) (h1 : c.mode = s.cfg.mode) (h2 : c.fuses = s.cfg.fuses) (h3 : c.image = s.cfg.image)
    (h4 : e.fifo = s.errs.fifo) :
    Keeps u { s with cfg := c, errs := e, host := ho, sched := sc, store := st, cores := co, twin := tw, health := he } := by
  refine h.of_eq ?_ h1 h4 rfl
  simp only [State.still, h2, h3]

/-- A change of mode inside R386. -/
theorem Keeps.turn {u s : State} {c : Cfg} {e : Errors} {ho : HostPort} {sc : Sched} {st : Store} {co : Cores} {tw : Twin}
    {he : Health} (h : Keeps u s) (h1 : Inner s.cfg.mode c.mode) (h2 : c.fuses = s.cfg.fuses) (h3 : c.image = s.cfg.image)
    (h4 : e.fifo = s.errs.fifo) :
    Keeps u { s with cfg := c, errs := e, host := ho, sched := sc, store := st, cores := co, twin := tw, health := he } :=
  h.trans ⟨by simp only [State.still, h2, h3], h1, fun b => by
    unfold State.Bounded at *
    rwa [h4]⟩

/-- The same, with one stored register written. -/
theorem Keeps.updReg {u s : State} {c : Cfg} {e : Errors} {ho : HostPort} {sc : Sched} {st : Store} {co : Cores} {tw : Twin}
    {he : Health} {off : Nat} {v : Word} (h : Keeps u s) (h1 : c.mode = s.cfg.mode) (h2 : c.fuses = s.cfg.fuses)
    (h3 : c.image = s.cfg.image) (h4 : e.fifo = s.errs.fifo) :
    Keeps u { s with regs := tset 0#32 s.regs off v, cfg := c, errs := e, host := ho, sched := sc, store := st, cores := co
                     twin := tw, health := he } :=
  Keeps.upd (s := { s with regs := tset 0#32 s.regs off v })
    (h.trans (.by_eq rfl rfl fun b => ⟨b.1, tabOk_tset b.2 off v⟩)) h1 h2 h3 h4

/-- A fold of steps that keep. -/
theorem Keeps.foldl {α : Type} {u s : State} {f : State → α → State} (hf : ∀ s a, Keeps u s → Keeps u (f s a))
    (h : Keeps u s) (l : List α) : Keeps u (l.foldl f s) := by
  induction l generalizing s with
  | nil => exact h
  | cons a l ih => exact ih (hf s a h)

/-- A fold whose accumulator carries a state. -/
theorem Keeps.foldlP {α β : Type} {u : State} {f : β → α → β} {g : β → State} {b : β}
    (hf : ∀ b a, Keeps u (g b) → Keeps u (g (f b a))) (h : Keeps u (g b)) (l : List α) : Keeps u (g (l.foldl f b)) := by
  induction l generalizing b with
  | nil => exact h
  | cons a l ih => exact ih (hf b a h)

/-- The first part of a pair that keeps. -/
theorem Keeps.of_fst {β : Type} {u a : State} {b : β} {p : State × β} (e : p = (a, b)) (h : Keeps u p.1) : Keeps u a := by
  subst e; exact h

/-- The second part of a pair that keeps. -/
theorem Keeps.of_snd {β : Type} {u a : State} {b : β} {p : β × State} (e : p = (b, a)) (h : Keeps u p.2) : Keeps u a := by
  subst e; exact h

/-- Results of an operation that may give none: what holds of each result holds of the one given. -/
theorem Keeps.some_one {u a : State} {x : Option State} (e : x = some a) (h : ∀ r, x = some r → Keeps u r) : Keeps u a :=
  h _ e

theorem Keeps.some_two {β : Type} {u : State} {x : Option (β × State)} {r : β × State} (e : x = some r)
    (h : ∀ r, x = some r → Keeps u r.2) : Keeps u r.2 := h _ e

theorem Keeps.some_snd {β : Type} {u a : State} {b : β} {x : Option (β × State)} (e : x = some (b, a))
    (h : ∀ r, x = some r → Keeps u r.2) : Keeps u a := h _ e

theorem Keeps.some_third {β γ : Type} {u a : State} {b : β} {c : γ} {x : Option (β × γ × State)} (e : x = some (b, c, a))
    (h : ∀ r, x = some r → Keeps u r.2.2) : Keeps u a := h _ e

theorem Keeps.ok_snd {ε β : Type} {u a : State} {b : β} {x : Except ε (β × State)} (e : x = .ok (b, a))
    (h : ∀ r, x = .ok r → Keeps u r.2) : Keeps u a := h _ e

theorem Keeps.ite {u s t : State} {c : Prop} [Decidable c] (h : c → Keeps u s) (k : ¬c → Keeps u t) :
    Keeps u (if c then s else t) := by
  split
  · exact h ‹_›
  · exact k ‹_›

theorem State.setReg_keeps {u s : State} (h : Keeps u s) (off v : Nat) : Keeps u (s.setReg off v) :=
  h.trans (.by_eq rfl rfl fun b => ⟨b.1, tabOk_tset b.2 off _⟩)

theorem State.bump_keeps {u s : State} (h : Keeps u s) (off n : Nat) : Keeps u (s.bump off n) :=
  State.setReg_keeps h _ _

theorem State.bumpTile_keeps {u s : State} (h : Keeps u s) (t w n : Nat) : Keeps u (s.bumpTile t w n) :=
  State.bump_keeps h _ _

theorem State.tick_keeps {u s : State} (h : Keeps u s) : Keeps u s.tick := by
  unfold State.tick
  dsimp only
  repeat' split
  all_goals first | exact h | exact h.of_eq rfl rfl rfl rfl

theorem State.send_keeps {u s : State} (h : Keeps u s) (p : Pkt) : Keeps u (s.send p) := h.of_eq rfl rfl rfl rfl

theorem State.answer_keeps {u s : State} (h : Keeps u s) (q : Req) (ok : Bool) (v : Nat) : Keeps u (s.answer q ok v) :=
  State.send_keeps h _

theorem State.tell_keeps {u s : State} (h : Keeps u s) (m : TwinMsg) : Keeps u (s.tell m) := by
  unfold State.tell
  split
  · exact h.of_eq rfl rfl rfl rfl
  · exact h

/-- A report enters one entry at most, and only below 64 (16 R446). -/
theorem Errors.add_length (x : Errors) (a i : Nat) (e : LogEntry) (q : Bool) (h : x.fifo.length ≤ 64) :
    (x.add a i e q).1.fifo.length ≤ 64 := by
  have hm : ∀ l : List LogEntry, (mergeEntry e l).length = l.length := by
    intro l
    induction l with
    | nil => rfl
    | cons f l ih => unfold mergeEntry; split <;> simp [ih]
  unfold Errors.add
  split
  · simpa [hm] using h
  · split
    · simpa [Errors.signal] using h
    · simp only [Errors.signal, List.length_append, List.length_singleton]; omega

theorem State.report_keeps {u s : State} (h : Keeps u s) (e : LogEntry) (q : Bool) : Keeps u (s.report e q) := by
  refine State.bump_keeps ?_ _ _
  exact h.trans (.by_eq rfl rfl fun b => ⟨Errors.add_length _ _ _ _ _ b.1, b.2⟩)

theorem State.rejected_keeps {u s : State} (h : Keeps u s) (off : Nat) : Keeps u (s.rejected off) :=
  State.report_keeps h _ _

theorem State.refuse_keeps {u s : State} (h : Keeps u s) (q : Req) (off : Nat) : Keeps u (s.refuse q off) :=
  State.answer_keeps (State.rejected_keeps h off) q false 0

theorem State.halt_keeps {u s : State} (h : Keeps u s) (c : Nat) : Keeps u (s.halt c) := by
  unfold State.halt
  split
  · exact h
  · rename_i e
    refine State.tell_keeps (State.tell_keeps (State.tell_keeps ?_ _) _) _
    exact h.turn (.inr (.inl ⟨fun m => e (.inl m), rfl⟩)) rfl rfl rfl

theorem State.block_keeps {u s : State} (h : Keeps u s) (e : LogEntry) (c : Nat) : Keeps u (s.block e c) :=
  State.halt_keeps (State.report_keeps h _ _) _

theorem State.setSpd_keeps {u s : State} (h : Keeps u s) (core q off : Nat) (w : Word) : Keeps u (s.setSpd core q off w) :=
  h.upd rfl rfl rfl rfl

theorem State.setWide_keeps {u s : State} (h : Keeps u s) (t i : Nat) (w : DWord) : Keeps u (s.setWide t i w) :=
  h.upd rfl rfl rfl rfl

theorem State.putSlot_keeps {u s : State} (h : Keeps u s) (core slot : Nat) (w : DWord) : Keeps u (s.putSlot core slot w) := by
  unfold State.putSlot
  split
  · exact State.setWide_keeps h _ _ _
  · exact State.setSpd_keeps (State.setSpd_keeps h _ _ _ _) _ _ _ _

theorem State.spillSlots_keeps {u s : State} (h : Keeps u s) (core : Nat) (l : List (Nat × DWord)) :
    Keeps u (s.spillSlots core l) :=
  Keeps.foldl (fun _ _ h => State.putSlot_keeps h _ _ _) h _

theorem State.whenever_keeps {u s t : State} (h : Keeps u s) (k : Keeps u t) (c : Bool) : Keeps u (s.whenever c t) := by
  unfold State.whenever
  split <;> assumption

/-! ### A change of mode, and what the sealed stores, the test logic and start-up keep -/

/-- The still part is as it was, and the bounds are kept; the mode may change. -/
structure Calm (u s : State) : Prop where
  still : s.still = u.still
  bounded : u.Bounded → s.Bounded

theorem Calm.refl (s : State) : Calm s s := ⟨rfl, id⟩

theorem Keeps.calm {u s : State} (h : Keeps u s) : Calm u s := ⟨h.1, h.3⟩

theorem Calm.step {u s t : State} (h : Calm u s) (k : Keeps s t) : Calm u t := ⟨k.1.trans h.1, k.3 ∘ h.2⟩

theorem Calm.upd {u s : State} {c : Cfg} {e : Errors} {ho : HostPort} {sc : Sched} {st : Store} {co : Cores} {tw : Twin}
    {he : Health} (h : Calm u s) (h2 : c.fuses = s.cfg.fuses) (h3 : c.image = s.cfg.image) (h4 : e.fifo = s.errs.fifo) :
    Calm u { s with cfg := c, errs := e, host := ho, sched := sc, store := st, cores := co, twin := tw, health := he } :=
  ⟨by rw [← h.1]; simp only [State.still, h2, h3], fun b => by
    have := h.2 b
    unfold State.Bounded at *
    rwa [h4]⟩

/-- A calm change whose mode lies inside R386. -/
theorem Calm.keeps {u s t : State} (h : Keeps u s) (k : Calm s t) (hm : Inner s.cfg.mode t.cfg.mode) : Keeps u t :=
  h.trans ⟨k.1, hm, k.2⟩

/-- Mode changes of one command that is no power, reset or start-up event (14 R386). -/
def Asked (a b : Mode) : Prop :=
  Inner a b ∨ (a = .ready ∧ (b = .drain ∨ b = .maint)) ∨ ((a = .drain ∨ a = .maint) ∧ (b = .ready ∨ b = .halted))

theorem Asked.refl (a : Mode) : Asked a a := .inl (Inner.refl a)

theorem Asked.step {a b c : Mode} (h : Asked a b) (k : Inner b c) : Asked a c := by
  obtain h | ⟨rfl, rfl | rfl⟩ | ⟨rfl | rfl, rfl | rfl⟩ := h
  · exact .inl (h.trans k)
  all_goals obtain rfl | ⟨k, rfl⟩ | ⟨k, rfl⟩ | ⟨k, rfl⟩ := k <;> simp_all [Asked, Inner]

/-- What a sealed store does outside the test access: its life-cycle state stays, its keys and hashes stay or are wiped
(03 R100 to R102). -/
def SealStep (x y : Seal) : Prop := y.lc = x.lc ∧ ((y.keys = x.keys ∧ y.hashes = x.hashes) ∨ (y.keys = [] ∧ y.hashes = []))

theorem SealStep.trans {x y z : Seal} (h : SealStep x y) (k : SealStep y z) : SealStep x z := by
  obtain ⟨h1, h2⟩ := h
  obtain ⟨k1, ⟨k2, k3⟩ | k2⟩ := k
  · exact ⟨k1.trans h1, by rw [k2, k3]; exact h2⟩
  · exact ⟨k1.trans h1, .inr k2⟩

/-- Every store of a list does. -/
def SealsStep (a b : List Seal) : Prop := List.Forall₂ SealStep a b

theorem SealsStep.refl (a : List Seal) : SealsStep a a := List.forall₂_same.2 (fun _ _ => ⟨rfl, .inl ⟨rfl, rfl⟩⟩)

theorem SealsStep.trans {a b c : List Seal} (h : SealsStep a b) (k : SealsStep b c) : SealsStep a c := by
  induction h generalizing c with
  | nil => exact k
  | cons h _ ih =>
    cases k with
    | cons k ks => exact .cons (h.trans k) (ih ks)

theorem SealsStep.map (a : List Seal) {f : Seal → Seal} (hf : ∀ x, SealStep x (f x)) : SealsStep a (a.map f) := by
  induction a with
  | nil => exact .nil
  | cons x a ih => exact .cons (hf x) ih

/-- What a command that is no power, reset or start-up event does to straps, fuses, queue, mode and sealed stores. The bounds
are kept. -/
structure Ground (u s : State) : Prop where
  part : s.part = u.part
  stepping : s.stepping = u.stepping
  fuses : s.cfg.fuses = u.cfg.fuses
  pending : s.pending = u.pending
  mode : Asked u.cfg.mode s.cfg.mode
  seals : SealsStep u.seals s.seals
  bounded : u.Bounded → s.Bounded

/-- The same, with the mode as it was. -/
structure Quiet (u s : State) : Prop where
  ground : Ground u s
  mode : s.cfg.mode = u.cfg.mode

theorem Ground.refl (s : State) : Ground s s := ⟨rfl, rfl, rfl, rfl, Asked.refl _, SealsStep.refl _, id⟩

theorem Quiet.refl (s : State) : Quiet s s := ⟨Ground.refl s, rfl⟩

theorem Quiet.next {u s t : State} (h : Quiet u s) (k : Ground s t) : Ground u t :=
  ⟨k.1.trans h.1.1, k.2.trans h.1.2, k.3.trans h.1.3, k.4.trans h.1.4, h.2 ▸ k.5, h.1.6.trans k.6, k.7 ∘ h.1.7⟩

theorem Ground.step {u s t : State} (h : Ground u s) (k : Keeps s t) : Ground u t :=
  ⟨(congrArg Still.part k.1).trans h.1, (congrArg Still.stepping k.1).trans h.2, (congrArg Still.fuses k.1).trans h.3,
   (congrArg Still.pending k.1).trans h.4, h.5.step k.2, (show t.seals = s.seals from congrArg Still.seals k.1).symm ▸ h.6, k.3 ∘ h.7⟩

theorem Keeps.ground {u s : State} (h : Keeps u s) : Ground u s := (Ground.refl u).step h

theorem Ground.ite {u s t : State} {c : Prop} [Decidable c] (h : c → Ground u s) (k : ¬c → Ground u t) :
    Ground u (if c then s else t) := by
  split
  · exact h ‹_›
  · exact k ‹_›

/-- An update of fields that `Ground` looks at only in part. -/
theorem Ground.upd {u s t : State} (h : Ground u s) (h1 : t.part = s.part) (h2 : t.stepping = s.stepping)
    (h3 : t.cfg.fuses = s.cfg.fuses) (h4 : t.pending = s.pending) (h5 : t.cfg.mode = s.cfg.mode)
    (h6 : SealsStep s.seals t.seals) (h7 : s.Bounded → t.Bounded) : Ground u t :=
  ⟨h1.trans h.1, h2.trans h.2, h3.trans h.3, h4.trans h.4, h5 ▸ h.5, h.6.trans h6, h7 ∘ h.7⟩

/-- The same, of a state written out whose stores are as they were. -/
theorem Ground.set {u s : State} {c : Cfg} {lc : Nat} {wi ta : Bool} {wc : Nat} {e : Errors} {ho : HostPort}
    {sc : Sched} {st : Store} {co : Cores} {tw : Twin} {he : Health} {te : Test} (h : Ground u s)
    (h1 : c.mode = s.cfg.mode) (h2 : e.fifo = s.errs.fifo) (h3 : c.fuses = s.cfg.fuses) :
    Ground u { s with cfg := c, lcState := lc, wiped := wi, tamperSeen := ta, wipeCount := wc, errs := e, host := ho
                      sched := sc, store := st, cores := co, twin := tw, health := he, test := te } :=
  h.upd rfl rfl h3 rfl h1 (SealsStep.refl _) (fun b => by unfold State.Bounded at *; rwa [h2])

theorem Ground.foldl {α : Type} {u s : State} {f : State → α → State} (hf : ∀ s a, Ground u s → Ground u (f s a))
    (h : Ground u s) (l : List α) : Ground u (l.foldl f s) := by
  induction l generalizing s with
  | nil => exact h
  | cons a l ih => exact ih (hf s a h)

/-- The edges of the state table (14 R386), a request for MAINT that finds no job left counting as two. -/
def Edge (a b : Mode) : Prop :=
  Asked a b ∨ b = .off ∨ (a = .off ∧ b = .boot) ∨ (a = .boot ∧ b = .load) ∨ (a = .load ∧ b = .verify) ∨
  (a = .verify ∧ b = .init) ∨ (a = .init ∧ (b = .pair ∨ b = .ready))

/-- What every command keeps. -/
structure Moves (u s : State) : Prop where
  part : s.part = u.part
  stepping : s.stepping = u.stepping
  fuses : s.cfg.fuses = u.cfg.fuses
  pending : s.pending = u.pending
  mode : Edge u.cfg.mode s.cfg.mode
  bounded : u.Bounded → s.Bounded

theorem Ground.moves {u s : State} (h : Ground u s) : Moves u s := ⟨h.1, h.2, h.3, h.4, .inl h.5, h.7⟩

theorem Keeps.moves {u s : State} (h : Keeps u s) : Moves u s := h.ground.moves

end Sys2Proof.Machine
end

