-- ==== Sys2Proof/Laws/KeepOperands.lean ====
section
/-! SUPPORT. What the operations of Machine/Operands.lean keep. -/

namespace Sys2Proof.Machine

theorem State.lookOne_keeps {u s : State} (h : Keeps u s) (tile : Nat) (w : Waiter) (n : Need) :
    Keeps u (State.lookOne s tile w n) := by
  unfold State.lookOne
  repeat' first
    | with_reducible assumption
    | with_reducible apply State.bumpTile_keeps
    | refine Keeps.foldl (fun s a h => ?_) ?_ _
    | refine Keeps.foldlP (g := Prod.fst) (fun s a h => ?_) ?_ _
    | refine Keeps.foldlP (g := Prod.snd) (fun s a h => ?_) ?_ _
    | split
    | dsimp only
    | fail_if_no_progress (with_reducible refine Keeps.upd ?_ rfl rfl rfl rfl)

/-- The state that translating leaves. -/
def Translated.state : Translated → State
  | .ok _ s => s
  | .wait s => s
  | .failed _ s => s

theorem Translated.ok_keeps {u s : State} {x : Translated} {t : Trans} (e : x = .ok t s) (h : Keeps u x.state) : Keeps u s := by
  subst e; exact h
theorem Translated.wait_keeps {u s : State} {x : Translated} (e : x = .wait s) (h : Keeps u x.state) : Keeps u s := by
  subst e; exact h
theorem Translated.failed_keeps {u s : State} {x : Translated} {n : Nat} (e : x = .failed n s) (h : Keeps u x.state) :
    Keeps u s := by
  subst e; exact h

theorem State.translateAll_keeps {u s : State} (h : Keeps u s) (tile : Nat) (w : Waiter) (ns : List Need) :
    Keeps u (s.translateAll tile w ns).state := by
  have k : Keeps u (ns.foldl (fun s n => s.lookOne tile w n) s) :=
    Keeps.foldl (fun s n h => State.lookOne_keeps h tile w n) h ns
  unfold State.translateAll
  dsimp only
  repeat' split
  · exact h.upd rfl rfl rfl rfl
  · exact h
  · exact k.upd rfl rfl rfl rfl
  · exact k

end Sys2Proof.Machine
end

