-- ==== Sys2Proof/Laws/KeepPages.lean ====
section
/-! SUPPORT. What the operations of Machine/Pages.lean keep. -/

namespace Sys2Proof.Machine

theorem State.setFrame_keeps {u s : State} (h : Keeps u s) (f : Nat) (x : Frame) :
    Keeps u (State.setFrame s f x) := by
  unfold State.setFrame
  repeat' first
    | with_reducible assumption
    | refine Keeps.foldl (fun s a h => ?_) ?_ _
    | refine Keeps.foldlP (g := Prod.fst) (fun s a h => ?_) ?_ _
    | refine Keeps.foldlP (g := Prod.snd) (fun s a h => ?_) ?_ _
    | split
    | dsimp only
    | fail_if_no_progress (with_reducible refine Keeps.upd ?_ rfl rfl rfl rfl)

theorem State.charge_keeps {u s : State} (h : Keeps u s) (c n : Nat) :
    Keeps u (State.charge s c n) := by
  unfold State.charge
  repeat' first
    | with_reducible assumption
    | refine Keeps.foldl (fun s a h => ?_) ?_ _
    | refine Keeps.foldlP (g := Prod.fst) (fun s a h => ?_) ?_ _
    | refine Keeps.foldlP (g := Prod.snd) (fun s a h => ?_) ?_ _
    | split
    | dsimp only
    | fail_if_no_progress (with_reducible refine Keeps.upd ?_ rfl rfl rfl rfl)

theorem State.discharge_keeps {u s : State} (h : Keeps u s) (c n : Nat) :
    Keeps u (State.discharge s c n) := by
  unfold State.discharge
  repeat' first
    | with_reducible assumption
    | refine Keeps.foldl (fun s a h => ?_) ?_ _
    | refine Keeps.foldlP (g := Prod.fst) (fun s a h => ?_) ?_ _
    | refine Keeps.foldlP (g := Prod.snd) (fun s a h => ?_) ?_ _
    | split
    | dsimp only
    | fail_if_no_progress (with_reducible refine Keeps.upd ?_ rfl rfl rfl rfl)

theorem State.chargeFrame_keeps {u s : State} (h : Keeps u s) (f c : Nat) :
    Keeps u (State.chargeFrame s f c) := by
  unfold State.chargeFrame
  repeat' first
    | with_reducible assumption
    | with_reducible apply State.setFrame_keeps
    | with_reducible apply State.charge_keeps

theorem State.uncharge_keeps {u s : State} (h : Keeps u s) (f : Nat) :
    Keeps u (State.uncharge s f) := by
  unfold State.uncharge
  repeat' first
    | with_reducible assumption
    | with_reducible apply State.setFrame_keeps
    | with_reducible apply State.discharge_keeps
    | refine Keeps.foldl (fun s a h => ?_) ?_ _
    | refine Keeps.foldlP (g := Prod.fst) (fun s a h => ?_) ?_ _
    | refine Keeps.foldlP (g := Prod.snd) (fun s a h => ?_) ?_ _
    | split
    | dsimp only

theorem State.shelve_keeps {u s : State} (h : Keeps u s) (f : Nat) :
    Keeps u (State.shelve s f) := by
  unfold State.shelve
  repeat' first
    | with_reducible assumption
    | with_reducible apply State.setFrame_keeps
    | refine Keeps.foldl (fun s a h => ?_) ?_ _
    | refine Keeps.foldlP (g := Prod.fst) (fun s a h => ?_) ?_ _
    | refine Keeps.foldlP (g := Prod.snd) (fun s a h => ?_) ?_ _
    | split
    | dsimp only
    | fail_if_no_progress (with_reducible refine Keeps.upd ?_ rfl rfl rfl rfl)

theorem State.offer_keeps {u s : State} (h : Keeps u s) (f : Nat) :
    Keeps u (State.offer s f) := by
  unfold State.offer
  repeat' first
    | with_reducible assumption
    | with_reducible apply State.shelve_keeps
    | refine Keeps.foldl (fun s a h => ?_) ?_ _
    | refine Keeps.foldlP (g := Prod.fst) (fun s a h => ?_) ?_ _
    | refine Keeps.foldlP (g := Prod.snd) (fun s a h => ?_) ?_ _
    | split
    | dsimp only
    | fail_if_no_progress (with_reducible refine Keeps.upd ?_ rfl rfl rfl rfl)

theorem State.freeFrame_keeps {u s : State} (h : Keeps u s) (f : Nat) :
    Keeps u (State.freeFrame s f) := by
  unfold State.freeFrame
  repeat' first
    | with_reducible assumption
    | with_reducible apply State.setFrame_keeps
    | with_reducible apply State.offer_keeps

theorem State.settle_keeps {u s : State} (h : Keeps u s) (f : Nat) :
    Keeps u (State.settle s f) := by
  unfold State.settle
  repeat' first
    | with_reducible assumption
    | with_reducible apply State.uncharge_keeps
    | with_reducible apply State.freeFrame_keeps
    | refine Keeps.foldl (fun s a h => ?_) ?_ _
    | refine Keeps.foldlP (g := Prod.fst) (fun s a h => ?_) ?_ _
    | refine Keeps.foldlP (g := Prod.snd) (fun s a h => ?_) ?_ _
    | split

theorem State.refFrame_keeps {u s : State} (h : Keeps u s) (f n : Nat) :
    Keeps u (State.refFrame s f n) := by
  unfold State.refFrame
  repeat' first
    | with_reducible assumption
    | with_reducible apply State.setFrame_keeps

theorem State.unrefFrame_keeps {u s : State} (h : Keeps u s) (f : Nat) :
    Keeps u (State.unrefFrame s f) := by
  unfold State.unrefFrame
  repeat' first
    | with_reducible assumption
    | with_reducible apply State.setFrame_keeps
    | with_reducible apply State.settle_keeps

theorem State.pinFrame_keeps {u s : State} (h : Keeps u s) (f : Nat) :
    Keeps u (State.pinFrame s f) := by
  unfold State.pinFrame
  repeat' first
    | with_reducible assumption
    | with_reducible apply State.setFrame_keeps

theorem State.unpinFrame_keeps {u s : State} (h : Keeps u s) (f : Nat) :
    Keeps u (State.unpinFrame s f) := by
  unfold State.unpinFrame
  repeat' first
    | with_reducible assumption
    | with_reducible apply State.setFrame_keeps
    | with_reducible apply State.settle_keeps

theorem State.takeFree_keeps {u s : State} (h : Keeps u s) (t : Nat) : ∀ r, s.takeFree t = some r → Keeps u r.2 := by
  intro r e
  unfold State.takeFree at e
  dsimp only at e
  repeat' split at e
  all_goals first | cases e; exact h.upd rfl rfl rfl rfl | cases e

theorem State.setRow_keeps {u s : State} (h : Keeps u s) (r : Nat) (x : CtxRow) :
    Keeps u (State.setRow s r x) := by
  unfold State.setRow
  repeat' first
    | with_reducible assumption
    | refine Keeps.foldl (fun s a h => ?_) ?_ _
    | refine Keeps.foldlP (g := Prod.fst) (fun s a h => ?_) ?_ _
    | refine Keeps.foldlP (g := Prod.snd) (fun s a h => ?_) ?_ _
    | split
    | dsimp only
    | fail_if_no_progress (with_reducible refine Keeps.upd ?_ rfl rfl rfl rfl)

theorem State.setDir_keeps {u s : State} (h : Keeps u s) (row stream : Nat) (d : DirEntry) :
    Keeps u (State.setDir s row stream d) := by
  unfold State.setDir
  repeat' first
    | with_reducible assumption
    | refine Keeps.foldl (fun s a h => ?_) ?_ _
    | refine Keeps.foldlP (g := Prod.fst) (fun s a h => ?_) ?_ _
    | refine Keeps.foldlP (g := Prod.snd) (fun s a h => ?_) ?_ _
    | split
    | dsimp only
    | fail_if_no_progress (with_reducible refine Keeps.upd ?_ rfl rfl rfl rfl)

theorem State.setMapAt_keeps {u s : State} (h : Keeps u s) (k : Nat) (e : MapEntry) :
    Keeps u (State.setMapAt s k e) := by
  unfold State.setMapAt
  repeat' first
    | with_reducible assumption
    | refine Keeps.foldl (fun s a h => ?_) ?_ _
    | refine Keeps.foldlP (g := Prod.fst) (fun s a h => ?_) ?_ _
    | refine Keeps.foldlP (g := Prod.snd) (fun s a h => ?_) ?_ _
    | split
    | dsimp only
    | fail_if_no_progress (with_reducible refine Keeps.upd ?_ rfl rfl rfl rfl)

theorem State.takeBlock_keeps {u s : State} (h : Keeps u s) (t b : Nat) :
    Keeps u (State.takeBlock s t b) := by
  unfold State.takeBlock
  repeat' first
    | with_reducible assumption
    | refine Keeps.foldl (fun s a h => ?_) ?_ _
    | refine Keeps.foldlP (g := Prod.fst) (fun s a h => ?_) ?_ _
    | refine Keeps.foldlP (g := Prod.snd) (fun s a h => ?_) ?_ _
    | split
    | dsimp only
    | fail_if_no_progress (with_reducible refine Keeps.upd ?_ rfl rfl rfl rfl)

theorem State.takeBlocks_keeps {u s : State} (h : Keeps u s) (n t : Nat) :
    ∀ r, s.takeBlocks n t = some r → Keeps u r.2 := by
  induction n generalizing s with
  | zero => rintro _ ⟨⟩; exact h
  | succ n ih =>
    intro r e
    unfold State.takeBlocks at e
    repeat' split at e
    · cases e
    · cases e
    · rename_i b _ _ l s' e'
      cases e
      exact ih (State.takeBlock_keeps h t b) (l, s') e'

theorem State.giveBlock_keeps {u s : State} (h : Keeps u s) (t b : Nat) :
    Keeps u (State.giveBlock s t b) := by
  unfold State.giveBlock
  repeat' first
    | with_reducible assumption
    | refine Keeps.foldl (fun s a h => ?_) ?_ _
    | refine Keeps.foldlP (g := Prod.fst) (fun s a h => ?_) ?_ _
    | refine Keeps.foldlP (g := Prod.snd) (fun s a h => ?_) ?_ _
    | split
    | dsimp only
    | fail_if_no_progress (with_reducible refine Keeps.upd ?_ rfl rfl rfl rfl)

theorem State.growMap_keeps {u s : State} (h : Keeps u s) (row stream page : Nat) (supply : List Nat) :
    Keeps u (State.growMap s row stream page supply).1 := by
  unfold State.growMap
  repeat' first
    | with_reducible assumption
    | with_reducible apply State.setDir_keeps
    | with_reducible apply State.setMapAt_keeps
    | refine Keeps.foldl (fun s a h => ?_) ?_ _
    | refine Keeps.foldlP (g := Prod.fst) (fun s a h => ?_) ?_ _
    | refine Keeps.foldlP (g := Prod.snd) (fun s a h => ?_) ?_ _
    | split
    | dsimp only

theorem State.resolve_keeps {u s : State} (h : Keeps u s) (row stream page : Nat) :
    Keeps u (State.resolve s row stream page).2 := by
  unfold State.resolve
  repeat' first
    | with_reducible assumption
    | with_reducible apply State.bumpTile_keeps
    | refine Keeps.foldl (fun s a h => ?_) ?_ _
    | refine Keeps.foldlP (g := Prod.fst) (fun s a h => ?_) ?_ _
    | refine Keeps.foldlP (g := Prod.snd) (fun s a h => ?_) ?_ _
    | split
    | dsimp only
    | fail_if_no_progress (with_reducible refine Keeps.upd ?_ rfl rfl rfl rfl)

theorem State.dropLab_keeps {u s : State} (h : Keeps u s) (row stream : Nat) :
    Keeps u (State.dropLab s row stream) := by
  unfold State.dropLab
  repeat' first
    | with_reducible assumption
    | refine Keeps.foldl (fun s a h => ?_) ?_ _
    | refine Keeps.foldlP (g := Prod.fst) (fun s a h => ?_) ?_ _
    | refine Keeps.foldlP (g := Prod.snd) (fun s a h => ?_) ?_ _
    | split
    | dsimp only
    | fail_if_no_progress (with_reducible refine Keeps.upd ?_ rfl rfl rfl rfl)

theorem State.dropLabFrame_keeps {u s : State} (h : Keeps u s) (f : Nat) :
    Keeps u (State.dropLabFrame s f) := by
  unfold State.dropLabFrame
  repeat' first
    | with_reducible assumption
    | refine Keeps.foldl (fun s a h => ?_) ?_ _
    | refine Keeps.foldlP (g := Prod.fst) (fun s a h => ?_) ?_ _
    | refine Keeps.foldlP (g := Prod.snd) (fun s a h => ?_) ?_ _
    | split
    | dsimp only
    | fail_if_no_progress (with_reducible refine Keeps.upd ?_ rfl rfl rfl rfl)

theorem State.dropLabPage_keeps {u s : State} (h : Keeps u s) (row stream page : Nat) :
    Keeps u (State.dropLabPage s row stream page) := by
  unfold State.dropLabPage
  repeat' first
    | with_reducible assumption
    | refine Keeps.foldl (fun s a h => ?_) ?_ _
    | refine Keeps.foldlP (g := Prod.fst) (fun s a h => ?_) ?_ _
    | refine Keeps.foldlP (g := Prod.snd) (fun s a h => ?_) ?_ _
    | split
    | dsimp only
    | fail_if_no_progress (with_reducible refine Keeps.upd ?_ rfl rfl rfl rfl)

theorem State.setPage_keeps {u s : State} (h : Keeps u s) (row stream page : Nat) (e : MapEntry) :
    Keeps u (State.setPage s row stream page e) := by
  unfold State.setPage
  repeat' first
    | with_reducible assumption
    | with_reducible apply State.setMapAt_keeps
    | with_reducible apply State.dropLabPage_keeps
    | refine Keeps.foldl (fun s a h => ?_) ?_ _
    | refine Keeps.foldlP (g := Prod.fst) (fun s a h => ?_) ?_ _
    | refine Keeps.foldlP (g := Prod.snd) (fun s a h => ?_) ?_ _
    | split

end Sys2Proof.Machine
end

