-- ==== Sys2Proof/Laws/KeepLayouts.lean ====
section
/-! SUPPORT. What the operations of Machine/Layouts.lean keep. -/

namespace Sys2Proof.Machine

theorem State.ledgerSend_keeps {u s : State} (h : Keeps u s) (l : List TwinMsg) :
    Keeps u (State.ledgerSend s l) := by
  unfold State.ledgerSend
  repeat' first
    | with_reducible assumption
    | refine Keeps.foldl (fun s a h => ?_) ?_ _
    | refine Keeps.foldlP (g := Prod.fst) (fun s a h => ?_) ?_ _
    | refine Keeps.foldlP (g := Prod.snd) (fun s a h => ?_) ?_ _
    | split
    | dsimp only
    | fail_if_no_progress (with_reducible refine Keeps.upd ?_ rfl rfl rfl rfl)

theorem State.sendDeltas_keeps {u s : State} (h : Keeps u s) (ds : List Delta) (g : GroupId) :
    Keeps u (State.sendDeltas s ds g) := by
  unfold State.sendDeltas
  repeat' first
    | with_reducible assumption
    | with_reducible apply State.ledgerSend_keeps
    | refine Keeps.foldl (fun s a h => ?_) ?_ _
    | refine Keeps.foldlP (g := Prod.fst) (fun s a h => ?_) ?_ _
    | refine Keeps.foldlP (g := Prod.snd) (fun s a h => ?_) ?_ _
    | split

theorem State.sendGroup_keeps {u s : State} (h : Keeps u s) (bases : List Base) (before : Store) (g : GroupId) :
    Keeps u (State.sendGroup s bases before g) := by
  unfold State.sendGroup
  repeat' first
    | with_reducible assumption
    | with_reducible apply State.sendDeltas_keeps

theorem State.sendPart_keeps {u s : State} (h : Keeps u s) (bases : List Base) (before : Store) (g : GroupId) (id : Nat) :
    Keeps u (State.sendPart s bases before g id) := by
  unfold State.sendPart
  repeat' first
    | with_reducible assumption
    | with_reducible apply State.ledgerSend_keeps
    | refine Keeps.foldl (fun s a h => ?_) ?_ _
    | refine Keeps.foldlP (g := Prod.fst) (fun s a h => ?_) ?_ _
    | refine Keeps.foldlP (g := Prod.snd) (fun s a h => ?_) ?_ _
    | split
    | dsimp only
    | fail_if_no_progress (with_reducible refine Keeps.upd ?_ rfl rfl rfl rfl)

theorem State.commitGroups_keeps {u s : State} (h : Keeps u s) (gs : List GroupId) :
    Keeps u (State.commitGroups s gs) := by
  unfold State.commitGroups
  repeat' first
    | with_reducible assumption
    | with_reducible apply State.ledgerSend_keeps

end Sys2Proof.Machine
end

