-- ==== Sys2Proof/Laws/KeepPrefix.lean ====
section
/-! SUPPORT. What the operations of Machine/Prefix.lean keep. -/

namespace Sys2Proof.Machine

theorem State.setNode_keeps {u s : State} (h : Keeps u s) (n : Nat) (x : Node) :
    Keeps u (State.setNode s n x) := by
  unfold State.setNode
  repeat' first
    | with_reducible assumption
    | refine Keeps.foldl (fun s a h => ?_) ?_ _
    | refine Keeps.foldlP (g := Prod.fst) (fun s a h => ?_) ?_ _
    | refine Keeps.foldlP (g := Prod.snd) (fun s a h => ?_) ?_ _
    | split
    | dsimp only
    | fail_if_no_progress (with_reducible refine Keeps.upd ?_ rfl rfl rfl rfl)

theorem State.linkNode_keeps {u s : State} (h : Keeps u s) (n : Nat) :
    Keeps u (State.linkNode s n) := by
  unfold State.linkNode
  repeat' first
    | with_reducible assumption
    | with_reducible apply State.setNode_keeps
    | refine Keeps.foldl (fun s a h => ?_) ?_ _
    | refine Keeps.foldlP (g := Prod.fst) (fun s a h => ?_) ?_ _
    | refine Keeps.foldlP (g := Prod.snd) (fun s a h => ?_) ?_ _
    | split
    | dsimp only
    | fail_if_no_progress (with_reducible refine Keeps.upd ?_ rfl rfl rfl rfl)

theorem State.unlinkNode_keeps {u s : State} (h : Keeps u s) (n : Nat) :
    Keeps u (State.unlinkNode s n) := by
  unfold State.unlinkNode
  repeat' first
    | with_reducible assumption
    | with_reducible apply State.setNode_keeps
    | refine Keeps.foldl (fun s a h => ?_) ?_ _
    | refine Keeps.foldlP (g := Prod.fst) (fun s a h => ?_) ?_ _
    | refine Keeps.foldlP (g := Prod.snd) (fun s a h => ?_) ?_ _
    | split
    | dsimp only
    | fail_if_no_progress (with_reducible refine Keeps.upd ?_ rfl rfl rfl rfl)

theorem State.unpublish_keeps {u s : State} (h : Keeps u s) (f : Nat) :
    Keeps u (State.unpublish s f) := by
  unfold State.unpublish
  repeat' first
    | with_reducible assumption
    | with_reducible apply State.setFrame_keeps
    | with_reducible apply State.settle_keeps
    | refine Keeps.foldl (fun s a h => ?_) ?_ _
    | refine Keeps.foldlP (g := Prod.fst) (fun s a h => ?_) ?_ _
    | refine Keeps.foldlP (g := Prod.snd) (fun s a h => ?_) ?_ _
    | split
    | dsimp only

theorem State.refreshBuild_keeps {u s : State} (h : Keeps u s) (r : Nat) :
    Keeps u (State.refreshBuild s r) := by
  unfold State.refreshBuild
  repeat' first
    | with_reducible assumption
    | with_reducible apply State.setRow_keeps
    | refine Keeps.foldl (fun s a h => ?_) ?_ _
    | refine Keeps.foldlP (g := Prod.fst) (fun s a h => ?_) ?_ _
    | refine Keeps.foldlP (g := Prod.snd) (fun s a h => ?_) ?_ _
    | split

theorem State.ownerChanged_keeps {u s : State} (h : Keeps u s) (x : Node) :
    Keeps u (State.ownerChanged s x) := by
  unfold State.ownerChanged
  repeat' first
    | with_reducible assumption
    | with_reducible apply State.refreshBuild_keeps
    | refine Keeps.foldl (fun s a h => ?_) ?_ _
    | refine Keeps.foldlP (g := Prod.fst) (fun s a h => ?_) ?_ _
    | refine Keeps.foldlP (g := Prod.snd) (fun s a h => ?_) ?_ _
    | split

theorem State.removeNode_keeps {u s : State} (h : Keeps u s) (n : Nat) :
    Keeps u (State.removeNode s n) := by
  unfold State.removeNode
  repeat' first
    | with_reducible assumption
    | with_reducible apply State.giveBlock_keeps
    | with_reducible apply State.setNode_keeps
    | with_reducible apply State.unlinkNode_keeps
    | with_reducible apply State.unpublish_keeps
    | with_reducible apply State.ownerChanged_keeps
    | refine Keeps.foldl (fun s a h => ?_) ?_ _
    | refine Keeps.foldlP (g := Prod.fst) (fun s a h => ?_) ?_ _
    | refine Keeps.foldlP (g := Prod.snd) (fun s a h => ?_) ?_ _
    | split

theorem State.removeTree_keeps {u s : State} (h : Keeps u s) (n : Nat) :
    Keeps u (State.removeTree s n) := by
  unfold State.removeTree
  repeat' first
    | with_reducible assumption
    | with_reducible apply State.removeNode_keeps
    | refine Keeps.foldl (fun s a h => ?_) ?_ _
    | refine Keeps.foldlP (g := Prod.fst) (fun s a h => ?_) ?_ _
    | refine Keeps.foldlP (g := Prod.snd) (fun s a h => ?_) ?_ _
    | split

theorem State.removeOrWait_keeps {u s : State} (h : Keeps u s) (n : Nat) :
    Keeps u (State.removeOrWait s n) := by
  unfold State.removeOrWait
  repeat' first
    | with_reducible assumption
    | with_reducible apply State.removeTree_keeps
    | refine Keeps.foldl (fun s a h => ?_) ?_ _
    | refine Keeps.foldlP (g := Prod.fst) (fun s a h => ?_) ?_ _
    | refine Keeps.foldlP (g := Prod.snd) (fun s a h => ?_) ?_ _
    | split
    | dsimp only
    | fail_if_no_progress (with_reducible refine Keeps.upd ?_ rfl rfl rfl rfl)

theorem State.unlock_keeps {u s : State} (h : Keeps u s) (ns : List Nat) :
    Keeps u (State.unlock s ns) := by
  unfold State.unlock
  repeat' first
    | with_reducible assumption
    | with_reducible apply State.setNode_keeps
    | with_reducible apply State.removeTree_keeps
    | refine Keeps.foldl (fun s a h => ?_) ?_ _
    | refine Keeps.foldlP (g := Prod.fst) (fun s a h => ?_) ?_ _
    | refine Keeps.foldlP (g := Prod.snd) (fun s a h => ?_) ?_ _
    | split
    | dsimp only
    | fail_if_no_progress (with_reducible refine Keeps.upd ?_ rfl rfl rfl rfl)

theorem State.enterNode_keeps {u s : State} (h : Keeps u s) (n stream f : Nat) (fresh : Bool) :
    Keeps u (State.enterNode s n stream f fresh) := by
  unfold State.enterNode
  repeat' first
    | with_reducible assumption
    | with_reducible apply State.setFrame_keeps
    | with_reducible apply State.setMapAt_keeps
    | with_reducible apply State.setNode_keeps
    | with_reducible apply State.ownerChanged_keeps
    | refine Keeps.foldl (fun s a h => ?_) ?_ _
    | refine Keeps.foldlP (g := Prod.fst) (fun s a h => ?_) ?_ _
    | refine Keeps.foldlP (g := Prod.snd) (fun s a h => ?_) ?_ _
    | split
    | dsimp only

theorem State.dropBuilding_keeps {u s : State} (h : Keeps u s) (r first : Nat) :
    Keeps u (State.dropBuilding s r first) := by
  unfold State.dropBuilding
  repeat' first
    | with_reducible assumption
    | with_reducible apply State.removeOrWait_keeps
    | refine Keeps.foldl (fun s a h => ?_) ?_ _

end Sys2Proof.Machine
end

