-- ==== Sys2Proof/Laws/KeepRegs.lean ====
section
/-! SUPPORT. What the operations of Machine/Regs.lean keep. -/

namespace Sys2Proof.Machine

theorem State.lockedWrite_keeps {u s : State} (h : Keeps u s) (off : Nat) :
    Keeps u (State.lockedWrite s off) := by
  unfold State.lockedWrite
  repeat' first
    | with_reducible assumption
    | with_reducible apply State.bump_keeps
    | with_reducible apply State.report_keeps

theorem State.applyWrite_keeps {u s : State} (h : Keeps u s) (fs : List Fld) (off v : Nat) :
    Keeps u (State.applyWrite s fs off v) := by
  unfold State.applyWrite
  repeat' first
    | with_reducible assumption
    | with_reducible apply State.lockedWrite_keeps
    | refine Keeps.foldl (fun s a h => ?_) ?_ _
    | refine Keeps.foldlP (g := Prod.fst) (fun s a h => ?_) ?_ _
    | refine Keeps.foldlP (g := Prod.snd) (fun s a h => ?_) ?_ _
    | split
    | dsimp only
    | fail_if_no_progress (with_reducible refine Keeps.upd ?_ rfl rfl rfl rfl)
    | with_reducible refine Keeps.updReg ?_ rfl rfl rfl rfl

theorem State.reservedWrite_keeps {u s : State} (h : Keeps u s) (off : Nat) :
    Keeps u (State.reservedWrite s off) := by
  unfold State.reservedWrite
  repeat' first
    | with_reducible assumption
    | with_reducible apply State.report_keeps

theorem State.holdLow_keeps {u s : State} (h : Keeps u s) (off v : Nat) :
    Keeps u (State.holdLow s off v) := by
  unfold State.holdLow
  repeat' first
    | with_reducible assumption
    | refine Keeps.foldl (fun s a h => ?_) ?_ _
    | refine Keeps.foldlP (g := Prod.fst) (fun s a h => ?_) ?_ _
    | refine Keeps.foldlP (g := Prod.snd) (fun s a h => ?_) ?_ _
    | split
    | dsimp only
    | fail_if_no_progress (with_reducible refine Keeps.upd ?_ rfl rfl rfl rfl)

theorem State.applyPair_keeps {u s : State} (h : Keeps u s) (fs : List Fld) (off v : Nat) :
    Keeps u (State.applyPair s fs off v) := by
  unfold State.applyPair
  repeat' first
    | with_reducible assumption
    | with_reducible apply State.applyWrite_keeps
    | refine Keeps.foldl (fun s a h => ?_) ?_ _
    | refine Keeps.foldlP (g := Prod.fst) (fun s a h => ?_) ?_ _
    | refine Keeps.foldlP (g := Prod.snd) (fun s a h => ?_) ?_ _
    | split
    | dsimp only
    | fail_if_no_progress (with_reducible refine Keeps.upd ?_ rfl rfl rfl rfl)

end Sys2Proof.Machine
end

