-- ==== Sys2Proof/Laws/KeepHostPort.lean ====
section
/-! SUPPORT. What the operations of Machine/HostPort.lean keep. -/

namespace Sys2Proof.Machine

theorem State.setRing_keeps {u s : State} (h : Keeps u s) (r : Nat) (x : Ring) :
    Keeps u (State.setRing s r x) := by
  unfold State.setRing
  repeat' first
    | with_reducible assumption
    | refine Keeps.foldl (fun s a h => ?_) ?_ _
    | refine Keeps.foldlP (g := Prod.fst) (fun s a h => ?_) ?_ _
    | refine Keeps.foldlP (g := Prod.snd) (fun s a h => ?_) ?_ _
    | split
    | dsimp only
    | fail_if_no_progress (with_reducible refine Keeps.upd ?_ rfl rfl rfl rfl)

theorem State.ageRing_keeps {u s : State} (h : Keeps u s) (r : Nat) :
    Keeps u (State.ageRing s r) := by
  unfold State.ageRing
  repeat' first
    | with_reducible assumption
    | with_reducible apply State.setRing_keeps
    | refine Keeps.foldl (fun s a h => ?_) ?_ _
    | refine Keeps.foldlP (g := Prod.fst) (fun s a h => ?_) ?_ _
    | refine Keeps.foldlP (g := Prod.snd) (fun s a h => ?_) ?_ _
    | split
    | dsimp only
    | fail_if_no_progress (with_reducible refine Keeps.upd ?_ rfl rfl rfl rfl)

theorem State.hold_keeps {u s : State} (h : Keeps u s) (r : Nat) (trk : Bool) (needs : List (Nat × Nat)) :
    Keeps u (State.hold s r trk needs) := by
  unfold State.hold
  repeat' first
    | with_reducible assumption
    | with_reducible apply State.bump_keeps
    | with_reducible apply State.setRing_keeps
    | with_reducible apply State.ageRing_keeps
    | refine Keeps.foldl (fun s a h => ?_) ?_ _
    | refine Keeps.foldlP (g := Prod.fst) (fun s a h => ?_) ?_ _
    | refine Keeps.foldlP (g := Prod.snd) (fun s a h => ?_) ?_ _
    | split
    | dsimp only
    | fail_if_no_progress (with_reducible refine Keeps.upd ?_ rfl rfl rfl rfl)

theorem State.place_keeps {u s : State} (h : Keeps u s) (r : HReq) (data : List Byte) :
    Keeps u (State.place s r data) := by
  unfold State.place
  repeat' first
    | with_reducible assumption
    | refine Keeps.foldl (fun s a h => ?_) ?_ _
    | refine Keeps.foldlP (g := Prod.fst) (fun s a h => ?_) ?_ _
    | refine Keeps.foldlP (g := Prod.snd) (fun s a h => ?_) ?_ _
    | split
    | dsimp only
    | fail_if_no_progress (with_reducible refine Keeps.upd ?_ rfl rfl rfl rfl)

theorem State.issue_keeps {u s : State} (h : Keeps u s) (tile : Nat) (write : Bool) (owner : Owner) (pa off : Nat) (page : Option Nat) (n : Nat) (data : List Byte) (mod : Option Nat) :
    Keeps u (State.issue s tile write owner pa off page n data mod) := by
  unfold State.issue
  repeat' first
    | with_reducible assumption
    | with_reducible apply State.place_keeps

theorem State.movePhys_keeps {u s : State} (h : Keeps u s) (tile : Nat) (write : Bool) (owner : Owner) (page : Option Nat) (pa off : Nat) (n : Nat) (data : List Byte) (mod : Option Nat) :
    Keeps u (State.movePhys s tile write owner page pa off n data mod).1 := by
  unfold State.movePhys
  repeat' first
    | with_reducible assumption
    | with_reducible apply State.issue_keeps
    | refine Keeps.foldl (fun s a h => ?_) ?_ _

theorem State.describe_keeps {u s : State} (h : Keeps u s) (tile : Nat) (write : Bool) (owner : Owner) (f : Fetch) (mod : Option Nat) :
    Keeps u (State.describe s tile write owner f mod) := by
  unfold State.describe
  repeat' first
    | with_reducible assumption
    | refine Keeps.foldl (fun s a h => ?_) ?_ _
    | refine Keeps.foldlP (g := Prod.fst) (fun s a h => ?_) ?_ _
    | refine Keeps.foldlP (g := Prod.snd) (fun s a h => ?_) ?_ _
    | split
    | dsimp only
    | fail_if_no_progress (with_reducible refine Keeps.upd ?_ rfl rfl rfl rfl)

theorem State.fetch_keeps {u s : State} (h : Keeps u s) (tile : Nat) (owner : Owner) (fs : List Fetch) :
    Keeps u (State.fetch s tile owner fs) := by
  unfold State.fetch
  repeat' first
    | with_reducible assumption
    | with_reducible apply State.describe_keeps
    | refine Keeps.foldl (fun s a h => ?_) ?_ _

theorem State.moveVirt_keeps {u s : State} (h : Keeps u s) (tile : Nat) (write : Bool) (owner : Owner) (t : Trans) (va off n : Nat) (data : List Byte) (mod : Option Nat) :
    Keeps u (State.moveVirt s tile write owner t va off n data mod).1 := by
  unfold State.moveVirt
  repeat' first
    | with_reducible assumption
    | with_reducible apply State.movePhys_keeps
    | with_reducible apply State.describe_keeps
    | refine Keeps.foldl (fun s a h => ?_) ?_ _
    | refine Keeps.foldlP (g := Prod.fst) (fun s a h => ?_) ?_ _

theorem State.strayResponse_keeps {u s : State} (h : Keeps u s) (q : Req) :
    Keeps u (State.strayResponse s q) := by
  unfold State.strayResponse
  repeat' first
    | with_reducible assumption
    | with_reducible apply State.report_keeps

theorem State.badPacket_keeps {u s : State} (h : Keeps u s) (q : Req) :
    Keeps u (State.badPacket s q) := by
  unfold State.badPacket
  repeat' first
    | with_reducible assumption
    | with_reducible apply State.report_keeps

theorem State.writeFault_keeps {u s : State} (h : Keeps u s) (f : HatFault) : Keeps u (s.writeFault f) := by
  unfold State.writeFault
  dsimp only
  have k := State.setReg_keeps (State.movePhys_keeps h f.tile true .faultQueue none
    (s.reg64 0xC018 + 32 * (s.reg 0xC024 % s.fqSize)) 0 32
    (f.record (decide ((s.reg 0xC024 >>> bits (s.reg 0xC020) 5 1) % 2 = 0))) none) 0xC024 ((s.reg 0xC024 + 1) % 2 ^ 32)
  generalize State.setReg _ 0xC024 _ = s1 at k
  exact Keeps.ite (fun _ => k.upd rfl rfl rfl rfl) (fun _ => k.upd rfl rfl rfl rfl)

theorem State.drainFaults_keeps {u : State} (n : Nat) {s : State} (h : Keeps u s) : Keeps u (s.drainFaults n) := by
  induction n generalizing s with
  | zero => exact h
  | succ n ih =>
    unfold State.drainFaults
    split
    · exact h
    · split
      · exact ih (State.writeFault_keeps h _)
      · exact h

theorem State.holdIntake_keeps {u s : State} (h : Keeps u s) (k : Walk) :
    Keeps u (State.holdIntake s k) := by
  unfold State.holdIntake
  repeat' first
    | with_reducible assumption
    | with_reducible apply State.hold_keeps
    | refine Keeps.foldl (fun s a h => ?_) ?_ _
    | refine Keeps.foldlP (g := Prod.fst) (fun s a h => ?_) ?_ _
    | refine Keeps.foldlP (g := Prod.snd) (fun s a h => ?_) ?_ _
    | split

theorem State.openFault_keeps {u s : State} (h : Keeps u s) (k : Walk) (cause level : Nat) :
    Keeps u (State.openFault s k cause level) := by
  unfold State.openFault
  repeat' first
    | with_reducible assumption
    | with_reducible apply State.bump_keeps
    | with_reducible apply State.place_keeps
    | with_reducible apply State.drainFaults_keeps
    | with_reducible apply State.holdIntake_keeps
    | refine Keeps.foldl (fun s a h => ?_) ?_ _
    | refine Keeps.foldlP (g := Prod.fst) (fun s a h => ?_) ?_ _
    | refine Keeps.foldlP (g := Prod.snd) (fun s a h => ?_) ?_ _
    | split
    | dsimp only
    | fail_if_no_progress (with_reducible refine Keeps.upd ?_ rfl rfl rfl rfl)

theorem State.staleResp_keeps {u s : State} (h : Keeps u s) (id : Nat) :
    Keeps u (State.staleResp s id) := by
  unfold State.staleResp
  repeat' first
    | with_reducible assumption
    | with_reducible apply State.report_keeps

theorem State.retryFault_keeps {u s : State} (h : Keeps u s) (id : Nat) :
    Keeps u (State.retryFault s id) := by
  unfold State.retryFault
  repeat' first
    | with_reducible assumption
    | with_reducible apply State.staleResp_keeps
    | refine Keeps.foldl (fun s a h => ?_) ?_ _
    | refine Keeps.foldlP (g := Prod.fst) (fun s a h => ?_) ?_ _
    | refine Keeps.foldlP (g := Prod.snd) (fun s a h => ?_) ?_ _
    | split
    | dsimp only
    | fail_if_no_progress (with_reducible refine Keeps.upd ?_ rfl rfl rfl rfl)

theorem State.failFault_keeps {u s : State} (h : Keeps u s) (id : Nat) :
    Keeps u (State.failFault s id) := by
  unfold State.failFault
  repeat' first
    | with_reducible assumption
    | with_reducible apply State.staleResp_keeps
    | refine Keeps.foldl (fun s a h => ?_) ?_ _
    | refine Keeps.foldlP (g := Prod.fst) (fun s a h => ?_) ?_ _
    | refine Keeps.foldlP (g := Prod.snd) (fun s a h => ?_) ?_ _
    | split
    | dsimp only
    | fail_if_no_progress (with_reducible refine Keeps.upd ?_ rfl rfl rfl rfl)

theorem State.timeoutEntry_keeps {u s : State} (h : Keeps u s) (tile page : Nat) (ws : List Waiter) :
    Keeps u (State.timeoutEntry s tile page ws) := by
  unfold State.timeoutEntry
  repeat' first
    | with_reducible assumption
    | with_reducible apply State.report_keeps

theorem State.faultTimeout_keeps {u s : State} (h : Keeps u s) (tile place : Nat) :
    Keeps u (State.faultTimeout s tile place) := by
  unfold State.faultTimeout
  repeat' first
    | with_reducible assumption
    | with_reducible apply State.place_keeps
    | with_reducible apply State.timeoutEntry_keeps
    | refine Keeps.foldl (fun s a h => ?_) ?_ _
    | refine Keeps.foldlP (g := Prod.fst) (fun s a h => ?_) ?_ _
    | refine Keeps.foldlP (g := Prod.snd) (fun s a h => ?_) ?_ _
    | split
    | dsimp only
    | fail_if_no_progress (with_reducible refine Keeps.upd ?_ rfl rfl rfl rfl)

theorem State.endWalk_keeps {u s : State} (h : Keeps u s) (k : Walk) (h₁ : HostView) :
    Keeps u (State.endWalk s k h₁) := by
  unfold State.endWalk
  repeat' first
    | with_reducible assumption
    | with_reducible apply State.openFault_keeps
    | with_reducible apply State.timeoutEntry_keeps
    | refine Keeps.foldl (fun s a h => ?_) ?_ _
    | refine Keeps.foldlP (g := Prod.fst) (fun s a h => ?_) ?_ _
    | refine Keeps.foldlP (g := Prod.snd) (fun s a h => ?_) ?_ _
    | split
    | dsimp only
    | fail_if_no_progress (with_reducible refine Keeps.upd ?_ rfl rfl rfl rfl)

theorem State.hatWalk_keeps {u s : State} (h : Keeps u s) (tile page : Nat) (h₁ : HostView) :
    Keeps u (State.hatWalk s tile page h₁) := by
  unfold State.hatWalk
  repeat' first
    | with_reducible assumption
    | with_reducible apply State.endWalk_keeps
    | refine Keeps.foldl (fun s a h => ?_) ?_ _

theorem State.invalidate_keeps {u s : State} (h : Keeps u s) (first n : Nat) :
    Keeps u (State.invalidate s first n) := by
  unfold State.invalidate
  repeat' first
    | with_reducible assumption
    | refine Keeps.foldl (fun s a h => ?_) ?_ _
    | refine Keeps.foldlP (g := Prod.fst) (fun s a h => ?_) ?_ _
    | refine Keeps.foldlP (g := Prod.snd) (fun s a h => ?_) ?_ _
    | split
    | dsimp only
    | fail_if_no_progress (with_reducible refine Keeps.upd ?_ rfl rfl rfl rfl)

theorem State.takeInval_keeps {u s : State} (h : Keeps u s) (q : Req) (aux addr : Nat) :
    Keeps u (State.takeInval s q aux addr) := by
  unfold State.takeInval
  repeat' first
    | with_reducible assumption
    | with_reducible apply State.send_keeps
    | with_reducible apply State.invalidate_keeps
    | refine Keeps.foldl (fun s a h => ?_) ?_ _
    | refine Keeps.foldlP (g := Prod.fst) (fun s a h => ?_) ?_ _
    | refine Keeps.foldlP (g := Prod.snd) (fun s a h => ?_) ?_ _
    | split
    | dsimp only
    | fail_if_no_progress (with_reducible refine Keeps.upd ?_ rfl rfl rfl rfl)

theorem State.ackInval_keeps {u s : State} (h : Keeps u s) (q : Req) :
    Keeps u (State.ackInval s q) := by
  unfold State.ackInval
  repeat' first
    | with_reducible assumption
    | with_reducible apply State.bump_keeps
    | with_reducible apply State.send_keeps
    | refine Keeps.foldl (fun s a h => ?_) ?_ _
    | refine Keeps.foldlP (g := Prod.fst) (fun s a h => ?_) ?_ _
    | refine Keeps.foldlP (g := Prod.snd) (fun s a h => ?_) ?_ _
    | split
    | dsimp only
    | fail_if_no_progress (with_reducible refine Keeps.upd ?_ rfl rfl rfl rfl)

theorem State.moduleUp_keeps {u s : State} (h : Keeps u s) (t m : Nat) (degraded : Bool) :
    Keeps u (State.moduleUp s t m degraded) := by
  unfold State.moduleUp
  repeat' first
    | with_reducible assumption
    | refine Keeps.foldl (fun s a h => ?_) ?_ _
    | refine Keeps.foldlP (g := Prod.fst) (fun s a h => ?_) ?_ _
    | refine Keeps.foldlP (g := Prod.snd) (fun s a h => ?_) ?_ _
    | split
    | dsimp only
    | fail_if_no_progress (with_reducible refine Keeps.upd ?_ rfl rfl rfl rfl)

theorem State.reroute_keeps {u s : State} (h : Keeps u s) (t m : Nat) :
    Keeps u (State.reroute s t m) := by
  unfold State.reroute
  repeat' first
    | with_reducible assumption
    | with_reducible apply State.place_keeps
    | refine Keeps.foldl (fun s a h => ?_) ?_ _
    | refine Keeps.foldlP (g := Prod.fst) (fun s a h => ?_) ?_ _
    | refine Keeps.foldlP (g := Prod.snd) (fun s a h => ?_) ?_ _
    | split
    | dsimp only
    | fail_if_no_progress (with_reducible refine Keeps.upd ?_ rfl rfl rfl rfl)

theorem State.moduleDown_keeps {u s : State} (h : Keeps u s) (t m : Nat) :
    Keeps u (State.moduleDown s t m) := by
  unfold State.moduleDown
  repeat' first
    | with_reducible assumption
    | with_reducible apply State.report_keeps
    | with_reducible apply State.block_keeps
    | with_reducible apply State.reroute_keeps
    | refine Keeps.foldl (fun s a h => ?_) ?_ _
    | refine Keeps.foldlP (g := Prod.fst) (fun s a h => ?_) ?_ _
    | refine Keeps.foldlP (g := Prod.snd) (fun s a h => ?_) ?_ _
    | split
    | dsimp only
    | fail_if_no_progress (with_reducible refine Keeps.upd ?_ rfl rfl rfl rfl)

end Sys2Proof.Machine
end

