-- ==== Sys2Proof/Laws/KeepAlloc.lean ====
section
/-! SUPPORT. What the operations of Machine/Alloc.lean keep. -/

namespace Sys2Proof.Machine

theorem State.modJob_keeps {u s : State} (h : Keeps u s) (id : Nat) (f : Job → Job) :
    Keeps u (State.modJob s id f) := by
  unfold State.modJob
  repeat' first
    | with_reducible assumption
    | refine Keeps.foldl (fun s a h => ?_) ?_ _
    | refine Keeps.foldlP (g := Prod.fst) (fun s a h => ?_) ?_ _
    | refine Keeps.foldlP (g := Prod.snd) (fun s a h => ?_) ?_ _
    | split
    | dsimp only
    | fail_if_no_progress (with_reducible refine Keeps.upd ?_ rfl rfl rfl rfl)

theorem State.modItem_keeps {u s : State} (h : Keeps u s) (id i : Nat) (f : Item → Item) :
    Keeps u (State.modItem s id i f) := by
  unfold State.modItem
  repeat' first
    | with_reducible assumption
    | with_reducible apply State.modJob_keeps

theorem State.noteComplete_keeps {u s : State} (h : Keeps u s) (id : Nat) :
    Keeps u (State.noteComplete s id) := by
  unfold State.noteComplete
  repeat' first
    | with_reducible assumption
    | refine Keeps.foldl (fun s a h => ?_) ?_ _
    | refine Keeps.foldlP (g := Prod.fst) (fun s a h => ?_) ?_ _
    | refine Keeps.foldlP (g := Prod.snd) (fun s a h => ?_) ?_ _
    | split
    | dsimp only
    | fail_if_no_progress (with_reducible refine Keeps.upd ?_ rfl rfl rfl rfl)

theorem State.closeWindows_keeps {u s : State} (h : Keeps u s) (id i : Nat) :
    Keeps u (State.closeWindows s id i) := by
  unfold State.closeWindows
  repeat' first
    | with_reducible assumption
    | refine Keeps.foldl (fun s a h => ?_) ?_ _
    | refine Keeps.foldlP (g := Prod.fst) (fun s a h => ?_) ?_ _
    | refine Keeps.foldlP (g := Prod.snd) (fun s a h => ?_) ?_ _
    | split
    | dsimp only
    | fail_if_no_progress (with_reducible refine Keeps.upd ?_ rfl rfl rfl rfl)

theorem State.startEvict_keeps {u s : State} (h : Keeps u s) (f : Nat) (why : MigWhy) (order : Nat) :
    Keeps u (State.startEvict s f why order) := by
  unfold State.startEvict
  repeat' first
    | with_reducible assumption
    | with_reducible apply State.setFrame_keeps
    | with_reducible apply State.uncharge_keeps
    | with_reducible apply State.sendDeltas_keeps
    | refine Keeps.foldl (fun s a h => ?_) ?_ _
    | refine Keeps.foldlP (g := Prod.fst) (fun s a h => ?_) ?_ _
    | refine Keeps.foldlP (g := Prod.snd) (fun s a h => ?_) ?_ _
    | split
    | dsimp only
    | fail_if_no_progress (with_reducible refine Keeps.upd ?_ rfl rfl rfl rfl)

theorem State.takeOrReclaim_keeps {u s : State} (h : Keeps u s) (n t : Nat) : Keeps u (s.takeOrReclaim n t).2 := by
  have free : ∀ {s : State}, Keeps u s → Keeps u (match s.takeFree t with | some r => (some r.1, r.2) | none => (none, s)).2 := by
    intro s h
    split
    · rename_i r e
      exact State.takeFree_keeps h t r e
    · exact h
  induction n generalizing s with
  | zero => exact free h
  | succ n ih =>
    unfold State.takeOrReclaim
    split
    · rename_i r e
      exact State.takeFree_keeps h t r e
    · split
      · exact h
      · rename_i n' _
        have k := ih (State.bump_keeps (State.removeNode_keeps h n') 0xA028 1)
        dsimp only
        split
        · exact State.bumpTile_keeps k _ _ _
        · exact k

theorem State.takeGranted_keeps {u s : State} (h : Keeps u s) (t : Nat) (who : MigWhy) :
    ∀ r, s.takeGranted t who = some r → Keeps u r.2 := by
  intro r e
  obtain ⟨p, _, rfl⟩ := Option.map_eq_some_iff.1 e
  exact h.upd rfl rfl rfl rfl

theorem State.leaveAlloc_keeps {u s : State} (h : Keeps u s) (who : MigWhy) :
    Keeps u (State.leaveAlloc s who) := by
  unfold State.leaveAlloc
  repeat' first
    | with_reducible assumption
    | with_reducible apply State.shelve_keeps
    | refine Keeps.foldl (fun s a h => ?_) ?_ _
    | refine Keeps.foldlP (g := Prod.fst) (fun s a h => ?_) ?_ _
    | refine Keeps.foldlP (g := Prod.snd) (fun s a h => ?_) ?_ _
    | split
    | dsimp only
    | fail_if_no_progress (with_reducible refine Keeps.upd ?_ rfl rfl rfl rfl)

theorem State.joinAlloc_keeps {u s : State} (h : Keeps u s) (t : Nat) (who : MigWhy) (n : Nat) :
    Keeps u (State.joinAlloc s t who n) := by
  unfold State.joinAlloc
  repeat' first
    | with_reducible assumption
    | refine Keeps.foldl (fun s a h => ?_) ?_ _
    | refine Keeps.foldlP (g := Prod.fst) (fun s a h => ?_) ?_ _
    | refine Keeps.foldlP (g := Prod.snd) (fun s a h => ?_) ?_ _
    | split
    | dsimp only
    | fail_if_no_progress (with_reducible refine Keeps.upd ?_ rfl rfl rfl rfl)

theorem State.takeReserve_keeps {u s : State} (h : Keeps u s) (t : Nat) :
    ∀ r, (State.takeReserve s t) = some r → Keeps u r.2 := by
  intro r e
  unfold State.takeReserve at e
  try dsimp only at e
  repeat' split at e
  all_goals cases e
  all_goals repeat' first
    | with_reducible assumption
    | refine Keeps.foldl (fun s a h => ?_) ?_ _
    | refine Keeps.foldlP (g := Prod.fst) (fun s a h => ?_) ?_ _
    | refine Keeps.foldlP (g := Prod.snd) (fun s a h => ?_) ?_ _
    | split
    | dsimp only
    | fail_if_no_progress (with_reducible refine Keeps.upd ?_ rfl rfl rfl rfl)

/-- The state that taking a frame leaves. -/
def Got.state : Got → State
  | .frame _ _ s => s
  | .wait s => s
  | .none s => s

theorem Got.frame_keeps {u s : State} {x : Got} {f : Nat} {b : Bool} (e : x = .frame f b s) (h : Keeps u x.state) :
    Keeps u s := by
  subst e; exact h
theorem Got.wait_keeps {u s : State} {x : Got} (e : x = .wait s) (h : Keeps u x.state) : Keeps u s := by subst e; exact h
theorem Got.none_keeps {u s : State} {x : Got} (e : x = .none s) (h : Keeps u x.state) : Keeps u s := by subst e; exact h

theorem State.allocFrame_keeps {u s : State} (h : Keeps u s) (c : AllocCtl) (t lack : Nat) (who : MigWhy) :
    Keeps u (s.allocFrame c t lack who).state := by
  have k := State.takeOrReclaim_keeps h (s.liveNodes.length + 1) t
  unfold State.allocFrame
  split
  · rename_i r e
    exact State.takeGranted_keeps h t who r e
  · split
    · rename_i e
      exact Keeps.of_snd e k
    · rename_i s' e
      have k' : Keeps u s' := Keeps.of_snd e k
      dsimp only
      split
      · exact State.joinAlloc_keeps k' _ _ _
      · split
        · exact State.joinAlloc_keeps (State.startEvict_keeps k' _ _ _) _ _ _
        · split
          · split
            · rename_i r e'
              exact State.takeReserve_keeps k' t r e'
            · exact k'
          · exact k'

theorem State.giveBack_keeps {u s : State} (h : Keeps u s) (a : Acq) :
    Keeps u (State.giveBack s a) := by
  unfold State.giveBack
  repeat' first
    | with_reducible assumption
    | with_reducible apply State.setFrame_keeps
    | with_reducible apply State.shelve_keeps
    | refine Keeps.foldl (fun s a h => ?_) ?_ _
    | refine Keeps.foldlP (g := Prod.fst) (fun s a h => ?_) ?_ _
    | refine Keeps.foldlP (g := Prod.snd) (fun s a h => ?_) ?_ _
    | split
    | dsimp only
    | fail_if_no_progress (with_reducible refine Keeps.upd ?_ rfl rfl rfl rfl)

theorem State.tryFrames_keeps {u : State} (c : AllocCtl) (who : MigWhy) (ns : List FrameNeed) {s : State} (h : Keeps u s)
    (got : List Acq) (waits : List Nat) (fail : Option Nat) : Keeps u (s.tryFrames c who ns got waits fail).2.2.2 := by
  induction ns generalizing s got waits fail with
  | nil => exact h
  | cons n rest ih =>
    have k := State.allocFrame_keeps h c n.tile (waits.filter (· = n.tile)).length who
    unfold State.tryFrames
    split
    · rename_i f r s' e
      exact ih ((Got.frame_keeps e k).upd rfl rfl rfl rfl) _ _ _
    · rename_i s' e
      exact ih (Got.wait_keeps e k) _ _ _
    · rename_i s' e
      exact ih (Got.none_keeps e k) _ _ _

theorem State.countGrant_keeps {u s : State} (h : Keeps u s) (f : Nat) (reserve : Bool) :
    Keeps u (State.countGrant s f reserve) := by
  unfold State.countGrant
  repeat' first
    | with_reducible assumption
    | with_reducible apply State.bumpTile_keeps
    | refine Keeps.foldl (fun s a h => ?_) ?_ _
    | refine Keeps.foldlP (g := Prod.fst) (fun s a h => ?_) ?_ _
    | refine Keeps.foldlP (g := Prod.snd) (fun s a h => ?_) ?_ _
    | split

/-- The state that acquiring frames leaves. -/
def Frames.state : Frames → State
  | .ok _ s => s
  | .wait s => s
  | .none _ s => s

theorem Frames.ok_keeps {u s : State} {x : Frames} {l : List Acq} (e : x = .ok l s) (h : Keeps u x.state) : Keeps u s := by
  subst e; exact h
theorem Frames.wait_keeps {u s : State} {x : Frames} (e : x = .wait s) (h : Keeps u x.state) : Keeps u s := by
  subst e; exact h
theorem Frames.none_keeps {u s : State} {x : Frames} {t : Nat} (e : x = .none t s) (h : Keeps u x.state) : Keeps u s := by
  subst e; exact h

theorem State.giveAll_keeps {u s : State} (h : Keeps u s) (l : List Acq) :
    Keeps u (l.foldr (fun a s => s.giveBack a) s) := by
  induction l with
  | nil => exact h
  | cons a l ih => exact State.giveBack_keeps ih a

theorem State.acquireFrames_keeps {u s : State} (h : Keeps u s) (c : AllocCtl) (who : MigWhy) (ns : List FrameNeed) :
    Keeps u (s.acquireFrames c who ns).state := by
  have k := State.tryFrames_keeps c who ns h [] [] none
  unfold State.acquireFrames
  dsimp only
  split
  · exact State.leaveAlloc_keeps (State.giveAll_keeps k _) _
  · split
    · exact State.giveAll_keeps k _
    · exact Keeps.foldl (fun s a h => State.countGrant_keeps h _ _) (State.leaveAlloc_keeps k _) _

theorem State.startRecall_keeps {u s : State} (h : Keeps u s) (a : Acq) (k key page : Nat) (why : MigWhy) (order : Nat) :
    Keeps u (State.startRecall s a k key page why order) := by
  unfold State.startRecall
  repeat' first
    | with_reducible assumption
    | with_reducible apply State.setFrame_keeps
    | refine Keeps.foldl (fun s a h => ?_) ?_ _
    | refine Keeps.foldlP (g := Prod.fst) (fun s a h => ?_) ?_ _
    | refine Keeps.foldlP (g := Prod.snd) (fun s a h => ?_) ?_ _
    | split
    | dsimp only
    | fail_if_no_progress (with_reducible refine Keeps.upd ?_ rfl rfl rfl rfl)

theorem State.joinRecall_keeps {u s : State} (h : Keeps u s) (slot : Nat) (w : Nat × Nat) :
    Keeps u (State.joinRecall s slot w) := by
  unfold State.joinRecall
  repeat' first
    | with_reducible assumption
    | refine Keeps.foldl (fun s a h => ?_) ?_ _
    | refine Keeps.foldlP (g := Prod.fst) (fun s a h => ?_) ?_ _
    | refine Keeps.foldlP (g := Prod.snd) (fun s a h => ?_) ?_ _
    | split
    | dsimp only
    | fail_if_no_progress (with_reducible refine Keeps.upd ?_ rfl rfl rfl rfl)

theorem State.wake_keeps {u s : State} (h : Keeps u s) (id i : Nat) :
    Keeps u (State.wake s id i) := by
  unfold State.wake
  repeat' first
    | with_reducible assumption
    | with_reducible apply State.modItem_keeps
    | refine Keeps.foldl (fun s a h => ?_) ?_ _
    | refine Keeps.foldlP (g := Prod.fst) (fun s a h => ?_) ?_ _
    | refine Keeps.foldlP (g := Prod.snd) (fun s a h => ?_) ?_ _
    | split

theorem State.putMig_keeps {u s : State} (h : Keeps u s) (m : Mig) :
    Keeps u (State.putMig s m) := by
  unfold State.putMig
  repeat' first
    | with_reducible assumption
    | refine Keeps.foldl (fun s a h => ?_) ?_ _
    | refine Keeps.foldlP (g := Prod.fst) (fun s a h => ?_) ?_ _
    | refine Keeps.foldlP (g := Prod.snd) (fun s a h => ?_) ?_ _
    | split
    | dsimp only
    | fail_if_no_progress (with_reducible refine Keeps.upd ?_ rfl rfl rfl rfl)

theorem State.dropMig_keeps {u s : State} (h : Keeps u s) (slot : Nat) :
    Keeps u (State.dropMig s slot) := by
  unfold State.dropMig
  repeat' first
    | with_reducible assumption
    | refine Keeps.foldl (fun s a h => ?_) ?_ _
    | refine Keeps.foldlP (g := Prod.fst) (fun s a h => ?_) ?_ _
    | refine Keeps.foldlP (g := Prod.snd) (fun s a h => ?_) ?_ _
    | split
    | dsimp only
    | fail_if_no_progress (with_reducible refine Keeps.upd ?_ rfl rfl rfl rfl)

theorem State.moveMig_keeps {u s : State} (h : Keeps u s) (m : Mig) (off n : Nat) :
    Keeps u (State.moveMig s m off n) := by
  unfold State.moveMig
  repeat' first
    | with_reducible assumption
    | with_reducible apply State.moveVirt_keeps
    | with_reducible apply State.putMig_keeps

theorem State.issueMig_keeps {u s : State} (h : Keeps u s) (m : Mig) : Keeps u (s.issueMig m) := by
  have k : ∀ ns, Keeps u (s.translateAll (frameTile m.frame) (.mig m.slot) ns).state :=
    fun ns => State.translateAll_keeps h _ _ ns
  unfold State.issueMig
  refine Keeps.ite (fun _ => h) (fun _ => ?_)
  cases s.migModule (frameTile m.frame) with
  | none => exact h
  | some mo =>
    have k' := k (needs m.host 73728 (if m.evict then 1 else 0) true)
    revert k'
    generalize s.translateAll (frameTile m.frame) (.mig m.slot) (needs m.host 73728 (if m.evict then 1 else 0) true) = x
    intro k'
    cases x with
    | ok tr s' => exact State.moveMig_keeps k' _ _ _
    | wait s' => exact k'
    | failed e s' => exact State.putMig_keeps k' _

theorem State.pump_keeps {u s : State} (h : Keeps u s) :
    Keeps u (State.pump s) := by
  unfold State.pump
  repeat' first
    | with_reducible assumption
    | with_reducible apply State.issueMig_keeps
    | refine Keeps.foldl (fun s a h => ?_) ?_ _

end Sys2Proof.Machine
end

