-- ==== Sys2Proof/Laws/KeepIntake.lean ====
section
/-! SUPPORT. What the operations of Machine/Intake.lean keep. -/

namespace Sys2Proof.Machine

theorem State.consume_keeps {u s : State} (h : Keeps u s) (r : Nat) :
    Keeps u (State.consume s r) := by
  unfold State.consume
  repeat' first
    | with_reducible assumption
    | with_reducible apply State.setReg_keeps
    | with_reducible apply State.setRing_keeps
    | refine Keeps.foldl (fun s a h => ?_) ?_ _
    | refine Keeps.foldlP (g := Prod.fst) (fun s a h => ?_) ?_ _
    | refine Keeps.foldlP (g := Prod.snd) (fun s a h => ?_) ?_ _
    | split
    | dsimp only
    | fail_if_no_progress (with_reducible refine Keeps.upd ?_ rfl rfl rfl rfl)

theorem State.addJob_keeps {u s : State} (h : Keeps u s) (j : Job) :
    Keeps u (State.addJob s j) := by
  unfold State.addJob
  repeat' first
    | with_reducible assumption
    | refine Keeps.foldl (fun s a h => ?_) ?_ _
    | refine Keeps.foldlP (g := Prod.fst) (fun s a h => ?_) ?_ _
    | refine Keeps.foldlP (g := Prod.snd) (fun s a h => ?_) ?_ _
    | split
    | dsimp only
    | fail_if_no_progress (with_reducible refine Keeps.upd ?_ rfl rfl rfl rfl)

theorem State.refuseDesc_keeps {u s : State} (h : Keeps u s) (r : Nat) (desc : List Nat) (status : Nat) :
    Keeps u (State.refuseDesc s r desc status) := by
  unfold State.refuseDesc
  repeat' first
    | with_reducible assumption
    | with_reducible apply State.noteComplete_keeps
    | with_reducible apply State.consume_keeps
    | with_reducible apply State.addJob_keeps

theorem State.acceptDesc_keeps {u s : State} (h : Keeps u s) (r : Nat) (j : Job) :
    Keeps u (State.acceptDesc s r j) := by
  unfold State.acceptDesc
  repeat' first
    | with_reducible assumption
    | with_reducible apply State.setReg_keeps
    | with_reducible apply State.consume_keeps
    | with_reducible apply State.addJob_keeps
    | refine Keeps.foldl (fun s a h => ?_) ?_ _
    | refine Keeps.foldlP (g := Prod.fst) (fun s a h => ?_) ?_ _
    | refine Keeps.foldlP (g := Prod.snd) (fun s a h => ?_) ?_ _
    | split
    | dsimp only
    | fail_if_no_progress (with_reducible refine Keeps.upd ?_ rfl rfl rfl rfl)

theorem State.intakeRead_keeps {u s : State} (h : Keeps u s) (r va n : Nat) (hv : HostView) :
    Keeps u (State.intakeRead s r va n hv).1 := by
  have k := State.translateAll_keeps h s.errs.anchor (.intake r) (needs va n 0)
  unfold State.intakeRead
  generalize State.translateAll s s.errs.anchor (.intake r) (needs va n 0) = x at k
  cases x <;> exact k

theorem State.decide303_keeps {u s : State} (h : Keeps u s) (r : Nat) (j : Job) :
    Keeps u (State.decide303 s r j) := by
  unfold State.decide303
  repeat' first
    | with_reducible assumption
    | with_reducible apply State.hold_keeps
    | with_reducible apply State.refuseDesc_keeps
    | with_reducible apply State.acceptDesc_keeps
    | refine Keeps.foldl (fun s a h => ?_) ?_ _
    | refine Keeps.foldlP (g := Prod.fst) (fun s a h => ?_) ?_ _
    | refine Keeps.foldlP (g := Prod.snd) (fun s a h => ?_) ?_ _
    | split
    | dsimp only

theorem State.intakeBatch_keeps {u s : State} (h : Keeps u s) (r : Nat) (j : Job) (hv : HostView) :
    Keeps u (State.intakeBatch s r j hv) := by
  unfold State.intakeBatch
  repeat' first
    | with_reducible assumption
    | with_reducible apply State.setRing_keeps
    | with_reducible apply State.refuseDesc_keeps
    | with_reducible apply State.intakeRead_keeps
    | with_reducible apply State.decide303_keeps
    | refine Keeps.foldl (fun s a h => ?_) ?_ _
    | refine Keeps.foldlP (g := Prod.fst) (fun s a h => ?_) ?_ _
    | refine Keeps.foldlP (g := Prod.snd) (fun s a h => ?_) ?_ _
    | split
    | dsimp only
    | fail_if_no_progress (with_reducible refine Keeps.upd ?_ rfl rfl rfl rfl)
    | with_reducible refine Keeps.of_fst (by with_reducible assumption) ?_

theorem State.intakeDesc_keeps {u s : State} (h : Keeps u s) (r : Nat) (desc : List Nat) (hv : HostView) :
    Keeps u (State.intakeDesc s r desc hv) := by
  unfold State.intakeDesc
  repeat' first
    | with_reducible assumption
    | with_reducible apply State.refuseDesc_keeps
    | with_reducible apply State.decide303_keeps
    | with_reducible apply State.intakeBatch_keeps
    | refine Keeps.foldl (fun s a h => ?_) ?_ _
    | refine Keeps.foldlP (g := Prod.fst) (fun s a h => ?_) ?_ _
    | refine Keeps.foldlP (g := Prod.snd) (fun s a h => ?_) ?_ _
    | split
    | dsimp only

theorem State.intakeRing_keeps {u s : State} (h : Keeps u s) (r : Nat) (hv : HostView) :
    Keeps u (State.intakeRing s r hv) := by
  unfold State.intakeRing
  repeat' first
    | with_reducible assumption
    | with_reducible apply State.hold_keeps
    | with_reducible apply State.refuseDesc_keeps
    | with_reducible apply State.intakeRead_keeps
    | with_reducible apply State.intakeDesc_keeps
    | refine Keeps.foldl (fun s a h => ?_) ?_ _
    | refine Keeps.foldlP (g := Prod.fst) (fun s a h => ?_) ?_ _
    | refine Keeps.foldlP (g := Prod.snd) (fun s a h => ?_) ?_ _
    | split
    | dsimp only
    | fail_if_no_progress (with_reducible refine Keeps.upd ?_ rfl rfl rfl rfl)
    | with_reducible refine Keeps.of_fst (by with_reducible assumption) ?_

theorem State.intake_keeps {u s : State} (h : Keeps u s) (hv : HostView) :
    Keeps u (State.intake s hv) := by
  unfold State.intake
  repeat' first
    | with_reducible assumption
    | with_reducible apply State.intakeRing_keeps
    | refine Keeps.foldl (fun s a h => ?_) ?_ _
    | refine Keeps.foldlP (g := Prod.fst) (fun s a h => ?_) ?_ _
    | refine Keeps.foldlP (g := Prod.snd) (fun s a h => ?_) ?_ _
    | split
    | dsimp only
    | fail_if_no_progress (with_reducible refine Keeps.upd ?_ rfl rfl rfl rfl)

end Sys2Proof.Machine
end

