-- ==== Sys2Proof/Laws/KeepMedia.lean ====
section
/-! SUPPORT. What the operations of Machine/Media.lean keep. -/

namespace Sys2Proof.Machine

theorem State.finish_keeps {u s : State} (h : Keeps u s) (ref : Nat) :
    Keeps u (State.finish s ref) := by
  unfold State.finish
  repeat' first
    | with_reducible assumption
    | refine Keeps.foldl (fun s a h => ?_) ?_ _
    | refine Keeps.foldlP (g := Prod.fst) (fun s a h => ?_) ?_ _
    | refine Keeps.foldlP (g := Prod.snd) (fun s a h => ?_) ?_ _
    | split
    | dsimp only
    | fail_if_no_progress (with_reducible refine Keeps.upd ?_ rfl rfl rfl rfl)

theorem State.failContext_keeps {u s : State} (h : Keeps u s) (row page : Nat) :
    Keeps u (State.failContext s row page) := by
  unfold State.failContext
  repeat' first
    | with_reducible assumption
    | with_reducible apply State.setRow_keeps
    | refine Keeps.foldl (fun s a h => ?_) ?_ _
    | refine Keeps.foldlP (g := Prod.fst) (fun s a h => ?_) ?_ _
    | refine Keeps.foldlP (g := Prod.snd) (fun s a h => ?_) ?_ _
    | split
    | dsimp only

theorem State.bandFails_keeps {u s : State} (h : Keeps u s) (t b : Nat) :
    Keeps u (State.bandFails s t b) := by
  unfold State.bandFails
  repeat' first
    | with_reducible assumption
    | with_reducible apply State.report_keeps
    | with_reducible apply State.sendGroup_keeps
    | with_reducible apply State.failContext_keeps
    | refine Keeps.foldl (fun s a h => ?_) ?_ _
    | refine Keeps.foldlP (g := Prod.fst) (fun s a h => ?_) ?_ _
    | refine Keeps.foldlP (g := Prod.snd) (fun s a h => ?_) ?_ _
    | split
    | dsimp only
    | fail_if_no_progress (with_reducible refine Keeps.upd ?_ rfl rfl rfl rfl)

theorem State.stopItems_keeps {u s : State} (h : Keeps u s) (t : Nat) :
    Keeps u (State.stopItems s t) := by
  unfold State.stopItems
  repeat' first
    | with_reducible assumption
    | refine Keeps.foldl (fun s a h => ?_) ?_ _
    | refine Keeps.foldlP (g := Prod.fst) (fun s a h => ?_) ?_ _
    | refine Keeps.foldlP (g := Prod.snd) (fun s a h => ?_) ?_ _
    | split
    | dsimp only
    | fail_if_no_progress (with_reducible refine Keeps.upd ?_ rfl rfl rfl rfl)

theorem State.gate_keeps {u s : State} (h : Keeps u s) (t : Nat) :
    Keeps u (State.gate s t) := by
  unfold State.gate
  repeat' first
    | with_reducible assumption
    | refine Keeps.foldl (fun s a h => ?_) ?_ _
    | refine Keeps.foldlP (g := Prod.fst) (fun s a h => ?_) ?_ _
    | refine Keeps.foldlP (g := Prod.snd) (fun s a h => ?_) ?_ _
    | split
    | dsimp only
    | fail_if_no_progress (with_reducible refine Keeps.upd ?_ rfl rfl rfl rfl)

theorem State.buildSpare_keeps {u s : State} (h : Keeps u s) :
    Keeps u (State.buildSpare s) := by
  unfold State.buildSpare
  repeat' first
    | with_reducible assumption
    | refine Keeps.foldl (fun s a h => ?_) ?_ _
    | refine Keeps.foldlP (g := Prod.fst) (fun s a h => ?_) ?_ _
    | refine Keeps.foldlP (g := Prod.snd) (fun s a h => ?_) ?_ _
    | split
    | dsimp only
    | fail_if_no_progress (with_reducible refine Keeps.upd ?_ rfl rfl rfl rfl)

theorem State.anchorAfter_keeps {u s : State} (h : Keeps u s) (t : Nat) :
    Keeps u (State.anchorAfter s t) := by
  unfold State.anchorAfter
  repeat' first
    | with_reducible assumption
    | with_reducible apply State.block_keeps
    | with_reducible apply State.buildSpare_keeps
    | refine Keeps.foldl (fun s a h => ?_) ?_ _
    | refine Keeps.foldlP (g := Prod.fst) (fun s a h => ?_) ?_ _
    | refine Keeps.foldlP (g := Prod.snd) (fun s a h => ?_) ?_ _
    | split
    | dsimp only
    | fail_if_no_progress (with_reducible refine Keeps.upd ?_ rfl rfl rfl rfl)

theorem State.quarantine_keeps {u s : State} (h : Keeps u s) (t : Nat) :
    Keeps u (State.quarantine s t) := by
  unfold State.quarantine
  repeat' first
    | with_reducible assumption
    | with_reducible apply State.report_keeps
    | with_reducible apply State.block_keeps
    | with_reducible apply State.bandFails_keeps
    | with_reducible apply State.stopItems_keeps
    | with_reducible apply State.gate_keeps
    | with_reducible apply State.anchorAfter_keeps
    | refine Keeps.foldl (fun s a h => ?_) ?_ _
    | refine Keeps.foldlP (g := Prod.fst) (fun s a h => ?_) ?_ _
    | refine Keeps.foldlP (g := Prod.snd) (fun s a h => ?_) ?_ _
    | split
    | dsimp only
    | fail_if_no_progress (with_reducible refine Keeps.upd ?_ rfl rfl rfl rfl)

theorem State.tileFault_keeps {u s : State} (h : Keeps u s) (e : LogEntry) :
    Keeps u (State.tileFault s e) := by
  unfold State.tileFault
  repeat' first
    | with_reducible assumption
    | with_reducible apply State.report_keeps
    | with_reducible apply State.block_keeps
    | with_reducible apply State.quarantine_keeps
    | refine Keeps.foldl (fun s a h => ?_) ?_ _
    | refine Keeps.foldlP (g := Prod.fst) (fun s a h => ?_) ?_ _
    | refine Keeps.foldlP (g := Prod.snd) (fun s a h => ?_) ?_ _
    | split

theorem State.raise_keeps {u s : State} (h : Keeps u s) (e : LogEntry) (ref : Option Nat) :
    Keeps u (State.raise s e ref) := by
  unfold State.raise
  dsimp only
  split
  · refine State.quarantine_keeps ?_ _
    refine (State.report_keeps h _ _).trans (.by_eq rfl rfl fun b => ⟨?_, b.2⟩)
    simpa [markEscalated] using b.1
  · split
    · exact State.report_keeps h _ _
    · exact (State.report_keeps h _ _).upd rfl rfl rfl rfl

theorem State.losePage_keeps {u s : State} (h : Keeps u s) (row stream page tile frame : Nat) :
    Keeps u (State.losePage s row stream page tile frame) := by
  unfold State.losePage
  repeat' first
    | with_reducible assumption
    | with_reducible apply State.report_keeps
    | with_reducible apply State.failContext_keeps

theorem State.loseFrame_keeps {u s : State} (h : Keeps u s) (f : Nat) :
    Keeps u (State.loseFrame s f) := by
  unfold State.loseFrame
  repeat' first
    | with_reducible assumption
    | with_reducible apply State.removeOrWait_keeps
    | with_reducible apply State.losePage_keeps
    | refine Keeps.foldl (fun s a h => ?_) ?_ _

theorem State.unshelve_keeps {u s : State} (h : Keeps u s) (f : Nat) :
    Keeps u (State.unshelve s f) := by
  unfold State.unshelve
  repeat' first
    | with_reducible assumption
    | refine Keeps.foldl (fun s a h => ?_) ?_ _
    | refine Keeps.foldlP (g := Prod.fst) (fun s a h => ?_) ?_ _
    | refine Keeps.foldlP (g := Prod.snd) (fun s a h => ?_) ?_ _
    | split
    | dsimp only
    | fail_if_no_progress (with_reducible refine Keeps.upd ?_ rfl rfl rfl rfl)

theorem State.makeBad_keeps {u s : State} (h : Keeps u s) (f : Nat) :
    Keeps u (State.makeBad s f) := by
  unfold State.makeBad
  repeat' first
    | with_reducible assumption
    | with_reducible apply State.setFrame_keeps
    | with_reducible apply State.chargeFrame_keeps
    | refine Keeps.foldl (fun s a h => ?_) ?_ _
    | refine Keeps.foldlP (g := Prod.fst) (fun s a h => ?_) ?_ _
    | refine Keeps.foldlP (g := Prod.snd) (fun s a h => ?_) ?_ _
    | split
    | dsimp only
    | fail_if_no_progress (with_reducible refine Keeps.upd ?_ rfl rfl rfl rfl)

theorem State.askRefetch_keeps {u s : State} (h : Keeps u s) (f : Nat) :
    Keeps u (State.askRefetch s f) := by
  unfold State.askRefetch
  repeat' first
    | with_reducible assumption
    | with_reducible apply State.ledgerSend_keeps
    | refine Keeps.foldl (fun s a h => ?_) ?_ _
    | refine Keeps.foldlP (g := Prod.fst) (fun s a h => ?_) ?_ _
    | refine Keeps.foldlP (g := Prod.snd) (fun s a h => ?_) ?_ _
    | split

theorem State.takeAny_keeps {u s : State} (h : Keeps u s) (t : Nat) : ∀ r, s.takeAny t = some r → Keeps u r.2.2 := by
  have k := State.takeOrReclaim_keeps h (s.liveNodes.length + 1) t
  intro r e
  unfold State.takeAny at e
  split at e
  · rename_i e'
    cases e
    dsimp only
    exact State.countGrant_keeps (Keeps.of_snd e' k) _ _
  · rename_i e'
    obtain ⟨x, e', rfl⟩ := Option.map_eq_some_iff.1 e
    dsimp only
    exact State.countGrant_keeps (State.takeReserve_keeps (Keeps.of_snd ‹_› k) t x e') _ _

theorem State.refetchOrLose_keeps {u s : State} (h : Keeps u s) (f : Nat) : Keeps u (s.refetchOrLose f).1 := by
  unfold State.refetchOrLose
  split
  · rename_i g r s' e
    split at e
    · have k : Keeps u s' := State.takeAny_keeps h _ _ e
      dsimp only
      apply State.askRefetch_keeps
      refine Keeps.upd (State.setFrame_keeps k _ _) rfl rfl rfl rfl
    · cases e
  · exact State.loseFrame_keeps h f

theorem State.restartMove_keeps {u s : State} (h : Keeps u s) (f : Nat) :
    Keeps u (State.restartMove s f) := by
  unfold State.restartMove
  repeat' first
    | with_reducible assumption
    | with_reducible apply State.setFrame_keeps
    | with_reducible apply State.chargeFrame_keeps
    | with_reducible apply State.uncharge_keeps
    | with_reducible apply State.putMig_keeps
    | with_reducible apply State.dropMig_keeps
    | with_reducible apply State.makeBad_keeps
    | with_reducible refine State.takeAny_keeps ?_ _
    | with_reducible apply State.refetchOrLose_keeps
    | refine Keeps.foldl (fun s a h => ?_) ?_ _
    | refine Keeps.foldlP (g := Prod.fst) (fun s a h => ?_) ?_ _
    | refine Keeps.foldlP (g := Prod.snd) (fun s a h => ?_) ?_ _
    | split
    | dsimp only
    | fail_if_no_progress (with_reducible refine Keeps.upd ?_ rfl rfl rfl rfl)
    | with_reducible refine Keeps.of_fst (by with_reducible assumption) ?_
    | with_reducible refine Keeps.of_snd (by with_reducible assumption) ?_
    | with_reducible refine Keeps.some_one (by with_reducible assumption) ?_
    | with_reducible refine Keeps.some_two (by with_reducible assumption) ?_
    | with_reducible refine Keeps.some_snd (by with_reducible assumption) ?_
    | with_reducible refine Keeps.some_third (by with_reducible assumption) ?_

theorem State.abandonEvictions_keeps {u s : State} (h : Keeps u s) (f : Nat) :
    Keeps u (State.abandonEvictions s f) := by
  unfold State.abandonEvictions
  repeat' first
    | with_reducible assumption
    | refine Keeps.foldl (fun s a h => ?_) ?_ _
    | refine Keeps.foldlP (g := Prod.fst) (fun s a h => ?_) ?_ _
    | refine Keeps.foldlP (g := Prod.snd) (fun s a h => ?_) ?_ _
    | split
    | dsimp only
    | fail_if_no_progress (with_reducible refine Keeps.upd ?_ rfl rfl rfl rfl)

theorem State.endMirror_keeps {u s : State} (h : Keeps u s) (f : Nat) :
    Keeps u (State.endMirror s f) := by
  unfold State.endMirror
  repeat' first
    | with_reducible assumption
    | with_reducible apply State.tell_keeps
    | with_reducible apply State.setFrame_keeps
    | with_reducible apply State.dropMig_keeps
    | refine Keeps.foldl (fun s a h => ?_) ?_ _
    | refine Keeps.foldlP (g := Prod.fst) (fun s a h => ?_) ?_ _
    | refine Keeps.foldlP (g := Prod.snd) (fun s a h => ?_) ?_ _
    | split

theorem State.badOutcome_keeps {u s : State} (h : Keeps u s) (f : Nat) :
    Keeps u (State.badOutcome s f).2 := by
  unfold State.badOutcome
  repeat' first
    | with_reducible assumption
    | with_reducible apply State.setFrame_keeps
    | with_reducible apply State.chargeFrame_keeps
    | with_reducible apply State.unshelve_keeps
    | with_reducible apply State.makeBad_keeps
    | with_reducible apply State.refetchOrLose_keeps
    | with_reducible apply State.restartMove_keeps
    | with_reducible apply State.abandonEvictions_keeps
    | with_reducible apply State.endMirror_keeps
    | refine Keeps.foldl (fun s a h => ?_) ?_ _
    | refine Keeps.foldlP (g := Prod.fst) (fun s a h => ?_) ?_ _
    | refine Keeps.foldlP (g := Prod.snd) (fun s a h => ?_) ?_ _
    | split
    | dsimp only
    | fail_if_no_progress (with_reducible refine Keeps.upd ?_ rfl rfl rfl rfl)

theorem State.frameBad_keeps {u s : State} (h : Keeps u s) (f : Nat) (unit tile index addr : Nat) :
    Keeps u (State.frameBad s f unit tile index addr) := by
  unfold State.frameBad
  repeat' first
    | with_reducible assumption
    | with_reducible apply State.sendGroup_keeps
    | with_reducible apply State.raise_keeps
    | with_reducible apply State.badOutcome_keeps

theorem State.leaveRounds_keeps {u s : State} (h : Keeps u s) (id k : Nat) :
    Keeps u (State.leaveRounds s id k) := by
  unfold State.leaveRounds
  repeat' first
    | with_reducible assumption
    | refine Keeps.foldl (fun s a h => ?_) ?_ _
    | refine Keeps.foldlP (g := Prod.fst) (fun s a h => ?_) ?_ _
    | refine Keeps.foldlP (g := Prod.snd) (fun s a h => ?_) ?_ _
    | split
    | dsimp only
    | fail_if_no_progress (with_reducible refine Keeps.upd ?_ rfl rfl rfl rfl)

theorem State.setApp_keeps {u s : State} (h : Keeps u s) (id entry v : Nat) :
    Keeps u (State.setApp s id entry v) := by
  unfold State.setApp
  repeat' first
    | with_reducible assumption
    | with_reducible apply State.modJob_keeps

theorem State.unstage_keeps {u s : State} (h : Keeps u s) (id entry : Nat) :
    Keeps u (State.unstage s id entry) := by
  unfold State.unstage
  repeat' first
    | with_reducible assumption
    | with_reducible apply State.setApp_keeps
    | refine Keeps.foldl (fun s a h => ?_) ?_ _
    | refine Keeps.foldlP (g := Prod.fst) (fun s a h => ?_) ?_ _
    | refine Keeps.foldlP (g := Prod.snd) (fun s a h => ?_) ?_ _
    | split

theorem State.retryItem_keeps {u s : State} (h : Keeps u s) (id k : Nat) (t : Nat) :
    Keeps u (State.retryItem s id k t) := by
  unfold State.retryItem
  repeat' first
    | with_reducible assumption
    | with_reducible apply State.bumpTile_keeps
    | with_reducible apply State.report_keeps
    | with_reducible apply State.modItem_keeps
    | with_reducible apply State.closeWindows_keeps
    | with_reducible apply State.leaveRounds_keeps
    | with_reducible apply State.unstage_keeps
    | refine Keeps.foldl (fun s a h => ?_) ?_ _
    | refine Keeps.foldlP (g := Prod.fst) (fun s a h => ?_) ?_ _
    | refine Keeps.foldlP (g := Prod.snd) (fun s a h => ?_) ?_ _
    | split

theorem State.setHealth_keeps {u s : State} (h : Keeps u s) (t : Nat) (h₁ : TileHealth) :
    Keeps u (State.setHealth s t h₁) := by
  unfold State.setHealth
  repeat' first
    | with_reducible assumption
    | refine Keeps.foldl (fun s a h => ?_) ?_ _
    | refine Keeps.foldlP (g := Prod.fst) (fun s a h => ?_) ?_ _
    | refine Keeps.foldlP (g := Prod.snd) (fun s a h => ?_) ?_ _
    | split
    | dsimp only
    | fail_if_no_progress (with_reducible refine Keeps.upd ?_ rfl rfl rfl rfl)

theorem State.clockSwitch_keeps {u s : State} (h : Keeps u s) (t : Nat) :
    Keeps u (State.clockSwitch s t) := by
  unfold State.clockSwitch
  repeat' first
    | with_reducible assumption
    | with_reducible apply State.bumpTile_keeps
    | with_reducible apply State.setHealth_keeps
    | refine Keeps.foldl (fun s a h => ?_) ?_ _
    | refine Keeps.foldlP (g := Prod.fst) (fun s a h => ?_) ?_ _
    | refine Keeps.foldlP (g := Prod.snd) (fun s a h => ?_) ?_ _
    | split
    | dsimp only

end Sys2Proof.Machine
end

