-- ==== Sys2Proof/Laws/KeepAppend.lean ====
section
/-! SUPPORT. What the operations of Machine/Append.lean keep. -/

namespace Sys2Proof.Machine

theorem State.takeAllBlocks_keeps {u s : State} (h : Keeps u s) (need got : List (Nat × Nat)) :
    ∀ r, s.takeAllBlocks need got = .ok r → Keeps u r.2 := by
  induction need generalizing s got with
  | nil => intro r e; cases e; exact h
  | cons p l ih =>
    intro r e
    unfold State.takeAllBlocks at e
    split at e
    · rename_i q s' e'
      exact ih (State.takeBlocks_keeps h _ _ _ e') _ r e
    · cases e

theorem State.markTarget_keeps {u s : State} (h : Keeps u s) (cls : Nat) (a : Acq) :
    Keeps u (State.markTarget s cls a) := by
  unfold State.markTarget
  repeat' first
    | with_reducible assumption
    | with_reducible apply State.setFrame_keeps
    | refine Keeps.foldl (fun s a h => ?_) ?_ _
    | refine Keeps.foldlP (g := Prod.fst) (fun s a h => ?_) ?_ _
    | refine Keeps.foldlP (g := Prod.snd) (fun s a h => ?_) ?_ _
    | split

theorem State.dropAcq_keeps {u s : State} (h : Keeps u s) (a : Acq) :
    Keeps u (State.dropAcq s a) := by
  unfold State.dropAcq
  repeat' first
    | with_reducible assumption
    | with_reducible apply State.freeFrame_keeps
    | with_reducible apply State.giveBack_keeps
    | refine Keeps.foldl (fun s a h => ?_) ?_ _
    | refine Keeps.foldlP (g := Prod.fst) (fun s a h => ?_) ?_ _
    | refine Keeps.foldlP (g := Prod.snd) (fun s a h => ?_) ?_ _
    | split
    | dsimp only
    | fail_if_no_progress (with_reducible refine Keeps.upd ?_ rfl rfl rfl rfl)

theorem State.releaseItem_keeps {u s : State} (h : Keeps u s) (id k : Nat) :
    Keeps u (State.releaseItem s id k) := by
  unfold State.releaseItem
  repeat' first
    | with_reducible assumption
    | with_reducible apply State.charge_keeps
    | with_reducible apply State.discharge_keeps
    | with_reducible apply State.unpinFrame_keeps
    | with_reducible apply State.giveBlock_keeps
    | with_reducible apply State.modItem_keeps
    | with_reducible apply State.closeWindows_keeps
    | with_reducible apply State.leaveAlloc_keeps
    | with_reducible apply State.dropAcq_keeps
    | refine Keeps.foldl (fun s a h => ?_) ?_ _
    | refine Keeps.foldlP (g := Prod.fst) (fun s a h => ?_) ?_ _
    | refine Keeps.foldlP (g := Prod.snd) (fun s a h => ?_) ?_ _
    | split
    | dsimp only
    | fail_if_no_progress (with_reducible refine Keeps.upd ?_ rfl rfl rfl rfl)

theorem State.failItem_keeps {u s : State} (h : Keeps u s) (id k status : Nat) :
    Keeps u (State.failItem s id k status) := by
  unfold State.failItem
  repeat' first
    | with_reducible assumption
    | with_reducible apply State.modItem_keeps
    | with_reducible apply State.releaseItem_keeps

theorem State.sealFrame_keeps {u s : State} (h : Keeps u s) (r st f : Nat) :
    Keeps u (State.sealFrame s r st f) := by
  unfold State.sealFrame
  repeat' first
    | with_reducible assumption
    | with_reducible apply State.bumpTile_keeps
    | with_reducible apply State.setFrame_keeps
    | with_reducible apply State.enterNode_keeps
    | refine Keeps.foldl (fun s a h => ?_) ?_ _
    | refine Keeps.foldlP (g := Prod.fst) (fun s a h => ?_) ?_ _
    | refine Keeps.foldlP (g := Prod.snd) (fun s a h => ?_) ?_ _
    | split
    | dsimp only

theorem State.writePage_keeps {u s : State} (h : Keeps u s) (r : Nat) (p : StagedPage) (f : Nat) (x : Frame) :
    Keeps u (State.writePage s r p f x) := by
  unfold State.writePage
  repeat' first
    | with_reducible assumption
    | with_reducible apply State.bumpTile_keeps
    | with_reducible apply State.setFrame_keeps
    | with_reducible apply State.sealFrame_keeps
    | refine Keeps.foldl (fun s a h => ?_) ?_ _
    | refine Keeps.foldlP (g := Prod.fst) (fun s a h => ?_) ?_ _
    | refine Keeps.foldlP (g := Prod.snd) (fun s a h => ?_) ?_ _
    | split
    | dsimp only

theorem State.useAcq_keeps {u s : State} (h : Keeps u s) (id k : Nat) (a : Acq) :
    Keeps u (State.useAcq s id k a) := by
  unfold State.useAcq
  repeat' first
    | with_reducible assumption
    | with_reducible apply State.charge_keeps
    | with_reducible apply State.modItem_keeps
    | refine Keeps.foldl (fun s a h => ?_) ?_ _
    | refine Keeps.foldlP (g := Prod.fst) (fun s a h => ?_) ?_ _
    | refine Keeps.foldlP (g := Prod.snd) (fun s a h => ?_) ?_ _
    | split
    | dsimp only
    | fail_if_no_progress (with_reducible refine Keeps.upd ?_ rfl rfl rfl rfl)

theorem State.placePage_keeps {u s : State} (h : Keeps u s) (id k r cls : Nat) (p : StagedPage) (a : Acq) :
    Keeps u (State.placePage s id k r cls p a) := by
  unfold State.placePage
  repeat' first
    | with_reducible assumption
    | with_reducible apply State.setPage_keeps
    | with_reducible apply State.writePage_keeps
    | with_reducible apply State.useAcq_keeps

theorem State.leaveOld_keeps {u s : State} (h : Keeps u s) (id k st p f : Nat) :
    Keeps u (State.leaveOld s id k st p f) := by
  unfold State.leaveOld
  repeat' first
    | with_reducible assumption
    | with_reducible apply State.unpinFrame_keeps
    | with_reducible apply State.modItem_keeps
    | refine Keeps.foldl (fun s a h => ?_) ?_ _
    | refine Keeps.foldlP (g := Prod.fst) (fun s a h => ?_) ?_ _
    | refine Keeps.foldlP (g := Prod.snd) (fun s a h => ?_) ?_ _
    | split

theorem State.commitPage_keeps {u s : State} (h : Keeps u s) (id k r cls : Nat) (p : StagedPage) :
    Keeps u (State.commitPage s id k r cls p) := by
  unfold State.commitPage
  repeat' first
    | with_reducible assumption
    | with_reducible apply State.unrefFrame_keeps
    | with_reducible apply State.setDir_keeps
    | with_reducible apply State.growMap_keeps
    | with_reducible apply State.modItem_keeps
    | with_reducible apply State.writePage_keeps
    | with_reducible apply State.placePage_keeps
    | with_reducible apply State.leaveOld_keeps
    | refine Keeps.foldl (fun s a h => ?_) ?_ _
    | refine Keeps.foldlP (g := Prod.fst) (fun s a h => ?_) ?_ _
    | refine Keeps.foldlP (g := Prod.snd) (fun s a h => ?_) ?_ _
    | split
    | dsimp only

theorem State.commitAppend_keeps {u s : State} (h : Keeps u s) (id k r : Nat) (ps : List StagedPage) :
    Keeps u (State.commitAppend s id k r ps) := by
  unfold State.commitAppend
  repeat' first
    | with_reducible assumption
    | with_reducible apply State.charge_keeps
    | with_reducible apply State.discharge_keeps
    | with_reducible apply State.giveBlock_keeps
    | with_reducible apply State.modItem_keeps
    | with_reducible apply State.dropAcq_keeps
    | with_reducible apply State.commitPage_keeps
    | refine Keeps.foldl (fun s a h => ?_) ?_ _
    | refine Keeps.foldlP (g := Prod.fst) (fun s a h => ?_) ?_ _
    | refine Keeps.foldlP (g := Prod.snd) (fun s a h => ?_) ?_ _
    | split
    | dsimp only

end Sys2Proof.Machine
end

