-- ==== Sys2Proof/Laws/KeepMigrate.lean ====
section
/-! SUPPORT. What the operations of Machine/Migrate.lean keep. -/

namespace Sys2Proof.Machine

theorem State.tellEnd_keeps {u s : State} (h : Keeps u s) (m : Mig) (done : Bool) :
    Keeps u (State.tellEnd s m done) := by
  unfold State.tellEnd
  repeat' first
    | with_reducible assumption
    | with_reducible apply State.modJob_keeps
    | with_reducible apply State.wake_keeps
    | refine Keeps.foldl (fun s a h => ?_) ?_ _
    | refine Keeps.foldlP (g := Prod.fst) (fun s a h => ?_) ?_ _
    | refine Keeps.foldlP (g := Prod.snd) (fun s a h => ?_) ?_ _
    | split

theorem State.unpinMirror_keeps {u s : State} (h : Keeps u s) (f : Nat) :
    Keeps u (State.unpinMirror s f) := by
  unfold State.unpinMirror
  repeat' first
    | with_reducible assumption
    | with_reducible apply State.setFrame_keeps

theorem State.mirrorEvicted_keeps {u s : State} (h : Keeps u s) (m : Mig) (own : Nat) :
    Keeps u (State.mirrorEvicted s m own) := by
  unfold State.mirrorEvicted
  repeat' first
    | with_reducible assumption
    | with_reducible apply State.tell_keeps
    | with_reducible apply State.setFrame_keeps
    | with_reducible apply State.dropMig_keeps
    | with_reducible apply State.pump_keeps
    | with_reducible apply State.unpinMirror_keeps
    | refine Keeps.foldl (fun s a h => ?_) ?_ _
    | refine Keeps.foldlP (g := Prod.fst) (fun s a h => ?_) ?_ _
    | refine Keeps.foldlP (g := Prod.snd) (fun s a h => ?_) ?_ _
    | split
    | dsimp only
    | fail_if_no_progress (with_reducible refine Keeps.upd ?_ rfl rfl rfl rfl)

theorem State.mirrorEvictFails_keeps {u s : State} (h : Keeps u s) (m : Mig) (own : Nat) :
    Keeps u (State.mirrorEvictFails s m own) := by
  unfold State.mirrorEvictFails
  repeat' first
    | with_reducible assumption
    | with_reducible apply State.tell_keeps
    | with_reducible apply State.dropMig_keeps
    | with_reducible apply State.pump_keeps
    | with_reducible apply State.unpinMirror_keeps

theorem State.wakeGranted_keeps {u s : State} (h : Keeps u s) :
    Keeps u (State.wakeGranted s) := by
  unfold State.wakeGranted
  repeat' first
    | with_reducible assumption
    | with_reducible apply State.modItem_keeps
    | refine Keeps.foldl (fun s a h => ?_) ?_ _
    | refine Keeps.foldlP (g := Prod.fst) (fun s a h => ?_) ?_ _
    | refine Keeps.foldlP (g := Prod.snd) (fun s a h => ?_) ?_ _
    | split

theorem State.evictionDone_keeps {u s : State} (h : Keeps u s) (m : Mig) :
    Keeps u (State.evictionDone s m) := by
  unfold State.evictionDone
  repeat' first
    | with_reducible assumption
    | with_reducible apply State.bumpTile_keeps
    | with_reducible apply State.freeFrame_keeps
    | with_reducible apply State.dropLabFrame_keeps
    | with_reducible apply State.dropMig_keeps
    | with_reducible apply State.pump_keeps
    | with_reducible apply State.tellEnd_keeps
    | with_reducible apply State.mirrorEvicted_keeps
    | with_reducible apply State.wakeGranted_keeps
    | refine Keeps.foldl (fun s a h => ?_) ?_ _
    | refine Keeps.foldlP (g := Prod.fst) (fun s a h => ?_) ?_ _
    | refine Keeps.foldlP (g := Prod.snd) (fun s a h => ?_) ?_ _
    | split
    | dsimp only
    | fail_if_no_progress (with_reducible refine Keeps.upd ?_ rfl rfl rfl rfl)

theorem State.redoWrite_keeps {u s : State} (h : Keeps u s) (slot : Nat) (w : Nat × Nat) : Keeps u (s.redoWrite slot w) := by
  unfold State.redoWrite
  split
  · exact h
  · rename_i m _
    have k := State.translateAll_keeps h (frameTile m.frame) (.mig slot) (needs (m.host + w.1) w.2 1 true)
    dsimp only
    generalize State.translateAll s (frameTile m.frame) (.mig slot) (needs (m.host + w.1) w.2 1 true) = x at k
    cases x
    · exact State.moveMig_keeps k _ _ _
    · exact k
    · exact State.putMig_keeps k _

theorem State.evictionFails_keeps {u s : State} (h : Keeps u s) (m : Mig) :
    Keeps u (State.evictionFails s m) := by
  unfold State.evictionFails
  repeat' first
    | with_reducible assumption
    | with_reducible apply State.putMig_keeps
    | with_reducible apply State.dropMig_keeps
    | with_reducible apply State.pump_keeps
    | with_reducible apply State.frameBad_keeps
    | with_reducible apply State.tellEnd_keeps
    | with_reducible apply State.mirrorEvictFails_keeps
    | with_reducible apply State.redoWrite_keeps
    | refine Keeps.foldl (fun s a h => ?_) ?_ _
    | refine Keeps.foldlP (g := Prod.fst) (fun s a h => ?_) ?_ _
    | refine Keeps.foldlP (g := Prod.snd) (fun s a h => ?_) ?_ _
    | split

theorem State.recallPin_keeps {u s : State} (h : Keeps u s) (m : Mig) (w : Nat × Nat) :
    Keeps u (State.recallPin s m w) := by
  unfold State.recallPin
  repeat' first
    | with_reducible assumption
    | with_reducible apply State.pinFrame_keeps
    | with_reducible apply State.modItem_keeps
    | refine Keeps.foldl (fun s a h => ?_) ?_ _
    | refine Keeps.foldlP (g := Prod.fst) (fun s a h => ?_) ?_ _
    | refine Keeps.foldlP (g := Prod.snd) (fun s a h => ?_) ?_ _
    | split

theorem State.landPage_keeps {u s : State} (h : Keeps u s) (m : Mig) (p : Page) :
    Keeps u (State.landPage s m p) := by
  unfold State.landPage
  repeat' first
    | with_reducible assumption
    | with_reducible apply State.setFrame_keeps
    | with_reducible apply State.chargeFrame_keeps
    | with_reducible apply State.freeFrame_keeps
    | refine Keeps.foldl (fun s a h => ?_) ?_ _
    | refine Keeps.foldlP (g := Prod.fst) (fun s a h => ?_) ?_ _
    | refine Keeps.foldlP (g := Prod.snd) (fun s a h => ?_) ?_ _
    | split

theorem State.switchRecall_keeps {u s : State} (h : Keeps u s) (m : Mig) :
    Keeps u (State.switchRecall s m) := by
  unfold State.switchRecall
  repeat' first
    | with_reducible assumption
    | with_reducible apply State.dropLabPage_keeps
    | refine Keeps.foldl (fun s a h => ?_) ?_ _
    | refine Keeps.foldlP (g := Prod.fst) (fun s a h => ?_) ?_ _
    | refine Keeps.foldlP (g := Prod.snd) (fun s a h => ?_) ?_ _
    | split
    | dsimp only
    | fail_if_no_progress (with_reducible refine Keeps.upd ?_ rfl rfl rfl rfl)

theorem State.askResend_keeps {u s : State} (h : Keeps u s) (f : Nat) :
    Keeps u (State.askResend s f) := by
  unfold State.askResend
  repeat' first
    | with_reducible assumption
    | with_reducible apply State.ledgerSend_keeps
    | refine Keeps.foldl (fun s a h => ?_) ?_ _
    | refine Keeps.foldlP (g := Prod.fst) (fun s a h => ?_) ?_ _
    | refine Keeps.foldlP (g := Prod.snd) (fun s a h => ?_) ?_ _
    | split
    | dsimp only
    | fail_if_no_progress (with_reducible refine Keeps.upd ?_ rfl rfl rfl rfl)

theorem State.mirrorRecalled_keeps {u s : State} (h : Keeps u s) (m : Mig) (bytes : List Byte) :
    Keeps u (State.mirrorRecalled s m bytes) := by
  unfold State.mirrorRecalled
  repeat' first
    | with_reducible assumption
    | with_reducible apply State.bumpTile_keeps
    | with_reducible apply State.setFrame_keeps
    | with_reducible apply State.dropMig_keeps
    | with_reducible apply State.pump_keeps
    | with_reducible apply State.askResend_keeps
    | refine Keeps.foldl (fun s a h => ?_) ?_ _
    | refine Keeps.foldlP (g := Prod.fst) (fun s a h => ?_) ?_ _
    | refine Keeps.foldlP (g := Prod.snd) (fun s a h => ?_) ?_ _
    | split
    | dsimp only
    | fail_if_no_progress (with_reducible refine Keeps.upd ?_ rfl rfl rfl rfl)

theorem State.recallDone_keeps {u s : State} (h : Keeps u s) (m : Mig) :
    Keeps u (State.recallDone s m) := by
  unfold State.recallDone
  repeat' first
    | with_reducible assumption
    | with_reducible apply State.bumpTile_keeps
    | with_reducible apply State.settle_keeps
    | with_reducible apply State.sendGroup_keeps
    | with_reducible apply State.dropMig_keeps
    | with_reducible apply State.pump_keeps
    | with_reducible apply State.frameBad_keeps
    | with_reducible apply State.tellEnd_keeps
    | with_reducible apply State.recallPin_keeps
    | with_reducible apply State.landPage_keeps
    | with_reducible apply State.switchRecall_keeps
    | with_reducible apply State.mirrorRecalled_keeps
    | refine Keeps.foldl (fun s a h => ?_) ?_ _
    | refine Keeps.foldlP (g := Prod.fst) (fun s a h => ?_) ?_ _
    | refine Keeps.foldlP (g := Prod.snd) (fun s a h => ?_) ?_ _
    | split

theorem State.recallFails_keeps {u s : State} (h : Keeps u s) (m : Mig) :
    Keeps u (State.recallFails s m) := by
  unfold State.recallFails
  repeat' first
    | with_reducible assumption
    | with_reducible apply State.freeFrame_keeps
    | with_reducible apply State.modItem_keeps
    | with_reducible apply State.dropMig_keeps
    | with_reducible apply State.pump_keeps
    | with_reducible apply State.tellEnd_keeps
    | with_reducible apply State.mirrorRecalled_keeps
    | refine Keeps.foldl (fun s a h => ?_) ?_ _
    | refine Keeps.foldlP (g := Prod.fst) (fun s a h => ?_) ?_ _
    | refine Keeps.foldlP (g := Prod.snd) (fun s a h => ?_) ?_ _
    | split

theorem State.bgLoop_keeps {u s : State} (h : Keeps u s) (n t : Nat) : Keeps u (State.bgLoop n t s) := by
  induction n generalizing s with
  | zero => exact h
  | succ n ih =>
    unfold State.bgLoop
    dsimp only
    repeat' split
    · exact h
    · exact ih (State.startEvict_keeps h _ _ _)
    · exact h.upd rfl rfl rfl rfl

theorem State.background_keeps {u s : State} (h : Keeps u s) (t : Nat) :
    Keeps u (State.background s t) := by
  unfold State.background
  repeat' first
    | with_reducible assumption
    | with_reducible apply State.pump_keeps
    | with_reducible apply State.bgLoop_keeps
    | refine Keeps.foldl (fun s a h => ?_) ?_ _
    | refine Keeps.foldlP (g := Prod.fst) (fun s a h => ?_) ?_ _
    | refine Keeps.foldlP (g := Prod.snd) (fun s a h => ?_) ?_ _
    | split
    | dsimp only
    | fail_if_no_progress (with_reducible refine Keeps.upd ?_ rfl rfl rfl rfl)

end Sys2Proof.Machine
end

