-- ==== Sys2Proof/Laws/KeepPlan.lean ====
section
/-! SUPPORT. What the operations of Machine/Plan.lean keep. -/

namespace Sys2Proof.Machine

theorem State.withMerge_keeps {u s : State} (h : Keeps u s) (j : Job) (k : Nat) :
    Keeps u (State.withMerge s j k) := by
  unfold State.withMerge
  repeat' first
    | with_reducible assumption
    | with_reducible apply State.modItem_keeps
    | refine Keeps.foldl (fun s a h => ?_) ?_ _
    | refine Keeps.foldlP (g := Prod.fst) (fun s a h => ?_) ?_ _
    | refine Keeps.foldlP (g := Prod.snd) (fun s a h => ?_) ?_ _
    | split

theorem State.useCore_keeps {u s : State} (h : Keeps u s) (id k core : Nat) :
    Keeps u (State.useCore s id k core) := by
  unfold State.useCore
  repeat' first
    | with_reducible assumption
    | with_reducible apply State.modItem_keeps
    | refine Keeps.foldl (fun s a h => ?_) ?_ _
    | refine Keeps.foldlP (g := Prod.fst) (fun s a h => ?_) ?_ _
    | refine Keeps.foldlP (g := Prod.snd) (fun s a h => ?_) ?_ _
    | split
    | dsimp only
    | fail_if_no_progress (with_reducible refine Keeps.upd ?_ rfl rfl rfl rfl)

theorem State.took_keeps {u s : State} (h : Keeps u s) (id k core : Nat) (a : Acc) :
    Keeps u (State.took s id k core a) := by
  unfold State.took
  repeat' first
    | with_reducible assumption
    | with_reducible apply State.bumpTile_keeps
    | with_reducible apply State.spillSlots_keeps
    | with_reducible apply State.modItem_keeps
    | with_reducible apply State.useCore_keeps
    | refine Keeps.foldl (fun s a h => ?_) ?_ _
    | refine Keeps.foldlP (g := Prod.fst) (fun s a h => ?_) ?_ _
    | refine Keeps.foldlP (g := Prod.snd) (fun s a h => ?_) ?_ _
    | split
    | dsimp only
    | fail_if_no_progress (with_reducible refine Keeps.upd ?_ rfl rfl rfl rfl)

theorem State.jobFetch_keeps {u s : State} (h : Keeps u s) (j : Job) (tile : Nat) :
    Keeps u (State.jobFetch s j tile) := by
  unfold State.jobFetch
  repeat' first
    | with_reducible assumption
    | with_reducible apply State.fetch_keeps
    | refine Keeps.foldl (fun s a h => ?_) ?_ _
    | refine Keeps.foldlP (g := Prod.fst) (fun s a h => ?_) ?_ _
    | refine Keeps.foldlP (g := Prod.snd) (fun s a h => ?_) ?_ _
    | split

end Sys2Proof.Machine
end

