-- ==== Sys2Proof/Laws/KeepSchedule.lean ====
section
/-! SUPPORT. What the operations of Machine/Schedule.lean keep. -/

namespace Sys2Proof.Machine

theorem State.setService_keeps {u s : State} (h : Keeps u s) (t c v : Nat) :
    Keeps u (State.setService s t c v) := by
  unfold State.setService
  repeat' first
    | with_reducible assumption
    | refine Keeps.foldl (fun s a h => ?_) ?_ _
    | refine Keeps.foldlP (g := Prod.fst) (fun s a h => ?_) ?_ _
    | refine Keeps.foldlP (g := Prod.snd) (fun s a h => ?_) ?_ _
    | split
    | dsimp only
    | fail_if_no_progress (with_reducible refine Keeps.upd ?_ rfl rfl rfl rfl)

theorem State.rejoin_keeps {u s : State} (h : Keeps u s) (t c : Nat) (was : List Nat) :
    Keeps u (State.rejoin s t c was) := by
  unfold State.rejoin
  repeat' first
    | with_reducible assumption
    | with_reducible apply State.setService_keeps
    | refine Keeps.foldl (fun s a h => ?_) ?_ _
    | refine Keeps.foldlP (g := Prod.fst) (fun s a h => ?_) ?_ _
    | refine Keeps.foldlP (g := Prod.snd) (fun s a h => ?_) ?_ _
    | split
    | dsimp only

theorem State.noteReady_keeps {u s : State} (h : Keeps u s) (t : Nat) (now : List Nat) :
    Keeps u (State.noteReady s t now) := by
  unfold State.noteReady
  repeat' first
    | with_reducible assumption
    | with_reducible apply State.rejoin_keeps
    | refine Keeps.foldl (fun s a h => ?_) ?_ _
    | refine Keeps.foldlP (g := Prod.fst) (fun s a h => ?_) ?_ _
    | refine Keeps.foldlP (g := Prod.snd) (fun s a h => ?_) ?_ _
    | split
    | dsimp only
    | fail_if_no_progress (with_reducible refine Keeps.upd ?_ rfl rfl rfl rfl)

theorem State.fillLine_keeps {u s : State} (h : Keeps u s) (core f gen n : Nat) :
    Keeps u (State.fillLine s core f gen n) := by
  unfold State.fillLine
  repeat' first
    | with_reducible assumption
    | refine Keeps.foldl (fun s a h => ?_) ?_ _
    | refine Keeps.foldlP (g := Prod.fst) (fun s a h => ?_) ?_ _
    | refine Keeps.foldlP (g := Prod.snd) (fun s a h => ?_) ?_ _
    | split
    | dsimp only
    | fail_if_no_progress (with_reducible refine Keeps.upd ?_ rfl rfl rfl rfl)

theorem State.fillCache_keeps {u s : State} (h : Keeps u s) (f core : Nat) :
    Keeps u (State.fillCache s f core) := by
  unfold State.fillCache
  repeat' first
    | with_reducible assumption
    | with_reducible apply State.fillLine_keeps
    | refine Keeps.foldl (fun s a h => ?_) ?_ _
    | refine Keeps.foldlP (g := Prod.fst) (fun s a h => ?_) ?_ _
    | refine Keeps.foldlP (g := Prod.snd) (fun s a h => ?_) ?_ _
    | split
    | dsimp only

theorem State.closeRound_keeps {u s : State} (h : Keeps u s) (r : Round) :
    Keeps u (State.closeRound s r) := by
  unfold State.closeRound
  repeat' first
    | with_reducible assumption
    | with_reducible apply State.bumpTile_keeps
    | with_reducible apply State.fillCache_keeps
    | refine Keeps.foldl (fun s a h => ?_) ?_ _
    | refine Keeps.foldlP (g := Prod.fst) (fun s a h => ?_) ?_ _
    | refine Keeps.foldlP (g := Prod.snd) (fun s a h => ?_) ?_ _
    | split
    | dsimp only
    | fail_if_no_progress (with_reducible refine Keeps.upd ?_ rfl rfl rfl rfl)

theorem State.placeRow_keeps {u s : State} (h : Keeps u s) (f id k key core : Nat) (close : Bool) :
    Keeps u (State.placeRow s f id k key core close) := by
  unfold State.placeRow
  repeat' first
    | with_reducible assumption
    | with_reducible apply State.modItem_keeps
    | with_reducible apply State.closeRound_keeps
    | refine Keeps.foldl (fun s a h => ?_) ?_ _
    | refine Keeps.foldlP (g := Prod.fst) (fun s a h => ?_) ?_ _
    | refine Keeps.foldlP (g := Prod.snd) (fun s a h => ?_) ?_ _
    | split
    | dsimp only
    | fail_if_no_progress (with_reducible refine Keeps.upd ?_ rfl rfl rfl rfl)

theorem State.placeLeaves_keeps {u s : State} (h : Keeps u s) (j : Job) (k : Nat) (i : Item) (e : Entry) (live : Nat → Nat → Bool) :
    Keeps u (State.placeLeaves s j k i e live) := by
  unfold State.placeLeaves
  repeat' first
    | with_reducible assumption
    | with_reducible apply State.placeRow_keeps
    | refine Keeps.foldl (fun s a h => ?_) ?_ _

theorem State.locate_keeps {u s : State} (h : Keeps u s) (r st p : Nat) :
    Keeps u (State.locate s r st p).2 := by
  unfold State.locate
  repeat' first
    | with_reducible assumption
    | with_reducible apply State.resolve_keeps
    | refine Keeps.foldl (fun s a h => ?_) ?_ _
    | refine Keeps.foldlP (g := Prod.fst) (fun s a h => ?_) ?_ _
    | refine Keeps.foldlP (g := Prod.snd) (fun s a h => ?_) ?_ _
    | split
    | dsimp only

theorem State.locateAll_keeps {u s : State} (h : Keeps u s) (r st : Nat) (ps : List Nat) :
    Keeps u (State.locateAll s r st ps).2 := by
  unfold State.locateAll
  repeat' first
    | with_reducible assumption
    | with_reducible apply State.locate_keeps
    | refine Keeps.foldl (fun s a h => ?_) ?_ _
    | refine Keeps.foldlP (g := Prod.fst) (fun s a h => ?_) ?_ _
    | refine Keeps.foldlP (g := Prod.snd) (fun s a h => ?_) ?_ _

theorem State.bindItem_keeps {u s : State} (h : Keeps u s) (j : Job) (k : Nat) (i : Item) (e : Entry) (r : Nat) :
    Keeps u (State.bindItem s j k i e r) := by
  unfold State.bindItem
  repeat' first
    | with_reducible assumption
    | with_reducible apply State.modItem_keeps
    | refine Keeps.foldl (fun s a h => ?_) ?_ _
    | refine Keeps.foldlP (g := Prod.fst) (fun s a h => ?_) ?_ _
    | refine Keeps.foldlP (g := Prod.snd) (fun s a h => ?_) ?_ _
    | split
    | dsimp only
    | fail_if_no_progress (with_reducible refine Keeps.upd ?_ rfl rfl rfl rfl)

theorem State.exhausted_keeps {u s : State} (h : Keeps u s) (id k t : Nat) :
    Keeps u (State.exhausted s id k t) := by
  unfold State.exhausted
  repeat' first
    | with_reducible assumption
    | with_reducible apply State.bumpTile_keeps
    | with_reducible apply State.failItem_keeps

theorem State.recallCold_keeps {u s : State} (h : Keeps u s) (j : Job) (k r st : Nat) (ctl : AllocCtl)
    (l : List (Nat × Nat × Nat)) : Keeps u (s.recallCold j k r st ctl l).2 := by
  induction l generalizing s with
  | nil => exact h
  | cons p l ih =>
    unfold State.recallCold
    split
    · exact ih (State.joinRecall_keeps h _ _)
    · dsimp only
      split
      · exact h
      · have g := State.acquireFrames_keeps h ctl (.item j.id k) [⟨st, p.1, s.pageTile (s.dirOf r st).layer r st p.1, .fresh⟩]
        split
        · exact ih (State.startRecall_keeps (Frames.ok_keeps ‹_› g) _ _ _ _ _ _)
        · exact ih (Frames.ok_keeps ‹_› g)
        · exact ih (Frames.wait_keeps ‹_› g)
        · exact Frames.none_keeps ‹_› g

theorem State.pinAll_keeps {u s : State} (h : Keeps u s) (id k : Nat) (ps : List (Nat × Nat × Nat)) :
    Keeps u (State.pinAll s id k ps) := by
  unfold State.pinAll
  repeat' first
    | with_reducible assumption
    | with_reducible apply State.pinFrame_keeps
    | with_reducible apply State.modItem_keeps
    | refine Keeps.foldl (fun s a h => ?_) ?_ _

theorem State.startItem_keeps {u s : State} (h : Keeps u s) (j : Job) (k : Nat) (a : Ask) (pages : List (Nat × Nat × Nat)) :
    Keeps u (State.startItem s j k a pages) := by
  unfold State.startItem
  repeat' first
    | with_reducible assumption
    | with_reducible apply State.modItem_keeps
    | with_reducible apply State.withMerge_keeps
    | with_reducible apply State.pinAll_keeps

theorem State.letGo_keeps {u s : State} (h : Keeps u s) (id k : Nat) :
    Keeps u (State.letGo s id k) := by
  unfold State.letGo
  repeat' first
    | with_reducible assumption
    | with_reducible apply State.unpinFrame_keeps
    | with_reducible apply State.modItem_keeps
    | refine Keeps.foldl (fun s a h => ?_) ?_ _
    | refine Keeps.foldlP (g := Prod.fst) (fun s a h => ?_) ?_ _
    | refine Keeps.foldlP (g := Prod.snd) (fun s a h => ?_) ?_ _
    | split

theorem State.backToWait_keeps {u s : State} (h : Keeps u s) (id k : Nat) :
    Keeps u (State.backToWait s id k) := by
  unfold State.backToWait
  repeat' first
    | with_reducible assumption
    | with_reducible apply State.giveBlock_keeps
    | with_reducible apply State.modItem_keeps
    | with_reducible apply State.dropAcq_keeps
    | with_reducible apply State.letGo_keeps
    | refine Keeps.foldl (fun s a h => ?_) ?_ _
    | refine Keeps.foldlP (g := Prod.fst) (fun s a h => ?_) ?_ _
    | refine Keeps.foldlP (g := Prod.snd) (fun s a h => ?_) ?_ _
    | split

theorem State.acquire_keeps {u s : State} (h : Keeps u s) (j : Job) (k : Nat) (a : Ask) (pages : List (Nat × Nat × Nat)) :
    Keeps u (State.acquire s j k a pages).1 := by
  unfold State.acquire
  repeat' first
    | with_reducible assumption
    | with_reducible apply State.startItem_keeps
    | with_reducible apply State.letGo_keeps
    | refine Keeps.foldl (fun s a h => ?_) ?_ _
    | refine Keeps.foldlP (g := Prod.fst) (fun s a h => ?_) ?_ _
    | refine Keeps.foldlP (g := Prod.snd) (fun s a h => ?_) ?_ _
    | split

theorem State.acquireAppend_keeps {u s : State} (h : Keeps u s) (j : Job) (k : Nat) (i : Item) (e : Entry) (r : Nat)
    (again : Nat → Bool) : Keeps u (s.acquireAppend j k i e r again).1 := by
  unfold State.acquireAppend
  dsimp only
  have charged : ∀ {s : State} (n : Nat), Keeps u s →
      Keeps u (((s.discharge j.cls i.charge).charge j.cls n).modItem j.id k (fun i => { i with charge := n })) :=
    fun n h => State.modItem_keeps (State.charge_keeps (State.discharge_keeps h _ _) _ _) _ _ _
  have back : ∀ {s : State} (l : List (Nat × Nat)), Keeps u s → Keeps u (l.foldl (fun s b => s.giveBlock b.1 b.2) s) :=
    fun l h => Keeps.foldl (fun _ _ h => State.giveBlock_keeps h _ _) h l
  split
  · exact h
  split
  · exact State.failItem_keeps (State.bumpTile_keeps h _ _ _) _ _ _
  split
  · exact State.failItem_keeps (State.bumpTile_keeps (State.bumpTile_keeps h _ _ _) _ _ _) _ _ _
  rename_i e'
  have g := fun c w ns => State.acquireFrames_keeps (State.takeAllBlocks_keeps h _ _ _ e') c w ns
  split
  · exact State.modItem_keeps (Keeps.foldl (fun _ _ h => State.markTarget_keeps h _ _)
      (charged _ (Frames.ok_keeps ‹_› (g _ _ _))) _) _ _ _
  · exact State.pump_keeps (State.backToWait_keeps (back _ (charged _ (Frames.wait_keeps ‹_› (g _ _ _)))) _ _)
  · exact State.exhausted_keeps (back _ (charged _ (Frames.none_keeps ‹_› (g _ _ _)))) _ _ _

theorem State.findPages_keeps {u s : State} (h : Keeps u s) (r : Nat) (i : Item) (want : List (Nat × List Nat)) :
    Keeps u (State.findPages s r i want).2 := by
  unfold State.findPages
  repeat' first
    | with_reducible assumption
    | with_reducible apply State.locateAll_keeps
    | refine Keeps.foldl (fun s a h => ?_) ?_ _
    | refine Keeps.foldlP (g := Prod.fst) (fun s a h => ?_) ?_ _
    | refine Keeps.foldlP (g := Prod.snd) (fun s a h => ?_) ?_ _

theorem State.recallFound_keeps {u s : State} (h : Keeps u s) (j : Job) (k r : Nat) (ctl : AllocCtl) (cold : List (Nat × Nat × Nat × Nat)) :
    Keeps u (State.recallFound s j k r ctl cold).2 := by
  unfold State.recallFound
  repeat' first
    | with_reducible assumption
    | with_reducible apply State.recallCold_keeps
    | refine Keeps.foldl (fun s a h => ?_) ?_ _
    | refine Keeps.foldlP (g := Prod.fst) (fun s a h => ?_) ?_ _
    | refine Keeps.foldlP (g := Prod.snd) (fun s a h => ?_) ?_ _
    | split

theorem State.pagesFail_keeps {u s : State} (h : Keeps u s) (j : Job) (k : Nat) (i : Item) (e : Entry) (f : Found) :
    ∀ r, (State.pagesFail s j k i e f) = some r → Keeps u r := by
  intro r e
  unfold State.pagesFail at e
  try dsimp only at e
  repeat' split at e
  all_goals cases e
  all_goals repeat' first
    | with_reducible assumption
    | with_reducible apply State.failItem_keeps
    | with_reducible apply State.report_keeps

theorem State.startPages_keeps {u s : State} (h : Keeps u s) (j : Job) (k : Nat) (i : Item) (e : Entry) (r : Nat) (resv : Bool) :
    Keeps u (State.startPages s j k i e r resv).1 := by
  unfold State.startPages
  repeat' first
    | with_reducible assumption
    | with_reducible apply State.modItem_keeps
    | with_reducible apply State.pump_keeps
    | with_reducible apply State.exhausted_keeps
    | with_reducible apply State.letGo_keeps
    | with_reducible apply State.acquire_keeps
    | with_reducible apply State.findPages_keeps
    | with_reducible refine State.recallFound_keeps ?_ _ _ _ _ _
    | with_reducible refine State.pagesFail_keeps ?_ _ _ _ _ _
    | refine Keeps.foldl (fun s a h => ?_) ?_ _
    | refine Keeps.foldlP (g := Prod.fst) (fun s a h => ?_) ?_ _
    | refine Keeps.foldlP (g := Prod.snd) (fun s a h => ?_) ?_ _
    | split
    | dsimp only
    | fail_if_no_progress (with_reducible refine Keeps.upd ?_ rfl rfl rfl rfl)
    | with_reducible refine Keeps.of_fst (by with_reducible assumption) ?_
    | with_reducible refine Keeps.of_snd (by with_reducible assumption) ?_
    | with_reducible refine Keeps.some_one (by with_reducible assumption) ?_

theorem State.failRead_keeps {u s : State} (h : Keeps u s) (j : Job) (k : Nat) (i : Item) (e : Entry) (r st : Nat) :
    Keeps u (State.failRead s j k i e r st) := by
  unfold State.failRead
  repeat' first
    | with_reducible assumption
    | with_reducible apply State.failItem_keeps
    | with_reducible apply State.bindItem_keeps
    | with_reducible apply State.acquireAppend_keeps
    | refine Keeps.foldl (fun s a h => ?_) ?_ _
    | refine Keeps.foldlP (g := Prod.fst) (fun s a h => ?_) ?_ _
    | refine Keeps.foldlP (g := Prod.snd) (fun s a h => ?_) ?_ _
    | split
    | dsimp only

theorem State.startBatch_keeps {u s : State} (h : Keeps u s) (j : Job) (k : Nat) (i : Item) (resv : Bool) :
    Keeps u (State.startBatch s j k i resv).1 := by
  unfold State.startBatch
  repeat' first
    | with_reducible assumption
    | with_reducible apply State.translateAll_keeps
    | with_reducible apply State.fetch_keeps
    | with_reducible apply State.modItem_keeps
    | with_reducible apply State.failItem_keeps
    | with_reducible apply State.bindItem_keeps
    | with_reducible apply State.startPages_keeps
    | with_reducible apply State.failRead_keeps
    | refine Keeps.foldl (fun s a h => ?_) ?_ _
    | refine Keeps.foldlP (g := Prod.fst) (fun s a h => ?_) ?_ _
    | refine Keeps.foldlP (g := Prod.snd) (fun s a h => ?_) ?_ _
    | split
    | dsimp only
    | fail_if_no_progress (with_reducible refine Keeps.upd ?_ rfl rfl rfl rfl)
    | with_reducible refine Keeps.of_fst (by with_reducible assumption) ?_
    | with_reducible refine Keeps.of_snd (by with_reducible assumption) ?_
    | with_reducible refine Translated.ok_keeps (by with_reducible assumption) ?_
    | with_reducible refine Translated.wait_keeps (by with_reducible assumption) ?_
    | with_reducible refine Translated.failed_keeps (by with_reducible assumption) ?_

theorem State.startOther_keeps {u s : State} (h : Keeps u s) (j : Job) (k : Nat) (i : Item) (resv : Bool) :
    Keeps u (State.startOther s j k i resv).1 := by
  unfold State.startOther
  repeat' first
    | with_reducible assumption
    | with_reducible apply State.translateAll_keeps
    | with_reducible apply State.modItem_keeps
    | with_reducible apply State.failItem_keeps
    | with_reducible apply State.jobFetch_keeps
    | refine Keeps.foldl (fun s a h => ?_) ?_ _
    | refine Keeps.foldlP (g := Prod.fst) (fun s a h => ?_) ?_ _
    | refine Keeps.foldlP (g := Prod.snd) (fun s a h => ?_) ?_ _
    | split
    | dsimp only
    | fail_if_no_progress (with_reducible refine Keeps.upd ?_ rfl rfl rfl rfl)
    | with_reducible refine Keeps.of_fst (by with_reducible assumption) ?_
    | with_reducible refine Keeps.of_snd (by with_reducible assumption) ?_
    | with_reducible refine Translated.ok_keeps (by with_reducible assumption) ?_
    | with_reducible refine Translated.wait_keeps (by with_reducible assumption) ?_
    | with_reducible refine Translated.failed_keeps (by with_reducible assumption) ?_

theorem State.afterStart_keeps {u s : State} (h : Keeps u s) (t : Nat) (j : Job) (k : Nat) (aged : Bool) :
    Keeps u (State.afterStart s t j k aged) := by
  unfold State.afterStart
  repeat' first
    | with_reducible assumption
    | with_reducible apply State.bumpTile_keeps
    | with_reducible apply State.modItem_keeps
    | with_reducible apply State.setService_keeps
    | with_reducible apply State.placeLeaves_keeps
    | refine Keeps.foldl (fun s a h => ?_) ?_ _
    | refine Keeps.foldlP (g := Prod.fst) (fun s a h => ?_) ?_ _
    | refine Keeps.foldlP (g := Prod.snd) (fun s a h => ?_) ?_ _
    | split

theorem State.tryItem_keeps {u s : State} (h : Keeps u s) (t : Nat) (p : Job × Nat × Item) (resv : Bool) :
    Keeps u (State.tryItem s t p resv).1 := by
  unfold State.tryItem
  repeat' first
    | with_reducible assumption
    | with_reducible apply State.startBatch_keeps
    | with_reducible apply State.startOther_keeps
    | with_reducible apply State.afterStart_keeps
    | refine Keeps.foldl (fun s a h => ?_) ?_ _
    | refine Keeps.foldlP (g := Prod.fst) (fun s a h => ?_) ?_ _
    | refine Keeps.foldlP (g := Prod.snd) (fun s a h => ?_) ?_ _
    | split
    | dsimp only

theorem State.tryItems_keeps {u s : State} (h : Keeps u s) (t : Nat) (l : List (Job × Nat × Item)) (resv : Bool) :
    Keeps u (s.tryItems t l resv) := by
  induction l generalizing s resv with
  | nil => exact h
  | cons p l ih =>
    unfold State.tryItems
    dsimp only
    split
    · exact State.tryItem_keeps h _ _ _
    · exact ih (State.tryItem_keeps h _ _ _) _

theorem State.dispatch_keeps {u s : State} (h : Keeps u s) (t : Nat) :
    Keeps u (State.dispatch s t) := by
  unfold State.dispatch
  repeat' first
    | with_reducible assumption
    | with_reducible apply State.modItem_keeps
    | with_reducible apply State.noteReady_keeps
    | with_reducible apply State.tryItems_keeps
    | refine Keeps.foldl (fun s a h => ?_) ?_ _
    | refine Keeps.foldlP (g := Prod.fst) (fun s a h => ?_) ?_ _
    | refine Keeps.foldlP (g := Prod.snd) (fun s a h => ?_) ?_ _
    | split

theorem State.ageItem_keeps {u s : State} (h : Keeps u s) (id k : Nat) :
    Keeps u (State.ageItem s id k) := by
  unfold State.ageItem
  repeat' first
    | with_reducible assumption
    | with_reducible apply State.modItem_keeps
    | with_reducible apply State.closeRound_keeps
    | refine Keeps.foldl (fun s a h => ?_) ?_ _
    | refine Keeps.foldlP (g := Prod.fst) (fun s a h => ?_) ?_ _
    | refine Keeps.foldlP (g := Prod.snd) (fun s a h => ?_) ?_ _
    | split
    | dsimp only
    | fail_if_no_progress (with_reducible refine Keeps.upd ?_ rfl rfl rfl rfl)

theorem State.adaptWindow_keeps {u s : State} (h : Keeps u s) (t : Nat) :
    Keeps u (State.adaptWindow s t) := by
  unfold State.adaptWindow
  repeat' first
    | with_reducible assumption
    | refine Keeps.foldl (fun s a h => ?_) ?_ _
    | refine Keeps.foldlP (g := Prod.fst) (fun s a h => ?_) ?_ _
    | refine Keeps.foldlP (g := Prod.snd) (fun s a h => ?_) ?_ _
    | split
    | dsimp only
    | fail_if_no_progress (with_reducible refine Keeps.upd ?_ rfl rfl rfl rfl)

end Sys2Proof.Machine
end

