-- ==== Sys2Proof/Laws/KeepSync.lean ====
section
/-! SUPPORT. What the operations of Machine/Sync.lean keep. -/

namespace Sys2Proof.Machine

theorem State.syncNext_keeps {u s : State} (h : Keeps u s) :
    Keeps u (State.syncNext s) := by
  unfold State.syncNext
  repeat' first
    | with_reducible assumption
    | with_reducible apply State.ledgerSend_keeps
    | refine Keeps.foldl (fun s a h => ?_) ?_ _
    | refine Keeps.foldlP (g := Prod.fst) (fun s a h => ?_) ?_ _
    | refine Keeps.foldlP (g := Prod.snd) (fun s a h => ?_) ?_ _
    | split
    | dsimp only
    | fail_if_no_progress (with_reducible refine Keeps.upd ?_ rfl rfl rfl rfl)

end Sys2Proof.Machine
end

