-- ==== Sys2Proof/Laws/KeepRecords.lean ====
section
/-! SUPPORT. What the operations of Machine/Records.lean keep. -/

namespace Sys2Proof.Machine

theorem State.writeStats_keeps {u s : State} (h : Keeps u s) (j : Job) : Keeps u (s.writeStats j) := by
  unfold State.writeStats
  dsimp only
  have g := State.translateAll_keeps h (((j.items.head?).map (fun i => i.tile)).getD s.errs.anchor) (.record j.id)
    (needs (j.dword 14) 64 1)
  generalize State.translateAll s _ _ _ = x at g
  rcases x with ⟨t, s'⟩ | s' | ⟨e, s'⟩
  · exact State.modJob_keeps (State.moveVirt_keeps g _ _ _ _ _ _ _ _ _) _ _
  · exact g
  · exact State.modJob_keeps g _ _

theorem State.endDraining_keeps {u s : State} (h : Keeps u s) (r : Nat) :
    Keeps u (State.endDraining s r) := by
  unfold State.endDraining
  repeat' first
    | with_reducible assumption
    | with_reducible apply State.setReg_keeps
    | with_reducible apply State.setRing_keeps
    | refine Keeps.foldl (fun s a h => ?_) ?_ _
    | refine Keeps.foldlP (g := Prod.fst) (fun s a h => ?_) ?_ _
    | refine Keeps.foldlP (g := Prod.snd) (fun s a h => ?_) ?_ _
    | split
    | dsimp only

theorem State.settleDrain_keeps {u s : State} (h : Keeps u s) : Keeps u s.settleDrain := by
  unfold State.settleDrain
  split
  · rename_i e
    exact h.turn (.inr (.inr (.inl ⟨e.1, rfl⟩))) rfl rfl rfl
  · exact h

theorem State.recordDone_keeps {u s : State} (h : Keeps u s) (id : Nat) (good : Bool) :
    Keeps u (State.recordDone s id good) := by
  unfold State.recordDone
  repeat' first
    | with_reducible assumption
    | with_reducible apply State.setReg_keeps
    | with_reducible apply State.bump_keeps
    | with_reducible apply State.report_keeps
    | with_reducible apply State.setRing_keeps
    | with_reducible apply State.syncNext_keeps
    | with_reducible apply State.endDraining_keeps
    | with_reducible apply State.settleDrain_keeps
    | refine Keeps.foldl (fun s a h => ?_) ?_ _
    | refine Keeps.foldlP (g := Prod.fst) (fun s a h => ?_) ?_ _
    | refine Keeps.foldlP (g := Prod.snd) (fun s a h => ?_) ?_ _
    | split
    | dsimp only
    | fail_if_no_progress (with_reducible refine Keeps.upd ?_ rfl rfl rfl rfl)

theorem State.writeRecord_keeps {u s : State} (h : Keeps u s) (j : Job) : Keeps u (s.writeRecord j) := by
  unfold State.writeRecord
  dsimp only
  generalize s.reg64 (ringReg j.ring 0x14) + _ = va
  have g := State.translateAll_keeps h s.errs.anchor (.record j.id) (needs va 32 1)
  generalize State.translateAll s _ _ _ = x at g
  rcases x with ⟨t, s'⟩ | s' | ⟨e, s'⟩
  · exact State.modJob_keeps (State.moveVirt_keeps g _ _ _ _ _ _ _ _ _) _ _
  · exact g
  · exact State.recordDone_keeps g _ _

theorem State.clearIrq_keeps {u s : State} (h : Keeps u s) (src : IrqSrc) : Keeps u (s.clearIrq src) := by
  cases src
  · exact State.setRing_keeps h _ _
  all_goals exact h.upd rfl rfl rfl rfl

theorem State.irqDropped_keeps {u s : State} (h : Keeps u s) (src : IrqSrc) :
    Keeps u (State.irqDropped s src) := by
  unfold State.irqDropped
  repeat' first
    | with_reducible assumption
    | with_reducible apply State.report_keeps

theorem State.irqIssued_keeps {u s : State} (h : Keeps u s) (src : IrqSrc) :
    Keeps u (State.irqIssued s src) := by
  unfold State.irqIssued
  repeat' first
    | with_reducible assumption
    | with_reducible apply State.clearIrq_keeps
    | refine Keeps.foldl (fun s a h => ?_) ?_ _
    | refine Keeps.foldlP (g := Prod.fst) (fun s a h => ?_) ?_ _
    | refine Keeps.foldlP (g := Prod.snd) (fun s a h => ?_) ?_ _
    | split
    | dsimp only
    | fail_if_no_progress (with_reducible refine Keeps.upd ?_ rfl rfl rfl rfl)

theorem State.sendIrq_keeps {u s : State} (h : Keeps u s) (src : IrqSrc) : Keeps u (s.sendIrq src) := by
  have k := State.irqIssued_keeps (State.movePhys_keeps h s.errs.anchor true (.irq src) none (s.reg64 (irqRegs src).1) 0 4
    (leBytes 4 (s.reg (irqRegs src).2)) none) src
  unfold State.sendIrq
  dsimp only
  cases src with
  | ring r =>
    have g := State.translateAll_keeps h s.errs.anchor (.irq r.toNat) (needs (s.reg64 (irqRegs (.ring r)).1) 4 1)
    dsimp only
    generalize State.translateAll s _ _ _ = x at g
    rcases x with ⟨t, s'⟩ | s' | ⟨e, s'⟩
    · exact State.irqIssued_keeps (State.moveVirt_keeps g _ _ _ _ _ _ _ _ _) _
    · exact g
    · exact State.irqDropped_keeps (State.clearIrq_keeps g _) _
  | _ => exact k

end Sys2Proof.Machine
end

