-- ==== Sys2Proof/Laws/KeepContexts.lean ====
section
/-! SUPPORT. What the operations of Machine/Contexts.lean keep. -/

namespace Sys2Proof.Machine

theorem State.retranslate_keeps {u s : State} (h : Keeps u s) (j : Job) (k : Nat) (i : Item) :
    Keeps u (s.retranslate j k i).1 := by
  unfold State.retranslate
  dsimp only
  split
  · exact h
  · have g := State.translateAll_keeps h i.tile (.item j.id k)
      ((s.needsOf j k i).filter (fun n => !i.trans.any (fun p => p.1 = n.page)))
    generalize State.translateAll s _ _ _ = x at g
    rcases x with ⟨t, s'⟩ | s' | ⟨e, s'⟩
    · exact State.modItem_keeps g _ _ _
    · exact g
    · exact State.failItem_keeps g _ _ _

theorem State.onItem_keeps {u s : State} (h : Keeps u s) (id k kind : Nat) {f : State → Job → Item → State}
    (hf : ∀ s j i, Keeps u s → Keeps u (f s j i)) : Keeps u (s.onItem id k kind f) := by
  unfold State.onItem
  split
  · split
    · exact h
    · dsimp only
      split
      · exact hf _ _ _ (State.retranslate_keeps h _ _ _)
      · exact State.retranslate_keeps h _ _ _
  · exact h

theorem State.endJob_keeps {u s : State} (h : Keeps u s) (id status r0 : Nat) :
    Keeps u (State.endJob s id status r0) := by
  unfold State.endJob
  repeat' first
    | with_reducible assumption
    | with_reducible apply State.modJob_keeps
    | with_reducible apply State.modItem_keeps

theorem State.endGroup_keeps {u s : State} (h : Keeps u s) (id k : Nat) :
    Keeps u (State.endGroup s id k) := by
  unfold State.endGroup
  repeat' first
    | with_reducible assumption
    | with_reducible apply State.commitGroups_keeps
    | refine Keeps.foldl (fun s a h => ?_) ?_ _
    | refine Keeps.foldlP (g := Prod.fst) (fun s a h => ?_) ?_ _
    | refine Keeps.foldlP (g := Prod.snd) (fun s a h => ?_) ?_ _
    | split

theorem State.openAt_keeps {u s : State} (h : Keeps u s) (j : Job) (r : Nat) (ws : List Nat) :
    Keeps u (State.openAt s j r ws) := by
  unfold State.openAt
  repeat' first
    | with_reducible assumption
    | with_reducible apply State.setRow_keeps
    | with_reducible apply State.setDir_keeps
    | with_reducible apply State.sendPart_keeps
    | refine Keeps.foldl (fun s a h => ?_) ?_ _

theorem State.openJob_keeps {u s : State} (h : Keeps u s) (j : Job) (i : Item) (hv : HostView) :
    Keeps u (State.openJob s j i hv) := by
  unfold State.openJob
  repeat' first
    | with_reducible assumption
    | with_reducible apply State.endJob_keeps
    | with_reducible apply State.openAt_keeps
    | refine Keeps.foldl (fun s a h => ?_) ?_ _
    | refine Keeps.foldlP (g := Prod.fst) (fun s a h => ?_) ?_ _
    | refine Keeps.foldlP (g := Prod.snd) (fun s a h => ?_) ?_ _
    | split
    | dsimp only

theorem State.releaseEntry_keeps {u s : State} (h : Keeps u s) (k : Nat) :
    Keeps u (State.releaseEntry s k) := by
  unfold State.releaseEntry
  repeat' first
    | with_reducible assumption
    | with_reducible apply State.unrefFrame_keeps
    | with_reducible apply State.putMig_keeps
    | refine Keeps.foldl (fun s a h => ?_) ?_ _
    | refine Keeps.foldlP (g := Prod.fst) (fun s a h => ?_) ?_ _
    | refine Keeps.foldlP (g := Prod.snd) (fun s a h => ?_) ?_ _
    | split
    | dsimp only
    | fail_if_no_progress (with_reducible refine Keeps.upd ?_ rfl rfl rfl rfl)

theorem State.releaseFrom_keeps {u s : State} (h : Keeps u s) (row st first : Nat) :
    Keeps u (State.releaseFrom s row st first) := by
  unfold State.releaseFrom
  repeat' first
    | with_reducible assumption
    | with_reducible apply State.setMapAt_keeps
    | with_reducible apply State.dropLab_keeps
    | with_reducible apply State.releaseEntry_keeps
    | refine Keeps.foldl (fun s a h => ?_) ?_ _

theorem State.closeStream_keeps {u s : State} (h : Keeps u s) (row st : Nat) :
    Keeps u (State.closeStream s row st) := by
  unfold State.closeStream
  repeat' first
    | with_reducible assumption
    | with_reducible apply State.setDir_keeps
    | with_reducible apply State.giveBlock_keeps
    | with_reducible apply State.releaseFrom_keeps
    | refine Keeps.foldl (fun s a h => ?_) ?_ _

theorem State.freeRow_keeps {u s : State} (h : Keeps u s) (row : Nat) :
    Keeps u (State.freeRow s row) := by
  unfold State.freeRow
  repeat' first
    | with_reducible assumption
    | with_reducible apply State.setRow_keeps

theorem State.closeContext_keeps {u s : State} (h : Keeps u s) (row : Nat) :
    Keeps u (State.closeContext s row) := by
  unfold State.closeContext
  repeat' first
    | with_reducible assumption
    | with_reducible apply State.setRow_keeps
    | with_reducible apply State.dropBuilding_keeps
    | with_reducible apply State.closeStream_keeps
    | with_reducible apply State.freeRow_keeps
    | refine Keeps.foldl (fun s a h => ?_) ?_ _

theorem State.closeJob_keeps {u s : State} (h : Keeps u s) (j : Job) :
    Keeps u (State.closeJob s j) := by
  unfold State.closeJob
  repeat' first
    | with_reducible assumption
    | with_reducible apply State.sendPart_keeps
    | with_reducible apply State.endJob_keeps
    | with_reducible apply State.closeContext_keeps
    | refine Keeps.foldl (fun s a h => ?_) ?_ _
    | refine Keeps.foldlP (g := Prod.fst) (fun s a h => ?_) ?_ _
    | refine Keeps.foldlP (g := Prod.snd) (fun s a h => ?_) ?_ _
    | split

theorem State.copyBlocks_keeps {u s : State} (h : Keeps u s) (home : Nat) (pairs : List (Nat × Nat)) (dst : Nat) :
    Keeps u (State.copyBlocks s home pairs dst) := by
  unfold State.copyBlocks
  repeat' first
    | with_reducible assumption
    | with_reducible apply State.setMapAt_keeps
    | refine Keeps.foldl (fun s a h => ?_) ?_ _

theorem State.forkStream_keeps {u s : State} (h : Keeps u s) (r c st : Nat) (bs : List Nat) :
    Keeps u (State.forkStream s r c st bs) := by
  unfold State.forkStream
  repeat' first
    | with_reducible assumption
    | with_reducible apply State.refFrame_keeps
    | with_reducible apply State.setDir_keeps
    | with_reducible apply State.copyBlocks_keeps
    | refine Keeps.foldl (fun s a h => ?_) ?_ _

theorem State.forkChild_keeps {u s : State} (h : Keeps u s) (j : Job) (r c : Nat) (supply : List (Nat × Nat)) :
    Keeps u (State.forkChild s j r c supply).1 := by
  unfold State.forkChild
  repeat' first
    | with_reducible assumption
    | with_reducible apply State.setRow_keeps
    | with_reducible apply State.sendPart_keeps
    | with_reducible apply State.forkStream_keeps
    | refine Keeps.foldl (fun s a h => ?_) ?_ _
    | refine Keeps.foldlP (g := Prod.fst) (fun s a h => ?_) ?_ _

theorem State.forkBind_keeps {u s : State} (h : Keeps u s) (j : Job) (i : Item) (r : Nat) :
    Keeps u (State.forkBind s j i r) := by
  unfold State.forkBind
  repeat' first
    | with_reducible assumption
    | with_reducible apply State.bumpTile_keeps
    | with_reducible apply State.moveVirt_keeps
    | with_reducible apply State.modJob_keeps
    | with_reducible apply State.takeAllBlocks_keeps
    | with_reducible apply State.endJob_keeps
    | with_reducible apply State.forkChild_keeps
    | refine Keeps.foldl (fun s a h => ?_) ?_ _
    | refine Keeps.foldlP (g := Prod.fst) (fun s a h => ?_) ?_ _
    | refine Keeps.foldlP (g := Prod.snd) (fun s a h => ?_) ?_ _
    | split
    | dsimp only
    | fail_if_no_progress (with_reducible refine Keeps.upd ?_ rfl rfl rfl rfl)
    | with_reducible refine Keeps.of_fst (by with_reducible assumption) ?_
    | with_reducible refine Keeps.of_snd (by with_reducible assumption) ?_
    | with_reducible refine State.takeAllBlocks_keeps ?_ _ _
    | with_reducible refine Keeps.updReg ?_ rfl rfl rfl rfl
    | with_reducible refine Keeps.some_one (by with_reducible assumption) ?_
    | with_reducible refine Keeps.some_two (by with_reducible assumption) ?_
    | with_reducible refine Keeps.some_snd (by with_reducible assumption) ?_
    | with_reducible refine Keeps.some_third (by with_reducible assumption) ?_
    | with_reducible refine Keeps.ok_snd (by with_reducible assumption) ?_

theorem State.forkJob_keeps {u s : State} (h : Keeps u s) (j : Job) (i : Item) (bind : Bool) :
    Keeps u (State.forkJob s j i bind) := by
  unfold State.forkJob
  repeat' first
    | with_reducible assumption
    | with_reducible apply State.bumpTile_keeps
    | with_reducible apply State.modItem_keeps
    | with_reducible apply State.pump_keeps
    | with_reducible apply State.findPages_keeps
    | with_reducible refine State.recallFound_keeps ?_ _ _ _ _ _
    | with_reducible apply State.endJob_keeps
    | with_reducible apply State.forkBind_keeps
    | refine Keeps.foldl (fun s a h => ?_) ?_ _
    | refine Keeps.foldlP (g := Prod.fst) (fun s a h => ?_) ?_ _
    | refine Keeps.foldlP (g := Prod.snd) (fun s a h => ?_) ?_ _
    | split
    | dsimp only
    | fail_if_no_progress (with_reducible refine Keeps.upd ?_ rfl rfl rfl rfl)
    | with_reducible refine Keeps.of_fst (by with_reducible assumption) ?_
    | with_reducible refine Keeps.of_snd (by with_reducible assumption) ?_

theorem State.setSlot_keeps {u s : State} (h : Keeps u s) (n : Nat) (x : ParkSlot) :
    Keeps u (State.setSlot s n x) := by
  unfold State.setSlot
  repeat' first
    | with_reducible assumption
    | refine Keeps.foldl (fun s a h => ?_) ?_ _
    | refine Keeps.foldlP (g := Prod.fst) (fun s a h => ?_) ?_ _
    | refine Keeps.foldlP (g := Prod.snd) (fun s a h => ?_) ?_ _
    | split
    | dsimp only
    | fail_if_no_progress (with_reducible refine Keeps.upd ?_ rfl rfl rfl rfl)

theorem State.parkAt_keeps {u s : State} (h : Keeps u s) (j : Job) (i : Item) (r slot : Nat) :
    Keeps u (State.parkAt s j i r slot) := by
  unfold State.parkAt
  repeat' first
    | with_reducible assumption
    | with_reducible apply State.setRow_keeps
    | with_reducible apply State.dropLab_keeps
    | with_reducible apply State.sendPart_keeps
    | with_reducible apply State.dropBuilding_keeps
    | with_reducible apply State.moveVirt_keeps
    | with_reducible apply State.modJob_keeps
    | with_reducible apply State.modItem_keeps
    | with_reducible apply State.setSlot_keeps
    | refine Keeps.foldl (fun s a h => ?_) ?_ _

theorem State.parkJob_keeps {u s : State} (h : Keeps u s) (j : Job) (i : Item) :
    Keeps u (State.parkJob s j i) := by
  unfold State.parkJob
  repeat' first
    | with_reducible assumption
    | with_reducible apply State.endJob_keeps
    | with_reducible apply State.parkAt_keeps
    | refine Keeps.foldl (fun s a h => ?_) ?_ _
    | refine Keeps.foldlP (g := Prod.fst) (fun s a h => ?_) ?_ _
    | refine Keeps.foldlP (g := Prod.snd) (fun s a h => ?_) ?_ _
    | split

theorem State.parkEnds_keeps {u s : State} (h : Keeps u s) (j : Job) (i : Item) :
    Keeps u (State.parkEnds s j i) := by
  unfold State.parkEnds
  repeat' first
    | with_reducible assumption
    | with_reducible apply State.setRow_keeps
    | with_reducible apply State.sendPart_keeps
    | with_reducible apply State.endJob_keeps
    | with_reducible apply State.freeRow_keeps
    | with_reducible apply State.setSlot_keeps
    | refine Keeps.foldl (fun s a h => ?_) ?_ _
    | refine Keeps.foldlP (g := Prod.fst) (fun s a h => ?_) ?_ _
    | refine Keeps.foldlP (g := Prod.snd) (fun s a h => ?_) ?_ _
    | split
    | dsimp only
    | fail_if_no_progress (with_reducible refine Keeps.upd ?_ rfl rfl rfl rfl)

theorem State.takeRecords_keeps {u s : State} (h : Keeps u s) (t : Nat) (l : List Nat) :
    ∀ r, s.takeRecords t l = some r → Keeps u r.2 := by
  induction l generalizing s with
  | nil => rintro _ ⟨⟩; exact h
  | cons k l ih =>
    intro r e
    unfold State.takeRecords at e
    dsimp only at e
    split at e
    · cases e
    split at e
    · cases e
    · rename_i e'
      cases e
      have k := @ih _ (h.upd rfl rfl rfl rfl) _ e'
      exact k

theorem State.takeAllRecords_keeps {u s : State} (h : Keeps u s) (done : List (Nat × Nat)) (l : List MovedStream) :
    ∀ r, s.takeAllRecords done l = some r → Keeps u r.2 := by
  induction l generalizing s done with
  | nil => rintro _ ⟨⟩; exact h
  | cons m l ih =>
    intro r e
    unfold State.takeAllRecords at e
    split at e
    · cases e
    · rename_i e'
      exact ih (State.takeRecords_keeps h _ _ _ e') _ _ e

theorem State.moveCold_keeps {u s : State} (h : Keeps u s) (id : Nat) (t : Trans) (hv : HostView) (p : Nat × Nat) :
    Keeps u (State.moveCold s id t hv p) := by
  unfold State.moveCold
  repeat' first
    | with_reducible assumption
    | with_reducible apply State.fetch_keeps
    | with_reducible apply State.moveVirt_keeps
    | with_reducible apply State.modItem_keeps
    | refine Keeps.foldl (fun s a h => ?_) ?_ _
    | refine Keeps.foldlP (g := Prod.fst) (fun s a h => ?_) ?_ _
    | refine Keeps.foldlP (g := Prod.snd) (fun s a h => ?_) ?_ _
    | split
    | dsimp only

theorem State.unparkDrop_keeps {u s : State} (h : Keeps u s) (j : Job) :
    Keeps u (State.unparkDrop s j) := by
  unfold State.unparkDrop
  repeat' first
    | with_reducible assumption
    | with_reducible apply State.modJob_keeps
    | refine Keeps.foldl (fun s a h => ?_) ?_ _
    | refine Keeps.foldlP (g := Prod.fst) (fun s a h => ?_) ?_ _
    | refine Keeps.foldlP (g := Prod.snd) (fun s a h => ?_) ?_ _
    | split
    | dsimp only
    | fail_if_no_progress (with_reducible refine Keeps.upd ?_ rfl rfl rfl rfl)

theorem State.moveStream_keeps {u s : State} (h : Keeps u s) (moves : List (Nat × Nat)) (m : MovedStream) (supply : List Nat) :
    Keeps u (State.moveStream s moves m supply).1 := by
  unfold State.moveStream
  repeat' first
    | with_reducible assumption
    | with_reducible apply State.setMapAt_keeps
    | with_reducible apply State.giveBlock_keeps
    | with_reducible apply State.copyBlocks_keeps
    | refine Keeps.foldl (fun s a h => ?_) ?_ _
    | refine Keeps.foldlP (g := Prod.fst) (fun s a h => ?_) ?_ _
    | refine Keeps.foldlP (g := Prod.snd) (fun s a h => ?_) ?_ _
    | split

theorem State.unparkAt_keeps {u s : State} (h : Keeps u s) (j : Job) (b : List Byte) (r : Nat) (ms : List MovedStream) (bs : List (Nat × Nat)) :
    Keeps u (State.unparkAt s j b r ms bs) := by
  unfold State.unparkAt
  repeat' first
    | with_reducible assumption
    | with_reducible apply State.setRow_keeps
    | with_reducible apply State.setDir_keeps
    | with_reducible apply State.sendPart_keeps
    | with_reducible apply State.modJob_keeps
    | with_reducible apply State.modItem_keeps
    | with_reducible apply State.endJob_keeps
    | with_reducible apply State.setSlot_keeps
    | with_reducible apply State.moveStream_keeps
    | refine Keeps.foldl (fun s a h => ?_) ?_ _
    | refine Keeps.foldlP (g := Prod.fst) (fun s a h => ?_) ?_ _
    | refine Keeps.foldlP (g := Prod.snd) (fun s a h => ?_) ?_ _
    | split
    | dsimp only
    | fail_if_no_progress (with_reducible refine Keeps.upd ?_ rfl rfl rfl rfl)

theorem State.translateOn_keeps {u s : State} (h : Keeps u s) (who : Waiter) (got : Trans) (l : List (Nat × List Need)) :
    Keeps u (s.translateOn who got l).state := by
  induction l generalizing s got with
  | nil => exact h
  | cons p rest ih =>
    have k := State.translateAll_keeps h p.1 who p.2
    unfold State.translateOn
    split
    · exact ih (Translated.ok_keeps ‹_› k) _
    · exact k

theorem State.unparkGo_keeps {u s : State} (h : Keeps u s) (j : Job) (b : List Byte) (r : Nat) (hv : HostView) :
    Keeps u (s.unparkGo j b r hv) := by
  unfold State.unparkGo
  dsimp only
  split
  · exact h
  split
  · split
    · exact State.endJob_keeps (State.bumpTile_keeps (State.bumpTile_keeps (State.unparkDrop_keeps h _) _ _ _) _ _ _) _ _ _
    · rename_i e₁
      exact State.unparkAt_keeps (State.takeAllBlocks_keeps h _ _ _ e₁) _ _ _ _ _
  split
  · exact State.endJob_keeps (State.unparkDrop_keeps h _) _ _ _
  rename_i e'
  have g := fun l => State.translateOn_keeps (State.takeAllRecords_keeps h _ _ _ e') (.item j.id 0) [] l
  split
  · rename_i s' e₂
    have w : Keeps u s' := Translated.wait_keeps e₂ (g _)
    exact State.modJob_keeps (w.upd rfl rfl rfl rfl) _ _
  · exact State.endJob_keeps (State.unparkDrop_keeps (Translated.failed_keeps ‹_› (g _)) _) _ _ _
  · exact Keeps.foldl (fun _ _ h => State.moveCold_keeps h _ _ _ _)
      (State.modJob_keeps (Translated.ok_keeps ‹_› (g _)) _ _) _

theorem State.unparkJob_keeps {u s : State} (h : Keeps u s) (j : Job) (i : Item) (hv : HostView) :
    Keeps u (State.unparkJob s j i hv) := by
  unfold State.unparkJob
  repeat' first
    | with_reducible assumption
    | with_reducible apply State.endJob_keeps
    | with_reducible apply State.unparkDrop_keeps
    | with_reducible apply State.unparkGo_keeps
    | refine Keeps.foldl (fun s a h => ?_) ?_ _
    | refine Keeps.foldlP (g := Prod.fst) (fun s a h => ?_) ?_ _
    | refine Keeps.foldlP (g := Prod.snd) (fun s a h => ?_) ?_ _
    | split
    | dsimp only

theorem State.cutMap_keeps {u s : State} (h : Keeps u s) (r st pages : Nat) :
    Keeps u (State.cutMap s r st pages) := by
  unfold State.cutMap
  repeat' first
    | with_reducible assumption
    | with_reducible apply State.setDir_keeps
    | with_reducible apply State.setMapAt_keeps
    | with_reducible apply State.giveBlock_keeps
    | with_reducible apply State.releaseFrom_keeps
    | refine Keeps.foldl (fun s a h => ?_) ?_ _
    | refine Keeps.foldlP (g := Prod.fst) (fun s a h => ?_) ?_ _
    | refine Keeps.foldlP (g := Prod.snd) (fun s a h => ?_) ?_ _
    | split

theorem State.cutPage_keeps {u s : State} (h : Keeps u s) (id r cls st p rows : Nat) (b : Boundary) (pages : List (Nat × Page)) :
    Keeps u (State.cutPage s id r cls st p rows b pages) := by
  unfold State.cutPage
  repeat' first
    | with_reducible assumption
    | with_reducible apply State.setFrame_keeps
    | with_reducible apply State.unrefFrame_keeps
    | with_reducible apply State.placePage_keeps
    | refine Keeps.foldl (fun s a h => ?_) ?_ _
    | refine Keeps.foldlP (g := Prod.fst) (fun s a h => ?_) ?_ _
    | refine Keeps.foldlP (g := Prod.snd) (fun s a h => ?_) ?_ _
    | split
    | dsimp only
    | fail_if_no_progress (with_reducible refine Keeps.upd ?_ rfl rfl rfl rfl)

theorem State.cutAll_keeps {u s : State} (h : Keeps u s) (j : Job) (r n : Nat) (bs : List (Nat × Boundary)) (pages : List (Nat × Page)) :
    Keeps u (State.cutAll s j r n bs pages) := by
  unfold State.cutAll
  repeat' first
    | with_reducible assumption
    | with_reducible apply State.setRow_keeps
    | with_reducible apply State.sendPart_keeps
    | with_reducible apply State.dropBuilding_keeps
    | with_reducible apply State.endJob_keeps
    | with_reducible apply State.cutMap_keeps
    | with_reducible apply State.cutPage_keeps
    | refine Keeps.foldl (fun s a h => ?_) ?_ _
    | refine Keeps.foldlP (g := Prod.fst) (fun s a h => ?_) ?_ _
    | refine Keeps.foldlP (g := Prod.snd) (fun s a h => ?_) ?_ _
    | split

theorem State.cutAcquire_keeps {u s : State} (h : Keeps u s) (j : Job) (i : Item) (r n : Nat) (bs : List (Nat × Boundary)) :
    Keeps u (State.cutAcquire s j i r n bs).1 := by
  unfold State.cutAcquire
  repeat' first
    | with_reducible assumption
    | with_reducible apply State.bumpTile_keeps
    | with_reducible apply State.charge_keeps
    | with_reducible apply State.discharge_keeps
    | with_reducible apply State.modItem_keeps
    | with_reducible apply State.acquireFrames_keeps
    | with_reducible apply State.pump_keeps
    | with_reducible apply State.markTarget_keeps
    | with_reducible apply State.endJob_keeps
    | refine Keeps.foldl (fun s a h => ?_) ?_ _
    | refine Keeps.foldlP (g := Prod.fst) (fun s a h => ?_) ?_ _
    | refine Keeps.foldlP (g := Prod.snd) (fun s a h => ?_) ?_ _
    | split
    | dsimp only
    | fail_if_no_progress (with_reducible refine Keeps.upd ?_ rfl rfl rfl rfl)
    | with_reducible refine Keeps.of_fst (by with_reducible assumption) ?_
    | with_reducible refine Keeps.of_snd (by with_reducible assumption) ?_
    | with_reducible refine Frames.ok_keeps (by with_reducible assumption) ?_
    | with_reducible refine Frames.wait_keeps (by with_reducible assumption) ?_
    | with_reducible refine Frames.none_keeps (by with_reducible assumption) ?_

theorem State.cutCorrupt_keeps {u s : State} (h : Keeps u s) (id r cls st p : Nat) (bs : List (Nat × Boundary)) (hv : HostView) (tr : Trans) :
    Keeps u (State.cutCorrupt s id r cls st p bs hv tr) := by
  unfold State.cutCorrupt
  repeat' first
    | with_reducible assumption
    | with_reducible apply State.bumpTile_keeps
    | with_reducible apply State.setFrame_keeps
    | with_reducible apply State.setPage_keeps
    | with_reducible apply State.frameBad_keeps
    | with_reducible apply State.useAcq_keeps
    | refine Keeps.foldl (fun s a h => ?_) ?_ _
    | refine Keeps.foldlP (g := Prod.fst) (fun s a h => ?_) ?_ _
    | refine Keeps.foldlP (g := Prod.snd) (fun s a h => ?_) ?_ _
    | split
    | dsimp only
    | fail_if_no_progress (with_reducible refine Keeps.upd ?_ rfl rfl rfl rfl)

theorem State.cutJob_keeps {u s : State} (h : Keeps u s) (j : Job) (i : Item) (r n : Nat) (hv : HostView) :
    Keeps u (State.cutJob s j i r n hv) := by
  unfold State.cutJob
  repeat' first
    | with_reducible assumption
    | with_reducible apply State.translateAll_keeps
    | with_reducible apply State.modItem_keeps
    | with_reducible apply State.joinRecall_keeps
    | with_reducible apply State.endJob_keeps
    | with_reducible apply State.cutAll_keeps
    | with_reducible apply State.cutAcquire_keeps
    | with_reducible apply State.cutCorrupt_keeps
    | refine Keeps.foldl (fun s a h => ?_) ?_ _
    | refine Keeps.foldlP (g := Prod.fst) (fun s a h => ?_) ?_ _
    | refine Keeps.foldlP (g := Prod.snd) (fun s a h => ?_) ?_ _
    | split
    | dsimp only
    | fail_if_no_progress (with_reducible refine Keeps.upd ?_ rfl rfl rfl rfl)
    | with_reducible refine Keeps.of_fst (by with_reducible assumption) ?_
    | with_reducible refine Keeps.of_snd (by with_reducible assumption) ?_
    | with_reducible refine Translated.ok_keeps (by with_reducible assumption) ?_
    | with_reducible refine Translated.wait_keeps (by with_reducible assumption) ?_
    | with_reducible refine Translated.failed_keeps (by with_reducible assumption) ?_

theorem State.truncateJob_keeps {u s : State} (h : Keeps u s) (j : Job) (i : Item) (hv : HostView) :
    Keeps u (State.truncateJob s j i hv) := by
  unfold State.truncateJob
  repeat' first
    | with_reducible assumption
    | with_reducible apply State.endJob_keeps
    | with_reducible apply State.cutJob_keeps
    | refine Keeps.foldl (fun s a h => ?_) ?_ _
    | refine Keeps.foldlP (g := Prod.fst) (fun s a h => ?_) ?_ _
    | refine Keeps.foldlP (g := Prod.snd) (fun s a h => ?_) ?_ _
    | split
    | dsimp only

end Sys2Proof.Machine
end

