-- ==== Sys2Proof/Laws/KeepAttend.lean ====
section
/-! SUPPORT. What the operations of Machine/Attend.lean keep. -/

namespace Sys2Proof.Machine

theorem State.stageItem_keeps {u s : State} (h : Keeps u s) (j : Job) (k : Nat) (i : Item) (e : Entry) (r : Nat) (hv : HostView) :
    Keeps u (State.stageItem s j k i e r hv).1 := by
  unfold State.stageItem
  repeat' first
    | with_reducible assumption
    | with_reducible apply State.failItem_keeps
    | with_reducible apply State.took_keeps
    | with_reducible apply State.acquireAppend_keeps
    | refine Keeps.foldl (fun s a h => ?_) ?_ _
    | refine Keeps.foldlP (g := Prod.fst) (fun s a h => ?_) ?_ _
    | refine Keeps.foldlP (g := Prod.snd) (fun s a h => ?_) ?_ _
    | split
    | dsimp only

theorem State.appendItem_keeps {u s : State} (h : Keeps u s) (j : Job) (k : Nat) (i : Item) (hv : HostView) :
    Keeps u (State.appendItem s j k i hv) := by
  unfold State.appendItem
  repeat' first
    | with_reducible assumption
    | with_reducible apply State.modItem_keeps
    | with_reducible apply State.stageItem_keeps
    | refine Keeps.foldl (fun s a h => ?_) ?_ _
    | refine Keeps.foldlP (g := Prod.fst) (fun s a h => ?_) ?_ _
    | refine Keeps.foldlP (g := Prod.snd) (fun s a h => ?_) ?_ _
    | split
    | dsimp only
    | fail_if_no_progress (with_reducible refine Keeps.upd ?_ rfl rfl rfl rfl)
    | with_reducible refine Keeps.of_fst (by with_reducible assumption) ?_

theorem State.commitItem_keeps {u s : State} (h : Keeps u s) (j : Job) (k : Nat) (e : Entry) :
    Keeps u (State.commitItem s j k e) := by
  unfold State.commitItem
  repeat' first
    | with_reducible assumption
    | with_reducible apply State.sendPart_keeps
    | with_reducible apply State.commitAppend_keeps
    | refine Keeps.foldl (fun s a h => ?_) ?_ _
    | refine Keeps.foldlP (g := Prod.fst) (fun s a h => ?_) ?_ _
    | refine Keeps.foldlP (g := Prod.snd) (fun s a h => ?_) ?_ _
    | split

theorem State.commitContext_keeps {u s : State} (h : Keeps u s) (id handle : Nat) :
    Keeps u (State.commitContext s id handle) := by
  unfold State.commitContext
  repeat' first
    | with_reducible assumption
    | with_reducible apply State.setApp_keeps
    | with_reducible apply State.commitItem_keeps
    | refine Keeps.foldl (fun s a h => ?_) ?_ _
    | refine Keeps.foldlP (g := Prod.fst) (fun s a h => ?_) ?_ _
    | refine Keeps.foldlP (g := Prod.snd) (fun s a h => ?_) ?_ _
    | split
    | dsimp only

theorem State.failContextRows_keeps {u s : State} (h : Keeps u s) (id handle status : Nat) :
    Keeps u (State.failContextRows s id handle status) := by
  unfold State.failContextRows
  repeat' first
    | with_reducible assumption
    | with_reducible apply State.setApp_keeps
    | with_reducible apply State.failItem_keeps
    | refine Keeps.foldl (fun s a h => ?_) ?_ _
    | refine Keeps.foldlP (g := Prod.fst) (fun s a h => ?_) ?_ _
    | refine Keeps.foldlP (g := Prod.snd) (fun s a h => ?_) ?_ _
    | split
    | dsimp only

theorem State.holdPages_keeps {u s : State} (h : Keeps u s) (j : Job) (k : Nat) (i : Item) (e : Entry) (r : Nat) (ps : List Nat) :
    Keeps u (State.holdPages s j k i e r ps).1 := by
  unfold State.holdPages
  repeat' first
    | with_reducible assumption
    | with_reducible apply State.modItem_keeps
    | with_reducible apply State.pump_keeps
    | with_reducible apply State.exhausted_keeps
    | with_reducible apply State.pinAll_keeps
    | with_reducible apply State.findPages_keeps
    | with_reducible refine State.recallFound_keeps ?_ _ _ _ _ _
    | with_reducible refine State.pagesFail_keeps ?_ _ _ _ _ _
    | refine Keeps.foldl (fun s a h => ?_) ?_ _
    | refine Keeps.foldlP (g := Prod.fst) (fun s a h => ?_) ?_ _
    | refine Keeps.foldlP (g := Prod.snd) (fun s a h => ?_) ?_ _
    | split
    | dsimp only
    | fail_if_no_progress (with_reducible refine Keeps.upd ?_ rfl rfl rfl rfl)
    | with_reducible refine Keeps.of_fst (by with_reducible assumption) ?_
    | with_reducible refine Keeps.of_snd (by with_reducible assumption) ?_
    | with_reducible refine Keeps.some_one (by with_reducible assumption) ?_

theorem State.bindRows_keeps {u s : State} (h : Keeps u s) (j : Job) (k : Nat) (i : Item) (e : Entry) (v : RowEnv) :
    Keeps u (State.bindRows s j k i e v).1 := by
  unfold State.bindRows
  repeat' first
    | with_reducible assumption
    | with_reducible apply State.modItem_keeps
    | with_reducible apply State.failItem_keeps
    | with_reducible apply State.holdPages_keeps
    | refine Keeps.foldl (fun s a h => ?_) ?_ _
    | refine Keeps.foldlP (g := Prod.fst) (fun s a h => ?_) ?_ _
    | refine Keeps.foldlP (g := Prod.snd) (fun s a h => ?_) ?_ _
    | split
    | dsimp only

theorem State.rowLeaf_keeps {u s : State} (h : Keeps u s) (v : RowEnv) (i : Item) (x : RowAt) (p : Nat) :
    Keeps u (State.rowLeaf s v i x p).2 := by
  unfold State.rowLeaf
  repeat' first
    | with_reducible assumption
    | with_reducible apply State.took_keeps
    | refine Keeps.foldl (fun s a h => ?_) ?_ _
    | refine Keeps.foldlP (g := Prod.fst) (fun s a h => ?_) ?_ _
    | refine Keeps.foldlP (g := Prod.snd) (fun s a h => ?_) ?_ _
    | split

theorem State.rowLeaves_keeps {u s : State} (h : Keeps u s) (v : RowEnv) (i : Item) (x : RowAt) (ps : List Nat) :
    Keeps u (State.rowLeaves s v i x ps).2 := by
  unfold State.rowLeaves
  repeat' first
    | with_reducible assumption
    | with_reducible apply State.rowLeaf_keeps
    | refine Keeps.foldl (fun s a h => ?_) ?_ _
    | refine Keeps.foldlP (g := Prod.fst) (fun s a h => ?_) ?_ _
    | refine Keeps.foldlP (g := Prod.snd) (fun s a h => ?_) ?_ _

theorem State.skipLeaf_keeps {u s : State} (h : Keeps u s) (v : RowEnv) (i : Item) (theta : Word) (x : RowAt)
    (ma : Word) (p : Nat) : Keeps u (s.skipLeaf v i theta x ma p).2.2 := by
  unfold State.skipLeaf
  split
  · exact h
  dsimp only
  split
  · exact State.rowLeaf_keeps h _ _ _ _
  split
  · exact State.bumpTile_keeps (State.took_keeps h _ _ _ _) _ _ _
  · exact State.rowLeaf_keeps (State.took_keeps h _ _ _ _) _ _ _ _

theorem State.skipLeaves_keeps {u s : State} (h : Keeps u s) (v : RowEnv) (i : Item) (theta : Word) (x : RowAt)
    (n : Nat) : Keeps u (s.skipLeaves v i theta x n).2.2 :=
  Keeps.foldlP (g := fun x : List TreeNode × Nat × State => x.2.2) (fun _ _ h => State.skipLeaf_keeps h _ _ _ _ _ _)
    (State.rowLeaves_keeps h v i x _) _

theorem State.forwardRow_keeps {u s : State} (h : Keeps u s) (j : Job) (k : Nat) (i : Item) (e : Entry) (v : RowEnv) (x : RowIn) :
    Keeps u (s.forwardRow j k i e v x) := by
  unfold State.forwardRow
  refine State.modItem_keeps ?_ _ _ _
  split
  · exact State.skipLeaves_keeps (State.took_keeps h _ _ _ _) _ _ _ _ _
  · exact State.rowLeaves_keeps (State.took_keeps h _ _ _ _) _ _ _ _

theorem State.placeLate_keeps {u s : State} (h : Keeps u s) (j : Job) (k : Nat) (i : Item) (e : Entry) (v : RowEnv) :
    Keeps u (State.placeLate s j k i e v) := by
  unfold State.placeLate
  repeat' first
    | with_reducible assumption
    | with_reducible apply State.placeLeaves_keeps
    | refine Keeps.foldl (fun s a h => ?_) ?_ _
    | refine Keeps.foldlP (g := Prod.fst) (fun s a h => ?_) ?_ _
    | refine Keeps.foldlP (g := Prod.snd) (fun s a h => ?_) ?_ _
    | split

theorem State.attendRows_keeps {u s : State} (h : Keeps u s) (j : Job) (k : Nat) (e : Entry) (hv : HostView) :
    Keeps u (State.attendRows s j k e hv) := by
  unfold State.attendRows
  repeat' first
    | with_reducible assumption
    | with_reducible apply State.modItem_keeps
    | with_reducible apply State.failItem_keeps
    | with_reducible apply State.withMerge_keeps
    | with_reducible apply State.bindRows_keeps
    | with_reducible apply State.forwardRow_keeps
    | with_reducible apply State.placeLate_keeps
    | refine Keeps.foldl (fun s a h => ?_) ?_ _
    | refine Keeps.foldlP (g := Prod.fst) (fun s a h => ?_) ?_ _
    | refine Keeps.foldlP (g := Prod.snd) (fun s a h => ?_) ?_ _
    | split
    | dsimp only

theorem State.attendItem_keeps {u s : State} (h : Keeps u s) (j : Job) (k : Nat) (i : Item) (hv : HostView) :
    Keeps u (State.attendItem s j k i hv) := by
  unfold State.attendItem
  repeat' first
    | with_reducible assumption
    | with_reducible apply State.modItem_keeps
    | with_reducible apply State.setApp_keeps
    | with_reducible apply State.stageItem_keeps
    | with_reducible apply State.commitContext_keeps
    | with_reducible apply State.attendRows_keeps
    | refine Keeps.foldl (fun s a h => ?_) ?_ _
    | refine Keeps.foldlP (g := Prod.fst) (fun s a h => ?_) ?_ _
    | refine Keeps.foldlP (g := Prod.snd) (fun s a h => ?_) ?_ _
    | split
    | dsimp only
    | fail_if_no_progress (with_reducible refine Keeps.upd ?_ rfl rfl rfl rfl)
    | with_reducible refine Keeps.of_fst (by with_reducible assumption) ?_

theorem State.mergeForward_keeps {u s : State} (h : Keeps u s) (j : Job) (k : Nat) (i : Item) (target lo n : Nat) :
    Keeps u (State.mergeForward s j k i target lo n) := by
  unfold State.mergeForward
  repeat' first
    | with_reducible assumption
    | with_reducible apply State.modItem_keeps
    | with_reducible apply State.took_keeps
    | refine Keeps.foldl (fun s a h => ?_) ?_ _
    | refine Keeps.foldlP (g := Prod.fst) (fun s a h => ?_) ?_ _
    | refine Keeps.foldlP (g := Prod.snd) (fun s a h => ?_) ?_ _
    | split

end Sys2Proof.Machine
end

