-- ==== Sys2Proof/Laws/KeepBackward.lean ====
section
/-! SUPPORT. What the operations of Machine/Backward.lean keep. -/

namespace Sys2Proof.Machine

theorem State.bwdPages_keeps {u s : State} (h : Keeps u s) (x : RowAt) (v : RowEnv) (i : Item) (r : BwdRow) (n : Nat) :
    Keeps u (State.bwdPages s x v i r n).2 := by
  unfold State.bwdPages
  repeat' first
    | with_reducible assumption
    | with_reducible apply State.took_keeps
    | refine Keeps.foldl (fun s a h => ?_) ?_ _
    | refine Keeps.foldlP (g := Prod.fst) (fun s a h => ?_) ?_ _
    | refine Keeps.foldlP (g := Prod.snd) (fun s a h => ?_) ?_ _
    | split

theorem State.bwdDq_keeps {u s : State} (h : Keeps u s) (x : RowAt) (v : RowEnv) (i : Item) (n : Nat) (slots : List (Nat × List BwdSlot)) :
    Keeps u (State.bwdDq s x v i n slots).2 := by
  unfold State.bwdDq
  repeat' first
    | with_reducible assumption
    | with_reducible apply State.took_keeps
    | refine Keeps.foldl (fun s a h => ?_) ?_ _
    | refine Keeps.foldlP (g := Prod.fst) (fun s a h => ?_) ?_ _
    | refine Keeps.foldlP (g := Prod.snd) (fun s a h => ?_) ?_ _
    | split

theorem State.bwdRow_keeps {u s : State} (h : Keeps u s) (j : Job) (k : Nat) (i : Item) (e : Entry) (v : RowEnv) (x : BwdIn) :
    Keeps u (State.bwdRow s j k i e v x).2 := by
  unfold State.bwdRow
  repeat' first
    | with_reducible assumption
    | with_reducible apply State.took_keeps
    | with_reducible apply State.bwdPages_keeps
    | with_reducible apply State.bwdDq_keeps

theorem State.pageKeys_keeps {u s : State} (h : Keeps u s) (x : RowAt) (v : RowEnv) (i : Item) (rows : List (Option BwdDone)) (n p : Nat) :
    Keeps u (State.pageKeys s x v i rows n p).2 := by
  unfold State.pageKeys
  repeat' first
    | with_reducible assumption
    | with_reducible apply State.took_keeps
    | refine Keeps.foldl (fun s a h => ?_) ?_ _
    | refine Keeps.foldlP (g := Prod.fst) (fun s a h => ?_) ?_ _
    | refine Keeps.foldlP (g := Prod.snd) (fun s a h => ?_) ?_ _
    | split

theorem State.allKeys_keeps {u s : State} (h : Keeps u s) (x : RowAt) (v : RowEnv) (i : Item) (rows : List (Option BwdDone)) (n : Nat) :
    Keeps u (State.allKeys s x v i rows n).2 := by
  unfold State.allKeys
  repeat' first
    | with_reducible assumption
    | with_reducible apply State.pageKeys_keeps
    | refine Keeps.foldl (fun s a h => ?_) ?_ _
    | refine Keeps.foldlP (g := Prod.fst) (fun s a h => ?_) ?_ _
    | refine Keeps.foldlP (g := Prod.snd) (fun s a h => ?_) ?_ _

theorem State.bwdRows_keeps {u s : State} (h : Keeps u s) (j : Job) (k : Nat) (i : Item) (e : Entry) (v : RowEnv) (xs : List BwdIn) :
    Keeps u (State.bwdRows s j k i e v xs).2 := by
  unfold State.bwdRows
  repeat' first
    | with_reducible assumption
    | with_reducible apply State.bwdRow_keeps
    | refine Keeps.foldl (fun s a h => ?_) ?_ _
    | refine Keeps.foldlP (g := Prod.fst) (fun s a h => ?_) ?_ _
    | refine Keeps.foldlP (g := Prod.snd) (fun s a h => ?_) ?_ _

theorem State.bwdItem_keeps {u s : State} (h : Keeps u s) (j : Job) (k : Nat) (i : Item) (e : Entry) (v : RowEnv) (xs : List BwdIn) :
    Keeps u (State.bwdItem s j k i e v xs) := by
  unfold State.bwdItem
  repeat' first
    | with_reducible assumption
    | with_reducible apply State.block_keeps
    | with_reducible apply State.modItem_keeps
    | with_reducible apply State.allKeys_keeps
    | with_reducible apply State.bwdRows_keeps

theorem State.backwardItem_keeps {u s : State} (h : Keeps u s) (j : Job) (k : Nat) (i : Item) (hv : HostView) :
    Keeps u (State.backwardItem s j k i hv) := by
  unfold State.backwardItem
  repeat' first
    | with_reducible assumption
    | with_reducible apply State.failItem_keeps
    | with_reducible apply State.withMerge_keeps
    | with_reducible apply State.bindRows_keeps
    | with_reducible apply State.bwdItem_keeps
    | refine Keeps.foldl (fun s a h => ?_) ?_ _
    | refine Keeps.foldlP (g := Prod.fst) (fun s a h => ?_) ?_ _
    | refine Keeps.foldlP (g := Prod.snd) (fun s a h => ?_) ?_ _
    | split
    | dsimp only

theorem State.keepNodes_keeps {u s : State} (h : Keeps u s) (id k r : Nat) (i : Item) (cs : List (FM GradNode)) :
    Keeps u (State.keepNodes s id k r i cs) := by
  unfold State.keepNodes
  repeat' first
    | with_reducible assumption
    | with_reducible apply State.modItem_keeps
    | with_reducible apply State.took_keeps
    | refine Keeps.foldl (fun s a h => ?_) ?_ _

theorem State.mergeBackward_keeps {u s : State} (h : Keeps u s) (j : Job) (k : Nat) (i : Item) (target lo n : Nat) :
    Keeps u (State.mergeBackward s j k i target lo n) := by
  unfold State.mergeBackward
  repeat' first
    | with_reducible assumption
    | with_reducible apply State.modItem_keeps
    | with_reducible apply State.took_keeps
    | with_reducible apply State.keepNodes_keeps
    | refine Keeps.foldl (fun s a h => ?_) ?_ _
    | refine Keeps.foldlP (g := Prod.fst) (fun s a h => ?_) ?_ _
    | refine Keeps.foldlP (g := Prod.snd) (fun s a h => ?_) ?_ _
    | split
    | dsimp only

theorem State.mergeNode_keeps {u s : State} (h : Keeps u s) (id k target lo n : Nat) :
    Keeps u (State.mergeNode s id k target lo n) := by
  unfold State.mergeNode
  repeat' first
    | with_reducible assumption
    | with_reducible apply State.mergeForward_keeps
    | with_reducible apply State.mergeBackward_keeps
    | refine Keeps.foldl (fun s a h => ?_) ?_ _
    | refine Keeps.foldlP (g := Prod.fst) (fun s a h => ?_) ?_ _
    | refine Keeps.foldlP (g := Prod.snd) (fun s a h => ?_) ?_ _
    | split

theorem State.atomicAdd_keeps {u s : State} (h : Keeps u s) (id k row source : Nat) :
    Keeps u (State.atomicAdd s id k row source) := by
  unfold State.atomicAdd
  repeat' first
    | with_reducible assumption
    | with_reducible apply State.bumpTile_keeps
    | with_reducible apply State.modItem_keeps
    | refine Keeps.foldl (fun s a h => ?_) ?_ _
    | refine Keeps.foldlP (g := Prod.fst) (fun s a h => ?_) ?_ _
    | refine Keeps.foldlP (g := Prod.snd) (fun s a h => ?_) ?_ _
    | split

theorem State.keyWave_keeps {u s : State} (h : Keeps u s) (j : Job) (k : Nat) (i : Item) (e : Entry) (wave : Nat) :
    Keeps u (State.keyWave s j k i e wave) := by
  unfold State.keyWave
  repeat' first
    | with_reducible assumption
    | with_reducible apply State.bumpTile_keeps
    | with_reducible apply State.modJob_keeps
    | with_reducible apply State.keepNodes_keeps
    | refine Keeps.foldl (fun s a h => ?_) ?_ _
    | refine Keeps.foldlP (g := Prod.fst) (fun s a h => ?_) ?_ _
    | refine Keeps.foldlP (g := Prod.snd) (fun s a h => ?_) ?_ _
    | split
    | dsimp only

theorem State.rowWave_keeps {u s : State} (h : Keeps u s) (j : Job) (k : Nat) (i : Item) (row wave : Nat) :
    Keeps u (State.rowWave s j k i row wave) := by
  unfold State.rowWave
  repeat' first
    | with_reducible assumption
    | with_reducible apply State.bumpTile_keeps
    | with_reducible apply State.modItem_keeps
    | with_reducible apply State.took_keeps
    | refine Keeps.foldl (fun s a h => ?_) ?_ _
    | refine Keeps.foldlP (g := Prod.fst) (fun s a h => ?_) ?_ _
    | refine Keeps.foldlP (g := Prod.snd) (fun s a h => ?_) ?_ _
    | split

theorem State.waveFold_keeps {u s : State} (h : Keeps u s) (id target wave : Nat) :
    Keeps u (State.waveFold s id target wave) := by
  unfold State.waveFold
  repeat' first
    | with_reducible assumption
    | with_reducible apply State.keyWave_keeps
    | with_reducible apply State.rowWave_keeps
    | refine Keeps.foldl (fun s a h => ?_) ?_ _
    | refine Keeps.foldlP (g := Prod.fst) (fun s a h => ?_) ?_ _
    | refine Keeps.foldlP (g := Prod.snd) (fun s a h => ?_) ?_ _
    | split
    | dsimp only

end Sys2Proof.Machine
end

