-- ==== Sys2Proof/Laws/KeepCoreFault.lean ====
section
/-! SUPPORT. What the operations of Machine/CoreFault.lean keep. -/

namespace Sys2Proof.Machine

theorem State.coreFault_keeps {u s : State} (h : Keeps u s) (c : CoreId) (kind : Nat) :
    Keeps u (State.coreFault s c kind) := by
  unfold State.coreFault
  repeat' first
    | with_reducible assumption
    | with_reducible apply State.bumpTile_keeps
    | with_reducible apply State.raise_keeps
    | with_reducible apply State.retryItem_keeps
    | refine Keeps.foldl (fun s a h => ?_) ?_ _
    | refine Keeps.foldlP (g := Prod.fst) (fun s a h => ?_) ?_ _
    | refine Keeps.foldlP (g := Prod.snd) (fun s a h => ?_) ?_ _
    | split
    | dsimp only
    | fail_if_no_progress (with_reducible refine Keeps.upd ?_ rfl rfl rfl rfl)

end Sys2Proof.Machine
end

