-- ==== Sys2Proof/Laws/KeepPrefixJobs.lean ====
section
/-! SUPPORT. What the operations of Machine/PrefixJobs.lean keep. -/

namespace Sys2Proof.Machine

theorem State.touchNodes_keeps {u s : State} (h : Keeps u s) (ns : List Nat) :
    Keeps u (State.touchNodes s ns) := by
  unfold State.touchNodes
  repeat' first
    | with_reducible assumption
    | with_reducible apply State.setNode_keeps
    | refine Keeps.foldl (fun s a h => ?_) ?_ _

theorem State.cacheTree_keeps {u s : State} (h : Keeps u s) (hashes nodes : List Nat) :
    Keeps u (State.cacheTree s hashes nodes) := by
  unfold State.cacheTree
  repeat' first
    | with_reducible assumption
    | refine Keeps.foldl (fun s a h => ?_) ?_ _
    | refine Keeps.foldlP (g := Prod.fst) (fun s a h => ?_) ?_ _
    | refine Keeps.foldlP (g := Prod.snd) (fun s a h => ?_) ?_ _
    | split
    | dsimp only
    | fail_if_no_progress (with_reducible refine Keeps.upd ?_ rfl rfl rfl rfl)

theorem State.matchPages_keeps {u s : State} (h : Keeps u s) (c : RunCtl) (tile id : Nat) (hv : HostView) (bad : List BadCompare)
    (hs : List Nat) (i : Nat) (toks : List Byte) (got : List Nat) :
    Keeps u (s.matchPages c tile id hv bad hs i toks got).2.2 := by
  induction hs generalizing s i toks got with
  | nil => exact h
  | cons a l ih =>
    unfold State.matchPages
    split
    · exact h
    rename_i n _
    rw [apply_ite (fun x : List Nat × MatchEnd × State => x.2.2)]
    refine Keeps.ite (fun _ => h) (fun _ => ?_)
    have g := State.translateAll_keeps h tile (.item id 0) (needs (s.slotAddr n) (4 * c.span) 0 true)
    split
    · exact Translated.wait_keeps ‹_› g
    · exact Translated.failed_keeps ‹_› g
    · have k := State.fetch_keeps (Translated.ok_keeps ‹_› g) tile (.tokens id) (runFetches [(s.slotAddr n, 4 * c.span)])
      dsimp only
      split
      · exact k
      split
      · refine State.bump_keeps ?_ _ _
        split
        · exact State.coreFault_keeps k _ _
        · exact k
      · rw [apply_ite (fun x : List Nat × MatchEnd × State => x.2.2)]
        exact Keeps.ite (fun _ => ih k _ _ _) (fun _ => State.bump_keeps k _ _)

theorem State.lockNodes_keeps {u s : State} (h : Keeps u s) (j : Job) (ns : List Nat) :
    Keeps u (State.lockNodes s j ns) := by
  unfold State.lockNodes
  repeat' first
    | with_reducible assumption
    | with_reducible apply State.setNode_keeps
    | with_reducible apply State.modJob_keeps
    | refine Keeps.foldl (fun s a h => ?_) ?_ _

theorem State.mapNode_keeps {u s : State} (h : Keeps u s) (id r i n : Nat) :
    Keeps u (State.mapNode s id r i n) := by
  unfold State.mapNode
  repeat' first
    | with_reducible assumption
    | with_reducible apply State.refFrame_keeps
    | with_reducible apply State.setDir_keeps
    | with_reducible apply State.growMap_keeps
    | with_reducible apply State.setPage_keeps
    | with_reducible apply State.modItem_keeps
    | refine Keeps.foldl (fun s a h => ?_) ?_ _
    | refine Keeps.foldlP (g := Prod.fst) (fun s a h => ?_) ?_ _
    | refine Keeps.foldlP (g := Prod.snd) (fun s a h => ?_) ?_ _
    | split

theorem State.lookupMap_keeps {u s : State} (h : Keeps u s) (j : Job) (r : Nat) (ns : List Nat) :
    Keeps u (State.lookupMap s j r ns) := by
  unfold State.lookupMap
  repeat' first
    | with_reducible assumption
    | with_reducible apply State.bump_keeps
    | with_reducible apply State.bumpTile_keeps
    | with_reducible apply State.sendPart_keeps
    | with_reducible apply State.modItem_keeps
    | with_reducible apply State.takeAllBlocks_keeps
    | with_reducible apply State.endJob_keeps
    | with_reducible apply State.touchNodes_keeps
    | with_reducible apply State.mapNode_keeps
    | refine Keeps.foldl (fun s a h => ?_) ?_ _
    | refine Keeps.foldlP (g := Prod.fst) (fun s a h => ?_) ?_ _
    | refine Keeps.foldlP (g := Prod.snd) (fun s a h => ?_) ?_ _
    | split
    | dsimp only
    | fail_if_no_progress (with_reducible refine Keeps.upd ?_ rfl rfl rfl rfl)
    | with_reducible refine Keeps.of_fst (by with_reducible assumption) ?_
    | with_reducible refine Keeps.of_snd (by with_reducible assumption) ?_
    | with_reducible refine State.takeAllBlocks_keeps ?_ _ _
    | with_reducible refine Keeps.updReg ?_ rfl rfl rfl rfl
    | with_reducible refine Keeps.some_one (by with_reducible assumption) ?_
    | with_reducible refine Keeps.some_two (by with_reducible assumption) ?_
    | with_reducible refine Keeps.some_snd (by with_reducible assumption) ?_
    | with_reducible refine Keeps.some_third (by with_reducible assumption) ?_
    | with_reducible refine Keeps.ok_snd (by with_reducible assumption) ?_

theorem State.lookupJob_keeps {u s : State} (h : Keeps u s) (j : Job) (i : Item) (hv : HostView) (bad : List BadCompare) :
    Keeps u (State.lookupJob s j i hv bad) := by
  unfold State.lookupJob
  repeat' first
    | with_reducible assumption
    | with_reducible apply State.endJob_keeps
    | with_reducible apply State.cacheTree_keeps
    | with_reducible apply State.matchPages_keeps
    | with_reducible apply State.lockNodes_keeps
    | with_reducible apply State.lookupMap_keeps
    | refine Keeps.foldl (fun s a h => ?_) ?_ _
    | refine Keeps.foldlP (g := Prod.fst) (fun s a h => ?_) ?_ _
    | refine Keeps.foldlP (g := Prod.snd) (fun s a h => ?_) ?_ _
    | split
    | dsimp only

theorem State.clearNodes_keeps {u s : State} (h : Keeps u s) (n k : Nat) (l : List Nat) :
    ∀ r, State.clearNodes n k l s = some r → Keeps u r.2 := by
  induction n generalizing s l with
  | zero =>
    intro r e
    unfold State.clearNodes at e
    split at e
    · cases e; exact h
    · cases e
  | succ n ih =>
    intro r e
    unfold State.clearNodes at e
    split at e
    · cases e; exact h
    split at e
    · cases e
    · exact ih (State.removeNode_keeps h _) _ r e

theorem State.holdNodes_keeps {u s : State} (h : Keeps u s) (ns : List Nat) :
    Keeps u (State.holdNodes s ns) := by
  unfold State.holdNodes
  repeat' first
    | with_reducible assumption
    | with_reducible apply State.setNode_keeps
    | refine Keeps.foldl (fun s a h => ?_) ?_ _

theorem State.removeDoomed_keeps {u s : State} (h : Keeps u s) (ns : List Nat) :
    Keeps u (State.removeDoomed s ns) := by
  unfold State.removeDoomed
  repeat' first
    | with_reducible assumption
    | with_reducible apply State.bump_keeps
    | with_reducible apply State.removeNode_keeps
    | refine Keeps.foldl (fun s a h => ?_) ?_ _

theorem State.writeTokens_keeps {u s : State} (h : Keeps u s) (j : Job) (i : Item) (r m : Nat)
    (nodes doomed hashes : List Nat) (toks : List Byte) (bs : List (Nat × Nat)) (pins : List (Nat × Nat × Nat)) :
    Keeps u (s.writeTokens j i r m nodes doomed hashes toks bs pins) := by
  have g := fun l => State.translateAll_keeps h i.tile (.item j.id 0) l
  unfold State.writeTokens
  dsimp only
  split
  · exact Translated.wait_keeps ‹_› (g _)
  · exact State.endJob_keeps (Translated.failed_keeps ‹_› (g _)) _ _ _
  · have k := Keeps.foldl (fun _ p h => State.takeBlock_keeps h p.1 p.2)
      (State.pinAll_keeps (Translated.ok_keeps ‹_› (g _)) j.id 0 pins) bs
    exact Keeps.foldl (fun _ _ h => State.modItem_keeps (State.moveVirt_keeps h _ _ _ _ _ _ _ _ _) _ _ _)
      (State.modItem_keeps (State.modJob_keeps (State.holdNodes_keeps k _) _ _) _ _ _) _

theorem State.publishAcquire_keeps {u s : State} (h : Keeps u s) (j : Job) (i : Item) (r m : Nat) (hashes : List Nat)
    (toks : List Byte) : Keeps u (s.publishAcquire j i r m hashes toks) := by
  have g := State.findPages_keeps h r i (s.pagesFrom r m (j.word 5))
  unfold State.publishAcquire
  dsimp only
  split
  · exact State.endJob_keeps (State.bumpTile_keeps g _ _ _) _ _ _
  split
  · exact State.endJob_keeps (State.bumpTile_keeps (State.bumpTile_keeps g _ _ _) _ _ _) _ _ _
  split
  · exact g
  split
  · have k := State.recallFound_keeps g j 0 r
      (allocCtl i.bind.commit ((s.findPages r i (s.pagesFrom r m (j.word 5))).2.row r).reserveRight j.cls i.budgetOut)
      (s.findPages r i (s.pagesFrom r m (j.word 5))).1.cold
    split
    · exact State.endJob_keeps (State.bumpTile_keeps (Keeps.of_snd ‹_› k) _ _ _) _ _ _
    · exact State.pump_keeps (State.modItem_keeps (Keeps.of_snd ‹_› k) _ _ _)
  · exact State.writeTokens_keeps g _ _ _ _ _ _ _ _ _ _

theorem State.publishJob_keeps {u s : State} (h : Keeps u s) (j : Job) (i : Item) (hv : HostView) (bad : List BadCompare) :
    Keeps u (State.publishJob s j i hv bad) := by
  unfold State.publishJob
  repeat' first
    | with_reducible assumption
    | with_reducible apply State.endJob_keeps
    | with_reducible apply State.touchNodes_keeps
    | with_reducible apply State.cacheTree_keeps
    | with_reducible apply State.matchPages_keeps
    | with_reducible apply State.lockNodes_keeps
    | with_reducible apply State.publishAcquire_keeps
    | refine Keeps.foldl (fun s a h => ?_) ?_ _
    | refine Keeps.foldlP (g := Prod.fst) (fun s a h => ?_) ?_ _
    | refine Keeps.foldlP (g := Prod.snd) (fun s a h => ?_) ?_ _
    | split
    | dsimp only

theorem State.buildOne_keeps {u s : State} (h : Keeps u s) (r : Nat) (parent : Option Nat) (b : Nat × Nat × Nat) (block : Nat) :
    Keeps u (State.buildOne s r parent b block) := by
  unfold State.buildOne
  repeat' first
    | with_reducible assumption
    | with_reducible apply State.setNode_keeps
    | with_reducible apply State.linkNode_keeps
    | refine Keeps.foldl (fun s a h => ?_) ?_ _
    | refine Keeps.foldlP (g := Prod.fst) (fun s a h => ?_) ?_ _
    | refine Keeps.foldlP (g := Prod.snd) (fun s a h => ?_) ?_ _
    | split

theorem State.enterSealed_keeps {u s : State} (h : Keeps u s) (r : Nat) (b : Nat × Nat × Nat) :
    Keeps u (State.enterSealed s r b) := by
  unfold State.enterSealed
  repeat' first
    | with_reducible assumption
    | with_reducible apply State.enterNode_keeps
    | refine Keeps.foldl (fun s a h => ?_) ?_ _
    | refine Keeps.foldlP (g := Prod.fst) (fun s a h => ?_) ?_ _
    | refine Keeps.foldlP (g := Prod.snd) (fun s a h => ?_) ?_ _
    | split

theorem State.blockForEach_keeps {u s : State} (h : Keeps u s) (supply : List (Nat × Nat)) (ns : List Nat) :
    Keeps u (s.blockForEach supply ns).2 := by
  induction ns generalizing s supply with
  | nil => exact h
  | cons n rest ih =>
    unfold State.blockForEach
    dsimp only
    split
    · exact ih h _
    · exact ih (State.takeBlock_keeps h _ _) _

theorem State.publishFails_keeps {u s : State} (h : Keeps u s) (j : Job) (i : Item) (status : Nat) :
    Keeps u (State.publishFails s j i status) := by
  unfold State.publishFails
  repeat' first
    | with_reducible assumption
    | with_reducible apply State.giveBlock_keeps
    | with_reducible apply State.unlock_keeps
    | with_reducible apply State.modJob_keeps
    | with_reducible apply State.modItem_keeps
    | with_reducible apply State.endJob_keeps
    | refine Keeps.foldl (fun s a h => ?_) ?_ _

theorem State.publishEnds_keeps {u s : State} (h : Keeps u s) (j : Job) (i : Item) :
    Keeps u (State.publishEnds s j i) := by
  unfold State.publishEnds
  repeat' first
    | with_reducible assumption
    | with_reducible apply State.sendPart_keeps
    | with_reducible apply State.refreshBuild_keeps
    | with_reducible apply State.modJob_keeps
    | with_reducible apply State.modItem_keeps
    | with_reducible apply State.endJob_keeps
    | with_reducible apply State.touchNodes_keeps
    | with_reducible apply State.cacheTree_keeps
    | with_reducible apply State.removeDoomed_keeps
    | with_reducible apply State.buildOne_keeps
    | with_reducible apply State.enterSealed_keeps
    | with_reducible apply State.blockForEach_keeps
    | with_reducible apply State.publishFails_keeps
    | refine Keeps.foldl (fun s a h => ?_) ?_ _
    | refine Keeps.foldlP (g := Prod.fst) (fun s a h => ?_) ?_ _
    | refine Keeps.foldlP (g := Prod.snd) (fun s a h => ?_) ?_ _
    | split

theorem State.dropNode_keeps {u s : State} (h : Keeps u s) (n : Nat) :
    Keeps u (State.dropNode s n).1 := by
  unfold State.dropNode
  repeat' first
    | with_reducible assumption
    | with_reducible apply State.removeOrWait_keeps

theorem State.dropAll_keeps {u s : State} (h : Keeps u s) :
    Keeps u (State.dropAll s).1 := by
  unfold State.dropAll
  repeat' first
    | with_reducible assumption
    | with_reducible apply State.dropNode_keeps
    | refine Keeps.foldl (fun s a h => ?_) ?_ _
    | refine Keeps.foldlP (g := Prod.fst) (fun s a h => ?_) ?_ _

theorem State.dropChain_keeps {u s : State} (h : Keeps u s) (j : Job) (i : Item) (hv : HostView) (bad : List BadCompare) :
    Keeps u (State.dropChain s j i hv bad) := by
  unfold State.dropChain
  repeat' first
    | with_reducible assumption
    | with_reducible apply State.endJob_keeps
    | with_reducible apply State.cacheTree_keeps
    | with_reducible apply State.matchPages_keeps
    | with_reducible apply State.dropNode_keeps
    | refine Keeps.foldl (fun s a h => ?_) ?_ _
    | refine Keeps.foldlP (g := Prod.fst) (fun s a h => ?_) ?_ _
    | refine Keeps.foldlP (g := Prod.snd) (fun s a h => ?_) ?_ _
    | split
    | dsimp only

theorem State.dropJob_keeps {u s : State} (h : Keeps u s) (j : Job) (i : Item) (hv : HostView) (bad : List BadCompare) :
    Keeps u (State.dropJob s j i hv bad) := by
  unfold State.dropJob
  repeat' first
    | with_reducible assumption
    | with_reducible apply State.endJob_keeps
    | with_reducible apply State.dropAll_keeps
    | with_reducible apply State.dropChain_keeps
    | refine Keeps.foldl (fun s a h => ?_) ?_ _
    | refine Keeps.foldlP (g := Prod.fst) (fun s a h => ?_) ?_ _
    | refine Keeps.foldlP (g := Prod.snd) (fun s a h => ?_) ?_ _
    | split

theorem State.inTurn_keeps {u s : State} (h : Keeps u s) (j : Job) {f : State → State} (hf : ∀ s, Keeps u s → Keeps u (f s)) :
    Keeps u (s.inTurn j f) := by
  unfold State.inTurn
  split
  · exact hf _ (State.modJob_keeps h _ _)
  · exact h

end Sys2Proof.Machine
end

