-- ==== Sys2Proof/Laws/KeepControl.lean ====
section
/-! SUPPORT. What the operations of Machine/Control.lean keep. -/

namespace Sys2Proof.Machine

theorem State.passOver_keeps {u s : State} (h : Keeps u s) (id : Nat) :
    Keeps u (State.passOver s id) := by
  unfold State.passOver
  repeat' first
    | with_reducible assumption
    | with_reducible apply State.modJob_keeps

theorem State.noteMig_keeps {u s : State} (h : Keeps u s) (id slot : Nat) :
    Keeps u (State.noteMig s id slot) := by
  unfold State.noteMig
  repeat' first
    | with_reducible assumption
    | with_reducible apply State.modJob_keeps

theorem State.evictPage_keeps {u s : State} (h : Keeps u s) (id r order : Nat) (migEn : Bool) (p : Nat × Nat) :
    Keeps u (State.evictPage s id r order migEn p) := by
  unfold State.evictPage
  repeat' first
    | with_reducible assumption
    | with_reducible apply State.startEvict_keeps
    | with_reducible apply State.passOver_keeps
    | with_reducible apply State.noteMig_keeps
    | refine Keeps.foldl (fun s a h => ?_) ?_ _
    | refine Keeps.foldlP (g := Prod.fst) (fun s a h => ?_) ?_ _
    | refine Keeps.foldlP (g := Prod.snd) (fun s a h => ?_) ?_ _
    | split

theorem State.allHandled_keeps {u s : State} (h : Keeps u s) (id : Nat) :
    Keeps u (State.allHandled s id) := by
  unfold State.allHandled
  repeat' first
    | with_reducible assumption
    | with_reducible apply State.modItem_keeps
    | with_reducible apply State.pump_keeps

theorem State.evictJob_keeps {u s : State} (h : Keeps u s) (j : Job) (i : Item) :
    Keeps u (State.evictJob s j i) := by
  unfold State.evictJob
  repeat' first
    | with_reducible assumption
    | with_reducible apply State.endJob_keeps
    | with_reducible apply State.evictPage_keeps
    | with_reducible apply State.allHandled_keeps
    | refine Keeps.foldl (fun s a h => ?_) ?_ _
    | refine Keeps.foldlP (g := Prod.fst) (fun s a h => ?_) ?_ _
    | refine Keeps.foldlP (g := Prod.snd) (fun s a h => ?_) ?_ _
    | split

theorem State.prefetchFrom_keeps {u s : State} (h : Keeps u s) (j : Job) (r : Nat) (ctl : AllocCtl)
    (l : List ((Nat × Nat) × Nat)) : Keeps u (s.prefetchFrom j r ctl l) := by
  induction l generalizing s ctl with
  | nil => exact State.allHandled_keeps h _
  | cons p l ih =>
    unfold State.prefetchFrom
    split
    · refine Keeps.ite (fun _ => ih (State.passOver_keeps h _) _) (fun _ => ?_)
      have g := State.acquireFrames_keeps h ctl (.item j.id 0)
        [⟨p.1.1, p.1.2, s.pageTile (s.dirOf r p.1.1).layer r p.1.1 p.1.2, .fresh⟩]
      generalize State.acquireFrames s _ _ _ = x at g
      rcases x with ⟨_ | ⟨a, l'⟩, s'⟩ | s' | ⟨t, s'⟩
      · exact ih (State.passOver_keeps g _) _
      · exact ih (State.noteMig_keeps (State.startRecall_keeps g _ _ _ _ _ _) _ _) _
      · exact State.pump_keeps (State.modItem_keeps (State.modJob_keeps g _ _) _ _ _)
      · exact ih (State.passOver_keeps g _) _
    · exact ih (State.passOver_keeps h _) _

theorem State.prefetchJob_keeps {u s : State} (h : Keeps u s) (j : Job) (i : Item) :
    Keeps u (State.prefetchJob s j i) := by
  unfold State.prefetchJob
  repeat' first
    | with_reducible assumption
    | with_reducible apply State.endJob_keeps
    | with_reducible apply State.prefetchFrom_keeps
    | refine Keeps.foldl (fun s a h => ?_) ?_ _
    | refine Keeps.foldlP (g := Prod.fst) (fun s a h => ?_) ?_ _
    | refine Keeps.foldlP (g := Prod.snd) (fun s a h => ?_) ?_ _
    | split

theorem State.dropAppend_keeps {u s : State} (h : Keeps u s) (id k status : Nat) :
    Keeps u (State.dropAppend s id k status) := by
  unfold State.dropAppend
  repeat' first
    | with_reducible assumption
    | with_reducible apply State.failContextRows_keeps
    | refine Keeps.foldl (fun s a h => ?_) ?_ _
    | refine Keeps.foldlP (g := Prod.fst) (fun s a h => ?_) ?_ _
    | refine Keeps.foldlP (g := Prod.snd) (fun s a h => ?_) ?_ _
    | split

theorem State.abortItem_keeps {u s : State} (h : Keeps u s) (id k status : Nat) :
    Keeps u (State.abortItem s id k status) := by
  unfold State.abortItem
  repeat' first
    | with_reducible assumption
    | with_reducible apply State.modItem_keeps
    | with_reducible apply State.noteComplete_keeps
    | with_reducible apply State.releaseItem_keeps
    | with_reducible apply State.endGroup_keeps
    | with_reducible apply State.dropAppend_keeps
    | refine Keeps.foldl (fun s a h => ?_) ?_ _
    | refine Keeps.foldlP (g := Prod.fst) (fun s a h => ?_) ?_ _
    | refine Keeps.foldlP (g := Prod.snd) (fun s a h => ?_) ?_ _
    | split
    | dsimp only
    | fail_if_no_progress (with_reducible refine Keeps.upd ?_ rfl rfl rfl rfl)

theorem State.abortJob_keeps {u s : State} (h : Keeps u s) (id status : Nat) :
    Keeps u (State.abortJob s id status).1 := by
  unfold State.abortJob
  repeat' first
    | with_reducible assumption
    | with_reducible apply State.abortItem_keeps
    | refine Keeps.foldl (fun s a h => ?_) ?_ _
    | refine Keeps.foldlP (g := Prod.fst) (fun s a h => ?_) ?_ _
    | refine Keeps.foldlP (g := Prod.snd) (fun s a h => ?_) ?_ _
    | split

theorem State.phaseClose_keeps {u s : State} (h : Keeps u s) (j : Job) (r : Nat) :
    Keeps u (State.phaseClose s j r) := by
  unfold State.phaseClose
  repeat' first
    | with_reducible assumption
    | with_reducible apply State.sendPart_keeps
    | with_reducible apply State.closeContext_keeps

theorem State.phaseJob_keeps {u s : State} (h : Keeps u s) (j : Job) :
    Keeps u (State.phaseJob s j) := by
  unfold State.phaseJob
  repeat' first
    | with_reducible assumption
    | with_reducible apply State.modJob_keeps
    | with_reducible apply State.endJob_keeps
    | with_reducible apply State.abortJob_keeps
    | with_reducible apply State.phaseClose_keeps
    | refine Keeps.foldl (fun s a h => ?_) ?_ _
    | refine Keeps.foldlP (g := Prod.fst) (fun s a h => ?_) ?_ _
    | refine Keeps.foldlP (g := Prod.snd) (fun s a h => ?_) ?_ _
    | split
    | dsimp only

theorem State.putTable_keeps {u s : State} (h : Keeps u s) (t : TableDef) :
    Keeps u (State.putTable s t) := by
  unfold State.putTable
  repeat' first
    | with_reducible assumption
    | refine Keeps.foldl (fun s a h => ?_) ?_ _
    | refine Keeps.foldlP (g := Prod.fst) (fun s a h => ?_) ?_ _
    | refine Keeps.foldlP (g := Prod.snd) (fun s a h => ?_) ?_ _
    | split
    | dsimp only
    | fail_if_no_progress (with_reducible refine Keeps.upd ?_ rfl rfl rfl rfl)

theorem State.loadEnds_keeps {u s : State} (h : Keeps u s) (t : TableDef) (id status : Nat) :
    Keeps u (State.loadEnds s t id status) := by
  unfold State.loadEnds
  repeat' first
    | with_reducible assumption
    | with_reducible apply State.endJob_keeps
    | with_reducible apply State.putTable_keeps

theorem State.loadTableNow_keeps {u s : State} (h : Keeps u s) (j : Job) (i : Item) (t : TableDef) (hv : HostView) :
    Keeps u (s.loadTableNow j i t hv) := by
  have g := State.translateAll_keeps h i.tile (.item j.id 0) (needs (j.dword 6) (j.word 5) 0)
  unfold State.loadTableNow
  dsimp only
  split
  · exact Translated.wait_keeps ‹_› g
  · exact State.loadEnds_keeps (Translated.failed_keeps ‹_› g) _ _ _
  · have k := State.fetch_keeps (Translated.ok_keeps ‹_› g) i.tile (.table j.id) (runFetches [(j.dword 6, j.word 5)])
    split
    · exact State.loadEnds_keeps k _ _ _
    · exact Keeps.ite (fun _ => State.loadEnds_keeps k _ _ _) (fun _ => State.loadEnds_keeps k _ _ _)

theorem State.tableLoadJob_keeps {u s : State} (h : Keeps u s) (j : Job) (i : Item) (hv : HostView) (first : Bool) :
    Keeps u (State.tableLoadJob s j i hv first) := by
  unfold State.tableLoadJob
  repeat' first
    | with_reducible assumption
    | with_reducible apply State.endJob_keeps
    | with_reducible apply State.loadEnds_keeps
    | with_reducible apply State.loadTableNow_keeps
    | refine Keeps.foldl (fun s a h => ?_) ?_ _
    | refine Keeps.foldlP (g := Prod.fst) (fun s a h => ?_) ?_ _
    | refine Keeps.foldlP (g := Prod.snd) (fun s a h => ?_) ?_ _
    | split

end Sys2Proof.Machine
end

