-- ==== Sys2Proof/Laws/KeepComplete.lean ====
section
/-! SUPPORT. What the operations of Machine/Complete.lean keep. -/

namespace Sys2Proof.Machine

theorem State.forwardResult_keeps {u s : State} (h : Keeps u s) (j : Job) (k : Nat) (i : Item) (e : Entry) :
    ∀ r, (State.forwardResult s j k i e) = some r → Keeps u r.2 := by
  intro r e
  unfold State.forwardResult at e
  try dsimp only at e
  repeat' split at e
  all_goals cases e
  all_goals repeat' first
    | with_reducible assumption
    | with_reducible apply State.took_keeps
    | with_reducible apply State.bumpTile_keeps
    | with_reducible apply State.modItem_keeps

theorem State.dqResult_keeps {u s : State} (h : Keeps u s) (j : Job) (k : Nat) (i : Item) (e : Entry) :
    ∀ r, (State.dqResult s j k i e) = some r → Keeps u r.2 := by
  intro r e
  unfold State.dqResult at e
  try dsimp only at e
  repeat' split at e
  all_goals cases e
  all_goals repeat' first
    | with_reducible assumption
    | with_reducible apply State.took_keeps
    | with_reducible apply State.modJob_keeps

theorem State.pageResult_keeps {u s : State} (h : Keeps u s) (j : Job) (k r : Nat) (i : Item) (v : GradEnv) (hit : List Nat) (p : Nat) (sum : List (DWord × Bool)) :
    Keeps u (State.pageResult s j k r i v hit p sum).2 := by
  unfold State.pageResult
  repeat' first
    | with_reducible assumption
    | with_reducible apply State.took_keeps

theorem State.keyResult_keeps {u s : State} (h : Keeps u s) (j : Job) (k : Nat) (i : Item) (e : Entry) :
    ∀ r, s.keyResult j k i e = some r → Keeps u r.2 := by
  intro r q
  unfold State.keyResult at q
  split at q
  · cases q; exact h
  · split at q
    · cases q
    · cases q
      refine State.modJob_keeps (Keeps.foldlP (g := Prod.snd) (fun a p h => ?_) (b := ([], s)) h _) _ _
      exact State.pageResult_keeps h _ _ _ _ _ _ _ _

theorem State.backwardResult_keeps {u s : State} (h : Keeps u s) (j : Job) (k : Nat) (i : Item) (e : Entry) :
    ∀ r, s.backwardResult j k i e = some r → Keeps u r.2 := by
  intro r q
  unfold State.backwardResult at q
  have g := State.dqResult_keeps h j k i e
  generalize State.dqResult s j k i e = x at g q
  rcases x with _ | a
  · cases q
  · obtain ⟨b, q', rfl⟩ := Option.map_eq_some_iff.1 q
    exact State.keyResult_keeps (g _ rfl) j k i e b q'

theorem State.writeRows_keeps {u s : State} (h : Keeps u s) (j : Job) (k : Nat) (i : Item) (out : List RowWrite) :
    Keeps u (State.writeRows s j k i out) := by
  unfold State.writeRows
  repeat' first
    | with_reducible assumption
    | with_reducible apply State.moveVirt_keeps
    | with_reducible apply State.modJob_keeps
    | refine Keeps.foldl (fun s a h => ?_) ?_ _
    | refine Keeps.foldlP (g := Prod.fst) (fun s a h => ?_) ?_ _

theorem State.settleOne_keeps {u s : State} (h : Keeps u s) (j : Job) (i : Item) :
    Keeps u (State.settleOne s j i) := by
  unfold State.settleOne
  repeat' first
    | with_reducible assumption
    | with_reducible apply State.bump_keeps
    | with_reducible apply State.unlock_keeps
    | with_reducible apply State.modJob_keeps
    | refine Keeps.foldl (fun s a h => ?_) ?_ _
    | refine Keeps.foldlP (g := Prod.fst) (fun s a h => ?_) ?_ _
    | refine Keeps.foldlP (g := Prod.snd) (fun s a h => ?_) ?_ _
    | split

theorem State.freeMates_keeps {u s : State} (h : Keeps u s) (id : Nat) (i : Item) :
    Keeps u (State.freeMates s id i) := by
  unfold State.freeMates
  repeat' first
    | with_reducible assumption
    | with_reducible apply State.modJob_keeps

theorem State.closeRecovery_keeps {u s : State} (h : Keeps u s) (ran : List Nat) :
    Keeps u (State.closeRecovery s ran) := by
  unfold State.closeRecovery
  repeat' first
    | with_reducible assumption
    | refine Keeps.foldl (fun s a h => ?_) ?_ _
    | refine Keeps.foldlP (g := Prod.fst) (fun s a h => ?_) ?_ _
    | refine Keeps.foldlP (g := Prod.snd) (fun s a h => ?_) ?_ _
    | split
    | dsimp only
    | fail_if_no_progress (with_reducible refine Keeps.upd ?_ rfl rfl rfl rfl)

theorem State.itemDone_keeps {u s : State} (h : Keeps u s) (j : Job) (k : Nat) :
    Keeps u (State.itemDone s j k) := by
  unfold State.itemDone
  repeat' first
    | with_reducible assumption
    | with_reducible apply State.modJob_keeps
    | with_reducible apply State.modItem_keeps
    | with_reducible apply State.noteComplete_keeps
    | with_reducible apply State.pump_keeps
    | with_reducible apply State.clockSwitch_keeps
    | with_reducible apply State.releaseItem_keeps
    | with_reducible apply State.endGroup_keeps
    | with_reducible apply State.settleOne_keeps
    | with_reducible apply State.freeMates_keeps
    | with_reducible apply State.closeRecovery_keeps
    | refine Keeps.foldl (fun s a h => ?_) ?_ _
    | refine Keeps.foldlP (g := Prod.fst) (fun s a h => ?_) ?_ _
    | refine Keeps.foldlP (g := Prod.snd) (fun s a h => ?_) ?_ _
    | split

theorem State.itemResult_keeps {u s : State} (h : Keeps u s) (j : Job) (k : Nat) (i : Item) :
    ∀ r, s.itemResult j k i = some r → Keeps u r.2 := by
  intro r q
  unfold State.itemResult at q
  repeat' split at q
  · cases q
  · cases q; exact State.commitItem_keeps h j k _
  · exact State.forwardResult_keeps h j k i _ r q
  · exact State.backwardResult_keeps h j k i _ r q

theorem State.completeItem_keeps {u s : State} (h : Keeps u s) (id k : Nat) :
    Keeps u (State.completeItem s id k) := by
  unfold State.completeItem
  repeat' first
    | with_reducible assumption
    | with_reducible apply State.retranslate_keeps
    | with_reducible apply State.dropAppend_keeps
    | with_reducible apply State.writeRows_keeps
    | with_reducible apply State.itemDone_keeps
    | with_reducible refine State.itemResult_keeps ?_ _ _ _
    | refine Keeps.foldl (fun s a h => ?_) ?_ _
    | refine Keeps.foldlP (g := Prod.fst) (fun s a h => ?_) ?_ _
    | refine Keeps.foldlP (g := Prod.snd) (fun s a h => ?_) ?_ _
    | split
    | dsimp only
    | fail_if_no_progress (with_reducible refine Keeps.upd ?_ rfl rfl rfl rfl)
    | with_reducible refine Keeps.of_fst (by with_reducible assumption) ?_
    | with_reducible refine Keeps.of_snd (by with_reducible assumption) ?_
    | with_reducible refine Keeps.some_one (by with_reducible assumption) ?_
    | with_reducible refine Keeps.some_two (by with_reducible assumption) ?_

end Sys2Proof.Machine
end

