-- ==== Sys2Proof/Laws/KeepCores.lean ====
section
/-! SUPPORT. What the operations of Machine/Cores.lean keep. -/

namespace Sys2Proof.Machine

theorem State.clearCore_keeps {u s : State} (h : Keeps u s) (core : Nat) :
    Keeps u (State.clearCore s core) := by
  unfold State.clearCore
  repeat' first
    | with_reducible assumption
    | refine Keeps.foldl (fun s a h => ?_) ?_ _
    | refine Keeps.foldlP (g := Prod.fst) (fun s a h => ?_) ?_ _
    | refine Keeps.foldlP (g := Prod.snd) (fun s a h => ?_) ?_ _
    | split
    | dsimp only
    | fail_if_no_progress (with_reducible refine Keeps.upd ?_ rfl rfl rfl rfl)

theorem State.badAccess_keeps {u s : State} (h : Keeps u s) (id k : Nat) (c : CoreId) (q off : Nat) :
    Keeps u (State.badAccess s id k c q off) := by
  unfold State.badAccess
  repeat' first
    | with_reducible assumption
    | with_reducible apply State.report_keeps
    | with_reducible apply State.failItem_keeps
    | refine Keeps.foldl (fun s a h => ?_) ?_ _
    | refine Keeps.foldlP (g := Prod.fst) (fun s a h => ?_) ?_ _
    | refine Keeps.foldlP (g := Prod.snd) (fun s a h => ?_) ?_ _
    | split

theorem State.remoteRead_keeps {u s : State} (h : Keeps u s) (id k : Nat) (c : CoreId) (q off n : Nat) :
    Keeps u (State.remoteRead s id k c q off n) := by
  unfold State.remoteRead
  repeat' first
    | with_reducible assumption
    | with_reducible apply State.badAccess_keeps
    | refine Keeps.foldl (fun s a h => ?_) ?_ _
    | refine Keeps.foldlP (g := Prod.fst) (fun s a h => ?_) ?_ _
    | refine Keeps.foldlP (g := Prod.snd) (fun s a h => ?_) ?_ _
    | split
    | dsimp only
    | fail_if_no_progress (with_reducible refine Keeps.upd ?_ rfl rfl rfl rfl)

theorem State.setWindow_keeps {u s : State} (h : Keeps u s) (core w : Nat) (x : Window) :
    Keeps u (State.setWindow s core w x) := by
  unfold State.setWindow
  repeat' first
    | with_reducible assumption
    | refine Keeps.foldl (fun s a h => ?_) ?_ _
    | refine Keeps.foldlP (g := Prod.fst) (fun s a h => ?_) ?_ _
    | refine Keeps.foldlP (g := Prod.snd) (fun s a h => ?_) ?_ _
    | split
    | dsimp only
    | fail_if_no_progress (with_reducible refine Keeps.upd ?_ rfl rfl rfl rfl)

theorem State.credit_keeps {u s : State} (h : Keeps u s) (core w n : Nat) :
    Keeps u (State.credit s core w n) := by
  unfold State.credit
  repeat' first
    | with_reducible assumption
    | with_reducible apply State.setWindow_keeps
    | refine Keeps.foldl (fun s a h => ?_) ?_ _
    | refine Keeps.foldlP (g := Prod.fst) (fun s a h => ?_) ?_ _
    | refine Keeps.foldlP (g := Prod.snd) (fun s a h => ?_) ?_ _
    | split
    | dsimp only

theorem State.putFlit_keeps {u s : State} (h : Keeps u s) (core a : Nat) (flit : List Byte) :
    Keeps u (State.putFlit s core a flit) := by
  unfold State.putFlit
  repeat' first
    | with_reducible assumption
    | with_reducible apply State.setSpd_keeps
    | refine Keeps.foldl (fun s a h => ?_) ?_ _

theorem State.wdata_keeps {u s : State} (h : Keeps u s) (c : CoreId) (w : Nat) (flit : List Byte) :
    Keeps u (State.wdata s c w flit) := by
  unfold State.wdata
  repeat' first
    | with_reducible assumption
    | with_reducible apply State.report_keeps
    | with_reducible apply State.setWindow_keeps
    | with_reducible apply State.putFlit_keeps
    | refine Keeps.foldl (fun s a h => ?_) ?_ _
    | refine Keeps.foldlP (g := Prod.fst) (fun s a h => ?_) ?_ _
    | refine Keeps.foldlP (g := Prod.snd) (fun s a h => ?_) ?_ _
    | split
    | dsimp only

theorem State.wfence_keeps {u s : State} (h : Keeps u s) (core w : Nat) :
    Keeps u (State.wfence s core w) := by
  unfold State.wfence
  repeat' first
    | with_reducible assumption
    | with_reducible apply State.setWindow_keeps
    | refine Keeps.foldl (fun s a h => ?_) ?_ _
    | refine Keeps.foldlP (g := Prod.fst) (fun s a h => ?_) ?_ _
    | refine Keeps.foldlP (g := Prod.snd) (fun s a h => ?_) ?_ _
    | split
    | dsimp only

theorem State.bindSpare_keeps {u s : State} (h : Keeps u s) (rank core i : Nat) :
    Keeps u (State.bindSpare s rank core i) := by
  unfold State.bindSpare
  repeat' first
    | with_reducible assumption
    | refine Keeps.foldl (fun s a h => ?_) ?_ _
    | refine Keeps.foldlP (g := Prod.fst) (fun s a h => ?_) ?_ _
    | refine Keeps.foldlP (g := Prod.snd) (fun s a h => ?_) ?_ _
    | split
    | dsimp only
    | fail_if_no_progress (with_reducible refine Keeps.upd ?_ rfl rfl rfl rfl)

theorem State.substitute_keeps {u s : State} (h : Keeps u s) (c : CoreId) (pass : Bool) :
    Keeps u (State.substitute s c pass) := by
  unfold State.substitute
  repeat' first
    | with_reducible assumption
    | with_reducible apply State.report_keeps
    | with_reducible apply State.finish_keeps
    | with_reducible apply State.clearCore_keeps
    | with_reducible apply State.bindSpare_keeps
    | refine Keeps.foldl (fun s a h => ?_) ?_ _
    | refine Keeps.foldlP (g := Prod.fst) (fun s a h => ?_) ?_ _
    | refine Keeps.foldlP (g := Prod.snd) (fun s a h => ?_) ?_ _
    | split
    | dsimp only
    | fail_if_no_progress (with_reducible refine Keeps.upd ?_ rfl rfl rfl rfl)

theorem State.dropLine_keeps {u s : State} (h : Keeps u s) (core addr : Nat) :
    Keeps u (State.dropLine s core addr) := by
  unfold State.dropLine
  repeat' first
    | with_reducible assumption
    | refine Keeps.foldl (fun s a h => ?_) ?_ _
    | refine Keeps.foldlP (g := Prod.fst) (fun s a h => ?_) ?_ _
    | refine Keeps.foldlP (g := Prod.snd) (fun s a h => ?_) ?_ _
    | split
    | dsimp only
    | fail_if_no_progress (with_reducible refine Keeps.upd ?_ rfl rfl rfl rfl)

theorem State.lineLost_keeps {u s : State} (h : Keeps u s) (c : CoreId) (addr : Nat) :
    Keeps u (State.lineLost s c addr) := by
  unfold State.lineLost
  repeat' first
    | with_reducible assumption
    | with_reducible apply State.bumpTile_keeps
    | with_reducible apply State.report_keeps
    | with_reducible apply State.dropLine_keeps

theorem State.advanceScrub_keeps {u s : State} (h : Keeps u s) (core bank : Nat) :
    Keeps u (State.advanceScrub s core bank) := by
  unfold State.advanceScrub
  repeat' first
    | with_reducible assumption
    | refine Keeps.foldl (fun s a h => ?_) ?_ _
    | refine Keeps.foldlP (g := Prod.fst) (fun s a h => ?_) ?_ _
    | refine Keeps.foldlP (g := Prod.snd) (fun s a h => ?_) ?_ _
    | split
    | dsimp only
    | fail_if_no_progress (with_reducible refine Keeps.upd ?_ rfl rfl rfl rfl)

theorem State.scrubCore_keeps {u s : State} (h : Keeps u s) (c : CoreId) (bank : Nat) (f : EccFinding) :
    Keeps u (State.scrubCore s c bank f) := by
  unfold State.scrubCore
  repeat' first
    | with_reducible assumption
    | with_reducible apply State.bumpTile_keeps
    | with_reducible apply State.report_keeps
    | with_reducible apply State.coreFault_keeps
    | with_reducible apply State.lineLost_keeps
    | with_reducible apply State.advanceScrub_keeps
    | refine Keeps.foldl (fun s a h => ?_) ?_ _
    | refine Keeps.foldlP (g := Prod.fst) (fun s a h => ?_) ?_ _
    | refine Keeps.foldlP (g := Prod.snd) (fun s a h => ?_) ?_ _
    | split
    | dsimp only

theorem State.scrubClaim_keeps {u s : State} (h : Keeps u s) (c : CoreId) (bank : Nat) :
    Keeps u (State.scrubClaim s c bank) := by
  unfold State.scrubClaim
  repeat' first
    | with_reducible assumption
    | with_reducible apply State.bumpTile_keeps
    | with_reducible apply State.advanceScrub_keeps
    | refine Keeps.foldl (fun s a h => ?_) ?_ _
    | refine Keeps.foldlP (g := Prod.fst) (fun s a h => ?_) ?_ _
    | refine Keeps.foldlP (g := Prod.snd) (fun s a h => ?_) ?_ _
    | split

theorem State.retainBank_keeps {u s : State} (h : Keeps u s) (t b : Nat) :
    Keeps u (State.retainBank s t b) := by
  unfold State.retainBank
  repeat' first
    | with_reducible assumption
    | refine Keeps.foldl (fun s a h => ?_) ?_ _
    | refine Keeps.foldlP (g := Prod.fst) (fun s a h => ?_) ?_ _
    | refine Keeps.foldlP (g := Prod.snd) (fun s a h => ?_) ?_ _
    | split
    | dsimp only
    | fail_if_no_progress (with_reducible refine Keeps.upd ?_ rfl rfl rfl rfl)

theorem State.wakeBank_keeps {u s : State} (h : Keeps u s) (t b : Nat) :
    Keeps u (State.wakeBank s t b) := by
  unfold State.wakeBank
  repeat' first
    | with_reducible assumption
    | refine Keeps.foldl (fun s a h => ?_) ?_ _
    | refine Keeps.foldlP (g := Prod.fst) (fun s a h => ?_) ?_ _
    | refine Keeps.foldlP (g := Prod.snd) (fun s a h => ?_) ?_ _
    | split
    | dsimp only
    | fail_if_no_progress (with_reducible refine Keeps.upd ?_ rfl rfl rfl rfl)

theorem State.bankOut_keeps {u s : State} (h : Keeps u s) (t b cause : Nat) :
    Keeps u (State.bankOut s t b cause) := by
  unfold State.bankOut
  repeat' first
    | with_reducible assumption
    | with_reducible apply State.block_keeps
    | with_reducible apply State.quarantine_keeps
    | with_reducible apply State.tileFault_keeps
    | refine Keeps.foldl (fun s a h => ?_) ?_ _
    | refine Keeps.foldlP (g := Prod.fst) (fun s a h => ?_) ?_ _
    | refine Keeps.foldlP (g := Prod.snd) (fun s a h => ?_) ?_ _
    | split

theorem State.failRegion_keeps {u s : State} (h : Keeps u s) (t b region : Nat) (bad : List Nat) :
    Keeps u (State.failRegion s t b region bad) := by
  unfold State.failRegion
  repeat' first
    | with_reducible assumption
    | with_reducible apply State.raise_keeps
    | with_reducible apply State.bankOut_keeps
    | refine Keeps.foldl (fun s a h => ?_) ?_ _
    | refine Keeps.foldlP (g := Prod.fst) (fun s a h => ?_) ?_ _
    | refine Keeps.foldlP (g := Prod.snd) (fun s a h => ?_) ?_ _
    | split
    | dsimp only
    | fail_if_no_progress (with_reducible refine Keeps.upd ?_ rfl rfl rfl rfl)

theorem State.testRegion_keeps {u s : State} (h : Keeps u s) (t b : Nat) (bad : List Nat) :
    Keeps u (State.testRegion s t b bad) := by
  unfold State.testRegion
  repeat' first
    | with_reducible assumption
    | with_reducible apply State.failRegion_keeps
    | refine Keeps.foldl (fun s a h => ?_) ?_ _
    | refine Keeps.foldlP (g := Prod.fst) (fun s a h => ?_) ?_ _
    | refine Keeps.foldlP (g := Prod.snd) (fun s a h => ?_) ?_ _
    | split
    | dsimp only
    | fail_if_no_progress (with_reducible refine Keeps.upd ?_ rfl rfl rfl rfl)

end Sys2Proof.Machine
end

