-- ==== Sys2Proof/Laws/KeepRepair.lean ====
section
/-! SUPPORT. What the operations of Machine/Repair.lean keep. -/

namespace Sys2Proof.Machine

theorem State.retireFrame_keeps {u s : State} (h : Keeps u s) (f : Nat) :
    Keeps u (State.retireFrame s f) := by
  unfold State.retireFrame
  repeat' first
    | with_reducible assumption
    | with_reducible apply State.report_keeps
    | with_reducible apply State.sendGroup_keeps
    | with_reducible apply State.badOutcome_keeps
    | refine Keeps.foldl (fun s a h => ?_) ?_ _
    | refine Keeps.foldlP (g := Prod.fst) (fun s a h => ?_) ?_ _
    | refine Keeps.foldlP (g := Prod.snd) (fun s a h => ?_) ?_ _
    | split
    | dsimp only
    | fail_if_no_progress (with_reducible refine Keeps.upd ?_ rfl rfl rfl rfl)

theorem State.spareRow_keeps {u s : State} (h : Keeps u s) (t ch : Nat) (r : ScrubReport) :
    Keeps u (State.spareRow s t ch r) := by
  unfold State.spareRow
  repeat' first
    | with_reducible assumption
    | with_reducible apply State.report_keeps
    | with_reducible apply State.retireFrame_keeps
    | refine Keeps.foldl (fun s a h => ?_) ?_ _
    | refine Keeps.foldlP (g := Prod.fst) (fun s a h => ?_) ?_ _
    | refine Keeps.foldlP (g := Prod.snd) (fun s a h => ?_) ?_ _
    | split
    | dsimp only
    | fail_if_no_progress (with_reducible refine Keeps.upd ?_ rfl rfl rfl rfl)

theorem State.metaLost_keeps {u s : State} (h : Keeps u s) (t region i : Nat) :
    Keeps u (State.metaLost s t region i) := by
  unfold State.metaLost
  repeat' first
    | with_reducible assumption
    | with_reducible apply State.removeOrWait_keeps
    | with_reducible apply State.losePage_keeps
    | with_reducible apply State.badOutcome_keeps
    | with_reducible apply State.setSlot_keeps
    | refine Keeps.foldl (fun s a h => ?_) ?_ _
    | refine Keeps.foldlP (g := Prod.fst) (fun s a h => ?_) ?_ _
    | refine Keeps.foldlP (g := Prod.snd) (fun s a h => ?_) ?_ _
    | split

theorem State.wideLost_keeps {u s : State} (h : Keeps u s) (t index : Nat) :
    Keeps u (State.wideLost s t index) := by
  unfold State.wideLost
  repeat' first
    | with_reducible assumption
    | with_reducible apply State.modItem_keeps
    | with_reducible apply State.retryItem_keeps
    | refine Keeps.foldl (fun s a h => ?_) ?_ _
    | refine Keeps.foldlP (g := Prod.fst) (fun s a h => ?_) ?_ _
    | refine Keeps.foldlP (g := Prod.snd) (fun s a h => ?_) ?_ _
    | split

theorem State.scrubLost_keeps {u s : State} (h : Keeps u s) (t ch : Nat) (r : ScrubReport) :
    Keeps u (State.scrubLost s t ch r) := by
  unfold State.scrubLost
  repeat' first
    | with_reducible assumption
    | with_reducible apply State.bumpTile_keeps
    | with_reducible apply State.sendGroup_keeps
    | with_reducible apply State.raise_keeps
    | with_reducible apply State.frameBad_keeps
    | with_reducible apply State.metaLost_keeps
    | with_reducible apply State.wideLost_keeps
    | refine Keeps.foldl (fun s a h => ?_) ?_ _
    | refine Keeps.foldlP (g := Prod.fst) (fun s a h => ?_) ?_ _
    | refine Keeps.foldlP (g := Prod.snd) (fun s a h => ?_) ?_ _
    | split

theorem State.scrubBurst_keeps {u s : State} (h : Keeps u s) (t ch : Nat) (r : ScrubReport) :
    Keeps u (State.scrubBurst s t ch r) := by
  unfold State.scrubBurst
  repeat' first
    | with_reducible assumption
    | with_reducible apply State.bumpTile_keeps
    | with_reducible apply State.raise_keeps
    | with_reducible apply State.spareRow_keeps
    | with_reducible apply State.scrubLost_keeps
    | refine Keeps.foldl (fun s a h => ?_) ?_ _
    | refine Keeps.foldlP (g := Prod.fst) (fun s a h => ?_) ?_ _
    | refine Keeps.foldlP (g := Prod.snd) (fun s a h => ?_) ?_ _
    | split

theorem State.repairEnds_keeps {u s : State} (h : Keeps u s) (f : Nat) (pass : Bool) :
    Keeps u (State.repairEnds s f pass) := by
  unfold State.repairEnds
  repeat' first
    | with_reducible assumption
    | with_reducible apply State.setFrame_keeps
    | with_reducible apply State.offer_keeps
    | with_reducible apply State.settle_keeps
    | with_reducible apply State.finish_keeps
    | with_reducible apply State.askResend_keeps
    | refine Keeps.foldl (fun s a h => ?_) ?_ _
    | refine Keeps.foldlP (g := Prod.fst) (fun s a h => ?_) ?_ _
    | refine Keeps.foldlP (g := Prod.snd) (fun s a h => ?_) ?_ _
    | split
    | dsimp only
    | fail_if_no_progress (with_reducible refine Keeps.upd ?_ rfl rfl rfl rfl)

theorem State.loseStream_keeps {u s : State} (h : Keeps u s) (row : Nat) (m : MovedStream) :
    Keeps u (State.loseStream s row m) := by
  unfold State.loseStream
  repeat' first
    | with_reducible assumption
    | with_reducible apply State.setDir_keeps
    | with_reducible apply State.giveBlock_keeps
    | with_reducible apply State.losePage_keeps
    | with_reducible apply State.releaseEntry_keeps
    | refine Keeps.foldl (fun s a h => ?_) ?_ _

theorem State.rehome_keeps {u s : State} (h : Keeps u s) (p : Nat × MovedStream) :
    Keeps u (State.rehome s p) := by
  unfold State.rehome
  repeat' first
    | with_reducible assumption
    | with_reducible apply State.setDir_keeps
    | with_reducible apply State.takeBlocks_keeps
    | with_reducible apply State.dropLab_keeps
    | with_reducible apply State.takeRecords_keeps
    | with_reducible apply State.moveStream_keeps
    | with_reducible apply State.loseStream_keeps
    | refine Keeps.foldl (fun s a h => ?_) ?_ _
    | refine Keeps.foldlP (g := Prod.fst) (fun s a h => ?_) ?_ _
    | refine Keeps.foldlP (g := Prod.snd) (fun s a h => ?_) ?_ _
    | split
    | dsimp only
    | fail_if_no_progress (with_reducible refine Keeps.upd ?_ rfl rfl rfl rfl)
    | with_reducible refine Keeps.of_fst (by with_reducible assumption) ?_
    | with_reducible refine Keeps.of_snd (by with_reducible assumption) ?_
    | with_reducible refine State.takeBlocks_keeps ?_ _ _
    | with_reducible refine State.takeRecords_keeps ?_ _ _
    | with_reducible refine Keeps.updReg ?_ rfl rfl rfl rfl
    | with_reducible refine Keeps.some_one (by with_reducible assumption) ?_
    | with_reducible refine Keeps.some_two (by with_reducible assumption) ?_
    | with_reducible refine Keeps.some_snd (by with_reducible assumption) ?_

theorem State.substFrame_keeps {u s : State} (h : Keeps u s) (f g : Nat) :
    Keeps u (State.substFrame s f g) := by
  unfold State.substFrame
  repeat' first
    | with_reducible assumption
    | with_reducible apply State.dropLabFrame_keeps
    | refine Keeps.foldl (fun s a h => ?_) ?_ _
    | refine Keeps.foldlP (g := Prod.fst) (fun s a h => ?_) ?_ _
    | refine Keeps.foldlP (g := Prod.snd) (fun s a h => ?_) ?_ _
    | split
    | dsimp only
    | fail_if_no_progress (with_reducible refine Keeps.upd ?_ rfl rfl rfl rfl)

theorem State.moveInto_keeps {u s : State} (h : Keeps u s) (x : Frame) (g : Nat) (r : Bool) :
    Keeps u (State.moveInto s x g r) := by
  unfold State.moveInto
  repeat' first
    | with_reducible assumption
    | with_reducible apply State.setFrame_keeps

theorem State.relocateFrame_keeps {z s : State} (h : Keeps z s) (u f : Nat) : Keeps z (s.relocateFrame u f) := by
  unfold State.relocateFrame
  dsimp only
  split
  · exact State.frameBad_keeps h _ _ _ _ _
  · rename_i g r s' e
    have k := State.freeFrame_keeps (State.substFrame_keeps (State.moveInto_keeps (State.takeAny_keeps h u _ e)
      (s.frame f) g r) f g) f
    exact Keeps.ite (fun _ => State.frameBad_keeps (State.bumpTile_keeps k _ _ _) _ _ _ _ _) (fun _ => k)

theorem State.relocateAcq_keeps {u s : State} (h : Keeps u s) (u₁ f : Nat) :
    Keeps u (State.relocateAcq s u₁ f) := by
  unfold State.relocateAcq
  repeat' first
    | with_reducible assumption
    | with_reducible apply State.shelve_keeps
    | with_reducible apply State.freeFrame_keeps
    | with_reducible refine State.takeAny_keeps ?_ _
    | with_reducible apply State.moveInto_keeps
    | refine Keeps.foldl (fun s a h => ?_) ?_ _
    | refine Keeps.foldlP (g := Prod.fst) (fun s a h => ?_) ?_ _
    | refine Keeps.foldlP (g := Prod.snd) (fun s a h => ?_) ?_ _
    | split
    | dsimp only
    | fail_if_no_progress (with_reducible refine Keeps.upd ?_ rfl rfl rfl rfl)
    | with_reducible refine Keeps.of_fst (by with_reducible assumption) ?_
    | with_reducible refine Keeps.of_snd (by with_reducible assumption) ?_
    | with_reducible refine Keeps.some_one (by with_reducible assumption) ?_
    | with_reducible refine Keeps.some_two (by with_reducible assumption) ?_
    | with_reducible refine Keeps.some_snd (by with_reducible assumption) ?_
    | with_reducible refine Keeps.some_third (by with_reducible assumption) ?_

theorem State.moveItems_keeps {u s : State} (h : Keeps u s) (t : Nat) :
    Keeps u (State.moveItems s t) := by
  unfold State.moveItems
  repeat' first
    | with_reducible assumption
    | refine Keeps.foldl (fun s a h => ?_) ?_ _
    | refine Keeps.foldlP (g := Prod.fst) (fun s a h => ?_) ?_ _
    | refine Keeps.foldlP (g := Prod.snd) (fun s a h => ?_) ?_ _
    | split
    | dsimp only
    | fail_if_no_progress (with_reducible refine Keeps.upd ?_ rfl rfl rfl rfl)

theorem State.relocate_keeps {u s : State} (h : Keeps u s) (t : Nat) : Keeps u (s.relocate t) := by
  unfold State.relocate
  dsimp only
  refine Keeps.ite (fun _ => h) (fun _ => ?_)
  have k : Keeps u { s with errs := { s.errs with relocated := insertKey t s.errs.relocated } } := h.upd rfl rfl rfl rfl
  generalize State.mk _ _ _ _ _ _ _ _ _ _ _ _ _ _ _ _ _ _ = s1 at k
  refine Keeps.ite (fun _ => h) (fun _ => State.pump_keeps (State.sendGroup_keeps ?_ _ _ _))
  generalize hx : State.moveItems _ t = x
  have g : Keeps u x := by
    rw [← hx]
    exact State.moveItems_keeps (Keeps.foldl (fun s f h => State.relocateAcq_keeps h _ _)
      (Keeps.foldl (fun s f h => State.relocateFrame_keeps h _ _) (Keeps.foldl (fun s p h => State.rehome_keeps h _) k _) _) _) _
  exact g.upd rfl rfl rfl rfl

theorem State.takeOver_keeps {u s : State} (h : Keeps u s) :
    Keeps u (State.takeOver s) := by
  unfold State.takeOver
  repeat' first
    | with_reducible assumption
    | with_reducible apply State.report_keeps
    | with_reducible apply State.buildSpare_keeps
    | refine Keeps.foldl (fun s a h => ?_) ?_ _
    | refine Keeps.foldlP (g := Prod.fst) (fun s a h => ?_) ?_ _
    | refine Keeps.foldlP (g := Prod.snd) (fun s a h => ?_) ?_ _
    | split
    | dsimp only
    | fail_if_no_progress (with_reducible refine Keeps.upd ?_ rfl rfl rfl rfl)

theorem State.spareBuilt_keeps {u s : State} (h : Keeps u s) :
    Keeps u (State.spareBuilt s) := by
  unfold State.spareBuilt
  repeat' first
    | with_reducible assumption
    | refine Keeps.foldl (fun s a h => ?_) ?_ _
    | refine Keeps.foldlP (g := Prod.fst) (fun s a h => ?_) ?_ _
    | refine Keeps.foldlP (g := Prod.snd) (fun s a h => ?_) ?_ _
    | split
    | dsimp only
    | fail_if_no_progress (with_reducible refine Keeps.upd ?_ rfl rfl rfl rfl)

end Sys2Proof.Machine
end

