-- ==== Sys2Proof/Laws/KeepClocks.lean ====
section
/-! SUPPORT. What the operations of Machine/Clocks.lean keep. -/

namespace Sys2Proof.Machine

theorem State.monitorAlert_keeps {u s : State} (h : Keeps u s) (cause t kind sensor : Nat) :
    Keeps u (State.monitorAlert s cause t kind sensor) := by
  unfold State.monitorAlert
  repeat' first
    | with_reducible assumption
    | with_reducible apply State.report_keeps
    | refine Keeps.foldl (fun s a h => ?_) ?_ _
    | refine Keeps.foldlP (g := Prod.fst) (fun s a h => ?_) ?_ _
    | refine Keeps.foldlP (g := Prod.snd) (fun s a h => ?_) ?_ _
    | split
    | dsimp only
    | fail_if_no_progress (with_reducible refine Keeps.upd ?_ rfl rfl rfl rfl)

theorem State.sensorOut_keeps {u s : State} (h : Keeps u s) (t kind sensor : Nat) :
    Keeps u (State.sensorOut s t kind sensor) := by
  unfold State.sensorOut
  repeat' first
    | with_reducible assumption
    | with_reducible apply State.report_keeps
    | with_reducible apply State.setHealth_keeps
    | refine Keeps.foldl (fun s a h => ?_) ?_ _
    | refine Keeps.foldlP (g := Prod.fst) (fun s a h => ?_) ?_ _
    | refine Keeps.foldlP (g := Prod.snd) (fun s a h => ?_) ?_ _
    | split
    | dsimp only

theorem State.tempReading_keeps {u s : State} (h : Keeps u s) (t : Nat) (vs : List Int) :
    Keeps u (State.tempReading s t vs) := by
  unfold State.tempReading
  repeat' first
    | with_reducible assumption
    | with_reducible apply State.block_keeps
    | with_reducible apply State.setHealth_keeps
    | with_reducible apply State.monitorAlert_keeps
    | with_reducible apply State.sensorOut_keeps
    | refine Keeps.foldl (fun s a h => ?_) ?_ _
    | refine Keeps.foldlP (g := Prod.fst) (fun s a h => ?_) ?_ _
    | refine Keeps.foldlP (g := Prod.snd) (fun s a h => ?_) ?_ _
    | split
    | dsimp only
    | fail_if_no_progress (with_reducible refine Keeps.upd ?_ rfl rfl rfl rfl)

theorem State.voltReading_keeps {u s : State} (h : Keeps u s) (t : Nat) (vs : List Nat) (nominal : Nat) :
    Keeps u (State.voltReading s t vs nominal) := by
  unfold State.voltReading
  repeat' first
    | with_reducible assumption
    | with_reducible apply State.block_keeps
    | with_reducible apply State.setHealth_keeps
    | with_reducible apply State.monitorAlert_keeps
    | refine Keeps.foldl (fun s a h => ?_) ?_ _
    | refine Keeps.foldlP (g := Prod.fst) (fun s a h => ?_) ?_ _
    | refine Keeps.foldlP (g := Prod.snd) (fun s a h => ?_) ?_ _
    | split
    | dsimp only

theorem State.procReading_keeps {u s : State} (h : Keeps u s) (t : Nat) (vs : List Nat) :
    Keeps u (State.procReading s t vs) := by
  unfold State.procReading
  repeat' first
    | with_reducible assumption
    | with_reducible apply State.report_keeps
    | with_reducible apply State.setHealth_keeps
    | refine Keeps.foldl (fun s a h => ?_) ?_ _
    | refine Keeps.foldlP (g := Prod.fst) (fun s a h => ?_) ?_ _
    | refine Keeps.foldlP (g := Prod.snd) (fun s a h => ?_) ?_ _
    | split
    | dsimp only

theorem State.stepWindow_keeps {u s : State} (h : Keeps u s) (t : Nat) :
    Keeps u (State.stepWindow s t) := by
  unfold State.stepWindow
  repeat' first
    | with_reducible assumption
    | with_reducible apply State.setHealth_keeps
    | refine Keeps.foldl (fun s a h => ?_) ?_ _
    | refine Keeps.foldlP (g := Prod.fst) (fun s a h => ?_) ?_ _
    | refine Keeps.foldlP (g := Prod.snd) (fun s a h => ?_) ?_ _
    | split
    | dsimp only

theorem State.pllLocked_keeps {u s : State} (h : Keeps u s) (t : Nat) :
    Keeps u (State.pllLocked s t) := by
  unfold State.pllLocked
  repeat' first
    | with_reducible assumption
    | with_reducible apply State.setHealth_keeps
    | with_reducible apply State.clockSwitch_keeps
    | refine Keeps.foldl (fun s a h => ?_) ?_ _
    | refine Keeps.foldlP (g := Prod.fst) (fun s a h => ?_) ?_ _
    | refine Keeps.foldlP (g := Prod.snd) (fun s a h => ?_) ?_ _
    | split
    | dsimp only

theorem State.pllUnlock_keeps {u s : State} (h : Keeps u s) (t : Nat) :
    Keeps u (State.pllUnlock s t) := by
  unfold State.pllUnlock
  repeat' first
    | with_reducible assumption
    | with_reducible apply State.tileFault_keeps
    | refine Keeps.foldl (fun s a h => ?_) ?_ _
    | refine Keeps.foldlP (g := Prod.fst) (fun s a h => ?_) ?_ _
    | refine Keeps.foldlP (g := Prod.snd) (fun s a h => ?_) ?_ _
    | split
    | dsimp only

theorem State.missCount_keeps {u s : State} (h : Keeps u s) (high : Bool) :
    Keeps u (State.missCount s high) := by
  unfold State.missCount
  repeat' first
    | with_reducible assumption
    | with_reducible apply State.setReg_keeps
    | refine Keeps.foldl (fun s a h => ?_) ?_ _
    | refine Keeps.foldlP (g := Prod.fst) (fun s a h => ?_) ?_ _
    | refine Keeps.foldlP (g := Prod.snd) (fun s a h => ?_) ?_ _
    | split

theorem State.restartDeadlines_keeps {u s : State} (h : Keeps u s) :
    Keeps u (State.restartDeadlines s) := by
  unfold State.restartDeadlines
  repeat' first
    | with_reducible assumption
    | refine Keeps.foldl (fun s a h => ?_) ?_ _
    | refine Keeps.foldlP (g := Prod.fst) (fun s a h => ?_) ?_ _
    | refine Keeps.foldlP (g := Prod.snd) (fun s a h => ?_) ?_ _
    | split
    | dsimp only
    | fail_if_no_progress (with_reducible refine Keeps.upd ?_ rfl rfl rfl rfl)

theorem State.ppsEdge_keeps {u s : State} (h : Keeps u s) (falling : Bool) :
    Keeps u (State.ppsEdge s falling) := by
  unfold State.ppsEdge
  repeat' first
    | with_reducible assumption
    | with_reducible apply State.setReg_keeps
    | with_reducible apply State.bump_keeps
    | with_reducible apply State.missCount_keeps
    | with_reducible apply State.restartDeadlines_keeps
    | refine Keeps.foldl (fun s a h => ?_) ?_ _
    | refine Keeps.foldlP (g := Prod.fst) (fun s a h => ?_) ?_ _
    | refine Keeps.foldlP (g := Prod.snd) (fun s a h => ?_) ?_ _
    | split
    | dsimp only
    | fail_if_no_progress (with_reducible refine Keeps.upd ?_ rfl rfl rfl rfl)

theorem State.ppsMissed_keeps {u s : State} (h : Keeps u s) :
    Keeps u (State.ppsMissed s) := by
  unfold State.ppsMissed
  repeat' first
    | with_reducible assumption
    | with_reducible apply State.missCount_keeps
    | refine Keeps.foldl (fun s a h => ?_) ?_ _
    | refine Keeps.foldlP (g := Prod.fst) (fun s a h => ?_) ?_ _
    | refine Keeps.foldlP (g := Prod.snd) (fun s a h => ?_) ?_ _
    | split

theorem State.powerTile_keeps {u s : State} (h : Keeps u s) (t : Nat) :
    Keeps u (State.powerTile s t) := by
  unfold State.powerTile
  repeat' first
    | with_reducible assumption
    | with_reducible apply State.gate_keeps
    | with_reducible apply State.setHealth_keeps
    | refine Keeps.foldl (fun s a h => ?_) ?_ _
    | refine Keeps.foldlP (g := Prod.fst) (fun s a h => ?_) ?_ _
    | refine Keeps.foldlP (g := Prod.snd) (fun s a h => ?_) ?_ _
    | split
    | dsimp only
    | fail_if_no_progress (with_reducible refine Keeps.upd ?_ rfl rfl rfl rfl)

theorem State.powerFollow_keeps {u s : State} (h : Keeps u s) :
    Keeps u (State.powerFollow s) := by
  unfold State.powerFollow
  repeat' first
    | with_reducible assumption
    | with_reducible apply State.powerTile_keeps
    | refine Keeps.foldl (fun s a h => ?_) ?_ _

theorem State.tileWakes_keeps {u s : State} (h : Keeps u s) (t : Nat) :
    Keeps u (State.tileWakes s t) := by
  unfold State.tileWakes
  repeat' first
    | with_reducible assumption
    | with_reducible apply State.setHealth_keeps
    | refine Keeps.foldl (fun s a h => ?_) ?_ _
    | refine Keeps.foldlP (g := Prod.fst) (fun s a h => ?_) ?_ _
    | refine Keeps.foldlP (g := Prod.snd) (fun s a h => ?_) ?_ _
    | split
    | dsimp only

end Sys2Proof.Machine
end

