-- ==== Sys2Proof/Laws/KeepResponses.lean ====
section
/-! SUPPORT. What the operations of Machine/Responses.lean keep. -/

namespace Sys2Proof.Machine

theorem State.dropWrites_keeps {u s : State} (h : Keeps u s) (id k : Nat) :
    Keeps u (State.dropWrites s id k) := by
  unfold State.dropWrites
  repeat' first
    | with_reducible assumption
    | with_reducible apply State.modJob_keeps
    | refine Keeps.foldl (fun s a h => ?_) ?_ _
    | refine Keeps.foldlP (g := Prod.fst) (fun s a h => ?_) ?_ _
    | refine Keeps.foldlP (g := Prod.snd) (fun s a h => ?_) ?_ _
    | split
    | dsimp only
    | fail_if_no_progress (with_reducible refine Keeps.upd ?_ rfl rfl rfl rfl)

theorem State.oneLess_keeps {u s : State} (h : Keeps u s) (id : Nat) :
    Keeps u (State.oneLess s id) := by
  unfold State.oneLess
  repeat' first
    | with_reducible assumption
    | with_reducible apply State.modJob_keeps

theorem State.outEnds_keeps {u s : State} (h : Keeps u s) (id k status : Nat) :
    Keeps u (State.outEnds s id k status) := by
  unfold State.outEnds
  repeat' first
    | with_reducible assumption
    | with_reducible apply State.modItem_keeps
    | with_reducible apply State.dropWrites_keeps
    | with_reducible apply State.oneLess_keeps
    | refine Keeps.foldl (fun s a h => ?_) ?_ _
    | refine Keeps.foldlP (g := Prod.fst) (fun s a h => ?_) ?_ _
    | refine Keeps.foldlP (g := Prod.snd) (fun s a h => ?_) ?_ _
    | split

theorem State.waitEnds_keeps {u s : State} (h : Keeps u s) (id status : Nat) {go : State → Job → Item → State}
    (hg : ∀ s j i, Keeps u s → Keeps u (go s j i)) : Keeps u (s.waitEnds id status go) := by
  have k := State.modItem_keeps h id 0 (fun i =>
    { i with writesLeft := i.writesLeft - 1, writeStatus := if i.writeStatus = 0 then status else i.writeStatus })
  unfold State.waitEnds
  dsimp only
  split
  · split
    · exact hg _ _ _ k
    · exact k
  · exact k

theorem State.migEnds_keeps {u s : State} (h : Keeps u s) (slot : Nat) (r : HReq) (status : Nat) (payload : List Byte) :
    Keeps u (State.migEnds s slot r status payload) := by
  unfold State.migEnds
  repeat' first
    | with_reducible assumption
    | with_reducible apply State.putMig_keeps
    | refine Keeps.foldl (fun s a h => ?_) ?_ _
    | refine Keeps.foldlP (g := Prod.fst) (fun s a h => ?_) ?_ _
    | refine Keeps.foldlP (g := Prod.snd) (fun s a h => ?_) ?_ _
    | split

theorem State.castleEnds_keeps {u s : State} (h : Keeps u s) :
    Keeps u (State.castleEnds s) := by
  unfold State.castleEnds
  repeat' first
    | with_reducible assumption
    | refine Keeps.foldl (fun s a h => ?_) ?_ _
    | refine Keeps.foldlP (g := Prod.fst) (fun s a h => ?_) ?_ _
    | refine Keeps.foldlP (g := Prod.snd) (fun s a h => ?_) ?_ _
    | split
    | dsimp only
    | fail_if_no_progress (with_reducible refine Keeps.upd ?_ rfl rfl rfl rfl)

theorem State.ends_keeps {u s : State} (h : Keeps u s) (r : HReq) (status : Nat) (payload : List Byte) :
    Keeps u (State.ends s r status payload) := by
  unfold State.ends
  repeat' first
    | with_reducible assumption
    | with_reducible apply State.modJob_keeps
    | with_reducible apply State.pump_keeps
    | with_reducible apply State.recordDone_keeps
    | with_reducible apply State.irqDropped_keeps
    | with_reducible apply State.parkEnds_keeps
    | with_reducible apply State.publishEnds_keeps
    | with_reducible apply State.oneLess_keeps
    | with_reducible apply State.outEnds_keeps
    | with_reducible apply State.waitEnds_keeps
    | with_reducible apply State.migEnds_keeps
    | with_reducible apply State.castleEnds_keeps
    | refine Keeps.foldl (fun s a h => ?_) ?_ _
    | refine Keeps.foldlP (g := Prod.fst) (fun s a h => ?_) ?_ _
    | refine Keeps.foldlP (g := Prod.snd) (fun s a h => ?_) ?_ _
    | split
    | dsimp only
    | fail_if_no_progress (with_reducible refine Keeps.upd ?_ rfl rfl rfl rfl)
    | with_reducible refine Keeps.of_fst (by with_reducible assumption) ?_
    | with_reducible refine Keeps.of_snd (by with_reducible assumption) ?_
    | with_reducible refine Keeps.updReg ?_ rfl rfl rfl rfl
    | with_reducible refine Keeps.some_one (by with_reducible assumption) ?_
    | with_reducible refine Keeps.some_two (by with_reducible assumption) ?_
    | with_reducible refine Keeps.some_snd (by with_reducible assumption) ?_
    | with_reducible refine Keeps.some_third (by with_reducible assumption) ?_
    | with_reducible refine Keeps.ok_snd (by with_reducible assumption) ?_
    | refine fun s j i h => ?_

theorem State.response_keeps {u s : State} (h : Keeps u s) (q : Req) (write : Bool) (status : Nat) (payload : List Byte) :
    Keeps u (State.response s q write status payload) := by
  unfold State.response
  repeat' first
    | with_reducible assumption
    | with_reducible apply State.strayResponse_keeps
    | with_reducible apply State.ends_keeps
    | refine Keeps.foldl (fun s a h => ?_) ?_ _
    | refine Keeps.foldlP (g := Prod.fst) (fun s a h => ?_) ?_ _
    | refine Keeps.foldlP (g := Prod.snd) (fun s a h => ?_) ?_ _
    | split
    | dsimp only
    | fail_if_no_progress (with_reducible refine Keeps.upd ?_ rfl rfl rfl rfl)

theorem State.requestTimeout_keeps {u s : State} (h : Keeps u s) (q : Req) :
    Keeps u (State.requestTimeout s q) := by
  unfold State.requestTimeout
  repeat' first
    | with_reducible assumption
    | with_reducible apply State.report_keeps
    | with_reducible apply State.ends_keeps
    | refine Keeps.foldl (fun s a h => ?_) ?_ _
    | refine Keeps.foldlP (g := Prod.fst) (fun s a h => ?_) ?_ _
    | refine Keeps.foldlP (g := Prod.snd) (fun s a h => ?_) ?_ _
    | split
    | dsimp only
    | fail_if_no_progress (with_reducible refine Keeps.upd ?_ rfl rfl rfl rfl)

theorem State.captureBad_keeps {u s : State} (h : Keeps u s) (t ch : Nat) (d : DmaDesc) (how : DmaEnd) :
    Keeps u (State.captureBad s t ch d how) := by
  unfold State.captureBad
  repeat' first
    | with_reducible assumption
    | with_reducible apply State.setReg_keeps
    | with_reducible apply State.bump_keeps
    | with_reducible apply State.bumpTile_keeps
    | refine Keeps.foldl (fun s a h => ?_) ?_ _
    | refine Keeps.foldlP (g := Prod.fst) (fun s a h => ?_) ?_ _
    | refine Keeps.foldlP (g := Prod.snd) (fun s a h => ?_) ?_ _
    | split
    | dsimp only

theorem State.mediaBad_keeps {u s : State} (h : Keeps u s) (t ch : Nat) (d : DmaDesc) :
    Keeps u (State.mediaBad s t ch d) := by
  unfold State.mediaBad
  repeat' first
    | with_reducible assumption
    | with_reducible apply State.raise_keeps
    | with_reducible apply State.frameBad_keeps
    | with_reducible apply State.retryItem_keeps
    | refine Keeps.foldl (fun s a h => ?_) ?_ _
    | refine Keeps.foldlP (g := Prod.fst) (fun s a h => ?_) ?_ _
    | refine Keeps.foldlP (g := Prod.snd) (fun s a h => ?_) ?_ _
    | split

theorem State.dmaEnds_keeps {u s : State} (h : Keeps u s) (t ch : Nat) (how : DmaEnd) :
    Keeps u (State.dmaEnds s t ch how) := by
  unfold State.dmaEnds
  repeat' first
    | with_reducible assumption
    | with_reducible apply State.bumpTile_keeps
    | with_reducible apply State.captureBad_keeps
    | with_reducible apply State.mediaBad_keeps
    | refine Keeps.foldl (fun s a h => ?_) ?_ _
    | refine Keeps.foldlP (g := Prod.fst) (fun s a h => ?_) ?_ _
    | refine Keeps.foldlP (g := Prod.snd) (fun s a h => ?_) ?_ _
    | split
    | dsimp only
    | fail_if_no_progress (with_reducible refine Keeps.upd ?_ rfl rfl rfl rfl)

end Sys2Proof.Machine
end

