-- ==== Sys2Proof/Laws/KeepEvents.lean ====
section
/-! SUPPORT. What the operations of Machine/Events.lean keep. -/

namespace Sys2Proof.Machine

theorem State.conflict_keeps {u s : State} (h : Keeps u s) (c : CoreId) (a : PortAccess) :
    Keeps u (State.conflict s c a) := by
  unfold State.conflict
  repeat' first
    | with_reducible assumption
    | with_reducible apply State.bumpTile_keeps
    | with_reducible apply State.report_keeps
    | refine Keeps.foldl (fun s a h => ?_) ?_ _
    | refine Keeps.foldlP (g := Prod.fst) (fun s a h => ?_) ?_ _
    | refine Keeps.foldlP (g := Prod.snd) (fun s a h => ?_) ?_ _
    | split
    | dsimp only
    | fail_if_no_progress (with_reducible refine Keeps.upd ?_ rfl rfl rfl rfl)

theorem State.portCycle_keeps {u s : State} (h : Keeps u s) (c : CoreId) (accs : List PortAccess) :
    Keeps u (s.portCycle c accs) := by
  have k := Keeps.foldl (fun s a h => State.conflict_keeps (s := s) h c a) h
    (accs.filter (fun a => a.loses (s.lossesOf c.key) accs))
  exact k.upd rfl rfl rfl rfl

theorem State.memEvent_keeps {u s : State} (h : Keeps u s) (e : MemEvent) :
    Keeps u (State.memEvent s e) := by
  unfold State.memEvent
  repeat' first
    | with_reducible assumption
    | with_reducible apply State.bumpTile_keeps
    | with_reducible apply State.report_keeps
    | with_reducible apply State.lineLost_keeps
    | with_reducible apply State.portCycle_keeps
    | refine Keeps.foldl (fun s a h => ?_) ?_ _
    | refine Keeps.foldlP (g := Prod.fst) (fun s a h => ?_) ?_ _
    | refine Keeps.foldlP (g := Prod.snd) (fun s a h => ?_) ?_ _
    | split

theorem State.memEvents_keeps {u s : State} (h : Keeps u s) (l : List MemEvent) :
    Keeps u (State.memEvents s l) := by
  unfold State.memEvents
  repeat' first
    | with_reducible assumption
    | with_reducible apply State.memEvent_keeps
    | refine Keeps.foldl (fun s a h => ?_) ?_ _

theorem State.itemEvents_keeps {u s : State} (h : Keeps u s) (id k : Nat) (l : List MemEvent) :
    Keeps u (State.itemEvents s id k l) := by
  unfold State.itemEvents
  repeat' first
    | with_reducible assumption
    | with_reducible apply State.badAccess_keeps
    | with_reducible apply State.memEvents_keeps
    | refine Keeps.foldl (fun s a h => ?_) ?_ _
    | refine Keeps.foldlP (g := Prod.fst) (fun s a h => ?_) ?_ _
    | refine Keeps.foldlP (g := Prod.snd) (fun s a h => ?_) ?_ _
    | split
    | dsimp only

theorem State.restoreRow_keeps {u s : State} (h : Keeps u s) (g : GlobalCopy) (r : Nat) :
    Keeps u (State.restoreRow s g r) := by
  unfold State.restoreRow
  repeat' first
    | with_reducible assumption
    | refine Keeps.foldl (fun s a h => ?_) ?_ _
    | refine Keeps.foldlP (g := Prod.fst) (fun s a h => ?_) ?_ _
    | refine Keeps.foldlP (g := Prod.snd) (fun s a h => ?_) ?_ _
    | split
    | dsimp only
    | fail_if_no_progress (with_reducible refine Keeps.upd ?_ rfl rfl rfl rfl)

theorem State.sramLost_keeps {u s : State} (h : Keeps u s) (t b word : Nat) :
    Keeps u (State.sramLost s t b word) := by
  unfold State.sramLost
  repeat' first
    | with_reducible assumption
    | with_reducible apply State.bumpTile_keeps
    | with_reducible apply State.report_keeps
    | with_reducible apply State.block_keeps
    | with_reducible apply State.retryItem_keeps
    | with_reducible apply State.restoreRow_keeps
    | refine Keeps.foldl (fun s a h => ?_) ?_ _
    | refine Keeps.foldlP (g := Prod.fst) (fun s a h => ?_) ?_ _
    | refine Keeps.foldlP (g := Prod.snd) (fun s a h => ?_) ?_ _
    | split
    | dsimp only
    | fail_if_no_progress (with_reducible refine Keeps.upd ?_ rfl rfl rfl rfl)

theorem State.sramEvent_keeps {u s : State} (h : Keeps u s) (t : Nat) (e : SramEvent) :
    Keeps u (State.sramEvent s t e) := by
  unfold State.sramEvent
  repeat' first
    | with_reducible assumption
    | with_reducible apply State.bump_keeps
    | with_reducible apply State.bumpTile_keeps
    | with_reducible apply State.report_keeps
    | with_reducible apply State.block_keeps
    | with_reducible apply State.bankOut_keeps
    | with_reducible apply State.sramLost_keeps
    | refine Keeps.foldl (fun s a h => ?_) ?_ _
    | refine Keeps.foldlP (g := Prod.fst) (fun s a h => ?_) ?_ _
    | refine Keeps.foldlP (g := Prod.snd) (fun s a h => ?_) ?_ _
    | split
    | dsimp only

theorem State.sramEvents_keeps {u s : State} (h : Keeps u s) (t : Nat) (l : List SramEvent) :
    Keeps u (State.sramEvents s t l) := by
  unfold State.sramEvents
  repeat' first
    | with_reducible assumption
    | with_reducible apply State.sramEvent_keeps
    | refine Keeps.foldl (fun s a h => ?_) ?_ _

theorem State.finishItem_keeps {u s : State} (h : Keeps u s) (id k : Nat) (met : List MemEvent) :
    Keeps u (State.finishItem s id k met) := by
  unfold State.finishItem
  repeat' first
    | with_reducible assumption
    | with_reducible apply State.completeItem_keeps
    | with_reducible apply State.itemEvents_keeps
    | refine Keeps.foldl (fun s a h => ?_) ?_ _
    | refine Keeps.foldlP (g := Prod.fst) (fun s a h => ?_) ?_ _
    | refine Keeps.foldlP (g := Prod.snd) (fun s a h => ?_) ?_ _
    | split
    | dsimp only

end Sys2Proof.Machine
end

