-- ==== Sys2Proof/Laws/KeepStartUp.lean ====
section
/-! SUPPORT. What the operations of Machine/StartUp.lean keep. -/

namespace Sys2Proof.Machine

theorem State.fresh_bounded (s : State) : s.fresh.Bounded := by
  refine ⟨?_, (by decide : tabOk 0#32 State.reset.regs = true)⟩
  have (p : Part) : p.errors.fifo = [] := by cases p <;> rfl
  exact (congrArg List.length (this s.part)).trans_le (Nat.zero_le _)

theorem State.off_bounded (s : State) (a b : Bool) : (s.off a b).Bounded := s.fresh_bounded

theorem State.boot_moves (s : State) : Moves s s.boot := by
  unfold State.boot
  split
  · exact ⟨rfl, rfl, rfl, rfl, .inr (.inr (.inl ⟨‹_›, rfl⟩)), fun _ => s.fresh_bounded⟩
  · exact (Keeps.refl s).moves

theorem State.wipeSeals_ground {u s : State} (h : Ground u s) : Ground u s.wipeSeals := 
  h.upd rfl rfl rfl rfl rfl (SealsStep.map _ (fun _ => ⟨rfl, .inr ⟨rfl, rfl⟩⟩)) id

theorem State.checkSeals_ground {u s : State} (h : Ground u s) (bad : List (BitVec 5)) : Ground u (s.checkSeals bad) := by
  have step : ∀ (l : List Seal) (n : Nat),
      SealsStep l ((l.zipIdx n).map (fun p => { p.1 with good := !bad.any (fun t => t.toNat = p.2) })) := by
    intro l
    induction l with
    | nil => exact fun _ => .nil
    | cons x l ih => exact fun n => .cons ⟨rfl, .inl ⟨rfl, rfl⟩⟩ (ih (n + 1))
  exact h.upd rfl rfl rfl rfl rfl (step s.seals 0) id

theorem State.loadSeal_ground {u s : State} (h : Ground u s) (bad : List (BitVec 5)) : Ground u (s.loadSeal bad) := by
  have k : Ground u { s.checkSeals bad with
      wipeCount := (s.checkSeals bad).cleanSeal.wipeCount, tamperSeen := (s.checkSeals bad).cleanSeal.tamperSeen } :=
    (State.checkSeals_ground h bad).set rfl rfl rfl
  exact (Ground.ite (fun _ => State.wipeSeals_ground k) (fun _ => k)).set rfl rfl rfl

theorem State.tamper_ground {u s : State} (h : Ground u s) : Ground u s.tamper := by
  unfold State.tamper
  split
  · exact h
  · dsimp only
    generalize hx : State.mk _ _ _ _ _ _ _ _ _ _ _ _ _ _ _ _ _ _ = x
    have k : Ground u x := hx ▸ Ground.upd (State.wipeSeals_ground h) rfl rfl rfl rfl rfl
      (SealsStep.map _ (fun _ => ⟨rfl, .inl ⟨rfl, rfl⟩⟩)) id
    exact k.step (State.block_keeps (Keeps.refl x) _ _)

theorem State.skipEntry_keeps {u s : State} (h : Keeps u s) (t n : Nat) :
    Keeps u (State.skipEntry s t n) := by
  unfold State.skipEntry
  repeat' first
    | with_reducible assumption
    | with_reducible apply State.report_keeps

theorem State.bootTileOut_keeps {u s : State} (h : Keeps u s) (t : Nat) :
    Keeps u (State.bootTileOut s t) := by
  unfold State.bootTileOut
  repeat' first
    | with_reducible assumption
    | with_reducible apply State.halt_keeps
    | with_reducible apply State.quarantine_keeps
    | refine Keeps.foldl (fun s a h => ?_) ?_ _
    | refine Keeps.foldlP (g := Prod.fst) (fun s a h => ?_) ?_ _
    | refine Keeps.foldlP (g := Prod.snd) (fun s a h => ?_) ?_ _
    | split
    | dsimp only

theorem State.takeRow_keeps {u s : State} (h : Keeps u s) (t ch layer bank : Nat) {d : State} (k : Keeps u d) :
    Keeps u ((s.takeRow t ch layer bank).getD d) := by
  unfold State.takeRow
  dsimp only
  split
  · exact h.upd rfl rfl rfl rfl
  · exact k

theorem State.applyRepair_keeps {u s : State} (h : Keeps u s) (t n v : Nat) : Keeps u (s.applyRepair t n v) := by
  have skip := State.skipEntry_keeps h t n
  unfold State.applyRepair
  dsimp only
  split
  · exact skip
  split
  · exact h
  split
  · exact Keeps.ite (fun _ => skip) (fun _ => State.bindSpare_keeps h _ _ _)
  · exact State.takeRow_keeps h _ _ _ _ skip
  · exact Keeps.ite (fun _ => skip) (fun _ => h.upd rfl rfl rfl rfl)
  · exact h
  · exact Keeps.ite (fun _ => h.upd rfl rfl rfl rfl) (fun _ => h)
  · exact State.bootTileOut_keeps h _
  · exact skip

theorem State.applyMaps_keeps {u s : State} (h : Keeps u s) :
    Keeps u (State.applyMaps s) := by
  unfold State.applyMaps
  repeat' first
    | with_reducible assumption
    | with_reducible apply State.applyRepair_keeps
    | refine Keeps.foldl (fun s a h => ?_) ?_ _

theorem State.bootBist_keeps {u s : State} (h : Keeps u s) (f : BistFinding) : Keeps u (s.bootBist f) := by
  unfold State.bootBist
  dsimp only
  refine Keeps.ite (fun _ => h) (fun _ => ?_)
  have last : ∀ {x : State}, Keeps u x → Keeps u (if f.unrepairable then x.bootTileOut f.tile.toNat else x) :=
    fun k => Keeps.ite (fun _ => State.bootTileOut_keeps k _) (fun _ => k)
  refine last (Keeps.foldl (fun s r k => State.takeRow_keeps k _ _ _ _ k) (Keeps.foldl (fun s c k => ?_) h _) _)
  split
  · exact State.bindSpare_keeps k _ _ _
  · exact k.upd rfl rfl rfl rfl

theorem State.bootDone_moves (s : State) (r : BootReport) : Moves s (s.bootDone r) := by
  unfold State.bootDone
  by_cases e : s.cfg.mode ≠ .boot
  · rw [if_pos e]; exact (Keeps.refl s).moves
  rw [if_neg e]
  split
  · exact (State.halt_keeps (Keeps.refl s) _).moves
  have k := State.loadSeal_ground (State.applyMaps_keeps (Keeps.refl s)).ground r.sealBad
  generalize s.applyMaps.loadSeal r.sealBad = y at k
  have g : Ground s (if y.cfg.fuses.bootBist then r.bist.foldl State.bootBist y else y) :=
    Ground.ite (fun _ => Ground.foldl (fun s a h => h.step (State.bootBist_keeps (Keeps.refl _) _)) k _) (fun _ => k)
  dsimp only
  generalize (if y.cfg.fuses.bootBist then r.bist.foldl State.bootBist y else y) = x at g
  split
  · exact ⟨g.1, g.2, g.3, g.4, .inr (.inr (.inr (.inl ⟨Decidable.not_not.1 e, rfl⟩))), g.7⟩
  · exact g.moves

theorem State.pllTimeout_keeps {u s : State} (h : Keeps u s) (t : Nat) (p : Pll) :
    Keeps u (State.pllTimeout s t p) := by
  unfold State.pllTimeout
  repeat' first
    | with_reducible assumption
    | with_reducible apply State.report_keeps
    | with_reducible apply State.halt_keeps
    | with_reducible apply State.quarantine_keeps
    | refine Keeps.foldl (fun s a h => ?_) ?_ _
    | refine Keeps.foldlP (g := Prod.fst) (fun s a h => ?_) ?_ _
    | refine Keeps.foldlP (g := Prod.snd) (fun s a h => ?_) ?_ _
    | split

theorem State.nvmBurst_moves (s : State) (b : List Byte) : Moves s (s.nvmBurst b) := by
  unfold State.nvmBurst
  dsimp only
  by_cases e : s.cfg.mode ≠ .load
  · rw [if_pos e]; exact (Keeps.refl s).moves
  rw [if_neg e]
  split
  · exact (State.halt_keeps (Keeps.refl s) _).moves
  · split
    · exact ⟨rfl, rfl, rfl, rfl, .inr (.inr (.inr (.inr (.inl ⟨Decidable.not_not.1 e, rfl⟩)))), id⟩
    · refine Keeps.moves ?_
      exact Keeps.upd (Keeps.refl s) rfl rfl rfl rfl

theorem State.nvmTimeout_keeps {u s : State} (h : Keeps u s) :
    Keeps u (State.nvmTimeout s) := by
  unfold State.nvmTimeout
  repeat' first
    | with_reducible assumption
    | with_reducible apply State.halt_keeps
    | refine Keeps.foldl (fun s a h => ?_) ?_ _
    | refine Keeps.foldlP (g := Prod.fst) (fun s a h => ?_) ?_ _
    | refine Keeps.foldlP (g := Prod.snd) (fun s a h => ?_) ?_ _
    | split
    | dsimp only
    | fail_if_no_progress (with_reducible refine Keeps.upd ?_ rfl rfl rfl rfl)

theorem State.clampEntry_keeps {u s : State} (h : Keeps u s) (off : Nat) :
    Keeps u (State.clampEntry s off) := by
  unfold State.clampEntry
  repeat' first
    | with_reducible assumption
    | with_reducible apply State.report_keeps

theorem State.writeReg_keeps {u s : State} (h : Keeps u s) (fs : List Fld) (off v : Nat) :
    Keeps u (State.writeReg s fs off v) := by
  unfold State.writeReg
  repeat' first
    | with_reducible assumption
    | with_reducible apply State.applyWrite_keeps
    | with_reducible apply State.clampEntry_keeps
    | refine Keeps.foldl (fun s a h => ?_) ?_ _
    | refine Keeps.foldlP (g := Prod.fst) (fun s a h => ?_) ?_ _
    | refine Keeps.foldlP (g := Prod.snd) (fun s a h => ?_) ?_ _
    | split
    | dsimp only
    | fail_if_no_progress (with_reducible refine Keeps.upd ?_ rfl rfl rfl rfl)
    | with_reducible refine Keeps.of_fst (by with_reducible assumption) ?_
    | with_reducible refine Keeps.of_snd (by with_reducible assumption) ?_
    | with_reducible refine Keeps.updReg ?_ rfl rfl rfl rfl

theorem State.applyRecords_keeps {u s : State} (h : Keeps u s) (img : List Byte) :
    Keeps u (State.applyRecords s img) := by
  unfold State.applyRecords
  repeat' first
    | with_reducible assumption
    | with_reducible apply State.writeReg_keeps
    | refine Keeps.foldl (fun s a h => ?_) ?_ _
    | refine Keeps.foldlP (g := Prod.fst) (fun s a h => ?_) ?_ _
    | refine Keeps.foldlP (g := Prod.snd) (fun s a h => ?_) ?_ _
    | split

theorem State.verify_moves (s : State) : Moves s s.verify := by
  unfold State.verify
  by_cases e : s.cfg.mode ≠ .verify
  · rw [if_pos e]; exact (Keeps.refl s).moves
  rw [if_neg e]
  dsimp only
  split
  · exact (State.halt_keeps (Keeps.refl s) _).moves
  · split
    · refine Keeps.moves (State.halt_keeps ?_ _)
      exact Keeps.upd (Keeps.refl s) rfl rfl rfl rfl
    · exact ⟨rfl, rfl, rfl, rfl, .inr (.inr (.inr (.inr (.inr (.inl ⟨Decidable.not_not.1 e, rfl⟩))))), id⟩

theorem State.fillReserve_keeps {u s : State} (h : Keeps u s) (t : Nat) :
    Keeps u (State.fillReserve s t) := by
  unfold State.fillReserve
  repeat' first
    | with_reducible assumption
    | with_reducible apply State.setFrame_keeps
    | refine Keeps.foldl (fun s a h => ?_) ?_ _
    | refine Keeps.foldlP (g := Prod.fst) (fun s a h => ?_) ?_ _
    | refine Keeps.foldlP (g := Prod.snd) (fun s a h => ?_) ?_ _
    | split
    | dsimp only
    | fail_if_no_progress (with_reducible refine Keeps.upd ?_ rfl rfl rfl rfl)

theorem State.settleOut_keeps {u s : State} (h : Keeps u s) (t : Nat) :
    Keeps u (State.settleOut s t) := by
  unfold State.settleOut
  repeat' first
    | with_reducible assumption
    | refine Keeps.foldl (fun s a h => ?_) ?_ _
    | refine Keeps.foldlP (g := Prod.fst) (fun s a h => ?_) ?_ _
    | refine Keeps.foldlP (g := Prod.snd) (fun s a h => ?_) ?_ _
    | split
    | dsimp only
    | fail_if_no_progress (with_reducible refine Keeps.upd ?_ rfl rfl rfl rfl)

theorem State.clearRings_keeps {u s : State} (h : Keeps u s) : Keeps u s.clearRings :=
  h.trans (.by_eq rfl rfl fun b => ⟨b.1, tabOk_filter b.2 _⟩)

theorem State.goReady_calm {u s : State} (h : Calm u s) : Calm u s.goReady := by
  unfold State.goReady
  exact Calm.upd (h.step (Keeps.foldl (fun s t k => k.upd rfl rfl rfl rfl) (Keeps.refl _) _)) rfl rfl rfl

theorem State.goReady_keeps {u s : State} (h : Keeps u s) (hm : s.cfg.mode = .pair) : Keeps u s.goReady :=
  Calm.keeps h (State.goReady_calm (Calm.refl s)) (.inr (.inr (.inr ⟨hm, rfl⟩)))

theorem State.init_moves (s : State) : Moves s s.init := by
  unfold State.init
  by_cases e : s.cfg.mode ≠ .init
  · rw [if_pos e]; exact (Keeps.refl s).moves
  rw [if_neg e]
  have k := (State.clearRings_keeps (State.applyRecords_keeps (Keeps.refl s) s.cfg.verified)).calm
  dsimp only
  generalize State.clearRings _ = a at k
  generalize hx : List.foldl State.settleOut _ _ = x
  have g : Calm s x := by
    rw [← hx]
    refine Calm.step ?_ (Keeps.foldl (fun s t k => State.settleOut_keeps k t) (Keeps.refl _) _)
    refine Calm.step ?_ (Keeps.foldl (fun s t k => State.fillReserve_keeps k t) (Keeps.refl _) _)
    exact Calm.upd k rfl rfl rfl
  have m : ∀ b : Mode, b = .pair ∨ b = .ready → Edge s.cfg.mode b := fun b hb =>
    .inr (.inr (.inr (.inr (.inr (.inr ⟨Decidable.not_not.1 e, hb⟩)))))
  have mv : ∀ t : State, Calm s t → t.cfg.mode = .pair ∨ t.cfg.mode = .ready → Moves s t := fun t c hb =>
    ⟨congrArg Still.part c.1, congrArg Still.stepping c.1, congrArg Still.fuses c.1, congrArg Still.pending c.1, m _ hb, c.2⟩
  split
  · exact mv _ (State.goReady_calm g) (.inr rfl)
  · exact mv _ (Calm.upd g rfl rfl rfl) (.inl rfl)

theorem State.pairTimeout_keeps {u s : State} (h : Keeps u s) : Keeps u s.pairTimeout := by
  unfold State.pairTimeout
  split
  · exact State.goReady_keeps h ‹_›
  · exact h

theorem State.windowFollows_keeps {u s : State} (h : Keeps u s) (t : Nat) (changed : Bool) :
    Keeps u (State.windowFollows s t changed) := by
  unfold State.windowFollows
  repeat' first
    | with_reducible assumption
    | with_reducible apply State.closeRound_keeps
    | refine Keeps.foldl (fun s a h => ?_) ?_ _
    | refine Keeps.foldlP (g := Prod.fst) (fun s a h => ?_) ?_ _
    | refine Keeps.foldlP (g := Prod.snd) (fun s a h => ?_) ?_ _
    | split
    | dsimp only
    | fail_if_no_progress (with_reducible refine Keeps.upd ?_ rfl rfl rfl rfl)

theorem State.commit_keeps {u s : State} (h : Keeps u s) : Keeps u s.commit := by
  unfold State.commit
  dsimp only
  have k : Keeps u { s with cfg := { s.cfg with seq := (s.cfg.seq + 1) % 65536 } } := h.upd rfl rfl rfl rfl
  generalize State.mk _ _ _ _ _ _ _ _ _ _ _ _ _ _ _ _ _ _ = s1 at k
  refine Keeps.ite (fun _ => k) (fun _ => ?_)
  exact (Keeps.foldl (fun s a h => Keeps.ite (fun _ => State.setReg_keeps h _ _)
      (fun _ => State.clampEntry_keeps (State.setReg_keeps h _ _) _)) k liveRegs).upd rfl rfl rfl rfl

theorem State.commitWrite_keeps {u s : State} (h : Keeps u s) (v : Nat) :
    Keeps u (State.commitWrite s v) := by
  unfold State.commitWrite
  repeat' first
    | with_reducible assumption
    | with_reducible apply State.commit_keeps
    | refine Keeps.foldl (fun s a h => ?_) ?_ _
    | refine Keeps.foldlP (g := Prod.fst) (fun s a h => ?_) ?_ _
    | refine Keeps.foldlP (g := Prod.snd) (fun s a h => ?_) ?_ _
    | split
    | dsimp only
    | fail_if_no_progress (with_reducible refine Keeps.upd ?_ rfl rfl rfl rfl)

theorem State.adopt_keeps {u s : State} (h : Keeps u s) (u₁ : Nat) :
    Keeps u (State.adopt s u₁) := by
  unfold State.adopt
  repeat' first
    | with_reducible assumption
    | with_reducible apply State.windowFollows_keeps
    | with_reducible apply State.commit_keeps
    | refine Keeps.foldl (fun s a h => ?_) ?_ _
    | refine Keeps.foldlP (g := Prod.fst) (fun s a h => ?_) ?_ _
    | refine Keeps.foldlP (g := Prod.snd) (fun s a h => ?_) ?_ _
    | split
    | dsimp only
    | fail_if_no_progress (with_reducible refine Keeps.upd ?_ rfl rfl rfl rfl)

end Sys2Proof.Machine
end

