-- ==== Sys2Proof/Laws/KeepTwin.lean ====
section
/-! SUPPORT. What the operations of Machine/Twin.lean keep. -/

namespace Sys2Proof.Machine

theorem State.setTwin_keeps {u s : State} (h : Keeps u s) (st : TwinSt) :
    Keeps u (State.setTwin s st) := by
  unfold State.setTwin
  repeat' first
    | with_reducible assumption
    | refine Keeps.foldl (fun s a h => ?_) ?_ _
    | refine Keeps.foldlP (g := Prod.fst) (fun s a h => ?_) ?_ _
    | refine Keeps.foldlP (g := Prod.snd) (fun s a h => ?_) ?_ _
    | split
    | dsimp only
    | fail_if_no_progress (with_reducible refine Keeps.upd ?_ rfl rfl rfl rfl)

theorem State.twinEntry_keeps {u s : State} (h : Keeps u s) (sev cause : Nat) :
    Keeps u (State.twinEntry s sev cause) := by
  unfold State.twinEntry
  repeat' first
    | with_reducible assumption
    | with_reducible apply State.report_keeps

theorem State.linkDown_keeps {u s : State} (h : Keeps u s) :
    Keeps u (State.linkDown s) := by
  unfold State.linkDown
  repeat' first
    | with_reducible assumption
    | refine Keeps.foldl (fun s a h => ?_) ?_ _
    | refine Keeps.foldlP (g := Prod.fst) (fun s a h => ?_) ?_ _
    | refine Keeps.foldlP (g := Prod.snd) (fun s a h => ?_) ?_ _
    | split
    | dsimp only
    | fail_if_no_progress (with_reducible refine Keeps.upd ?_ rfl rfl rfl rfl)

theorem State.loseLane_keeps {u s : State} (h : Keeps u s) (l : Nat) :
    Keeps u (State.loseLane s l) := by
  unfold State.loseLane
  repeat' first
    | with_reducible assumption
    | with_reducible apply State.twinEntry_keeps
    | with_reducible apply State.linkDown_keeps
    | refine Keeps.foldl (fun s a h => ?_) ?_ _
    | refine Keeps.foldlP (g := Prod.fst) (fun s a h => ?_) ?_ _
    | refine Keeps.foldlP (g := Prod.snd) (fun s a h => ?_) ?_ _
    | split
    | dsimp only
    | fail_if_no_progress (with_reducible refine Keeps.upd ?_ rfl rfl rfl rfl)

theorem State.retrain_keeps {u s : State} (h : Keeps u s) :
    Keeps u (State.retrain s) := by
  unfold State.retrain
  repeat' first
    | with_reducible assumption
    | refine Keeps.foldl (fun s a h => ?_) ?_ _
    | refine Keeps.foldlP (g := Prod.fst) (fun s a h => ?_) ?_ _
    | refine Keeps.foldlP (g := Prod.snd) (fun s a h => ?_) ?_ _
    | split
    | dsimp only
    | fail_if_no_progress (with_reducible refine Keeps.upd ?_ rfl rfl rfl rfl)

theorem State.resendAll_keeps {u s : State} (h : Keeps u s) :
    Keeps u (State.resendAll s) := by
  unfold State.resendAll
  repeat' first
    | with_reducible assumption
    | with_reducible apply State.bump_keeps
    | refine Keeps.foldl (fun s a h => ?_) ?_ _
    | refine Keeps.foldlP (g := Prod.fst) (fun s a h => ?_) ?_ _
    | refine Keeps.foldlP (g := Prod.snd) (fun s a h => ?_) ?_ _
    | split
    | dsimp only
    | fail_if_no_progress (with_reducible refine Keeps.upd ?_ rfl rfl rfl rfl)

theorem State.takeAck_keeps {u s : State} (h : Keeps u s) (seq : Nat) :
    Keeps u (State.takeAck s seq) := by
  unfold State.takeAck
  repeat' first
    | with_reducible assumption
    | refine Keeps.foldl (fun s a h => ?_) ?_ _
    | refine Keeps.foldlP (g := Prod.fst) (fun s a h => ?_) ?_ _
    | refine Keeps.foldlP (g := Prod.snd) (fun s a h => ?_) ?_ _
    | split
    | dsimp only
    | fail_if_no_progress (with_reducible refine Keeps.upd ?_ rfl rfl rfl rfl)

theorem State.takeNak_keeps {u s : State} (h : Keeps u s) (seq : Nat) :
    Keeps u (State.takeNak s seq) := by
  unfold State.takeNak
  repeat' first
    | with_reducible assumption
    | with_reducible apply State.resendAll_keeps
    | with_reducible apply State.takeAck_keeps
    | refine Keeps.foldl (fun s a h => ?_) ?_ _
    | refine Keeps.foldlP (g := Prod.fst) (fun s a h => ?_) ?_ _
    | refine Keeps.foldlP (g := Prod.snd) (fun s a h => ?_) ?_ _
    | split
    | dsimp only

theorem State.takeFrame_keeps {u s : State} (h : Keeps u s) (b : List Byte) (fec : Bool) :
    Keeps u (State.takeFrame s b fec) := by
  unfold State.takeFrame
  repeat' first
    | with_reducible assumption
    | with_reducible apply State.bump_keeps
    | with_reducible apply State.tell_keeps
    | with_reducible apply State.takeAck_keeps
    | with_reducible apply State.takeNak_keeps
    | refine Keeps.foldl (fun s a h => ?_) ?_ _
    | refine Keeps.foldlP (g := Prod.fst) (fun s a h => ?_) ?_ _
    | refine Keeps.foldlP (g := Prod.snd) (fun s a h => ?_) ?_ _
    | split
    | dsimp only
    | fail_if_no_progress (with_reducible refine Keeps.upd ?_ rfl rfl rfl rfl)

theorem State.clearMirrorMaps_keeps {u s : State} (h : Keeps u s) :
    Keeps u (State.clearMirrorMaps s) := by
  unfold State.clearMirrorMaps
  repeat' first
    | with_reducible assumption
    | refine Keeps.foldl (fun s a h => ?_) ?_ _
    | refine Keeps.foldlP (g := Prod.fst) (fun s a h => ?_) ?_ _
    | refine Keeps.foldlP (g := Prod.snd) (fun s a h => ?_) ?_ _
    | split
    | dsimp only
    | fail_if_no_progress (with_reducible refine Keeps.upd ?_ rfl rfl rfl rfl)

theorem State.releaseMirror_keeps {u s : State} (h : Keeps u s) :
    Keeps u (State.releaseMirror s) := by
  unfold State.releaseMirror
  repeat' first
    | with_reducible assumption
    | with_reducible apply State.clearMirrorMaps_keeps
    | refine Keeps.foldl (fun s a h => ?_) ?_ _
    | refine Keeps.foldlP (g := Prod.fst) (fun s a h => ?_) ?_ _
    | refine Keeps.foldlP (g := Prod.snd) (fun s a h => ?_) ?_ _
    | split
    | dsimp only
    | fail_if_no_progress (with_reducible refine Keeps.upd ?_ rfl rfl rfl rfl)

theorem State.setMirror_keeps {u s : State} (h : Keeps u s) :
    Keeps u (State.setMirror s) := by
  unfold State.setMirror
  repeat' first
    | with_reducible assumption
    | refine Keeps.foldl (fun s a h => ?_) ?_ _
    | refine Keeps.foldlP (g := Prod.fst) (fun s a h => ?_) ?_ _
    | refine Keeps.foldlP (g := Prod.snd) (fun s a h => ?_) ?_ _
    | split
    | dsimp only
    | fail_if_no_progress (with_reducible refine Keeps.upd ?_ rfl rfl rfl rfl)

theorem State.emptyMirror_keeps {u s : State} (h : Keeps u s) :
    Keeps u (State.emptyMirror s) := by
  unfold State.emptyMirror
  repeat' first
    | with_reducible assumption
    | with_reducible apply State.clearMirrorMaps_keeps
    | refine Keeps.foldl (fun s a h => ?_) ?_ _
    | refine Keeps.foldlP (g := Prod.fst) (fun s a h => ?_) ?_ _
    | refine Keeps.foldlP (g := Prod.snd) (fun s a h => ?_) ?_ _
    | split
    | dsimp only
    | fail_if_no_progress (with_reducible refine Keeps.upd ?_ rfl rfl rfl rfl)

theorem State.releasePartner_keeps {u s : State} (h : Keeps u s) :
    Keeps u (State.releasePartner s) := by
  unfold State.releasePartner
  repeat' first
    | with_reducible assumption
    | with_reducible apply State.freeRow_keeps
    | refine Keeps.foldl (fun s a h => ?_) ?_ _
    | refine Keeps.foldlP (g := Prod.fst) (fun s a h => ?_) ?_ _
    | refine Keeps.foldlP (g := Prod.snd) (fun s a h => ?_) ?_ _
    | split
    | dsimp only
    | fail_if_no_progress (with_reducible refine Keeps.upd ?_ rfl rfl rfl rfl)

theorem State.keepResident_keeps {u s : State} (h : Keeps u s) (m : Mig) :
    Keeps u (State.keepResident s m) := by
  unfold State.keepResident
  repeat' first
    | with_reducible assumption
    | with_reducible apply State.setFrame_keeps
    | with_reducible apply State.chargeFrame_keeps
    | with_reducible apply State.unrefFrame_keeps
    | with_reducible apply State.dropMig_keeps
    | with_reducible apply State.pump_keeps
    | with_reducible apply State.tellEnd_keeps
    | refine Keeps.foldl (fun s a h => ?_) ?_ _
    | refine Keeps.foldlP (g := Prod.fst) (fun s a h => ?_) ?_ _
    | refine Keeps.foldlP (g := Prod.snd) (fun s a h => ?_) ?_ _
    | split

theorem State.keepAll_keeps {u s : State} (h : Keeps u s) :
    Keeps u (State.keepAll s) := by
  unfold State.keepAll
  repeat' first
    | with_reducible assumption
    | with_reducible apply State.keepResident_keeps
    | refine Keeps.foldl (fun s a h => ?_) ?_ _

theorem State.refetchFails_keeps {u s : State} (h : Keeps u s) (p : Nat × Nat) :
    Keeps u (State.refetchFails s p) := by
  unfold State.refetchFails
  repeat' first
    | with_reducible assumption
    | with_reducible apply State.report_keeps
    | with_reducible apply State.freeFrame_keeps
    | with_reducible apply State.loseFrame_keeps
    | refine Keeps.foldl (fun s a h => ?_) ?_ _
    | refine Keeps.foldlP (g := Prod.fst) (fun s a h => ?_) ?_ _
    | refine Keeps.foldlP (g := Prod.snd) (fun s a h => ?_) ?_ _
    | split
    | dsimp only
    | fail_if_no_progress (with_reducible refine Keeps.upd ?_ rfl rfl rfl rfl)

theorem State.refetchesFail_keeps {u s : State} (h : Keeps u s) :
    Keeps u (State.refetchesFail s) := by
  unfold State.refetchesFail
  repeat' first
    | with_reducible assumption
    | with_reducible apply State.refetchFails_keeps
    | refine Keeps.foldl (fun s a h => ?_) ?_ _

theorem State.releaseRecords_keeps {u s : State} (h : Keeps u s) :
    Keeps u (State.releaseRecords s) := by
  unfold State.releaseRecords
  repeat' first
    | with_reducible assumption
    | refine Keeps.foldl (fun s a h => ?_) ?_ _
    | refine Keeps.foldlP (g := Prod.fst) (fun s a h => ?_) ?_ _
    | refine Keeps.foldlP (g := Prod.snd) (fun s a h => ?_) ?_ _
    | split
    | dsimp only
    | fail_if_no_progress (with_reducible refine Keeps.upd ?_ rfl rfl rfl rfl)

theorem State.helloFails_keeps {u s : State} (h : Keeps u s) (cause : Nat) :
    Keeps u (State.helloFails s cause) := by
  unfold State.helloFails
  repeat' first
    | with_reducible assumption
    | with_reducible apply State.bump_keeps
    | with_reducible apply State.twinEntry_keeps
    | refine Keeps.foldl (fun s a h => ?_) ?_ _
    | refine Keeps.foldlP (g := Prod.fst) (fun s a h => ?_) ?_ _
    | refine Keeps.foldlP (g := Prod.snd) (fun s a h => ?_) ?_ _
    | split
    | dsimp only
    | fail_if_no_progress (with_reducible refine Keeps.upd ?_ rfl rfl rfl rfl)

theorem State.sendAuth_keeps {u s : State} (h : Keeps u s) (a b : Hello) :
    Keeps u (State.sendAuth s a b) := by
  unfold State.sendAuth
  repeat' first
    | with_reducible assumption
    | with_reducible apply State.tell_keeps
    | with_reducible apply State.helloFails_keeps
    | refine Keeps.foldl (fun s a h => ?_) ?_ _
    | refine Keeps.foldlP (g := Prod.fst) (fun s a h => ?_) ?_ _
    | refine Keeps.foldlP (g := Prod.snd) (fun s a h => ?_) ?_ _
    | split

theorem State.startHello_keeps {u s : State} (h : Keeps u s) (nonce : List Byte) :
    Keeps u (State.startHello s nonce) := by
  unfold State.startHello
  repeat' first
    | with_reducible assumption
    | with_reducible apply State.tell_keeps
    | with_reducible apply State.helloFails_keeps
    | with_reducible apply State.sendAuth_keeps
    | refine Keeps.foldl (fun s a h => ?_) ?_ _
    | refine Keeps.foldlP (g := Prod.fst) (fun s a h => ?_) ?_ _
    | refine Keeps.foldlP (g := Prod.snd) (fun s a h => ?_) ?_ _
    | split
    | dsimp only
    | fail_if_no_progress (with_reducible refine Keeps.upd ?_ rfl rfl rfl rfl)

theorem State.takeHello_keeps {u s : State} (h : Keeps u s) (p : Hello) :
    Keeps u (State.takeHello s p) := by
  unfold State.takeHello
  repeat' first
    | with_reducible assumption
    | with_reducible apply State.sendAuth_keeps
    | refine Keeps.foldl (fun s a h => ?_) ?_ _
    | refine Keeps.foldlP (g := Prod.fst) (fun s a h => ?_) ?_ _
    | refine Keeps.foldlP (g := Prod.snd) (fun s a h => ?_) ?_ _
    | split
    | dsimp only
    | fail_if_no_progress (with_reducible refine Keeps.upd ?_ rfl rfl rfl rfl)

theorem State.startSync_keeps {u s : State} (h : Keeps u s) :
    Keeps u (State.startSync s) := by
  unfold State.startSync
  repeat' first
    | with_reducible assumption
    | with_reducible apply State.syncNext_keeps
    | with_reducible apply State.setTwin_keeps
    | refine Keeps.foldl (fun s a h => ?_) ?_ _
    | refine Keeps.foldlP (g := Prod.fst) (fun s a h => ?_) ?_ _
    | refine Keeps.foldlP (g := Prod.snd) (fun s a h => ?_) ?_ _
    | split
    | dsimp only
    | fail_if_no_progress (with_reducible refine Keeps.upd ?_ rfl rfl rfl rfl)

theorem State.helloPasses_keeps {u s : State} (h : Keeps u s) (a b : Hello) (role : Bool) (mode : Nat) (fallback : Bool) :
    Keeps u (s.helloPasses a b role mode fallback) := by
  unfold State.helloPasses
  dsimp only
  generalize hx : (if a.holdsRows = true ∨ b.holdsRows = true then State.startSync _ else State.setTwin _ .paired) = x
  have k : Keeps u x := by
    rw [← hx]
    refine Keeps.ite (fun _ => State.startSync_keeps ?_) (fun _ => State.setTwin_keeps ?_ _)
    all_goals
      refine Keeps.ite (fun _ => State.twinEntry_keeps ?_ _ _) (fun _ => ?_)
      all_goals refine Keeps.upd (?_ : Keeps u (if mode = 2 then s else s.releaseMirror)) rfl rfl rfl rfl
      all_goals exact Keeps.ite (fun _ => h) (fun _ => State.releaseMirror_keeps h)
  split
  · exact State.goReady_keeps k ‹_›
  · exact k

theorem State.takeAuth_keeps {u s : State} (h : Keeps u s) (code : List Byte) :
    Keeps u (State.takeAuth s code) := by
  unfold State.takeAuth
  repeat' first
    | with_reducible assumption
    | with_reducible apply State.helloFails_keeps
    | with_reducible apply State.helloPasses_keeps
    | refine Keeps.foldl (fun s a h => ?_) ?_ _
    | refine Keeps.foldlP (g := Prod.fst) (fun s a h => ?_) ?_ _
    | refine Keeps.foldlP (g := Prod.snd) (fun s a h => ?_) ?_ _
    | split

theorem State.helloTimeout_keeps {u s : State} (h : Keeps u s) :
    Keeps u (State.helloTimeout s) := by
  unfold State.helloTimeout
  repeat' first
    | with_reducible assumption
    | with_reducible apply State.helloFails_keeps
    | refine Keeps.foldl (fun s a h => ?_) ?_ _
    | refine Keeps.foldlP (g := Prod.fst) (fun s a h => ?_) ?_ _
    | refine Keeps.foldlP (g := Prod.snd) (fun s a h => ?_) ?_ _
    | split

theorem State.helloRetry_keeps {u s : State} (h : Keeps u s) (nonce : List Byte) :
    Keeps u (State.helloRetry s nonce) := by
  unfold State.helloRetry
  repeat' first
    | with_reducible assumption
    | with_reducible apply State.startHello_keeps
    | refine Keeps.foldl (fun s a h => ?_) ?_ _
    | refine Keeps.foldlP (g := Prod.fst) (fun s a h => ?_) ?_ _
    | refine Keeps.foldlP (g := Prod.snd) (fun s a h => ?_) ?_ _
    | split

theorem State.linkComesUp_keeps {u s : State} (h : Keeps u s) (restarts : Bool) (nonce : List Byte) :
    Keeps u (State.linkComesUp s restarts nonce) := by
  unfold State.linkComesUp
  repeat' first
    | with_reducible assumption
    | with_reducible apply State.startHello_keeps
    | refine Keeps.foldl (fun s a h => ?_) ?_ _
    | refine Keeps.foldlP (g := Prod.fst) (fun s a h => ?_) ?_ _
    | refine Keeps.foldlP (g := Prod.snd) (fun s a h => ?_) ?_ _
    | split
    | dsimp only
    | fail_if_no_progress (with_reducible refine Keeps.upd ?_ rfl rfl rfl rfl)

theorem State.checkSynced_keeps {u s : State} (h : Keeps u s) :
    Keeps u (State.checkSynced s) := by
  unfold State.checkSynced
  repeat' first
    | with_reducible assumption
    | with_reducible apply State.setTwin_keeps
    | refine Keeps.foldl (fun s a h => ?_) ?_ _
    | refine Keeps.foldlP (g := Prod.fst) (fun s a h => ?_) ?_ _
    | refine Keeps.foldlP (g := Prod.snd) (fun s a h => ?_) ?_ _
    | split

theorem State.askAgain_keeps {u s : State} (h : Keeps u s) :
    Keeps u (State.askAgain s) := by
  unfold State.askAgain
  repeat' first
    | with_reducible assumption
    | with_reducible apply State.askRefetch_keeps
    | with_reducible apply State.askResend_keeps
    | refine Keeps.foldl (fun s a h => ?_) ?_ _
    | refine Keeps.foldlP (g := Prod.fst) (fun s a h => ?_) ?_ _
    | refine Keeps.foldlP (g := Prod.snd) (fun s a h => ?_) ?_ _
    | split

theorem State.resumes_keeps {u s : State} (h : Keeps u s) (epoch : Nat) :
    Keeps u (State.resumes s epoch) := by
  unfold State.resumes
  repeat' first
    | with_reducible assumption
    | with_reducible apply State.setTwin_keeps
    | with_reducible apply State.emptyMirror_keeps
    | with_reducible apply State.keepAll_keeps
    | with_reducible apply State.startSync_keeps
    | with_reducible apply State.askAgain_keeps
    | refine Keeps.foldl (fun s a h => ?_) ?_ _
    | refine Keeps.foldlP (g := Prod.fst) (fun s a h => ?_) ?_ _
    | refine Keeps.foldlP (g := Prod.snd) (fun s a h => ?_) ?_ _
    | split
    | dsimp only
    | fail_if_no_progress (with_reducible refine Keeps.upd ?_ rfl rfl rfl rfl)

theorem State.takeBeat_keeps {u s : State} (h : Keeps u s) (time epoch : Nat) :
    Keeps u (State.takeBeat s time epoch) := by
  unfold State.takeBeat
  repeat' first
    | with_reducible assumption
    | with_reducible apply State.resumes_keeps
    | refine Keeps.foldl (fun s a h => ?_) ?_ _
    | refine Keeps.foldlP (g := Prod.fst) (fun s a h => ?_) ?_ _
    | refine Keeps.foldlP (g := Prod.snd) (fun s a h => ?_) ?_ _
    | split
    | dsimp only
    | fail_if_no_progress (with_reducible refine Keeps.upd ?_ rfl rfl rfl rfl)

theorem State.missBeats_keeps {u s : State} (h : Keeps u s) :
    Keeps u (State.missBeats s) := by
  unfold State.missBeats
  repeat' first
    | with_reducible assumption
    | with_reducible apply State.bump_keeps
    | with_reducible apply State.setTwin_keeps
    | with_reducible apply State.twinEntry_keeps
    | refine Keeps.foldl (fun s a h => ?_) ?_ _
    | refine Keeps.foldlP (g := Prod.fst) (fun s a h => ?_) ?_ _
    | refine Keeps.foldlP (g := Prod.snd) (fun s a h => ?_) ?_ _
    | split
    | dsimp only
    | fail_if_no_progress (with_reducible refine Keeps.upd ?_ rfl rfl rfl rfl)

theorem State.attach_keeps {u s : State} (h : Keeps u s) (nonce : List Byte) :
    Keeps u (State.attach s nonce) := by
  unfold State.attach
  repeat' first
    | with_reducible assumption
    | with_reducible apply State.setTwin_keeps
    | with_reducible apply State.setMirror_keeps
    | with_reducible apply State.startHello_keeps
    | refine Keeps.foldl (fun s a h => ?_) ?_ _
    | refine Keeps.foldlP (g := Prod.fst) (fun s a h => ?_) ?_ _
    | refine Keeps.foldlP (g := Prod.snd) (fun s a h => ?_) ?_ _
    | split
    | dsimp only
    | fail_if_no_progress (with_reducible refine Keeps.upd ?_ rfl rfl rfl rfl)

theorem State.detached_keeps {u s : State} (h : Keeps u s) : Keeps u s.detached := by
  have k := State.releaseRecords_keeps (State.releasePartner_keeps (State.releaseMirror_keeps
    (State.refetchesFail_keeps (State.keepAll_keeps h))))
  unfold State.detached
  dsimp only
  generalize State.releaseRecords _ = t at k
  exact State.setTwin_keeps (Keeps.upd k rfl rfl rfl rfl) _

theorem State.sendDetach_keeps {u s : State} (h : Keeps u s) :
    Keeps u (State.sendDetach s) := by
  unfold State.sendDetach
  repeat' first
    | with_reducible assumption
    | with_reducible apply State.tell_keeps
    | refine Keeps.foldl (fun s a h => ?_) ?_ _
    | refine Keeps.foldlP (g := Prod.fst) (fun s a h => ?_) ?_ _
    | refine Keeps.foldlP (g := Prod.snd) (fun s a h => ?_) ?_ _
    | split
    | dsimp only
    | fail_if_no_progress (with_reducible refine Keeps.upd ?_ rfl rfl rfl rfl)

theorem State.takeDetach_keeps {u s : State} (h : Keeps u s) :
    Keeps u (State.takeDetach s) := by
  unfold State.takeDetach
  repeat' first
    | with_reducible assumption
    | with_reducible apply State.tell_keeps
    | with_reducible apply State.detached_keeps
    | refine Keeps.foldl (fun s a h => ?_) ?_ _
    | refine Keeps.foldlP (g := Prod.fst) (fun s a h => ?_) ?_ _
    | refine Keeps.foldlP (g := Prod.snd) (fun s a h => ?_) ?_ _
    | split

end Sys2Proof.Machine
end

