-- ==== Sys2Proof/Laws/KeepLedger.lean ====
section
/-! SUPPORT. What the operations of Machine/Ledger.lean keep. -/

namespace Sys2Proof.Machine

theorem State.mirrorBytes_keeps {u s : State} (h : Keeps u s) (m off : Nat) (bs : List Byte) :
    Keeps u (State.mirrorBytes s m off bs) := by
  unfold State.mirrorBytes
  repeat' first
    | with_reducible assumption
    | with_reducible apply State.setFrame_keeps
    | refine Keeps.foldl (fun s a h => ?_) ?_ _
    | refine Keeps.foldlP (g := Prod.fst) (fun s a h => ?_) ?_ _
    | refine Keeps.foldlP (g := Prod.snd) (fun s a h => ?_) ?_ _
    | split
    | dsimp only

theorem State.mirrorShadow_keeps {u s : State} (h : Keeps u s) (m w ref : Nat) : Keeps u (s.mirrorShadow m w ref) := by
  unfold State.mirrorShadow
  dsimp only
  generalize shadowStOf (bits w 3 0) = st
  generalize hx : (if st = .free then
    { s with errs := { s.errs with resending := s.errs.resending.erase m } } else s) = x
  have k : Keeps u x := by
    rw [← hx]
    exact Keeps.ite (fun _ => h.upd rfl rfl rfl rfl) (fun _ => h)
  exact Keeps.ite (fun _ => State.askResend_keeps (State.bumpTile_keeps (State.setFrame_keeps k _ _) _ _ _) _)
    (fun _ => State.setFrame_keeps k _ _)

theorem State.mirrorCopy_keeps {u s : State} (h : Keeps u s) (a b rows : Nat) :
    Keeps u (State.mirrorCopy s a b rows) := by
  unfold State.mirrorCopy
  repeat' first
    | with_reducible assumption
    | with_reducible apply State.setFrame_keeps
    | refine Keeps.foldl (fun s a h => ?_) ?_ _
    | refine Keeps.foldlP (g := Prod.fst) (fun s a h => ?_) ?_ _
    | refine Keeps.foldlP (g := Prod.snd) (fun s a h => ?_) ?_ _
    | split
    | dsimp only

theorem State.mirrorRecall_keeps {u s : State} (h : Keeps u s) (own m t record b slot : Nat) :
    Keeps u (State.mirrorRecall s own m t record b slot) := by
  unfold State.mirrorRecall
  repeat' first
    | with_reducible assumption
    | with_reducible apply State.askResend_keeps
    | refine Keeps.foldl (fun s a h => ?_) ?_ _
    | refine Keeps.foldlP (g := Prod.fst) (fun s a h => ?_) ?_ _
    | refine Keeps.foldlP (g := Prod.snd) (fun s a h => ?_) ?_ _
    | split
    | dsimp only
    | fail_if_no_progress (with_reducible refine Keeps.upd ?_ rfl rfl rfl rfl)

theorem State.mirrorEvict_keeps {u s : State} (h : Keeps u s) (own t record b slot : Nat) :
    Keeps u (State.mirrorEvict s own t record b slot) := by
  unfold State.mirrorEvict
  repeat' first
    | with_reducible assumption
    | with_reducible apply State.tell_keeps
    | with_reducible apply State.setFrame_keeps
    | with_reducible apply State.pump_keeps
    | refine Keeps.foldl (fun s a h => ?_) ?_ _
    | refine Keeps.foldlP (g := Prod.fst) (fun s a h => ?_) ?_ _
    | refine Keeps.foldlP (g := Prod.snd) (fun s a h => ?_) ?_ _
    | split
    | dsimp only
    | fail_if_no_progress (with_reducible refine Keeps.upd ?_ rfl rfl rfl rfl)

theorem State.forgetRow_keeps {u s : State} (h : Keeps u s) (row : Nat) :
    Keeps u (State.forgetRow s row) := by
  unfold State.forgetRow
  repeat' first
    | with_reducible assumption
    | refine Keeps.foldl (fun s a h => ?_) ?_ _
    | refine Keeps.foldlP (g := Prod.fst) (fun s a h => ?_) ?_ _
    | refine Keeps.foldlP (g := Prod.snd) (fun s a h => ?_) ?_ _
    | split
    | dsimp only
    | fail_if_no_progress (with_reducible refine Keeps.upd ?_ rfl rfl rfl rfl)

theorem State.applyDelta_keeps {u s : State} (h : Keeps u s) (sync : Bool) (d : Delta) :
    Keeps u (State.applyDelta sync s d) := by
  unfold State.applyDelta
  repeat' first
    | with_reducible assumption
    | with_reducible apply State.setRow_keeps
    | with_reducible apply State.setDir_keeps
    | with_reducible apply State.setMapAt_keeps
    | with_reducible apply State.mirrorBytes_keeps
    | with_reducible apply State.mirrorShadow_keeps
    | with_reducible apply State.mirrorCopy_keeps
    | with_reducible apply State.mirrorRecall_keeps
    | with_reducible apply State.forgetRow_keeps
    | refine Keeps.foldl (fun s a h => ?_) ?_ _
    | refine Keeps.foldlP (g := Prod.fst) (fun s a h => ?_) ?_ _
    | refine Keeps.foldlP (g := Prod.snd) (fun s a h => ?_) ?_ _
    | split

theorem State.stageDelta_keeps {u s : State} (h : Keeps u s) (g : GroupId) (d : Delta) :
    Keeps u (State.stageDelta s g d) := by
  unfold State.stageDelta
  repeat' first
    | with_reducible assumption
    | refine Keeps.foldl (fun s a h => ?_) ?_ _
    | refine Keeps.foldlP (g := Prod.fst) (fun s a h => ?_) ?_ _
    | refine Keeps.foldlP (g := Prod.snd) (fun s a h => ?_) ?_ _
    | split
    | dsimp only
    | fail_if_no_progress (with_reducible refine Keeps.upd ?_ rfl rfl rfl rfl)

theorem State.commitGroup_keeps {u s : State} (h : Keeps u s) (g : GroupId) :
    Keeps u (State.commitGroup s g) := by
  unfold State.commitGroup
  repeat' first
    | with_reducible assumption
    | with_reducible apply State.tell_keeps
    | with_reducible apply State.pump_keeps
    | with_reducible apply State.checkSynced_keeps
    | with_reducible apply State.applyDelta_keeps
    | refine Keeps.foldl (fun s a h => ?_) ?_ _
    | refine Keeps.foldlP (g := Prod.fst) (fun s a h => ?_) ?_ _
    | refine Keeps.foldlP (g := Prod.snd) (fun s a h => ?_) ?_ _
    | split
    | dsimp only
    | fail_if_no_progress (with_reducible refine Keeps.upd ?_ rfl rfl rfl rfl)

theorem State.takeDelta_keeps {u s : State} (h : Keeps u s) (g : GroupId) (d : Delta) :
    Keeps u (State.takeDelta s g d) := by
  unfold State.takeDelta
  repeat' first
    | with_reducible assumption
    | with_reducible apply State.mirrorBytes_keeps
    | with_reducible apply State.mirrorEvict_keeps
    | with_reducible apply State.stageDelta_keeps
    | refine Keeps.foldl (fun s a h => ?_) ?_ _
    | refine Keeps.foldlP (g := Prod.fst) (fun s a h => ?_) ?_ _
    | refine Keeps.foldlP (g := Prod.snd) (fun s a h => ?_) ?_ _
    | split

theorem State.takeGroupAck_keeps {u s : State} (h : Keeps u s) (g : GroupId) :
    Keeps u (State.takeGroupAck s g) := by
  unfold State.takeGroupAck
  repeat' first
    | with_reducible assumption
    | with_reducible apply State.syncNext_keeps
    | with_reducible apply State.checkSynced_keeps
    | refine Keeps.foldl (fun s a h => ?_) ?_ _
    | refine Keeps.foldlP (g := Prod.fst) (fun s a h => ?_) ?_ _
    | refine Keeps.foldlP (g := Prod.snd) (fun s a h => ?_) ?_ _
    | split
    | dsimp only
    | fail_if_no_progress (with_reducible refine Keeps.upd ?_ rfl rfl rfl rfl)

theorem State.takeEvictAck_keeps {u s : State} (h : Keeps u s) (f : Nat) :
    Keeps u (State.takeEvictAck s f) := by
  unfold State.takeEvictAck
  repeat' first
    | with_reducible assumption
    | with_reducible apply State.putMig_keeps
    | refine Keeps.foldl (fun s a h => ?_) ?_ _
    | refine Keeps.foldlP (g := Prod.fst) (fun s a h => ?_) ?_ _
    | refine Keeps.foldlP (g := Prod.snd) (fun s a h => ?_) ?_ _
    | split

theorem State.takeEvictNak_keeps {u s : State} (h : Keeps u s) (f : Nat) :
    Keeps u (State.takeEvictNak s f) := by
  unfold State.takeEvictNak
  repeat' first
    | with_reducible assumption
    | with_reducible apply State.keepResident_keeps
    | refine Keeps.foldl (fun s a h => ?_) ?_ _
    | refine Keeps.foldlP (g := Prod.fst) (fun s a h => ?_) ?_ _
    | refine Keeps.foldlP (g := Prod.snd) (fun s a h => ?_) ?_ _
    | split

theorem State.takeRefetch_keeps {u s : State} (h : Keeps u s) (f : Nat) :
    Keeps u (State.takeRefetch s f) := by
  unfold State.takeRefetch
  repeat' first
    | with_reducible assumption
    | with_reducible apply State.ledgerSend_keeps
    | refine Keeps.foldl (fun s a h => ?_) ?_ _
    | refine Keeps.foldlP (g := Prod.fst) (fun s a h => ?_) ?_ _
    | refine Keeps.foldlP (g := Prod.snd) (fun s a h => ?_) ?_ _
    | split

theorem State.landRefetch_keeps {u s : State} (h : Keeps u s) (p : Nat × Nat) (bs : List Byte) :
    Keeps u (State.landRefetch s p bs) := by
  unfold State.landRefetch
  repeat' first
    | with_reducible assumption
    | with_reducible apply State.report_keeps
    | with_reducible apply State.setFrame_keeps
    | with_reducible apply State.settle_keeps
    | with_reducible apply State.sendGroup_keeps
    | with_reducible apply State.pump_keeps
    | with_reducible apply State.substFrame_keeps
    | refine Keeps.foldl (fun s a h => ?_) ?_ _
    | refine Keeps.foldlP (g := Prod.fst) (fun s a h => ?_) ?_ _
    | refine Keeps.foldlP (g := Prod.snd) (fun s a h => ?_) ?_ _
    | split
    | dsimp only
    | fail_if_no_progress (with_reducible refine Keeps.upd ?_ rfl rfl rfl rfl)

theorem State.takeRefetchData_keeps {u s : State} (h : Keeps u s) (f : Nat) (bs : List Byte) :
    Keeps u (State.takeRefetchData s f bs) := by
  unfold State.takeRefetchData
  repeat' first
    | with_reducible assumption
    | with_reducible apply State.bumpTile_keeps
    | with_reducible apply State.refetchFails_keeps
    | with_reducible apply State.landRefetch_keeps
    | refine Keeps.foldl (fun s a h => ?_) ?_ _
    | refine Keeps.foldlP (g := Prod.fst) (fun s a h => ?_) ?_ _
    | refine Keeps.foldlP (g := Prod.snd) (fun s a h => ?_) ?_ _
    | split
    | dsimp only

theorem State.takeResend_keeps {u s : State} (h : Keeps u s) (f : Nat) :
    Keeps u (State.takeResend s f) := by
  unfold State.takeResend
  repeat' first
    | with_reducible assumption
    | with_reducible apply State.ledgerSend_keeps
    | refine Keeps.foldl (fun s a h => ?_) ?_ _
    | refine Keeps.foldlP (g := Prod.fst) (fun s a h => ?_) ?_ _
    | refine Keeps.foldlP (g := Prod.snd) (fun s a h => ?_) ?_ _
    | split
    | dsimp only

theorem State.takeResendData_keeps {u s : State} (h : Keeps u s) (f : Nat) (bs : List Byte) :
    Keeps u (State.takeResendData s f bs) := by
  unfold State.takeResendData
  repeat' first
    | with_reducible assumption
    | with_reducible apply State.bumpTile_keeps
    | with_reducible apply State.setFrame_keeps
    | with_reducible apply State.askResend_keeps
    | refine Keeps.foldl (fun s a h => ?_) ?_ _
    | refine Keeps.foldlP (g := Prod.fst) (fun s a h => ?_) ?_ _
    | refine Keeps.foldlP (g := Prod.snd) (fun s a h => ?_) ?_ _
    | split
    | dsimp only
    | fail_if_no_progress (with_reducible refine Keeps.upd ?_ rfl rfl rfl rfl)

end Sys2Proof.Machine
end

