-- ==== Sys2Proof/Laws/KeepCastle.lean ====
section
/-! SUPPORT. What the operations of Machine/Castle.lean keep. -/

namespace Sys2Proof.Machine

theorem State.dropPartnerEvicts_keeps {u s : State} (h : Keeps u s) :
    Keeps u (State.dropPartnerEvicts s) := by
  unfold State.dropPartnerEvicts
  repeat' first
    | with_reducible assumption
    | with_reducible apply State.dropMig_keeps
    | with_reducible apply State.unpinMirror_keeps
    | refine Keeps.foldl (fun s a h => ?_) ?_ _

theorem State.confirm_keeps {u s : State} (h : Keeps u s) (cause : Nat) :
    Keeps u (State.confirm s cause) := by
  unfold State.confirm
  repeat' first
    | with_reducible assumption
    | with_reducible apply State.setTwin_keeps
    | with_reducible apply State.keepAll_keeps
    | with_reducible apply State.refetchesFail_keeps
    | with_reducible apply State.releaseRecords_keeps
    | with_reducible apply State.dropPartnerEvicts_keeps
    | refine Keeps.foldl (fun s a h => ?_) ?_ _
    | refine Keeps.foldlP (g := Prod.fst) (fun s a h => ?_) ?_ _
    | refine Keeps.foldlP (g := Prod.snd) (fun s a h => ?_) ?_ _
    | split
    | dsimp only
    | fail_if_no_progress (with_reducible refine Keeps.upd ?_ rfl rfl rfl rfl)

theorem State.takeDying_keeps {u s : State} (h : Keeps u s) :
    Keeps u (State.takeDying s) := by
  unfold State.takeDying
  repeat' first
    | with_reducible assumption
    | with_reducible apply State.confirm_keeps
    | refine Keeps.foldl (fun s a h => ?_) ?_ _
    | refine Keeps.foldlP (g := Prod.fst) (fun s a h => ?_) ?_ _
    | refine Keeps.foldlP (g := Prod.snd) (fun s a h => ?_) ?_ _
    | split

theorem State.fence_keeps {u s : State} (h : Keeps u s) (key : Nat) :
    Keeps u (State.fence s key) := by
  unfold State.fence
  repeat' first
    | with_reducible assumption
    | with_reducible apply State.twinEntry_keeps
    | with_reducible apply State.confirm_keeps
    | refine Keeps.foldl (fun s a h => ?_) ?_ _
    | refine Keeps.foldlP (g := Prod.fst) (fun s a h => ?_) ?_ _
    | refine Keeps.foldlP (g := Prod.snd) (fun s a h => ?_) ?_ _
    | split

theorem State.sweepFrame_keeps {u s : State} (h : Keeps u s) (p : Nat × Frame) :
    Keeps u (State.sweepFrame s p) := by
  unfold State.sweepFrame
  repeat' first
    | with_reducible assumption
    | with_reducible apply State.setFrame_keeps
    | with_reducible apply State.chargeFrame_keeps
    | refine Keeps.foldl (fun s a h => ?_) ?_ _
    | refine Keeps.foldlP (g := Prod.fst) (fun s a h => ?_) ?_ _
    | refine Keeps.foldlP (g := Prod.snd) (fun s a h => ?_) ?_ _
    | split
    | dsimp only
    | fail_if_no_progress (with_reducible refine Keeps.upd ?_ rfl rfl rfl rfl)

theorem State.sweep_keeps {u s : State} (h : Keeps u s) :
    Keeps u (State.sweep s) := by
  unfold State.sweep
  repeat' first
    | with_reducible assumption
    | with_reducible apply State.sweepFrame_keeps
    | refine Keeps.foldl (fun s a h => ?_) ?_ _
    | refine Keeps.foldlP (g := Prod.fst) (fun s a h => ?_) ?_ _
    | refine Keeps.foldlP (g := Prod.snd) (fun s a h => ?_) ?_ _
    | split
    | dsimp only
    | fail_if_no_progress (with_reducible refine Keeps.upd ?_ rfl rfl rfl rfl)

theorem State.applyPromote_keeps {u s : State} (h : Keeps u s) (p : Nat × Promote) :
    Keeps u (State.applyPromote s p) := by
  unfold State.applyPromote
  repeat' first
    | with_reducible assumption
    | with_reducible apply State.setRow_keeps
    | with_reducible apply State.setDir_keeps
    | with_reducible apply State.closeContext_keeps
    | refine Keeps.foldl (fun s a h => ?_) ?_ _
    | refine Keeps.foldlP (g := Prod.fst) (fun s a h => ?_) ?_ _
    | refine Keeps.foldlP (g := Prod.snd) (fun s a h => ?_) ?_ _
    | split
    | dsimp only

theorem State.promote_keeps {u s : State} (h : Keeps u s) :
    Keeps u (State.promote s).1 := by
  unfold State.promote
  repeat' first
    | with_reducible assumption
    | with_reducible apply State.sweep_keeps
    | with_reducible apply State.applyPromote_keeps
    | refine Keeps.foldl (fun s a h => ?_) ?_ _
    | refine Keeps.foldlP (g := Prod.fst) (fun s a h => ?_) ?_ _
    | refine Keeps.foldlP (g := Prod.snd) (fun s a h => ?_) ?_ _
    | split
    | dsimp only
    | fail_if_no_progress (with_reducible refine Keeps.upd ?_ rfl rfl rfl rfl)

theorem State.finishCastle_keeps {u s : State} (h : Keeps u s) (t : Option Trans) (va : Nat) :
    Keeps u (State.finishCastle s t va) := by
  unfold State.finishCastle
  repeat' first
    | with_reducible assumption
    | with_reducible apply State.bump_keeps
    | with_reducible apply State.moveVirt_keeps
    | with_reducible apply State.pump_keeps
    | with_reducible apply State.castleEnds_keeps
    | with_reducible apply State.twinEntry_keeps
    | with_reducible apply State.promote_keeps
    | refine Keeps.foldl (fun s a h => ?_) ?_ _
    | refine Keeps.foldlP (g := Prod.fst) (fun s a h => ?_) ?_ _
    | refine Keeps.foldlP (g := Prod.snd) (fun s a h => ?_) ?_ _
    | split
    | dsimp only
    | fail_if_no_progress (with_reducible refine Keeps.upd ?_ rfl rfl rfl rfl)

theorem State.castle_keeps {u s : State} (h : Keeps u s) : Keeps u s.castle := by
  unfold State.castle
  dsimp only
  refine Keeps.ite (fun _ => h) (fun _ => ?_)
  generalize needs _ _ _ = ns
  have g := State.translateAll_keeps h s.errs.anchor .castle ns
  generalize State.translateAll s _ _ _ = x at g
  rcases x with ⟨t, s'⟩ | s' | ⟨e, s'⟩
  · exact State.finishCastle_keeps g _ _
  · exact g
  · exact State.finishCastle_keeps g _ _

theorem State.yieldJobs_keeps {u s : State} (h : Keeps u s) :
    Keeps u (State.yieldJobs s) := by
  unfold State.yieldJobs
  repeat' first
    | with_reducible assumption
    | with_reducible apply State.abortJob_keeps
    | refine Keeps.foldl (fun s a h => ?_) ?_ _
    | refine Keeps.foldlP (g := Prod.fst) (fun s a h => ?_) ?_ _
    | refine Keeps.foldlP (g := Prod.snd) (fun s a h => ?_) ?_ _
    | split
    | dsimp only
    | fail_if_no_progress (with_reducible refine Keeps.upd ?_ rfl rfl rfl rfl)

theorem State.yield_keeps {u s : State} (h : Keeps u s) : Keeps u s.yield := by
  have k := State.yieldJobs_keeps (State.refetchesFail_keeps (State.keepAll_keeps h))
  unfold State.yield
  dsimp only
  generalize State.yieldJobs _ = a at k
  have g := State.releasePartner_keeps (State.releaseMirror_keeps (Keeps.foldl (fun s r h => State.closeContext_keeps h r) k
    (a.rowsInUse.filter (ownRow a.twin.role))))
  generalize State.releasePartner _ = b at g
  exact State.setTwin_keeps (Keeps.upd g rfl rfl rfl rfl) _

theorem State.autoTimeout_keeps {u s : State} (h : Keeps u s) :
    Keeps u (State.autoTimeout s) := by
  unfold State.autoTimeout
  repeat' first
    | with_reducible assumption
    | with_reducible apply State.confirm_keeps
    | with_reducible apply State.yield_keeps
    | refine Keeps.foldl (fun s a h => ?_) ?_ _
    | refine Keeps.foldlP (g := Prod.fst) (fun s a h => ?_) ?_ _
    | refine Keeps.foldlP (g := Prod.snd) (fun s a h => ?_) ?_ _
    | split

end Sys2Proof.Machine
end

