-- ==== Sys2Proof/Laws/KeepTest.lean ====
section
/-! SUPPORT. What the operations of Machine/Test.lean keep. -/

namespace Sys2Proof.Machine

theorem State.tapBypass_ground {u s : State} (h : Ground u s) (code : Nat) :
    Ground u (State.tapBypass s code) := by
  unfold State.tapBypass
  repeat' first
    | with_reducible assumption
    | refine Ground.foldl (fun s a h => ?_) ?_ _
    | split
    | dsimp only
    | fail_if_no_progress (with_reducible refine Ground.set ?_ rfl rfl rfl)

theorem State.tap_ground {u s : State} (h : Quiet u s) (code : Nat) {act : State → State}
    (ha : ∀ s, Quiet u s → Ground u (act s)) : Ground u (s.tap code act) := by
  unfold State.tap
  split
  · exact h.ground
  · split
    · exact ha _ ⟨h.1.set rfl rfl rfl, h.2⟩
    · exact State.tapBypass_ground h.ground _

theorem State.tap_moves {s : State} (code : Nat) {act : State → State} (ha : ∀ t, Quiet s t → Moves s (act t)) :
    Moves s (s.tap code act) := by
  unfold State.tap
  split
  · exact (Ground.refl s).moves
  · split
    · exact ha _ ⟨(Ground.refl s).set rfl rfl rfl, rfl⟩
    · exact (State.tapBypass_ground (Ground.refl s) _).moves

theorem State.shiftOut_ground {u s : State} (h : Ground u s) (v : Nat) :
    Ground u (State.shiftOut s v) := by
  unfold State.shiftOut
  repeat' first
    | with_reducible assumption
    | refine Ground.foldl (fun s a h => ?_) ?_ _
    | split
    | dsimp only
    | fail_if_no_progress (with_reducible refine Ground.set ?_ rfl rfl rfl)

theorem State.shiftFree_ground {u s : State} (h : Ground u s)  :
    Ground u (State.shiftFree s) := by
  unfold State.shiftFree
  repeat' first
    | with_reducible assumption
    | refine Ground.foldl (fun s a h => ?_) ?_ _
    | split
    | dsimp only
    | fail_if_no_progress (with_reducible refine Ground.set ?_ rfl rfl rfl)

theorem State.boundaryScan_ground {u s : State} (h : Ground u s) (v : Nat) :
    Ground u (State.boundaryScan s v) := by
  unfold State.boundaryScan
  repeat' first
    | with_reducible assumption
    | with_reducible apply State.shiftFree_ground
    | refine Ground.foldl (fun s a h => ?_) ?_ _
    | split
    | dsimp only
    | fail_if_no_progress (with_reducible refine Ground.set ?_ rfl rfl rfl)

theorem State.lifeStep_moves {s t : State} (h : Quiet s t) (code : Nat) : Moves s (t.lifeStep code) := by
  have g := h.1.moves
  unfold State.lifeStep
  dsimp only
  split
  · exact ⟨g.1, g.2, g.3, g.4, g.5, g.6⟩
  · exact ⟨g.1, g.2, g.3, g.4, g.5, g.6⟩

theorem State.keyWrite_moves {s t : State} (h : Quiet s t) (slot : Nat) (image : List Byte) : Moves s (t.keyWrite slot image) := by
  have g := h.1.moves
  exact ⟨g.1, g.2, g.3, g.4, g.5, g.6⟩

theorem State.startBist_ground {u s : State} (h : Ground u s) (v : Nat) :
    Ground u (State.startBist s v) := by
  unfold State.startBist
  repeat' first
    | with_reducible assumption
    | refine Ground.foldl (fun s a h => ?_) ?_ _
    | split
    | dsimp only
    | fail_if_no_progress (with_reducible refine Ground.set ?_ rfl rfl rfl)

theorem State.coreTested_keeps {u s : State} (h : Keeps u s) (pass : Bool) (k : Nat) :
    Keeps u (State.coreTested s pass k) := by
  unfold State.coreTested
  repeat' first
    | with_reducible assumption
    | with_reducible apply State.clearCore_keeps
    | with_reducible apply State.substitute_keeps
    | refine Keeps.foldl (fun s a h => ?_) ?_ _
    | refine Keeps.foldlP (g := Prod.fst) (fun s a h => ?_) ?_ _
    | refine Keeps.foldlP (g := Prod.snd) (fun s a h => ?_) ?_ _
    | split
    | dsimp only
    | fail_if_no_progress (with_reducible refine Keeps.upd ?_ rfl rfl rfl rfl)

theorem State.rebuildFrames_keeps {u s : State} (h : Keeps u s) (t : Nat) :
    Keeps u (State.rebuildFrames s t) := by
  unfold State.rebuildFrames
  repeat' first
    | with_reducible assumption
    | with_reducible apply State.setFrame_keeps
    | refine Keeps.foldl (fun s a h => ?_) ?_ _
    | refine Keeps.foldlP (g := Prod.fst) (fun s a h => ?_) ?_ _
    | refine Keeps.foldlP (g := Prod.snd) (fun s a h => ?_) ?_ _
    | split
    | dsimp only
    | fail_if_no_progress (with_reducible refine Keeps.upd ?_ rfl rfl rfl rfl)

theorem State.rebuildBank_keeps {u s : State} (h : Keeps u s) (t b : Nat) :
    Keeps u (State.rebuildBank s t b) := by
  unfold State.rebuildBank
  repeat' first
    | with_reducible assumption
    | refine Keeps.foldl (fun s a h => ?_) ?_ _
    | refine Keeps.foldlP (g := Prod.fst) (fun s a h => ?_) ?_ _
    | refine Keeps.foldlP (g := Prod.snd) (fun s a h => ?_) ?_ _
    | split
    | dsimp only
    | fail_if_no_progress (with_reducible refine Keeps.upd ?_ rfl rfl rfl rfl)

theorem State.bistEnds_ground {u s : State} (h : Ground u s) (t : Nat) (r : BistResult) : Ground u (s.bistEnds t r) := by
  unfold State.bistEnds
  dsimp only
  refine Ground.ite (fun _ => h) (fun _ => ?_)
  have k := (h.step (State.memEvents_keeps (Keeps.refl s) r.met))
  generalize s.memEvents r.met = m at k
  have tested : ∀ {x : State} (l : List Nat) (p : Nat → Bool), Ground u x →
      Ground u (l.foldl (fun s k => s.coreTested (p k) k) x) :=
    fun l p k => Ground.foldl (fun s a k => k.step (State.coreTested_keeps (Keeps.refl s) _ _)) k l
  have bank : ∀ {x : State} (b : Nat), Ground u x → Ground u (x.rebuildBank t b) :=
    fun b k => k.step (State.rebuildBank_keeps (Keeps.refl _) _ _)
  have frames : ∀ {x : State}, Ground u x → Ground u (x.rebuildFrames t) :=
    fun k => k.step (State.rebuildFrames_keeps (Keeps.refl _) _)
  split
  · exact tested _ _ ((k.set rfl rfl rfl).set rfl rfl rfl)
  · exact tested _ _ ((k.set rfl rfl rfl).set rfl rfl rfl)
  · exact bank _ ((k.set rfl rfl rfl).set rfl rfl rfl)
  · exact frames ((k.set rfl rfl rfl).set rfl rfl rfl)
  · exact bank _ (bank _ (tested _ _ (bank _ (frames ((k.set rfl rfl rfl).set rfl rfl rfl)))))
  · exact (k.set rfl rfl rfl).set rfl rfl rfl

theorem State.startBurn_ground {u s : State} (h : Ground u s) (t entry : Nat) (allowed : Bool) :
    Ground u (State.startBurn s t entry allowed) := by
  unfold State.startBurn
  repeat' first
    | with_reducible assumption
    | refine Ground.foldl (fun s a h => ?_) ?_ _
    | split
    | dsimp only
    | fail_if_no_progress (with_reducible refine Ground.set ?_ rfl rfl rfl)

theorem State.burnCmd_ground {u s : State} (h : Ground u s) (v : Nat) :
    Ground u (State.burnCmd s v) := by
  unfold State.burnCmd
  repeat' first
    | with_reducible assumption
    | with_reducible apply State.startBurn_ground
    | refine Ground.foldl (fun s a h => ?_) ?_ _
    | split
    | dsimp only
    | fail_if_no_progress (with_reducible refine Ground.set ?_ rfl rfl rfl)

theorem State.burnEnds_ground {u s : State} (h : Ground u s) (good : Bool) :
    Ground u (State.burnEnds s good) := by
  unfold State.burnEnds
  repeat' first
    | with_reducible assumption
    | refine Ground.foldl (fun s a h => ?_) ?_ _
    | split
    | dsimp only
    | fail_if_no_progress (with_reducible refine Ground.set ?_ rfl rfl rfl)

theorem State.useInstrument_ground {u s : State} (h : Ground u s) (t : Nat) (x : Instrument) :
    Ground u (State.useInstrument s t x) := by
  unfold State.useInstrument
  repeat' first
    | with_reducible assumption
    | with_reducible apply State.shiftOut_ground
    | with_reducible apply State.shiftFree_ground
    | with_reducible apply State.startBist_ground
    | with_reducible apply State.startBurn_ground
    | refine Ground.foldl (fun s a h => ?_) ?_ _
    | split
    | dsimp only
    | fail_if_no_progress (with_reducible refine Ground.set ?_ rfl rfl rfl)

end Sys2Proof.Machine
end

