-- ==== Sys2Proof/Laws/KeepMgtRead.lean ====
section
/-! SUPPORT. What the operations of Machine/MgtRead.lean keep. -/

namespace Sys2Proof.Machine

theorem State.readReg_keeps {u s : State} (h : Keeps u s) (who off : Nat) :
    Keeps u (State.readReg s who off).1 := by
  unfold State.readReg
  repeat' first
    | with_reducible assumption
    | refine Keeps.foldl (fun s a h => ?_) ?_ _
    | refine Keeps.foldlP (g := Prod.fst) (fun s a h => ?_) ?_ _
    | refine Keeps.foldlP (g := Prod.snd) (fun s a h => ?_) ?_ _
    | split
    | dsimp only
    | fail_if_no_progress (with_reducible refine Keeps.upd ?_ rfl rfl rfl rfl)

theorem State.mgtRead_keeps {u s : State} (h : Keeps u s) (who off : Nat) :
    Keeps u (State.mgtRead s who off).1 := by
  unfold State.mgtRead
  repeat' first
    | with_reducible assumption
    | with_reducible apply State.rejected_keeps
    | with_reducible apply State.readReg_keeps
    | refine Keeps.foldl (fun s a h => ?_) ?_ _
    | refine Keeps.foldlP (g := Prod.fst) (fun s a h => ?_) ?_ _
    | refine Keeps.foldlP (g := Prod.snd) (fun s a h => ?_) ?_ _
    | split

end Sys2Proof.Machine
end

