-- ==== Sys2Proof/Laws/KeepMgt.lean ====
section
/-! SUPPORT. What the operations of Machine/Mgt.lean keep. -/

namespace Sys2Proof.Machine

theorem State.writeRingCtl_keeps {u s : State} (h : Keeps u s) (fs : List Fld) (r v : Nat) :
    Keeps u (State.writeRingCtl s fs r v) := by
  unfold State.writeRingCtl
  repeat' first
    | with_reducible assumption
    | with_reducible apply State.setReg_keeps
    | with_reducible apply State.setRing_keeps
    | with_reducible apply State.intake_keeps
    | with_reducible apply State.writeReg_keeps
    | refine Keeps.foldl (fun s a h => ?_) ?_ _
    | refine Keeps.foldlP (g := Prod.fst) (fun s a h => ?_) ?_ _
    | refine Keeps.foldlP (g := Prod.snd) (fun s a h => ?_) ?_ _
    | split
    | dsimp only
    | fail_if_no_progress (with_reducible refine Keeps.upd ?_ rfl rfl rfl rfl)

theorem State.takeReq_ground (s : State) {req : Nat} (hb : s.reqBarred req = false) : Ground s (s.takeReq req) := by
  unfold State.takeReq
  unfold State.reqBarred at hb
  have k : ∀ c : Cfg, Asked s.cfg.mode c.mode → c.fuses = s.cfg.fuses → Ground s { s with cfg := c } := fun c h f =>
    ⟨rfl, rfl, f, rfl, h, SealsStep.refl _, id⟩
  split
  · exact k _ (.inr (.inl ⟨by simpa using hb, .inl rfl⟩)) rfl
  · refine Ground.step (k _ ?_ ?_) (State.settleDrain_keeps (Keeps.refl _))
    · exact .inr (.inl ⟨by simpa using hb, .inl rfl⟩)
    · rfl
  · refine k _ (.inr (.inr ⟨?_, .inl rfl⟩)) rfl
    simp only [Bool.or_eq_false_iff, Bool.not_eq_false', Bool.or_eq_true, decide_eq_true_eq] at hb
    exact hb.1.1.1
  · exact Ground.refl s

theorem State.clearSeal_ground {u s : State} (h : Ground u s) (v : Nat) : Ground u (s.clearSeal v) :=
  h.upd rfl rfl rfl rfl rfl (SealsStep.map _ (fun _ => ⟨rfl, .inl ⟨rfl, rfl⟩⟩)) id

theorem State.fqGoes_keeps {u s : State} (h : Keeps u s) :
    Keeps u (State.fqGoes s) := by
  unfold State.fqGoes
  repeat' first
    | with_reducible assumption
    | with_reducible apply State.drainFaults_keeps
    | refine Keeps.foldl (fun s a h => ?_) ?_ _
    | refine Keeps.foldlP (g := Prod.fst) (fun s a h => ?_) ?_ _
    | refine Keeps.foldlP (g := Prod.snd) (fun s a h => ?_) ?_ _
    | split

theorem State.faultResp_keeps {u s : State} (h : Keeps u s) (v : Nat) :
    Keeps u (State.faultResp s v) := by
  unfold State.faultResp
  repeat' first
    | with_reducible assumption
    | with_reducible apply State.retryFault_keeps
    | with_reducible apply State.failFault_keeps
    | with_reducible apply State.pump_keeps
    | refine Keeps.foldl (fun s a h => ?_) ?_ _
    | refine Keeps.foldlP (g := Prod.fst) (fun s a h => ?_) ?_ _
    | refine Keeps.foldlP (g := Prod.snd) (fun s a h => ?_) ?_ _
    | split

theorem State.writeTwn_keeps {u s : State} (h : Keeps u s) (fs : List Fld) (v : Nat) (nonce : List Byte) :
    Keeps u (State.writeTwn s fs v nonce) := by
  unfold State.writeTwn
  repeat' first
    | with_reducible assumption
    | with_reducible apply State.writeReg_keeps
    | with_reducible apply State.attach_keeps
    | with_reducible apply State.sendDetach_keeps
    | refine Keeps.foldl (fun s a h => ?_) ?_ _
    | refine Keeps.foldlP (g := Prod.fst) (fun s a h => ?_) ?_ _
    | refine Keeps.foldlP (g := Prod.snd) (fun s a h => ?_) ?_ _
    | split
    | dsimp only
    | fail_if_no_progress (with_reducible refine Keeps.upd ?_ rfl rfl rfl rfl)

theorem State.clearLost_keeps {u s : State} (h : Keeps u s) (v : Nat) :
    Keeps u (State.clearLost s v) := by
  unfold State.clearLost
  repeat' first
    | with_reducible assumption
    | refine Keeps.foldl (fun s a h => ?_) ?_ _
    | refine Keeps.foldlP (g := Prod.fst) (fun s a h => ?_) ?_ _
    | refine Keeps.foldlP (g := Prod.snd) (fun s a h => ?_) ?_ _
    | split
    | dsimp only
    | fail_if_no_progress (with_reducible refine Keeps.upd ?_ rfl rfl rfl rfl)

theorem State.popLog_ground {u s : State} (h : Ground u s) (v : Nat) : Ground u (s.popLog v) := by
  unfold State.popLog
  split
  · refine h.upd rfl rfl rfl rfl rfl (SealsStep.refl _) (fun b => ⟨?_, b.2⟩)
    have := b.1
    simp only [List.length_tail]
    omega
  · exact h

theorem State.clearAlert_keeps {u s : State} (h : Keeps u s) (v : Nat) :
    Keeps u (State.clearAlert s v) := by
  unfold State.clearAlert
  repeat' first
    | with_reducible assumption
    | refine Keeps.foldl (fun s a h => ?_) ?_ _
    | refine Keeps.foldlP (g := Prod.fst) (fun s a h => ?_) ?_ _
    | refine Keeps.foldlP (g := Prod.snd) (fun s a h => ?_) ?_ _
    | split
    | dsimp only
    | fail_if_no_progress (with_reducible refine Keeps.upd ?_ rfl rfl rfl rfl)

theorem State.takeWrite_ground (s : State) (fs : List Fld) {off v : Nat} (nonce : List Byte)
    (hb : s.writeBarred off v = false) : Ground s (s.takeWrite fs off v nonce) := by
  have h := Ground.refl s
  have w := State.writeReg_keeps (Keeps.refl s) fs
  unfold State.takeWrite
  unfold State.writeBarred at hb
  by_cases hr : 0x2000 ≤ off ∧ off < 0x3000
  · rw [if_pos hr]
    exact Ground.ite (fun _ => h.step (State.writeRingCtl_keeps (Keeps.refl _) _ _ _)) (fun _ => h.step (w _ _))
  rw [if_neg hr]
  rw [if_neg hr] at hb
  split
  · exact State.takeReq_ground s hb
  · exact State.clearSeal_ground h _
  · exact h.step (State.commitWrite_keeps (Keeps.refl _) _)
  · exact h.step (State.fqGoes_keeps (w _ _))
  · exact h.step (State.fqGoes_keeps (w _ _))
  · exact h.step (State.faultResp_keeps (Keeps.refl _) _)
  · exact h.step (Keeps.ite (fun _ => State.setReg_keeps (Keeps.refl _) _ _) (fun _ => Keeps.refl _))
  · exact h.step (State.writeTwn_keeps (Keeps.refl _) _ _ _)
  · exact h.step (State.fence_keeps (Keeps.refl _) _)
  · exact h.step (State.clearLost_keeps (Keeps.refl _) _)
  · exact State.popLog_ground h _
  · exact h.step (State.clearAlert_keeps (Keeps.refl _) _)
  · exact h.step (State.powerFollow_keeps (w _ _))
  · exact h.step (State.powerFollow_keeps (w _ _))
  · exact State.startBist_ground h _
  · exact Ground.ite (fun _ => Ground.set h rfl rfl rfl) (fun _ => h)
  · exact State.burnCmd_ground h _
  · exact Ground.ite (fun _ => Ground.set h rfl rfl rfl) (fun _ => h)
  · exact h.step (w _ _)

theorem State.mgtWrite_ground (s : State) (off v : Nat) (nonce : List Byte) :
    Ground s (s.mgtWrite off v nonce).1 := by
  have h := Ground.refl s
  unfold State.mgtWrite
  split
  · exact h.step (State.rejected_keeps (Keeps.refl _) _)
  · exact h.step (State.reservedWrite_keeps (Keeps.refl _) _)
  · split
    · exact h.step (State.holdLow_keeps (Keeps.refl _) _ _)
    · split
      · split
        · exact h.step (State.rejected_keeps (Keeps.refl _) _)
        · exact h.step (State.applyPair_keeps (Keeps.refl _) _ _ _)
      · split
        · exact h.step (State.rejected_keeps (Keeps.refl _) _)
        · rename_i hb
          exact State.takeWrite_ground s _ _ (by simpa using hb)

theorem State.hostWrite_ground (s : State) (q : Req) (off v : Nat) (nonce : List Byte) :
    Ground s (s.hostWrite q off v nonce) := by
  have h := Ground.refl s
  unfold State.hostWrite
  exact Ground.ite (fun _ => h) (fun _ => Ground.ite (fun _ => h.step (State.answer_keeps (Keeps.refl _) _ _ _))
    (fun _ => (State.mgtWrite_ground s off v nonce).step (State.answer_keeps (Keeps.refl _) _ _ _)))

theorem State.hostRead_keeps {u s : State} (h : Keeps u s) (q : Req) (off : Nat) :
    Keeps u (State.hostRead s q off) := by
  unfold State.hostRead
  repeat' first
    | with_reducible assumption
    | with_reducible apply State.answer_keeps
    | with_reducible apply State.mgtRead_keeps
    | refine Keeps.foldl (fun s a h => ?_) ?_ _
    | refine Keeps.foldlP (g := Prod.fst) (fun s a h => ?_) ?_ _
    | refine Keeps.foldlP (g := Prod.snd) (fun s a h => ?_) ?_ _
    | split

theorem State.asks_quiet {u s : State} (h : Quiet u s) : Quiet u s.asks := ⟨h.1.set rfl rfl rfl, h.2⟩

theorem State.doorbell_ground (s : State) (q : Req) (aux addr : Nat) : Ground s (s.doorbell q aux addr) := by
  have h := Ground.refl s
  unfold State.doorbell
  exact Ground.ite (fun _ => h) (fun _ => Ground.ite (fun _ => h.step (State.badPacket_keeps (Keeps.refl _) _))
    (fun _ => State.mgtWrite_ground s _ _ _))

theorem State.accessDone_ground {u s : State} (h : Ground u s) (data : Nat) (ok : Bool) :
    Ground u (State.accessDone s data ok) := by
  unfold State.accessDone
  repeat' first
    | with_reducible assumption
    | refine Ground.foldl (fun s a h => ?_) ?_ _
    | split
    | dsimp only
    | fail_if_no_progress (with_reducible refine Ground.set ?_ rfl rfl rfl)

theorem State.hostWriteAny_ground (s : State) (q : Req) (off v : Nat) : Ground s (s.hostWriteAny q off v) := by
  unfold State.hostWriteAny
  exact Ground.ite (fun _ => (State.asks_quiet (Quiet.refl s)).next (State.hostWrite_ground _ _ _ _ _))
    (fun _ => State.hostWrite_ground _ _ _ _ _)

theorem State.tapWrite_ground (s : State) (off v : Nat) : Ground s (s.tapWrite off v).1 := by
  unfold State.tapWrite
  split
  · exact (State.asks_quiet (Quiet.refl s)).next (State.mgtWrite_ground _ _ _ _)
  · exact State.mgtWrite_ground _ _ _ _

theorem State.tapAccess_ground {u s : State} (h : Quiet u s) (word : Nat) (write : Bool) (data : Nat) :
    Ground u (s.tapAccess word write data) := by
  unfold State.tapAccess
  dsimp only
  have k : Quiet u (s.shiftOut s.test.captured) := ⟨h.1.set rfl rfl rfl, h.2⟩
  generalize State.shiftOut s _ = a at k
  refine Ground.ite (fun _ => State.accessDone_ground k.ground _ _) (fun _ => Ground.ite (fun _ => ?_) (fun _ => ?_))
  · exact State.accessDone_ground (k.next (State.tapWrite_ground _ _ _)) _ _
  · exact State.accessDone_ground (k.ground.step (State.mgtRead_keeps (Keeps.refl _) _ _)) _ _

end Sys2Proof.Machine
end

