-- ==== Sys2Proof/Laws/KeepExec.lean ====
section
/-! SUPPORT. What each command keeps: `Keeps` of most commands, `Ground` of start-up, management and test. -/

namespace Sys2Proof.Machine

theorem next_inj {s t : State} (e : (Host.Outcome.next s : Out) = .next t) : t = s := by
  cases e; rfl

theorem onTile_next {s s' t : State} {n : Nat} (e : onTile s n s' = .next t) : t = s' := by
  unfold onTile at e
  split at e
  · exact next_inj e
  · cases e

theorem State.whenever_ground {u s t : State} (h : Ground u s) (k : Ground u t) (c : Bool) : Ground u (s.whenever c t) := by
  unfold State.whenever
  split <;> assumption

theorem State.writeFrom_ground {s t : State} {q : Req} {off v : Nat} (e : s.writeFrom q off v = .next t) : Ground s t := by
  unfold State.writeFrom at e
  obtain rfl := onTile_next e
  exact State.hostWrite_ground s _ _ _ _

theorem execResetNRise_moves {s t : State}
    (e : execResetNRise s = .next t) : Moves s t := by
  unfold execResetNRise at e
  obtain rfl := next_inj e
  exact State.boot_moves s

theorem execPllLockTimeout_keeps (tile : BitVec 5) (pll : Pll) {s t : State}
    (e : execPllLockTimeout tile pll s = .next t) : Keeps s t := by
  unfold execPllLockTimeout at e
  obtain rfl := onTile_next e
  repeat' first
    | with_reducible exact Keeps.refl _
    | with_reducible apply State.pllTimeout_keeps

theorem execBootDone_moves (report : BootReport) {s t : State}
    (e : execBootDone report s = .next t) : Moves s t := by
  unfold execBootDone at e
  obtain rfl := next_inj e
  exact State.bootDone_moves s _

theorem execNvmBurst_moves (bytes : List Byte) {s t : State}
    (e : execNvmBurst bytes s = .next t) : Moves s t := by
  unfold execNvmBurst at e
  obtain rfl := next_inj e
  exact State.nvmBurst_moves s _

theorem execNvmTimeout_keeps {s t : State}
    (e : execNvmTimeout s = .next t) : Keeps s t := by
  unfold execNvmTimeout at e
  obtain rfl := next_inj e
  repeat' first
    | with_reducible exact Keeps.refl _
    | with_reducible apply State.nvmTimeout_keeps

theorem execVerify_moves {s t : State}
    (e : execVerify s = .next t) : Moves s t := by
  unfold execVerify at e
  obtain rfl := next_inj e
  exact State.verify_moves s

theorem State.initEvents_keeps {u s : State} (h : Keeps u s) : Keeps u s.initEvents := by
  unfold State.initEvents
  split
  · refine State.memEvents_keeps ?_ _
    exact h.upd rfl rfl rfl rfl
  · exact h

theorem execInit_moves {s t : State} (e : execInit s = .next t) : Moves s t := by
  unfold execInit at e
  obtain rfl := next_inj e
  have k := State.initEvents_keeps (Keeps.refl s)
  have m := State.init_moves s.initEvents
  by_cases e : s.initEvents.cfg.mode = .init
  · have q : s.cfg.mode = .init := by
      have := k.mode
      rw [e] at this
      simpa [Inner] using this
    exact ⟨m.1.trans (congrArg Still.part k.1), m.2.trans (congrArg Still.stepping k.1), m.3.trans (congrArg Still.fuses k.1),
      m.4.trans (congrArg Still.pending k.1), q.trans e.symm ▸ m.5, m.6 ∘ k.3⟩
  · have : s.initEvents.init = s.initEvents := by unfold State.init; rw [if_pos e]
    rw [this]
    exact k.moves

theorem execPairTimeout_keeps {s t : State}
    (e : execPairTimeout s = .next t) : Keeps s t := by
  unfold execPairTimeout at e
  obtain rfl := next_inj e
  repeat' first
    | with_reducible exact Keeps.refl _
    | with_reducible apply State.pairTimeout_keeps

theorem execTamper_ground {s t : State}
    (e : execTamper s = .next t) : Ground s t := by
  unfold execTamper at e
  obtain rfl := next_inj e
  repeat' first
    | with_reducible exact Ground.refl _
    | with_reducible apply State.tamper_ground

theorem execTrstN_ground {s t : State}
    (e : execTrstN s = .next t) : Ground s t := by
  unfold execTrstN at e
  obtain rfl := next_inj e
  repeat' first
    | with_reducible exact Ground.refl _
    | split
    | dsimp only
    | exact Ground.set (Ground.refl _) rfl rfl rfl

theorem execBypass_ground (code : BitVec 8) {s t : State}
    (e : execBypass code s = .next t) : Ground s t := by
  unfold execBypass at e
  obtain rfl := next_inj e
  repeat' first
    | with_reducible exact Ground.refl _
    | with_reducible apply State.whenever_ground
    | with_reducible apply State.tapBypass_ground

theorem execIdcode_ground {s t : State}
    (e : execIdcode s = .next t) : Ground s t := by
  unfold execIdcode at e
  obtain rfl := next_inj e
  repeat' first
    | with_reducible exact Ground.refl _
    | with_reducible apply State.tap_ground
    | with_reducible apply State.shiftOut_ground
    | split
    | dsimp only
    | exact Ground.set (Ground.refl _) rfl rfl rfl
    | with_reducible exact Quiet.refl _
    | exact Quiet.ground ‹_›
    | refine fun s h => ?_

theorem execSamplePreload_ground (bits : Nat) {s t : State}
    (e : execSamplePreload bits s = .next t) : Ground s t := by
  unfold execSamplePreload at e
  obtain rfl := next_inj e
  repeat' first
    | with_reducible exact Ground.refl _
    | with_reducible apply State.tap_ground
    | with_reducible apply State.boundaryScan_ground
    | split
    | dsimp only
    | exact Ground.set (Ground.refl _) rfl rfl rfl
    | with_reducible exact Quiet.refl _
    | exact Quiet.ground ‹_›
    | refine fun s h => ?_

theorem execExtest_ground (bits : Nat) {s t : State}
    (e : execExtest bits s = .next t) : Ground s t := by
  unfold execExtest at e
  obtain rfl := next_inj e
  repeat' first
    | with_reducible exact Ground.refl _
    | with_reducible apply State.tap_ground
    | with_reducible apply State.boundaryScan_ground
    | split
    | dsimp only
    | exact Ground.set (Ground.refl _) rfl rfl rfl
    | with_reducible exact Quiet.refl _
    | exact Quiet.ground ‹_›
    | refine fun s h => ?_

theorem execIjtag_ground (tile : BitVec 5) (instrument : Instrument) {s t : State}
    (e : execIjtag tile instrument s = .next t) : Ground s t := by
  unfold execIjtag at e
  obtain rfl := onTile_next e
  repeat' first
    | with_reducible exact Ground.refl _
    | with_reducible apply State.tap_ground
    | with_reducible apply State.useInstrument_ground
    | split
    | dsimp only
    | exact Ground.set (Ground.refl _) rfl rfl rfl
    | with_reducible exact Quiet.refl _
    | exact Quiet.ground ‹_›
    | refine fun s h => ?_

theorem execMgtAccess_ground (word : BitVec 16) (write : Bool) (data : BitVec 32) {s t : State}
    (e : execMgtAccess word write data s = .next t) : Ground s t := by
  unfold execMgtAccess at e
  obtain rfl := next_inj e
  repeat' first
    | with_reducible exact Ground.refl _
    | with_reducible apply State.tap_ground
    | with_reducible apply State.tapAccess_ground
    | split
    | dsimp only
    | exact Ground.set (Ground.refl _) rfl rfl rfl
    | with_reducible exact Quiet.refl _
    | exact Quiet.ground ‹_›
    | refine fun s h => ?_
    | with_reducible assumption

theorem execScan_ground (bits : Nat) {s t : State}
    (e : execScan bits s = .next t) : Ground s t := by
  unfold execScan at e
  obtain rfl := next_inj e
  repeat' first
    | with_reducible exact Ground.refl _
    | with_reducible apply State.tap_ground
    | with_reducible apply State.shiftFree_ground
    | split
    | dsimp only
    | exact Ground.set (Ground.refl _) rfl rfl rfl
    | with_reducible exact Quiet.refl _
    | exact Quiet.ground ‹_›
    | refine fun s h => ?_

theorem execLcStep_moves (code : BitVec 8) {s t : State}
    (e : execLcStep code s = .next t) : Moves s t := by
  unfold execLcStep at e
  obtain rfl := next_inj e
  exact State.tap_moves _ (fun _ h => State.lifeStep_moves h _)

theorem execKeyWrite_moves (slot : BitVec 8) (image : List Byte) {s t : State}
    (e : execKeyWrite slot image s = .next t) : Moves s t := by
  unfold execKeyWrite at e
  obtain rfl := next_inj e
  exact State.tap_moves _ (fun _ h => State.keyWrite_moves h _ _)

theorem execDbell_ground (q : Req) (aux : BitVec 32) (addr : BitVec 64) {s t : State}
    (e : execDbell q aux addr s = .next t) : Ground s t := by
  unfold execDbell at e
  obtain rfl := onTile_next e
  repeat' first
    | with_reducible exact Ground.refl _
    | with_reducible apply State.doorbell_ground

theorem execMgrd_keeps (q : Req) (addr : BitVec 64) {s t : State}
    (e : execMgrd q addr s = .next t) : Keeps s t := by
  unfold execMgrd at e
  obtain rfl := onTile_next e
  repeat' first
    | with_reducible exact Keeps.refl _
    | with_reducible apply State.hostRead_keeps

theorem execRegisterWrite_ground (q : Req) (addr : BitVec 64) (value : BitVec 32) {s t : State}
    (e : execRegisterWrite q addr value s = .next t) : Ground s t := by
  unfold execRegisterWrite at e
  obtain rfl := onTile_next e
  repeat' first
    | with_reducible exact Ground.refl _
    | with_reducible apply State.hostWriteAny_ground

theorem execHostPacket_keeps (q : Req) (word0 aux : BitVec 32) (addr : BitVec 64) {s t : State}
    (e : execHostPacket q word0 aux addr s = .next t) : Keeps s t := by
  unfold execHostPacket at e
  obtain rfl := next_inj e
  repeat' first
    | with_reducible exact Keeps.refl _
    | with_reducible apply State.whenever_keeps
    | with_reducible apply State.badPacket_keeps

theorem execCpl_keeps (q : Req) (status : BitVec 4) (payload : List Byte) {s t : State}
    (e : execCpl q status payload s = .next t) : Keeps s t := by
  unfold execCpl at e
  obtain rfl := onTile_next e
  repeat' first
    | with_reducible exact Keeps.refl _
    | with_reducible apply State.response_keeps

theorem execWack_keeps (q : Req) (status : BitVec 4) {s t : State}
    (e : execWack q status s = .next t) : Keeps s t := by
  unfold execWack at e
  obtain rfl := onTile_next e
  repeat' first
    | with_reducible exact Keeps.refl _
    | with_reducible apply State.response_keeps

theorem execInval_keeps (q : Req) (aux : BitVec 32) (addr : BitVec 64) {s t : State}
    (e : execInval q aux addr s = .next t) : Keeps s t := by
  unfold execInval at e
  obtain rfl := onTile_next e
  repeat' first
    | with_reducible exact Keeps.refl _
    | with_reducible apply State.takeInval_keeps

theorem execInvalAck_keeps (q : Req) {s t : State}
    (e : execInvalAck q s = .next t) : Keeps s t := by
  unfold execInvalAck at e
  obtain rfl := next_inj e
  repeat' first
    | with_reducible exact Keeps.refl _
    | with_reducible apply State.ackInval_keeps

theorem execRequestTimeout_keeps (q : Req) {s t : State}
    (e : execRequestTimeout q s = .next t) : Keeps s t := by
  unfold execRequestTimeout at e
  obtain rfl := onTile_next e
  repeat' first
    | with_reducible exact Keeps.refl _
    | with_reducible apply State.requestTimeout_keeps

theorem execUcieModuleUp_keeps (tile : BitVec 5) (module : BitVec 2) (degraded : Bool) {s t : State}
    (e : execUcieModuleUp tile module degraded s = .next t) : Keeps s t := by
  unfold execUcieModuleUp at e
  obtain rfl := onTile_next e
  repeat' first
    | with_reducible exact Keeps.refl _
    | with_reducible apply State.whenever_keeps
    | with_reducible apply State.moduleUp_keeps
    | with_reducible apply State.pump_keeps

theorem execUcieModuleDown_keeps (tile : BitVec 5) (module : BitVec 2) {s t : State}
    (e : execUcieModuleDown tile module s = .next t) : Keeps s t := by
  unfold execUcieModuleDown at e
  obtain rfl := onTile_next e
  repeat' first
    | with_reducible exact Keeps.refl _
    | with_reducible apply State.moduleDown_keeps

theorem execRingEnable_ground (q : Req) (ring : BitVec 6) (value : BitVec 32) {s t : State}
    (e : execRingEnable q ring value s = .next t) : Ground s t := by
  unfold execRingEnable at e
  exact State.writeFrom_ground e

theorem execRingDisable_ground (q : Req) (ring : BitVec 6) (value : BitVec 32) {s t : State}
    (e : execRingDisable q ring value s = .next t) : Ground s t := by
  unfold execRingDisable at e
  exact State.writeFrom_ground e

theorem execJobRingTail_ground (q : Req) (ring : BitVec 6) (value : BitVec 32) {s t : State}
    (e : execJobRingTail q ring value s = .next t) : Ground s t := by
  unfold execJobRingTail at e
  exact State.writeFrom_ground e

theorem execJobCplHead_ground (q : Req) (ring : BitVec 6) (value : BitVec 32) {s t : State}
    (e : execJobCplHead q ring value s = .next t) : Ground s t := by
  unfold execJobCplHead at e
  exact State.writeFrom_ground e

theorem execDescriptorIntake_keeps (hv : HostView) {s t : State}
    (e : execDescriptorIntake hv s = .next t) : Keeps s t := by
  unfold execDescriptorIntake at e
  obtain rfl := next_inj e
  repeat' first
    | with_reducible exact Keeps.refl _
    | with_reducible apply State.intake_keeps

theorem execDescriptorAged_keeps (ring : BitVec 6) {s t : State}
    (e : execDescriptorAged ring s = .next t) : Keeps s t := by
  unfold execDescriptorAged at e
  obtain rfl := next_inj e
  repeat' first
    | with_reducible exact Keeps.refl _
    | with_reducible apply State.ageRing_keeps

theorem execOpenCtx_keeps (job : Nat) (hv : HostView) {s t : State}
    (e : execOpenCtx job hv s = .next t) : Keeps s t := by
  unfold execOpenCtx at e
  obtain rfl := next_inj e
  repeat' first
    | with_reducible exact Keeps.refl _
    | with_reducible apply State.onItem_keeps
    | with_reducible apply State.openJob_keeps
    | split
    | dsimp only
    | exact Keeps.upd (Keeps.refl _) rfl rfl rfl rfl
    | refine fun s j i h => ?_
    | with_reducible assumption

theorem execClose_keeps (job : Nat) {s t : State}
    (e : execClose job s = .next t) : Keeps s t := by
  unfold execClose at e
  obtain rfl := next_inj e
  repeat' first
    | with_reducible exact Keeps.refl _
    | with_reducible apply State.onItem_keeps
    | with_reducible apply State.closeJob_keeps
    | split
    | dsimp only
    | exact Keeps.upd (Keeps.refl _) rfl rfl rfl rfl
    | refine fun s j i h => ?_
    | with_reducible assumption

theorem execFork_keeps (job : Nat) {s t : State}
    (e : execFork job s = .next t) : Keeps s t := by
  unfold execFork at e
  obtain rfl := next_inj e
  repeat' first
    | with_reducible exact Keeps.refl _
    | with_reducible apply State.onItem_keeps
    | with_reducible apply State.forkJob_keeps
    | split
    | dsimp only
    | exact Keeps.upd (Keeps.refl _) rfl rfl rfl rfl
    | refine fun s j i h => ?_
    | with_reducible assumption

theorem execForkBinding_keeps (job : Nat) {s t : State}
    (e : execForkBinding job s = .next t) : Keeps s t := by
  unfold execForkBinding at e
  obtain rfl := next_inj e
  repeat' first
    | with_reducible exact Keeps.refl _
    | with_reducible apply State.onItem_keeps
    | with_reducible apply State.forkJob_keeps
    | split
    | dsimp only
    | exact Keeps.upd (Keeps.refl _) rfl rfl rfl rfl
    | refine fun s j i h => ?_
    | with_reducible assumption

theorem execPark_keeps (job : Nat) {s t : State}
    (e : execPark job s = .next t) : Keeps s t := by
  unfold execPark at e
  obtain rfl := next_inj e
  repeat' first
    | with_reducible exact Keeps.refl _
    | with_reducible apply State.onItem_keeps
    | with_reducible apply State.parkJob_keeps
    | split
    | dsimp only
    | exact Keeps.upd (Keeps.refl _) rfl rfl rfl rfl
    | refine fun s j i h => ?_
    | with_reducible assumption

theorem execUnpark_keeps (job : Nat) (hv : HostView) {s t : State}
    (e : execUnpark job hv s = .next t) : Keeps s t := by
  unfold execUnpark at e
  obtain rfl := next_inj e
  repeat' first
    | with_reducible exact Keeps.refl _
    | with_reducible apply State.onItem_keeps
    | with_reducible apply State.unparkJob_keeps
    | split
    | dsimp only
    | exact Keeps.upd (Keeps.refl _) rfl rfl rfl rfl
    | refine fun s j i h => ?_
    | with_reducible assumption

theorem execAppend_keeps (job item : Nat) (hv : HostView) {s t : State}
    (e : execAppend job item hv s = .next t) : Keeps s t := by
  unfold execAppend at e
  obtain rfl := next_inj e
  repeat' first
    | with_reducible exact Keeps.refl _
    | with_reducible apply State.onItem_keeps
    | with_reducible apply State.appendItem_keeps
    | split
    | dsimp only
    | exact Keeps.upd (Keeps.refl _) rfl rfl rfl rfl
    | refine fun s j i h => ?_
    | with_reducible assumption

theorem execAttendDecode_keeps (job item : Nat) (hv : HostView) {s t : State}
    (e : execAttendDecode job item hv s = .next t) : Keeps s t := by
  unfold execAttendDecode at e
  obtain rfl := next_inj e
  repeat' first
    | with_reducible exact Keeps.refl _
    | with_reducible apply State.onItem_keeps
    | with_reducible apply State.attendItem_keeps
    | split
    | dsimp only
    | exact Keeps.upd (Keeps.refl _) rfl rfl rfl rfl
    | refine fun s j i h => ?_
    | with_reducible assumption

theorem execAttendPrefill_keeps (job item : Nat) (hv : HostView) {s t : State}
    (e : execAttendPrefill job item hv s = .next t) : Keeps s t := by
  unfold execAttendPrefill at e
  obtain rfl := next_inj e
  repeat' first
    | with_reducible exact Keeps.refl _
    | with_reducible apply State.onItem_keeps
    | with_reducible apply State.attendItem_keeps
    | split
    | dsimp only
    | exact Keeps.upd (Keeps.refl _) rfl rfl rfl rfl
    | refine fun s j i h => ?_
    | with_reducible assumption

theorem execAttendPartial_keeps (job item : Nat) (hv : HostView) {s t : State}
    (e : execAttendPartial job item hv s = .next t) : Keeps s t := by
  unfold execAttendPartial at e
  obtain rfl := next_inj e
  repeat' first
    | with_reducible exact Keeps.refl _
    | with_reducible apply State.onItem_keeps
    | with_reducible apply State.attendItem_keeps
    | split
    | dsimp only
    | exact Keeps.upd (Keeps.refl _) rfl rfl rfl rfl
    | refine fun s j i h => ?_
    | with_reducible assumption

theorem execAttendBackward_keeps (job item : Nat) (hv : HostView) {s t : State}
    (e : execAttendBackward job item hv s = .next t) : Keeps s t := by
  unfold execAttendBackward at e
  obtain rfl := next_inj e
  repeat' first
    | with_reducible exact Keeps.refl _
    | with_reducible apply State.onItem_keeps
    | with_reducible apply State.backwardItem_keeps
    | split
    | dsimp only
    | exact Keeps.upd (Keeps.refl _) rfl rfl rfl rfl
    | refine fun s j i h => ?_
    | with_reducible assumption

theorem execPrefixLookup_keeps (job : Nat) (hv : TreeRead) {s t : State}
    (e : execPrefixLookup job hv s = .next t) : Keeps s t := by
  unfold execPrefixLookup at e
  obtain rfl := next_inj e
  repeat' first
    | with_reducible exact Keeps.refl _
    | with_reducible apply State.onItem_keeps
    | with_reducible apply State.inTurn_keeps
    | with_reducible apply State.lookupJob_keeps
    | split
    | dsimp only
    | exact Keeps.upd (Keeps.refl _) rfl rfl rfl rfl
    | refine fun s j i h => ?_
    | refine fun s h => ?_
    | with_reducible assumption

theorem execPrefixPublish_keeps (job : Nat) (hv : TreeRead) {s t : State}
    (e : execPrefixPublish job hv s = .next t) : Keeps s t := by
  unfold execPrefixPublish at e
  obtain rfl := next_inj e
  repeat' first
    | with_reducible exact Keeps.refl _
    | with_reducible apply State.onItem_keeps
    | with_reducible apply State.inTurn_keeps
    | with_reducible apply State.publishJob_keeps
    | split
    | dsimp only
    | exact Keeps.upd (Keeps.refl _) rfl rfl rfl rfl
    | refine fun s j i h => ?_
    | refine fun s h => ?_
    | with_reducible assumption

theorem execPrefixDrop_keeps (job : Nat) (hv : TreeRead) {s t : State}
    (e : execPrefixDrop job hv s = .next t) : Keeps s t := by
  unfold execPrefixDrop at e
  obtain rfl := next_inj e
  repeat' first
    | with_reducible exact Keeps.refl _
    | with_reducible apply State.onItem_keeps
    | with_reducible apply State.inTurn_keeps
    | with_reducible apply State.dropJob_keeps
    | split
    | dsimp only
    | exact Keeps.upd (Keeps.refl _) rfl rfl rfl rfl
    | refine fun s j i h => ?_
    | refine fun s h => ?_
    | with_reducible assumption

theorem execEvict_keeps (job : Nat) {s t : State}
    (e : execEvict job s = .next t) : Keeps s t := by
  unfold execEvict at e
  obtain rfl := next_inj e
  repeat' first
    | with_reducible exact Keeps.refl _
    | with_reducible apply State.onItem_keeps
    | with_reducible apply State.evictJob_keeps
    | split
    | dsimp only
    | exact Keeps.upd (Keeps.refl _) rfl rfl rfl rfl
    | refine fun s j i h => ?_
    | with_reducible assumption

theorem execPrefetch_keeps (job : Nat) {s t : State}
    (e : execPrefetch job s = .next t) : Keeps s t := by
  unfold execPrefetch at e
  obtain rfl := next_inj e
  repeat' first
    | with_reducible exact Keeps.refl _
    | with_reducible apply State.onItem_keeps
    | with_reducible apply State.prefetchJob_keeps
    | split
    | dsimp only
    | exact Keeps.upd (Keeps.refl _) rfl rfl rfl rfl
    | refine fun s j i h => ?_
    | with_reducible assumption

theorem execTruncate_keeps (job : Nat) (hv : HostView) {s t : State}
    (e : execTruncate job hv s = .next t) : Keeps s t := by
  unfold execTruncate at e
  obtain rfl := next_inj e
  repeat' first
    | with_reducible exact Keeps.refl _
    | with_reducible apply State.onItem_keeps
    | with_reducible apply State.truncateJob_keeps
    | split
    | dsimp only
    | exact Keeps.upd (Keeps.refl _) rfl rfl rfl rfl
    | refine fun s j i h => ?_
    | with_reducible assumption

theorem execTableLoad_keeps (job : Nat) (hv : HostView) {s t : State}
    (e : execTableLoad job hv s = .next t) : Keeps s t := by
  unfold execTableLoad at e
  obtain rfl := next_inj e
  repeat' first
    | with_reducible exact Keeps.refl _
    | with_reducible apply State.onItem_keeps
    | with_reducible apply State.tableLoadJob_keeps
    | split
    | dsimp only
    | exact Keeps.upd (Keeps.refl _) rfl rfl rfl rfl
    | refine fun s j i h => ?_
    | with_reducible assumption

theorem execTableLoadProceed_keeps (job : Nat) (hv : HostView) {s t : State}
    (e : execTableLoadProceed job hv s = .next t) : Keeps s t := by
  unfold execTableLoadProceed at e
  obtain rfl := next_inj e
  repeat' first
    | with_reducible exact Keeps.refl _
    | with_reducible apply State.onItem_keeps
    | with_reducible apply State.tableLoadJob_keeps
    | split
    | dsimp only
    | exact Keeps.upd (Keeps.refl _) rfl rfl rfl rfl
    | refine fun s j i h => ?_
    | with_reducible assumption

theorem execBarrier_keeps (job : Nat) {s t : State}
    (e : execBarrier job s = .next t) : Keeps s t := by
  unfold execBarrier at e
  obtain rfl := next_inj e
  repeat' first
    | with_reducible exact Keeps.refl _
    | with_reducible apply State.onItem_keeps
    | with_reducible apply State.endJob_keeps
    | split
    | dsimp only
    | exact Keeps.upd (Keeps.refl _) rfl rfl rfl rfl
    | refine fun s j i h => ?_
    | with_reducible assumption

theorem execPhaseSwitch_keeps (job : Nat) {s t : State}
    (e : execPhaseSwitch job s = .next t) : Keeps s t := by
  unfold execPhaseSwitch at e
  obtain rfl := next_inj e
  repeat' first
    | with_reducible exact Keeps.refl _
    | with_reducible apply State.onItem_keeps
    | with_reducible apply State.phaseJob_keeps
    | split
    | dsimp only
    | exact Keeps.upd (Keeps.refl _) rfl rfl rfl rfl
    | refine fun s j i h => ?_
    | with_reducible assumption

theorem execNop_keeps (job : Nat) {s t : State}
    (e : execNop job s = .next t) : Keeps s t := by
  unfold execNop at e
  obtain rfl := next_inj e
  repeat' first
    | with_reducible exact Keeps.refl _
    | with_reducible apply State.onItem_keeps
    | with_reducible apply State.endJob_keeps
    | split
    | dsimp only
    | exact Keeps.upd (Keeps.refl _) rfl rfl rfl rfl
    | refine fun s j i h => ?_
    | with_reducible assumption

theorem execWorkItemDispatch_keeps (tile : TileTurn) {s t : State}
    (e : execWorkItemDispatch tile s = .next t) : Keeps s t := by
  unfold execWorkItemDispatch at e
  obtain rfl := onTile_next e
  repeat' first
    | with_reducible exact Keeps.refl _
    | with_reducible apply State.dispatch_keeps
    | with_reducible apply State.sramEvents_keeps

theorem execItemAged_keeps (job item : Nat) {s t : State}
    (e : execItemAged job item s = .next t) : Keeps s t := by
  unfold execItemAged at e
  obtain rfl := next_inj e
  repeat' first
    | with_reducible exact Keeps.refl _
    | with_reducible apply State.ageItem_keeps

theorem execWorkItemComplete_keeps (job : Nat) (item : ItemEnd) {s t : State}
    (e : execWorkItemComplete job item s = .next t) : Keeps s t := by
  unfold execWorkItemComplete at e
  obtain rfl := next_inj e
  repeat' first
    | with_reducible exact Keeps.refl _
    | with_reducible apply State.whenever_keeps
    | with_reducible apply State.completeItem_keeps
    | with_reducible apply State.finishItem_keeps

theorem execCompletionRecord_keeps (job : Nat) {s t : State}
    (e : execCompletionRecord job s = .next t) : Keeps s t := by
  unfold execCompletionRecord at e
  obtain rfl := next_inj e
  repeat' first
    | with_reducible exact Keeps.refl _
    | with_reducible apply State.writeStats_keeps
    | with_reducible apply State.whenever_keeps
    | with_reducible apply State.writeRecord_keeps
    | split

theorem execInterruptMessage_keeps (src : IrqSrc) {s t : State}
    (e : execInterruptMessage src s = .next t) : Keeps s t := by
  unfold execInterruptMessage at e
  obtain rfl := next_inj e
  repeat' first
    | with_reducible exact Keeps.refl _
    | with_reducible apply State.whenever_keeps
    | with_reducible apply State.off_bounded
    | with_reducible apply State.sendIrq_keeps

theorem execBatchRoundClose_keeps (tile : BitVec 5) (frame : BitVec 24) {s t : State}
    (e : execBatchRoundClose tile frame s = .next t) : Keeps s t := by
  unfold execBatchRoundClose at e
  obtain rfl := onTile_next e
  repeat' first
    | with_reducible exact Keeps.refl _
    | with_reducible apply State.closeRound_keeps
    | split

theorem execBatchWindowAdapt_keeps (tile : BitVec 5) {s t : State}
    (e : execBatchWindowAdapt tile s = .next t) : Keeps s t := by
  unfold execBatchWindowAdapt at e
  obtain rfl := onTile_next e
  repeat' first
    | with_reducible exact Keeps.refl _
    | with_reducible apply State.adaptWindow_keeps

theorem execRemoteRead_keeps (job item : Nat) (core : CoreId) (quarter : BitVec 2) (off words : BitVec 16) {s t : State}
    (e : execRemoteRead job item core quarter off words s = .next t) : Keeps s t := by
  unfold execRemoteRead at e
  obtain rfl := onTile_next e
  repeat' first
    | with_reducible exact Keeps.refl _
    | with_reducible apply State.remoteRead_keeps

theorem execCredit_keeps (receiver : CoreId) (window : BitVec 3) (units : BitVec 10) {s t : State}
    (e : execCredit receiver window units s = .next t) : Keeps s t := by
  unfold execCredit at e
  obtain rfl := onTile_next e
  repeat' first
    | with_reducible exact Keeps.refl _
    | with_reducible apply State.credit_keeps

theorem execWdata_keeps (receiver : CoreId) (window : BitVec 3) (flit : List Byte) {s t : State}
    (e : execWdata receiver window flit s = .next t) : Keeps s t := by
  unfold execWdata at e
  obtain rfl := onTile_next e
  repeat' first
    | with_reducible exact Keeps.refl _
    | with_reducible apply State.wdata_keeps

theorem execWfence_keeps (receiver : CoreId) (window : BitVec 3) {s t : State}
    (e : execWfence receiver window s = .next t) : Keeps s t := by
  unfold execWfence at e
  obtain rfl := onTile_next e
  repeat' first
    | with_reducible exact Keeps.refl _
    | with_reducible apply State.wfence_keeps

theorem execCreditHoldTimeout_keeps (sender : CoreId) {s t : State}
    (e : execCreditHoldTimeout sender s = .next t) : Keeps s t := by
  unfold execCreditHoldTimeout at e
  obtain rfl := onTile_next e
  repeat' first
    | with_reducible exact Keeps.refl _
    | with_reducible apply State.whenever_keeps
    | with_reducible apply State.coreFault_keeps

theorem execMergeNode_keeps (job item target lo n : Nat) {s t : State}
    (e : execMergeNode job item target lo n s = .next t) : Keeps s t := by
  unfold execMergeNode at e
  obtain rfl := next_inj e
  repeat' first
    | with_reducible exact Keeps.refl _
    | with_reducible apply State.mergeNode_keeps

theorem execAtomicAdd_keeps (job item row source : Nat) {s t : State}
    (e : execAtomicAdd job item row source s = .next t) : Keeps s t := by
  unfold execAtomicAdd at e
  obtain rfl := next_inj e
  repeat' first
    | with_reducible exact Keeps.refl _
    | with_reducible apply State.atomicAdd_keeps

theorem execWaveFold_keeps (job target wave : Nat) {s t : State}
    (e : execWaveFold job target wave s = .next t) : Keeps s t := by
  unfold execWaveFold at e
  obtain rfl := next_inj e
  repeat' first
    | with_reducible exact Keeps.refl _
    | with_reducible apply State.waveFold_keeps

theorem execHatWalk_keeps (tile : BitVec 5) (va : BitVec 48) (hv : HostView) {s t : State}
    (e : execHatWalk tile va hv s = .next t) : Keeps s t := by
  unfold execHatWalk at e
  obtain rfl := onTile_next e
  repeat' first
    | with_reducible exact Keeps.refl _
    | with_reducible apply State.hatWalk_keeps
    | with_reducible apply State.pump_keeps

theorem execHatFqHead_ground (q : Req) (value : BitVec 32) {s t : State}
    (e : execHatFqHead q value s = .next t) : Ground s t := by
  unfold execHatFqHead at e
  exact State.writeFrom_ground e

theorem execRetry_ground (q : Req) (fault : BitVec 24) {s t : State}
    (e : execRetry q fault s = .next t) : Ground s t := by
  unfold execRetry at e
  exact State.writeFrom_ground e

theorem execFail_ground (q : Req) (fault : BitVec 24) {s t : State}
    (e : execFail q fault s = .next t) : Ground s t := by
  unfold execFail at e
  exact State.writeFrom_ground e

theorem execHatTimeout_keeps (tile : BitVec 5) (place : BitVec 8) {s t : State}
    (e : execHatTimeout tile place s = .next t) : Keeps s t := by
  unfold execHatTimeout at e
  obtain rfl := onTile_next e
  repeat' first
    | with_reducible exact Keeps.refl _
    | with_reducible apply State.faultTimeout_keeps
    | with_reducible apply State.pump_keeps

theorem execHatEnable_ground (q : Req) {s t : State}
    (e : execHatEnable q s = .next t) : Ground s t := by
  unfold execHatEnable at e
  exact State.writeFrom_ground e

theorem execHatDisable_ground (q : Req) {s t : State}
    (e : execHatDisable q s = .next t) : Ground s t := by
  unfold execHatDisable at e
  exact State.writeFrom_ground e

theorem execDmaDescriptorEnd_keeps (tile : BitVec 5) (channel : BitVec 4) (how : DmaEnd) {s t : State}
    (e : execDmaDescriptorEnd tile channel how s = .next t) : Keeps s t := by
  unfold execDmaDescriptorEnd at e
  obtain rfl := onTile_next e
  repeat' first
    | with_reducible exact Keeps.refl _
    | with_reducible apply State.dmaEnds_keeps

theorem execBackgroundEviction_keeps (tile : BitVec 5) {s t : State}
    (e : execBackgroundEviction tile s = .next t) : Keeps s t := by
  unfold execBackgroundEviction at e
  obtain rfl := onTile_next e
  repeat' first
    | with_reducible exact Keeps.refl _
    | with_reducible apply State.background_keeps

theorem execEvictionDone_keeps (slot : Nat) {s t : State}
    (e : execEvictionDone slot s = .next t) : Keeps s t := by
  unfold execEvictionDone at e
  obtain rfl := next_inj e
  repeat' first
    | with_reducible exact Keeps.refl _
    | with_reducible apply State.whenever_keeps
    | with_reducible apply State.evictionDone_keeps
    | split

theorem execEvictionWriteFail_keeps (slot : Nat) {s t : State}
    (e : execEvictionWriteFail slot s = .next t) : Keeps s t := by
  unfold execEvictionWriteFail at e
  obtain rfl := next_inj e
  repeat' first
    | with_reducible exact Keeps.refl _
    | with_reducible apply State.whenever_keeps
    | with_reducible apply State.evictionFails_keeps
    | split

theorem execRecallDone_keeps (slot : Nat) {s t : State}
    (e : execRecallDone slot s = .next t) : Keeps s t := by
  unfold execRecallDone at e
  obtain rfl := next_inj e
  repeat' first
    | with_reducible exact Keeps.refl _
    | with_reducible apply State.whenever_keeps
    | with_reducible apply State.recallDone_keeps
    | split

theorem execRecallFail_keeps (slot : Nat) {s t : State}
    (e : execRecallFail slot s = .next t) : Keeps s t := by
  unfold execRecallFail at e
  obtain rfl := next_inj e
  repeat' first
    | with_reducible exact Keeps.refl _
    | with_reducible apply State.whenever_keeps
    | with_reducible apply State.recallFails_keeps
    | split

theorem execCfgCommit_ground (q : Req) (value : BitVec 32) {s t : State}
    (e : execCfgCommit q value s = .next t) : Ground s t := by
  unfold execCfgCommit at e
  exact State.writeFrom_ground e

theorem execCommitAdoption_keeps (unit : BitVec 6) {s t : State}
    (e : execCommitAdoption unit s = .next t) : Keeps s t := by
  unfold execCommitAdoption at e
  obtain rfl := next_inj e
  repeat' first
    | with_reducible exact Keeps.refl _
    | with_reducible apply State.adopt_keeps

theorem execReqDrain_ground (q : Req) {s t : State}
    (e : execReqDrain q s = .next t) : Ground s t := by
  unfold execReqDrain at e
  exact State.writeFrom_ground e

theorem execReqMaint_ground (q : Req) {s t : State}
    (e : execReqMaint q s = .next t) : Ground s t := by
  unfold execReqMaint at e
  exact State.writeFrom_ground e

theorem execReqResume_ground (q : Req) {s t : State}
    (e : execReqResume q s = .next t) : Ground s t := by
  unfold execReqResume at e
  exact State.writeFrom_ground e

theorem execHltTileRetain_ground (q : Req) (value : BitVec 32) {s t : State}
    (e : execHltTileRetain q value s = .next t) : Ground s t := by
  unfold execHltTileRetain at e
  exact State.writeFrom_ground e

theorem execHltTileGate_ground (q : Req) (value : BitVec 32) {s t : State}
    (e : execHltTileGate q value s = .next t) : Ground s t := by
  unfold execHltTileGate at e
  exact State.writeFrom_ground e

theorem execTileWake_keeps (tile : BitVec 5) {s t : State}
    (e : execTileWake tile s = .next t) : Keeps s t := by
  unfold execTileWake at e
  obtain rfl := onTile_next e
  repeat' first
    | with_reducible exact Keeps.refl _
    | with_reducible apply State.tileWakes_keeps

theorem execSramRetention_keeps (tile : BitVec 5) (bank : BitVec 3) {s t : State}
    (e : execSramRetention tile bank s = .next t) : Keeps s t := by
  unfold execSramRetention at e
  obtain rfl := onTile_next e
  repeat' first
    | with_reducible exact Keeps.refl _
    | with_reducible apply State.retainBank_keeps

theorem execSramWake_keeps (tile : BitVec 5) (bank : BitVec 3) {s t : State}
    (e : execSramWake tile bank s = .next t) : Keeps s t := by
  unfold execSramWake at e
  obtain rfl := onTile_next e
  repeat' first
    | with_reducible exact Keeps.refl _
    | with_reducible apply State.wakeBank_keeps

theorem execSramBackgroundTest_keeps (tile : BitVec 5) (bank : BitVec 3) (bad : List (BitVec 8)) {s t : State}
    (e : execSramBackgroundTest tile bank bad s = .next t) : Keeps s t := by
  unfold execSramBackgroundTest at e
  obtain rfl := onTile_next e
  repeat' first
    | with_reducible exact Keeps.refl _
    | with_reducible apply State.testRegion_keeps

theorem execSpdScrub_keeps (core : CoreId) (bank : BitVec 6) (finding : EccFinding) {s t : State}
    (e : execSpdScrub core bank finding s = .next t) : Keeps s t := by
  unfold execSpdScrub at e
  obtain rfl := onTile_next e
  repeat' first
    | with_reducible exact Keeps.refl _
    | with_reducible apply State.whenever_keeps
    | with_reducible apply State.scrubCore_keeps

theorem execScrubClaim_keeps (core : CoreId) (bank : BitVec 6) {s t : State}
    (e : execScrubClaim core bank s = .next t) : Keeps s t := by
  unfold execScrubClaim at e
  obtain rfl := onTile_next e
  repeat' first
    | with_reducible exact Keeps.refl _
    | with_reducible apply State.whenever_keeps
    | with_reducible apply State.scrubClaim_keeps

theorem execPageMemoryScrub_keeps (tile : BitVec 5) (channel : BitVec 6) (report : ScrubReport) {s t : State}
    (e : execPageMemoryScrub tile channel report s = .next t) : Keeps s t := by
  unfold execPageMemoryScrub at e
  obtain rfl := onTile_next e
  repeat' first
    | with_reducible exact Keeps.refl _
    | with_reducible apply State.whenever_keeps
    | with_reducible apply State.scrubBurst_keeps

theorem execCoreFault_keeps (core : CoreId) (kind : BitVec 2) {s t : State}
    (e : execCoreFault core kind s = .next t) : Keeps s t := by
  unfold execCoreFault at e
  obtain rfl := onTile_next e
  repeat' first
    | with_reducible exact Keeps.refl _
    | with_reducible apply State.whenever_keeps
    | with_reducible apply State.coreFault_keeps

theorem execCoreStallTimeout_keeps (core : CoreId) {s t : State}
    (e : execCoreStallTimeout core s = .next t) : Keeps s t := by
  unfold execCoreStallTimeout at e
  obtain rfl := onTile_next e
  repeat' first
    | with_reducible exact Keeps.refl _
    | with_reducible apply State.whenever_keeps
    | with_reducible apply State.coreFault_keeps

theorem execCoreSubstitution_keeps (core : CoreId) (pass : Bool) {s t : State}
    (e : execCoreSubstitution core pass s = .next t) : Keeps s t := by
  unfold execCoreSubstitution at e
  obtain rfl := onTile_next e
  repeat' first
    | with_reducible exact Keeps.refl _
    | with_reducible apply State.whenever_keeps
    | with_reducible apply State.substitute_keeps

theorem execRelocationDone_keeps (tile : BitVec 5) {s t : State}
    (e : execRelocationDone tile s = .next t) : Keeps s t := by
  unfold execRelocationDone at e
  obtain rfl := onTile_next e
  repeat' first
    | with_reducible exact Keeps.refl _
    | with_reducible apply State.relocate_keeps

theorem execAnchorTakeover_keeps {s t : State}
    (e : execAnchorTakeover s = .next t) : Keeps s t := by
  unfold execAnchorTakeover at e
  obtain rfl := next_inj e
  repeat' first
    | with_reducible exact Keeps.refl _
    | with_reducible apply State.takeOver_keeps

theorem execSpareAnchorBuilt_keeps {s t : State}
    (e : execSpareAnchorBuilt s = .next t) : Keeps s t := by
  unfold execSpareAnchorBuilt at e
  obtain rfl := next_inj e
  repeat' first
    | with_reducible exact Keeps.refl _
    | with_reducible apply State.spareBuilt_keeps

theorem execErrLogPop_ground (q : Req) (value : BitVec 32) {s t : State}
    (e : execErrLogPop q value s = .next t) : Ground s t := by
  unfold execErrLogPop at e
  exact State.writeFrom_ground e

theorem execBistStart_ground (q : Req) (value : BitVec 32) {s t : State}
    (e : execBistStart q value s = .next t) : Ground s t := by
  unfold execBistStart at e
  exact State.writeFrom_ground e

theorem execBistDone_ground (tile : BitVec 5) (result : BistResult) {s t : State}
    (e : execBistDone tile result s = .next t) : Ground s t := by
  unfold execBistDone at e
  obtain rfl := onTile_next e
  repeat' first
    | with_reducible exact Ground.refl _
    | with_reducible apply State.bistEnds_ground

theorem execBurn_ground (q : Req) (value : BitVec 32) {s t : State}
    (e : execBurn q value s = .next t) : Ground s t := by
  unfold execBurn at e
  exact State.writeFrom_ground e

theorem execBurnDone_ground (good : Bool) {s t : State}
    (e : execBurnDone good s = .next t) : Ground s t := by
  unfold execBurnDone at e
  obtain rfl := next_inj e
  repeat' first
    | with_reducible exact Ground.refl _
    | with_reducible apply State.burnEnds_ground

theorem execStepWindow_keeps (tile : BitVec 5) {s t : State}
    (e : execStepWindow tile s = .next t) : Keeps s t := by
  unfold execStepWindow at e
  obtain rfl := onTile_next e
  repeat' first
    | with_reducible exact Keeps.refl _
    | with_reducible apply State.whenever_keeps
    | with_reducible apply State.stepWindow_keeps

theorem execCclkPllLock_keeps (tile : BitVec 5) {s t : State}
    (e : execCclkPllLock tile s = .next t) : Keeps s t := by
  unfold execCclkPllLock at e
  obtain rfl := onTile_next e
  repeat' first
    | with_reducible exact Keeps.refl _
    | with_reducible apply State.pllLocked_keeps

theorem execPllUnlock_keeps (tile : BitVec 5) {s t : State}
    (e : execPllUnlock tile s = .next t) : Keeps s t := by
  unfold execPllUnlock at e
  obtain rfl := onTile_next e
  repeat' first
    | with_reducible exact Keeps.refl _
    | with_reducible apply State.pllUnlock_keeps

theorem execTempReading_keeps (tile : BitVec 5) (values : List Int) {s t : State}
    (e : execTempReading tile values s = .next t) : Keeps s t := by
  unfold execTempReading at e
  obtain rfl := onTile_next e
  repeat' first
    | with_reducible exact Keeps.refl _
    | with_reducible apply State.whenever_keeps
    | with_reducible apply State.tempReading_keeps

theorem execVoltReading_keeps (tile : BitVec 5) (values : List (BitVec 16)) (nominal : BitVec 16) {s t : State}
    (e : execVoltReading tile values nominal s = .next t) : Keeps s t := by
  unfold execVoltReading at e
  obtain rfl := onTile_next e
  repeat' first
    | with_reducible exact Keeps.refl _
    | with_reducible apply State.whenever_keeps
    | with_reducible apply State.voltReading_keeps

theorem execProcessReading_keeps (tile : BitVec 5) (values : List (BitVec 16)) {s t : State}
    (e : execProcessReading tile values s = .next t) : Keeps s t := by
  unfold execProcessReading at e
  obtain rfl := onTile_next e
  repeat' first
    | with_reducible exact Keeps.refl _
    | with_reducible apply State.whenever_keeps
    | with_reducible apply State.procReading_keeps

theorem execSensorFail_keeps (tile : BitVec 5) (kind : BitVec 2) (sensor : BitVec 5) {s t : State}
    (e : execSensorFail tile kind sensor s = .next t) : Keeps s t := by
  unfold execSensorFail at e
  obtain rfl := onTile_next e
  repeat' first
    | with_reducible exact Keeps.refl _
    | with_reducible apply State.whenever_keeps
    | with_reducible apply State.sensorOut_keeps

theorem execPpsEdge_keeps (falling : Bool) {s t : State}
    (e : execPpsEdge falling s = .next t) : Keeps s t := by
  unfold execPpsEdge at e
  obtain rfl := next_inj e
  repeat' first
    | with_reducible exact Keeps.refl _
    | with_reducible apply State.whenever_keeps
    | with_reducible apply State.ppsEdge_keeps

theorem execPpsMiss_keeps {s t : State}
    (e : execPpsMiss s = .next t) : Keeps s t := by
  unfold execPpsMiss at e
  obtain rfl := next_inj e
  repeat' first
    | with_reducible exact Keeps.refl _
    | with_reducible apply State.whenever_keeps
    | with_reducible apply State.ppsMissed_keeps

theorem execLinkUp_keeps (restartsSeq : Bool) (nonce : List Byte) {s t : State}
    (e : execLinkUp restartsSeq nonce s = .next t) : Keeps s t := by
  unfold execLinkUp at e
  obtain rfl := next_inj e
  repeat' first
    | with_reducible exact Keeps.refl _
    | with_reducible apply State.whenever_keeps
    | with_reducible apply State.linkComesUp_keeps

theorem execLinkRetrain_keeps {s t : State}
    (e : execLinkRetrain s = .next t) : Keeps s t := by
  unfold execLinkRetrain at e
  obtain rfl := next_inj e
  repeat' first
    | with_reducible exact Keeps.refl _
    | with_reducible apply State.whenever_keeps
    | with_reducible apply State.retrain_keeps

theorem execLaneLoss_keeps (lane : BitVec 5) {s t : State}
    (e : execLaneLoss lane s = .next t) : Keeps s t := by
  unfold execLaneLoss at e
  obtain rfl := next_inj e
  repeat' first
    | with_reducible exact Keeps.refl _
    | with_reducible apply State.whenever_keeps
    | with_reducible apply State.loseLane_keeps

theorem execLinkFrame_keeps (bytes : List Byte) (good : Bool) {s t : State}
    (e : execLinkFrame bytes good s = .next t) : Keeps s t := by
  unfold execLinkFrame at e
  obtain rfl := next_inj e
  repeat' first
    | with_reducible exact Keeps.refl _
    | with_reducible apply State.whenever_keeps
    | with_reducible apply State.takeFrame_keeps

theorem execNak_keeps (seq : BitVec 24) {s t : State}
    (e : execNak seq s = .next t) : Keeps s t := by
  unfold execNak at e
  obtain rfl := next_inj e
  repeat' first
    | with_reducible exact Keeps.refl _
    | with_reducible apply State.whenever_keeps
    | with_reducible apply State.takeNak_keeps

theorem execReplayTimeout_keeps {s t : State}
    (e : execReplayTimeout s = .next t) : Keeps s t := by
  unfold execReplayTimeout at e
  obtain rfl := next_inj e
  repeat' first
    | with_reducible exact Keeps.refl _
    | with_reducible apply State.whenever_keeps
    | with_reducible apply State.resendAll_keeps

theorem execHello_keeps (msg : Hello) {s t : State}
    (e : execHello msg s = .next t) : Keeps s t := by
  unfold execHello at e
  obtain rfl := next_inj e
  repeat' first
    | with_reducible exact Keeps.refl _
    | with_reducible apply State.whenever_keeps
    | with_reducible apply State.takeHello_keeps

theorem execAuth_keeps (code : List Byte) {s t : State}
    (e : execAuth code s = .next t) : Keeps s t := by
  unfold execAuth at e
  obtain rfl := next_inj e
  repeat' first
    | with_reducible exact Keeps.refl _
    | with_reducible apply State.whenever_keeps
    | with_reducible apply State.takeAuth_keeps

theorem execHelloTimeout_keeps {s t : State}
    (e : execHelloTimeout s = .next t) : Keeps s t := by
  unfold execHelloTimeout at e
  obtain rfl := next_inj e
  repeat' first
    | with_reducible exact Keeps.refl _
    | with_reducible apply State.whenever_keeps
    | with_reducible apply State.helloTimeout_keeps

theorem execHelloRetry_keeps (nonce : List Byte) {s t : State}
    (e : execHelloRetry nonce s = .next t) : Keeps s t := by
  unfold execHelloRetry at e
  obtain rfl := next_inj e
  repeat' first
    | with_reducible exact Keeps.refl _
    | with_reducible apply State.whenever_keeps
    | with_reducible apply State.helloRetry_keeps

theorem execHeartbeatSend_keeps {s t : State}
    (e : execHeartbeatSend s = .next t) : Keeps s t := by
  unfold execHeartbeatSend at e
  obtain rfl := next_inj e
  repeat' first
    | with_reducible exact Keeps.refl _
    | with_reducible apply State.whenever_keeps
    | with_reducible apply State.tell_keeps

theorem execHeartbeat_keeps (time : BitVec 64) (state : BitVec 4) (epoch : BitVec 32) {s t : State}
    (e : execHeartbeat time state epoch s = .next t) : Keeps s t := by
  unfold execHeartbeat at e
  obtain rfl := next_inj e
  repeat' first
    | with_reducible exact Keeps.refl _
    | with_reducible apply State.whenever_keeps
    | with_reducible apply State.takeBeat_keeps

theorem execHeartbeatMiss_keeps {s t : State}
    (e : execHeartbeatMiss s = .next t) : Keeps s t := by
  unfold execHeartbeatMiss at e
  obtain rfl := next_inj e
  repeat' first
    | with_reducible exact Keeps.refl _
    | with_reducible apply State.whenever_keeps
    | with_reducible apply State.missBeats_keeps

theorem execTwnAutoTimeout_keeps {s t : State}
    (e : execTwnAutoTimeout s = .next t) : Keeps s t := by
  unfold execTwnAutoTimeout at e
  obtain rfl := next_inj e
  repeat' first
    | with_reducible exact Keeps.refl _
    | with_reducible apply State.whenever_keeps
    | with_reducible apply State.autoTimeout_keeps

theorem execDying_keeps {s t : State}
    (e : execDying s = .next t) : Keeps s t := by
  unfold execDying at e
  obtain rfl := next_inj e
  repeat' first
    | with_reducible exact Keeps.refl _
    | with_reducible apply State.whenever_keeps
    | with_reducible apply State.takeDying_keeps

theorem execTwnFence_ground (q : Req) (value : BitVec 32) {s t : State}
    (e : execTwnFence q value s = .next t) : Ground s t := by
  unfold execTwnFence at e
  exact State.writeFrom_ground e

theorem execCastled_keeps {s t : State}
    (e : execCastled s = .next t) : Keeps s t := by
  unfold execCastled at e
  obtain rfl := next_inj e
  repeat' first
    | with_reducible exact Keeps.refl _
    | with_reducible apply State.whenever_keeps
    | with_reducible apply State.castle_keeps

theorem execAttach_ground (q : Req) (nonce : List Byte) {s t : State}
    (e : execAttach q nonce s = .next t) : Ground s t := by
  unfold execAttach at e
  obtain rfl := onTile_next e
  repeat' first
    | with_reducible exact Ground.refl _
    | with_reducible apply State.hostWrite_ground

theorem execDetach_ground (q : Option Req) {s t : State}
    (e : execDetach q s = .next t) : Ground s t := by
  unfold execDetach at e
  split at e
  · exact State.writeFrom_ground e
  · cases e
    exact (State.whenever_keeps (Keeps.refl s) (State.takeDetach_keeps (Keeps.refl s)) _).ground

theorem execDetachTimeout_keeps {s t : State}
    (e : execDetachTimeout s = .next t) : Keeps s t := by
  unfold execDetachTimeout at e
  obtain rfl := next_inj e
  repeat' first
    | with_reducible exact Keeps.refl _
    | with_reducible apply State.whenever_keeps
    | with_reducible apply State.detached_keeps

theorem execRowDelta_keeps (g : GroupId) (row : BitVec 14) (bytes : List Byte) {s t : State}
    (e : execRowDelta g row bytes s = .next t) : Keeps s t := by
  unfold execRowDelta at e
  obtain rfl := next_inj e
  repeat' first
    | with_reducible exact Keeps.refl _
    | with_reducible apply State.whenever_keeps
    | with_reducible apply State.takeDelta_keeps

theorem execDirDelta_keeps (g : GroupId) (row : BitVec 14) (stream : BitVec 8) (entry : BitVec 64) {s t : State}
    (e : execDirDelta g row stream entry s = .next t) : Keeps s t := by
  unfold execDirDelta at e
  obtain rfl := next_inj e
  repeat' first
    | with_reducible exact Keeps.refl _
    | with_reducible apply State.whenever_keeps
    | with_reducible apply State.takeDelta_keeps

theorem execMapDelta_keeps (g : GroupId) (tile : BitVec 5) (block : BitVec 20) (slot : BitVec 8) (entry : BitVec 32) {s t : State}
    (e : execMapDelta g tile block slot entry s = .next t) : Keeps s t := by
  unfold execMapDelta at e
  obtain rfl := next_inj e
  repeat' first
    | with_reducible exact Keeps.refl _
    | with_reducible apply State.whenever_keeps
    | with_reducible apply State.takeDelta_keeps

theorem execFrameDelta_keeps (g : GroupId) (frame : BitVec 24) (word0 : BitVec 32) (refcnt : BitVec 16) {s t : State}
    (e : execFrameDelta g frame word0 refcnt s = .next t) : Keeps s t := by
  unfold execFrameDelta at e
  obtain rfl := next_inj e
  repeat' first
    | with_reducible exact Keeps.refl _
    | with_reducible apply State.whenever_keeps
    | with_reducible apply State.takeDelta_keeps

theorem execBytesDelta_keeps (g : GroupId) (frame : BitVec 24) (off : BitVec 17) (data : List Byte) {s t : State}
    (e : execBytesDelta g frame off data s = .next t) : Keeps s t := by
  unfold execBytesDelta at e
  obtain rfl := next_inj e
  repeat' first
    | with_reducible exact Keeps.refl _
    | with_reducible apply State.whenever_keeps
    | with_reducible apply State.takeDelta_keeps

theorem execCopyDelta_keeps (g : GroupId) (src dst : BitVec 24) (rows : BitVec 11) {s t : State}
    (e : execCopyDelta g src dst rows s = .next t) : Keeps s t := by
  unfold execCopyDelta at e
  obtain rfl := next_inj e
  repeat' first
    | with_reducible exact Keeps.refl _
    | with_reducible apply State.whenever_keeps
    | with_reducible apply State.takeDelta_keeps

theorem execEvictDelta_keeps (g : GroupId) (frame : BitVec 24) (tile : BitVec 5) (record : BitVec 23) (block : BitVec 20) (slot : BitVec 8) {s t : State}
    (e : execEvictDelta g frame tile record block slot s = .next t) : Keeps s t := by
  unfold execEvictDelta at e
  obtain rfl := next_inj e
  repeat' first
    | with_reducible exact Keeps.refl _
    | with_reducible apply State.whenever_keeps
    | with_reducible apply State.takeDelta_keeps

theorem execRecallDelta_keeps (g : GroupId) (frame : BitVec 24) (tile : BitVec 5) (record : BitVec 23) (block : BitVec 20) (slot : BitVec 8) {s t : State}
    (e : execRecallDelta g frame tile record block slot s = .next t) : Keeps s t := by
  unfold execRecallDelta at e
  obtain rfl := next_inj e
  repeat' first
    | with_reducible exact Keeps.refl _
    | with_reducible apply State.whenever_keeps
    | with_reducible apply State.takeDelta_keeps

theorem execCommitDelta_keeps (g : GroupId) {s t : State}
    (e : execCommitDelta g s = .next t) : Keeps s t := by
  unfold execCommitDelta at e
  obtain rfl := next_inj e
  repeat' first
    | with_reducible exact Keeps.refl _
    | with_reducible apply State.whenever_keeps
    | with_reducible apply State.commitGroup_keeps

theorem execGroupAck_keeps (g : GroupId) {s t : State}
    (e : execGroupAck g s = .next t) : Keeps s t := by
  unfold execGroupAck at e
  obtain rfl := next_inj e
  repeat' first
    | with_reducible exact Keeps.refl _
    | with_reducible apply State.whenever_keeps
    | with_reducible apply State.takeGroupAck_keeps

theorem execEvictAck_keeps (frame : BitVec 24) {s t : State}
    (e : execEvictAck frame s = .next t) : Keeps s t := by
  unfold execEvictAck at e
  obtain rfl := next_inj e
  repeat' first
    | with_reducible exact Keeps.refl _
    | with_reducible apply State.whenever_keeps
    | with_reducible apply State.takeEvictAck_keeps

theorem execEvictNak_keeps (frame : BitVec 24) {s t : State}
    (e : execEvictNak frame s = .next t) : Keeps s t := by
  unfold execEvictNak at e
  obtain rfl := next_inj e
  repeat' first
    | with_reducible exact Keeps.refl _
    | with_reducible apply State.whenever_keeps
    | with_reducible apply State.takeEvictNak_keeps

theorem execRefetch_keeps (frame : BitVec 24) {s t : State}
    (e : execRefetch frame s = .next t) : Keeps s t := by
  unfold execRefetch at e
  obtain rfl := next_inj e
  repeat' first
    | with_reducible exact Keeps.refl _
    | with_reducible apply State.whenever_keeps
    | with_reducible apply State.takeRefetch_keeps

theorem execRefetchData_keeps (frame : BitVec 24) (data : List Byte) {s t : State}
    (e : execRefetchData frame data s = .next t) : Keeps s t := by
  unfold execRefetchData at e
  obtain rfl := next_inj e
  repeat' first
    | with_reducible exact Keeps.refl _
    | with_reducible apply State.whenever_keeps
    | with_reducible apply State.takeRefetchData_keeps

theorem execResend_keeps (frame : BitVec 24) {s t : State}
    (e : execResend frame s = .next t) : Keeps s t := by
  unfold execResend at e
  obtain rfl := next_inj e
  repeat' first
    | with_reducible exact Keeps.refl _
    | with_reducible apply State.whenever_keeps
    | with_reducible apply State.takeResend_keeps

theorem execResendData_keeps (frame : BitVec 24) (data : List Byte) {s t : State}
    (e : execResendData frame data s = .next t) : Keeps s t := by
  unfold execResendData at e
  obtain rfl := next_inj e
  repeat' first
    | with_reducible exact Keeps.refl _
    | with_reducible apply State.whenever_keeps
    | with_reducible apply State.takeResendData_keeps

theorem execRepairTestDone_keeps (frame : BitVec 24) (pass : Bool) {s t : State}
    (e : execRepairTestDone frame pass s = .next t) : Keeps s t := by
  unfold execRepairTestDone at e
  obtain rfl := next_inj e
  repeat' first
    | with_reducible exact Keeps.refl _
    | with_reducible apply State.repairEnds_keeps

theorem execEvictBudgetElapsed_keeps (job item : Nat) {s t : State}
    (e : execEvictBudgetElapsed job item s = .next t) : Keeps s t := by
  unfold execEvictBudgetElapsed at e
  obtain rfl := next_inj e
  repeat' first
    | with_reducible exact Keeps.refl _
    | with_reducible apply State.modItem_keeps

/-- RESET_N low leaves the part in OFF, its queue and straps as they were. -/
theorem execResetNLow_off {s t : State} (e : execResetNLow s = .next t) :
    t.part = s.part ∧ t.stepping = s.stepping ∧ t.cfg.fuses = s.cfg.fuses ∧ t.pending = s.pending ∧ t.cfg.mode = .off ∧ t.Bounded := by
  obtain rfl := next_inj e
  exact ⟨rfl, rfl, rfl, rfl, rfl, s.off_bounded _ _⟩

/-- So does the loss of PWR_OK. -/
theorem execPwrOkFall_off {s t : State} (e : execPwrOkFall s = .next t) :
    t.part = s.part ∧ t.stepping = s.stepping ∧ t.cfg.fuses = s.cfg.fuses ∧ t.pending = s.pending ∧ t.cfg.mode = .off ∧ (s.Bounded → t.Bounded) := by
  obtain rfl := next_inj e
  unfold State.powerFails
  dsimp only
  split
  · exact ⟨rfl, rfl, rfl, rfl, ‹_›, id⟩
  · exact ⟨rfl, rfl, rfl, rfl, rfl, fun _ => s.off_bounded s.cfg.resetN false⟩

end Sys2Proof.Machine
end

