-- ==== Sys2Proof/Laws/State.lean ====
section
/-! SUPPORT. What the shared operations of Machine/Ops.lean do to each field of the state: one lemma a field. -/

namespace Sys2Proof.Machine

/-! ### setReg -/

@[simp] theorem State.setReg_part (s : State) (off v : Nat) : (s.setReg off v).part = s.part := rfl
@[simp] theorem State.setReg_stepping (s : State) (off v : Nat) : (s.setReg off v).stepping = s.stepping := rfl
@[simp] theorem State.setReg_cfg (s : State) (off v : Nat) : (s.setReg off v).cfg = s.cfg := rfl
@[simp] theorem State.setReg_seals (s : State) (off v : Nat) : (s.setReg off v).seals = s.seals := rfl
@[simp] theorem State.setReg_lcState (s : State) (off v : Nat) : (s.setReg off v).lcState = s.lcState := rfl
@[simp] theorem State.setReg_wiped (s : State) (off v : Nat) : (s.setReg off v).wiped = s.wiped := rfl
@[simp] theorem State.setReg_tamperSeen (s : State) (off v : Nat) : (s.setReg off v).tamperSeen = s.tamperSeen := rfl
@[simp] theorem State.setReg_wipeCount (s : State) (off v : Nat) : (s.setReg off v).wipeCount = s.wipeCount := rfl
@[simp] theorem State.setReg_errs (s : State) (off v : Nat) : (s.setReg off v).errs = s.errs := rfl
@[simp] theorem State.setReg_host (s : State) (off v : Nat) : (s.setReg off v).host = s.host := rfl
@[simp] theorem State.setReg_sched (s : State) (off v : Nat) : (s.setReg off v).sched = s.sched := rfl
@[simp] theorem State.setReg_store (s : State) (off v : Nat) : (s.setReg off v).store = s.store := rfl
@[simp] theorem State.setReg_cores (s : State) (off v : Nat) : (s.setReg off v).cores = s.cores := rfl
@[simp] theorem State.setReg_twin (s : State) (off v : Nat) : (s.setReg off v).twin = s.twin := rfl
@[simp] theorem State.setReg_health (s : State) (off v : Nat) : (s.setReg off v).health = s.health := rfl
@[simp] theorem State.setReg_test (s : State) (off v : Nat) : (s.setReg off v).test = s.test := rfl
@[simp] theorem State.setReg_pending (s : State) (off v : Nat) : (s.setReg off v).pending = s.pending := rfl

theorem State.setReg_reg_self {s : State} (h : tabOk 0#32 s.regs = true) (off v : Nat) :
    (s.setReg off v).reg off = v % 2 ^ 32 := by
  unfold State.reg State.setReg
  rw [tget_tset_self h, BitVec.toNat_ofNat]

theorem State.setReg_reg_ne {s : State} (h : tabOk 0#32 s.regs = true) {off o : Nat} (v : Nat) (ho : o ≠ off) :
    (s.setReg off v).reg o = s.reg o := by
  unfold State.reg State.setReg
  rw [tget_tset_ne h _ ho]

theorem State.setReg_ok {s : State} (h : tabOk 0#32 s.regs = true) (off v : Nat) : tabOk 0#32 (s.setReg off v).regs = true :=
  tabOk_tset h off _

/-! ### bump -/

@[simp] theorem State.bump_part (s : State) (off n : Nat) : (s.bump off n).part = s.part := rfl
@[simp] theorem State.bump_stepping (s : State) (off n : Nat) : (s.bump off n).stepping = s.stepping := rfl
@[simp] theorem State.bump_cfg (s : State) (off n : Nat) : (s.bump off n).cfg = s.cfg := rfl
@[simp] theorem State.bump_seals (s : State) (off n : Nat) : (s.bump off n).seals = s.seals := rfl
@[simp] theorem State.bump_lcState (s : State) (off n : Nat) : (s.bump off n).lcState = s.lcState := rfl
@[simp] theorem State.bump_wiped (s : State) (off n : Nat) : (s.bump off n).wiped = s.wiped := rfl
@[simp] theorem State.bump_tamperSeen (s : State) (off n : Nat) : (s.bump off n).tamperSeen = s.tamperSeen := rfl
@[simp] theorem State.bump_wipeCount (s : State) (off n : Nat) : (s.bump off n).wipeCount = s.wipeCount := rfl
@[simp] theorem State.bump_errs (s : State) (off n : Nat) : (s.bump off n).errs = s.errs := rfl
@[simp] theorem State.bump_host (s : State) (off n : Nat) : (s.bump off n).host = s.host := rfl
@[simp] theorem State.bump_sched (s : State) (off n : Nat) : (s.bump off n).sched = s.sched := rfl
@[simp] theorem State.bump_store (s : State) (off n : Nat) : (s.bump off n).store = s.store := rfl
@[simp] theorem State.bump_cores (s : State) (off n : Nat) : (s.bump off n).cores = s.cores := rfl
@[simp] theorem State.bump_twin (s : State) (off n : Nat) : (s.bump off n).twin = s.twin := rfl
@[simp] theorem State.bump_health (s : State) (off n : Nat) : (s.bump off n).health = s.health := rfl
@[simp] theorem State.bump_test (s : State) (off n : Nat) : (s.bump off n).test = s.test := rfl
@[simp] theorem State.bump_pending (s : State) (off n : Nat) : (s.bump off n).pending = s.pending := rfl

/-! ### bumpTile -/

@[simp] theorem State.bumpTile_part (s : State) (t w n : Nat) : (s.bumpTile t w n).part = s.part := rfl
@[simp] theorem State.bumpTile_stepping (s : State) (t w n : Nat) : (s.bumpTile t w n).stepping = s.stepping := rfl
@[simp] theorem State.bumpTile_cfg (s : State) (t w n : Nat) : (s.bumpTile t w n).cfg = s.cfg := rfl
@[simp] theorem State.bumpTile_seals (s : State) (t w n : Nat) : (s.bumpTile t w n).seals = s.seals := rfl
@[simp] theorem State.bumpTile_lcState (s : State) (t w n : Nat) : (s.bumpTile t w n).lcState = s.lcState := rfl
@[simp] theorem State.bumpTile_wiped (s : State) (t w n : Nat) : (s.bumpTile t w n).wiped = s.wiped := rfl
@[simp] theorem State.bumpTile_tamperSeen (s : State) (t w n : Nat) : (s.bumpTile t w n).tamperSeen = s.tamperSeen := rfl
@[simp] theorem State.bumpTile_wipeCount (s : State) (t w n : Nat) : (s.bumpTile t w n).wipeCount = s.wipeCount := rfl
@[simp] theorem State.bumpTile_errs (s : State) (t w n : Nat) : (s.bumpTile t w n).errs = s.errs := rfl
@[simp] theorem State.bumpTile_host (s : State) (t w n : Nat) : (s.bumpTile t w n).host = s.host := rfl
@[simp] theorem State.bumpTile_sched (s : State) (t w n : Nat) : (s.bumpTile t w n).sched = s.sched := rfl
@[simp] theorem State.bumpTile_store (s : State) (t w n : Nat) : (s.bumpTile t w n).store = s.store := rfl
@[simp] theorem State.bumpTile_cores (s : State) (t w n : Nat) : (s.bumpTile t w n).cores = s.cores := rfl
@[simp] theorem State.bumpTile_twin (s : State) (t w n : Nat) : (s.bumpTile t w n).twin = s.twin := rfl
@[simp] theorem State.bumpTile_health (s : State) (t w n : Nat) : (s.bumpTile t w n).health = s.health := rfl
@[simp] theorem State.bumpTile_test (s : State) (t w n : Nat) : (s.bumpTile t w n).test = s.test := rfl
@[simp] theorem State.bumpTile_pending (s : State) (t w n : Nat) : (s.bumpTile t w n).pending = s.pending := rfl

/-! ### send -/

@[simp] theorem State.send_part (s : State) (p : Pkt) : (s.send p).part = s.part := rfl
@[simp] theorem State.send_stepping (s : State) (p : Pkt) : (s.send p).stepping = s.stepping := rfl
@[simp] theorem State.send_regs (s : State) (p : Pkt) : (s.send p).regs = s.regs := rfl
@[simp] theorem State.send_cfg (s : State) (p : Pkt) : (s.send p).cfg = s.cfg := rfl
@[simp] theorem State.send_seals (s : State) (p : Pkt) : (s.send p).seals = s.seals := rfl
@[simp] theorem State.send_lcState (s : State) (p : Pkt) : (s.send p).lcState = s.lcState := rfl
@[simp] theorem State.send_wiped (s : State) (p : Pkt) : (s.send p).wiped = s.wiped := rfl
@[simp] theorem State.send_tamperSeen (s : State) (p : Pkt) : (s.send p).tamperSeen = s.tamperSeen := rfl
@[simp] theorem State.send_wipeCount (s : State) (p : Pkt) : (s.send p).wipeCount = s.wipeCount := rfl
@[simp] theorem State.send_errs (s : State) (p : Pkt) : (s.send p).errs = s.errs := rfl
@[simp] theorem State.send_sched (s : State) (p : Pkt) : (s.send p).sched = s.sched := rfl
@[simp] theorem State.send_store (s : State) (p : Pkt) : (s.send p).store = s.store := rfl
@[simp] theorem State.send_cores (s : State) (p : Pkt) : (s.send p).cores = s.cores := rfl
@[simp] theorem State.send_twin (s : State) (p : Pkt) : (s.send p).twin = s.twin := rfl
@[simp] theorem State.send_health (s : State) (p : Pkt) : (s.send p).health = s.health := rfl
@[simp] theorem State.send_test (s : State) (p : Pkt) : (s.send p).test = s.test := rfl
@[simp] theorem State.send_pending (s : State) (p : Pkt) : (s.send p).pending = s.pending := rfl

@[simp] theorem State.send_tx (s : State) (p : Pkt) : (s.send p).host.tx = s.host.tx ++ [p] := rfl

/-! ### answer -/

@[simp] theorem State.answer_part (s : State) (q : Req) (ok : Bool) (v : Nat) : (s.answer q ok v).part = s.part := rfl
@[simp] theorem State.answer_stepping (s : State) (q : Req) (ok : Bool) (v : Nat) : (s.answer q ok v).stepping = s.stepping := rfl
@[simp] theorem State.answer_regs (s : State) (q : Req) (ok : Bool) (v : Nat) : (s.answer q ok v).regs = s.regs := rfl
@[simp] theorem State.answer_cfg (s : State) (q : Req) (ok : Bool) (v : Nat) : (s.answer q ok v).cfg = s.cfg := rfl
@[simp] theorem State.answer_seals (s : State) (q : Req) (ok : Bool) (v : Nat) : (s.answer q ok v).seals = s.seals := rfl
@[simp] theorem State.answer_lcState (s : State) (q : Req) (ok : Bool) (v : Nat) : (s.answer q ok v).lcState = s.lcState := rfl
@[simp] theorem State.answer_wiped (s : State) (q : Req) (ok : Bool) (v : Nat) : (s.answer q ok v).wiped = s.wiped := rfl
@[simp] theorem State.answer_tamperSeen (s : State) (q : Req) (ok : Bool) (v : Nat) : (s.answer q ok v).tamperSeen = s.tamperSeen := rfl
@[simp] theorem State.answer_wipeCount (s : State) (q : Req) (ok : Bool) (v : Nat) : (s.answer q ok v).wipeCount = s.wipeCount := rfl
@[simp] theorem State.answer_errs (s : State) (q : Req) (ok : Bool) (v : Nat) : (s.answer q ok v).errs = s.errs := rfl
@[simp] theorem State.answer_sched (s : State) (q : Req) (ok : Bool) (v : Nat) : (s.answer q ok v).sched = s.sched := rfl
@[simp] theorem State.answer_store (s : State) (q : Req) (ok : Bool) (v : Nat) : (s.answer q ok v).store = s.store := rfl
@[simp] theorem State.answer_cores (s : State) (q : Req) (ok : Bool) (v : Nat) : (s.answer q ok v).cores = s.cores := rfl
@[simp] theorem State.answer_twin (s : State) (q : Req) (ok : Bool) (v : Nat) : (s.answer q ok v).twin = s.twin := rfl
@[simp] theorem State.answer_health (s : State) (q : Req) (ok : Bool) (v : Nat) : (s.answer q ok v).health = s.health := rfl
@[simp] theorem State.answer_test (s : State) (q : Req) (ok : Bool) (v : Nat) : (s.answer q ok v).test = s.test := rfl
@[simp] theorem State.answer_pending (s : State) (q : Req) (ok : Bool) (v : Nat) : (s.answer q ok v).pending = s.pending := rfl

/-! ### report -/

@[simp] theorem State.report_part (s : State) (e : LogEntry) (q : Bool) : (s.report e q).part = s.part := rfl
@[simp] theorem State.report_stepping (s : State) (e : LogEntry) (q : Bool) : (s.report e q).stepping = s.stepping := rfl
@[simp] theorem State.report_cfg (s : State) (e : LogEntry) (q : Bool) : (s.report e q).cfg = s.cfg := rfl
@[simp] theorem State.report_seals (s : State) (e : LogEntry) (q : Bool) : (s.report e q).seals = s.seals := rfl
@[simp] theorem State.report_lcState (s : State) (e : LogEntry) (q : Bool) : (s.report e q).lcState = s.lcState := rfl
@[simp] theorem State.report_wiped (s : State) (e : LogEntry) (q : Bool) : (s.report e q).wiped = s.wiped := rfl
@[simp] theorem State.report_tamperSeen (s : State) (e : LogEntry) (q : Bool) : (s.report e q).tamperSeen = s.tamperSeen := rfl
@[simp] theorem State.report_wipeCount (s : State) (e : LogEntry) (q : Bool) : (s.report e q).wipeCount = s.wipeCount := rfl
@[simp] theorem State.report_host (s : State) (e : LogEntry) (q : Bool) : (s.report e q).host = s.host := rfl
@[simp] theorem State.report_sched (s : State) (e : LogEntry) (q : Bool) : (s.report e q).sched = s.sched := rfl
@[simp] theorem State.report_store (s : State) (e : LogEntry) (q : Bool) : (s.report e q).store = s.store := rfl
@[simp] theorem State.report_cores (s : State) (e : LogEntry) (q : Bool) : (s.report e q).cores = s.cores := rfl
@[simp] theorem State.report_twin (s : State) (e : LogEntry) (q : Bool) : (s.report e q).twin = s.twin := rfl
@[simp] theorem State.report_health (s : State) (e : LogEntry) (q : Bool) : (s.report e q).health = s.health := rfl
@[simp] theorem State.report_test (s : State) (e : LogEntry) (q : Bool) : (s.report e q).test = s.test := rfl
@[simp] theorem State.report_pending (s : State) (e : LogEntry) (q : Bool) : (s.report e q).pending = s.pending := rfl

/-! ### rejected -/

@[simp] theorem State.rejected_part (s : State) (off : Nat) : (s.rejected off).part = s.part := rfl
@[simp] theorem State.rejected_stepping (s : State) (off : Nat) : (s.rejected off).stepping = s.stepping := rfl
@[simp] theorem State.rejected_cfg (s : State) (off : Nat) : (s.rejected off).cfg = s.cfg := rfl
@[simp] theorem State.rejected_seals (s : State) (off : Nat) : (s.rejected off).seals = s.seals := rfl
@[simp] theorem State.rejected_lcState (s : State) (off : Nat) : (s.rejected off).lcState = s.lcState := rfl
@[simp] theorem State.rejected_wiped (s : State) (off : Nat) : (s.rejected off).wiped = s.wiped := rfl
@[simp] theorem State.rejected_tamperSeen (s : State) (off : Nat) : (s.rejected off).tamperSeen = s.tamperSeen := rfl
@[simp] theorem State.rejected_wipeCount (s : State) (off : Nat) : (s.rejected off).wipeCount = s.wipeCount := rfl
@[simp] theorem State.rejected_host (s : State) (off : Nat) : (s.rejected off).host = s.host := rfl
@[simp] theorem State.rejected_sched (s : State) (off : Nat) : (s.rejected off).sched = s.sched := rfl
@[simp] theorem State.rejected_store (s : State) (off : Nat) : (s.rejected off).store = s.store := rfl
@[simp] theorem State.rejected_cores (s : State) (off : Nat) : (s.rejected off).cores = s.cores := rfl
@[simp] theorem State.rejected_twin (s : State) (off : Nat) : (s.rejected off).twin = s.twin := rfl
@[simp] theorem State.rejected_health (s : State) (off : Nat) : (s.rejected off).health = s.health := rfl
@[simp] theorem State.rejected_test (s : State) (off : Nat) : (s.rejected off).test = s.test := rfl
@[simp] theorem State.rejected_pending (s : State) (off : Nat) : (s.rejected off).pending = s.pending := rfl

/-! ### refuse -/

@[simp] theorem State.refuse_part (s : State) (q : Req) (off : Nat) : (s.refuse q off).part = s.part := rfl
@[simp] theorem State.refuse_stepping (s : State) (q : Req) (off : Nat) : (s.refuse q off).stepping = s.stepping := rfl
@[simp] theorem State.refuse_cfg (s : State) (q : Req) (off : Nat) : (s.refuse q off).cfg = s.cfg := rfl
@[simp] theorem State.refuse_seals (s : State) (q : Req) (off : Nat) : (s.refuse q off).seals = s.seals := rfl
@[simp] theorem State.refuse_lcState (s : State) (q : Req) (off : Nat) : (s.refuse q off).lcState = s.lcState := rfl
@[simp] theorem State.refuse_wiped (s : State) (q : Req) (off : Nat) : (s.refuse q off).wiped = s.wiped := rfl
@[simp] theorem State.refuse_tamperSeen (s : State) (q : Req) (off : Nat) : (s.refuse q off).tamperSeen = s.tamperSeen := rfl
@[simp] theorem State.refuse_wipeCount (s : State) (q : Req) (off : Nat) : (s.refuse q off).wipeCount = s.wipeCount := rfl
@[simp] theorem State.refuse_sched (s : State) (q : Req) (off : Nat) : (s.refuse q off).sched = s.sched := rfl
@[simp] theorem State.refuse_store (s : State) (q : Req) (off : Nat) : (s.refuse q off).store = s.store := rfl
@[simp] theorem State.refuse_cores (s : State) (q : Req) (off : Nat) : (s.refuse q off).cores = s.cores := rfl
@[simp] theorem State.refuse_twin (s : State) (q : Req) (off : Nat) : (s.refuse q off).twin = s.twin := rfl
@[simp] theorem State.refuse_health (s : State) (q : Req) (off : Nat) : (s.refuse q off).health = s.health := rfl
@[simp] theorem State.refuse_test (s : State) (q : Req) (off : Nat) : (s.refuse q off).test = s.test := rfl
@[simp] theorem State.refuse_pending (s : State) (q : Req) (off : Nat) : (s.refuse q off).pending = s.pending := rfl

/-! ### tell -/

@[simp] theorem State.tell_part (s : State) (m : TwinMsg) : (s.tell m).part = s.part := by unfold State.tell; split <;> rfl
@[simp] theorem State.tell_stepping (s : State) (m : TwinMsg) : (s.tell m).stepping = s.stepping := by unfold State.tell; split <;> rfl
@[simp] theorem State.tell_regs (s : State) (m : TwinMsg) : (s.tell m).regs = s.regs := by unfold State.tell; split <;> rfl
@[simp] theorem State.tell_cfg (s : State) (m : TwinMsg) : (s.tell m).cfg = s.cfg := by unfold State.tell; split <;> rfl
@[simp] theorem State.tell_seals (s : State) (m : TwinMsg) : (s.tell m).seals = s.seals := by unfold State.tell; split <;> rfl
@[simp] theorem State.tell_lcState (s : State) (m : TwinMsg) : (s.tell m).lcState = s.lcState := by unfold State.tell; split <;> rfl
@[simp] theorem State.tell_wiped (s : State) (m : TwinMsg) : (s.tell m).wiped = s.wiped := by unfold State.tell; split <;> rfl
@[simp] theorem State.tell_tamperSeen (s : State) (m : TwinMsg) : (s.tell m).tamperSeen = s.tamperSeen := by unfold State.tell; split <;> rfl
@[simp] theorem State.tell_wipeCount (s : State) (m : TwinMsg) : (s.tell m).wipeCount = s.wipeCount := by unfold State.tell; split <;> rfl
@[simp] theorem State.tell_errs (s : State) (m : TwinMsg) : (s.tell m).errs = s.errs := by unfold State.tell; split <;> rfl
@[simp] theorem State.tell_host (s : State) (m : TwinMsg) : (s.tell m).host = s.host := by unfold State.tell; split <;> rfl
@[simp] theorem State.tell_sched (s : State) (m : TwinMsg) : (s.tell m).sched = s.sched := by unfold State.tell; split <;> rfl
@[simp] theorem State.tell_store (s : State) (m : TwinMsg) : (s.tell m).store = s.store := by unfold State.tell; split <;> rfl
@[simp] theorem State.tell_cores (s : State) (m : TwinMsg) : (s.tell m).cores = s.cores := by unfold State.tell; split <;> rfl
@[simp] theorem State.tell_health (s : State) (m : TwinMsg) : (s.tell m).health = s.health := by unfold State.tell; split <;> rfl
@[simp] theorem State.tell_test (s : State) (m : TwinMsg) : (s.tell m).test = s.test := by unfold State.tell; split <;> rfl
@[simp] theorem State.tell_pending (s : State) (m : TwinMsg) : (s.tell m).pending = s.pending := by unfold State.tell; split <;> rfl

theorem State.tell_tx (s : State) (m : TwinMsg) (h : s.twin.linkUp = true) : (s.tell m).twin.tx = s.twin.tx ++ [m] := by
  unfold State.tell; rw [if_pos h]

theorem State.tell_down (s : State) (m : TwinMsg) (h : s.twin.linkUp = false) : s.tell m = s := by
  unfold State.tell; rw [h]; rfl

/-! ### halt -/

@[simp] theorem State.halt_part (s : State) (c : Nat) : (s.halt c).part = s.part := by unfold State.halt; split <;> simp
@[simp] theorem State.halt_stepping (s : State) (c : Nat) : (s.halt c).stepping = s.stepping := by unfold State.halt; split <;> simp
@[simp] theorem State.halt_regs (s : State) (c : Nat) : (s.halt c).regs = s.regs := by unfold State.halt; split <;> simp
@[simp] theorem State.halt_seals (s : State) (c : Nat) : (s.halt c).seals = s.seals := by unfold State.halt; split <;> simp
@[simp] theorem State.halt_lcState (s : State) (c : Nat) : (s.halt c).lcState = s.lcState := by unfold State.halt; split <;> simp
@[simp] theorem State.halt_wiped (s : State) (c : Nat) : (s.halt c).wiped = s.wiped := by unfold State.halt; split <;> simp
@[simp] theorem State.halt_tamperSeen (s : State) (c : Nat) : (s.halt c).tamperSeen = s.tamperSeen := by unfold State.halt; split <;> simp
@[simp] theorem State.halt_wipeCount (s : State) (c : Nat) : (s.halt c).wipeCount = s.wipeCount := by unfold State.halt; split <;> simp
@[simp] theorem State.halt_errs (s : State) (c : Nat) : (s.halt c).errs = s.errs := by unfold State.halt; split <;> simp
@[simp] theorem State.halt_host (s : State) (c : Nat) : (s.halt c).host = s.host := by unfold State.halt; split <;> simp
@[simp] theorem State.halt_sched (s : State) (c : Nat) : (s.halt c).sched = s.sched := by unfold State.halt; split <;> simp
@[simp] theorem State.halt_store (s : State) (c : Nat) : (s.halt c).store = s.store := by unfold State.halt; split <;> simp
@[simp] theorem State.halt_cores (s : State) (c : Nat) : (s.halt c).cores = s.cores := by unfold State.halt; split <;> simp
@[simp] theorem State.halt_health (s : State) (c : Nat) : (s.halt c).health = s.health := by unfold State.halt; split <;> simp
@[simp] theorem State.halt_test (s : State) (c : Nat) : (s.halt c).test = s.test := by unfold State.halt; split <;> simp
@[simp] theorem State.halt_pending (s : State) (c : Nat) : (s.halt c).pending = s.pending := by unfold State.halt; split <;> simp

/-! ### block -/

@[simp] theorem State.block_part (s : State) (e : LogEntry) (c : Nat) : (s.block e c).part = s.part := by simp [State.block]
@[simp] theorem State.block_stepping (s : State) (e : LogEntry) (c : Nat) : (s.block e c).stepping = s.stepping := by simp [State.block]
@[simp] theorem State.block_seals (s : State) (e : LogEntry) (c : Nat) : (s.block e c).seals = s.seals := by simp [State.block]
@[simp] theorem State.block_lcState (s : State) (e : LogEntry) (c : Nat) : (s.block e c).lcState = s.lcState := by simp [State.block]
@[simp] theorem State.block_wiped (s : State) (e : LogEntry) (c : Nat) : (s.block e c).wiped = s.wiped := by simp [State.block]
@[simp] theorem State.block_tamperSeen (s : State) (e : LogEntry) (c : Nat) : (s.block e c).tamperSeen = s.tamperSeen := by simp [State.block]
@[simp] theorem State.block_wipeCount (s : State) (e : LogEntry) (c : Nat) : (s.block e c).wipeCount = s.wipeCount := by simp [State.block]
@[simp] theorem State.block_host (s : State) (e : LogEntry) (c : Nat) : (s.block e c).host = s.host := by simp [State.block]
@[simp] theorem State.block_sched (s : State) (e : LogEntry) (c : Nat) : (s.block e c).sched = s.sched := by simp [State.block]
@[simp] theorem State.block_store (s : State) (e : LogEntry) (c : Nat) : (s.block e c).store = s.store := by simp [State.block]
@[simp] theorem State.block_cores (s : State) (e : LogEntry) (c : Nat) : (s.block e c).cores = s.cores := by simp [State.block]
@[simp] theorem State.block_health (s : State) (e : LogEntry) (c : Nat) : (s.block e c).health = s.health := by simp [State.block]
@[simp] theorem State.block_test (s : State) (e : LogEntry) (c : Nat) : (s.block e c).test = s.test := by simp [State.block]
@[simp] theorem State.block_pending (s : State) (e : LogEntry) (c : Nat) : (s.block e c).pending = s.pending := by simp [State.block]

/-! ### tick -/

@[simp] theorem State.tick_part (s : State) : (s.tick).part = s.part := by unfold State.tick; dsimp only; split <;> (try split) <;> rfl
@[simp] theorem State.tick_stepping (s : State) : (s.tick).stepping = s.stepping := by unfold State.tick; dsimp only; split <;> (try split) <;> rfl
@[simp] theorem State.tick_regs (s : State) : (s.tick).regs = s.regs := by unfold State.tick; dsimp only; split <;> (try split) <;> rfl
@[simp] theorem State.tick_cfg (s : State) : (s.tick).cfg = s.cfg := by unfold State.tick; dsimp only; split <;> (try split) <;> rfl
@[simp] theorem State.tick_seals (s : State) : (s.tick).seals = s.seals := by unfold State.tick; dsimp only; split <;> (try split) <;> rfl
@[simp] theorem State.tick_lcState (s : State) : (s.tick).lcState = s.lcState := by unfold State.tick; dsimp only; split <;> (try split) <;> rfl
@[simp] theorem State.tick_wiped (s : State) : (s.tick).wiped = s.wiped := by unfold State.tick; dsimp only; split <;> (try split) <;> rfl
@[simp] theorem State.tick_tamperSeen (s : State) : (s.tick).tamperSeen = s.tamperSeen := by unfold State.tick; dsimp only; split <;> (try split) <;> rfl
@[simp] theorem State.tick_wipeCount (s : State) : (s.tick).wipeCount = s.wipeCount := by unfold State.tick; dsimp only; split <;> (try split) <;> rfl
@[simp] theorem State.tick_errs (s : State) : (s.tick).errs = s.errs := by unfold State.tick; dsimp only; split <;> (try split) <;> rfl
@[simp] theorem State.tick_host (s : State) : (s.tick).host = s.host := by unfold State.tick; dsimp only; split <;> (try split) <;> rfl
@[simp] theorem State.tick_sched (s : State) : (s.tick).sched = s.sched := by unfold State.tick; dsimp only; split <;> (try split) <;> rfl
@[simp] theorem State.tick_store (s : State) : (s.tick).store = s.store := by unfold State.tick; dsimp only; split <;> (try split) <;> rfl
@[simp] theorem State.tick_cores (s : State) : (s.tick).cores = s.cores := by unfold State.tick; dsimp only; split <;> (try split) <;> rfl
@[simp] theorem State.tick_twin (s : State) : (s.tick).twin = s.twin := by unfold State.tick; dsimp only; split <;> (try split) <;> rfl
@[simp] theorem State.tick_test (s : State) : (s.tick).test = s.test := by unfold State.tick; dsimp only; split <;> (try split) <;> rfl
@[simp] theorem State.tick_pending (s : State) : (s.tick).pending = s.pending := by unfold State.tick; dsimp only; split <;> (try split) <;> rfl

/-- HALTED is entered from every state but OFF (14 R386). -/
theorem State.halt_mode (s : State) (c : Nat) (h : s.cfg.mode ≠ .off) : (s.halt c).cfg.mode = .halted := by
  unfold State.halt
  split
  · rename_i e
    exact e.resolve_left h
  · simp

@[simp] theorem State.whenever_true (s t : State) : s.whenever true t = t := rfl
@[simp] theorem State.whenever_false (s t : State) : s.whenever false t = s := rfl

/-- A command of a tile that the configuration has goes on. -/
theorem onTile_of_hasTile {s t : State} {n : Nat} (h : s.hasTile n = true) : onTile s n t = .next t := by
  unfold onTile; rw [if_pos h]

/-- A command of a tile that the configuration lacks stops. -/
theorem onTile_of_not_hasTile {s t : State} {n : Nat} (h : s.hasTile n = false) : onTile s n t = .fault .noSuchTile := by
  unfold onTile; rw [h]; rfl

end Sys2Proof.Machine
end

