-- ==== Sys2Proof/Laws/Mgt.lean ====
section
/-! SUPPORT. Management writes: which path a write takes, and what plain registers do. -/

namespace Sys2Proof.Machine

open Sys2Proof.Safety

/-- A host write that every check lets through: its effect, and the answer OK. -/
theorem State.hostWrite_taken {s : State} {q : Req} {off v : Nat} {n : List Byte} {fs : List Fld} (ha : Arrives s q)
    (hc : s.checkWrite off v = .take fs) (h1 : pairLow off = false) (h2 : pairHigh off = false) (h3 : s.writeBarred off v = false) :
    s.hostWrite q off v n = (s.takeWrite fs off v n).answer q true 0 := by
  obtain ⟨-, a2, a3⟩ := ha
  unfold State.hostWrite State.mgtWrite
  rw [if_neg a2, a3, hc, h1, h2, h3]; rfl

/-- A host write that its register refuses. -/
theorem State.hostWrite_barred {s : State} {q : Req} {off v : Nat} {n : List Byte} {fs : List Fld} (ha : Arrives s q)
    (hc : s.checkWrite off v = .take fs) (h1 : pairLow off = false) (h2 : pairHigh off = false) (h3 : s.writeBarred off v = true) :
    s.hostWrite q off v n = s.refuse q off := by
  obtain ⟨-, a2, a3⟩ := ha
  unfold State.hostWrite State.mgtWrite
  rw [if_neg a2, a3, hc, h1, h2, h3]; rfl

/-- A host write that the common checks refuse. -/
theorem State.hostWrite_refused {s : State} {q : Req} {off v : Nat} {n : List Byte} (ha : Arrives s q)
    (hc : s.checkWrite off v = .refused) : s.hostWrite q off v n = s.refuse q off := by
  obtain ⟨-, a2, a3⟩ := ha
  unfold State.hostWrite State.mgtWrite
  rw [if_neg a2, a3, hc]; rfl

/-- A write of a command that names its register. -/
theorem State.writeFrom_arrives {s : State} {q : Req} {off v : Nat} (ha : Arrives s q) : s.writeFrom q off v = .next (s.hostWrite q off v []) :=
  onTile_of_hasTile ha.1

/-- The common checks let a write of an occupied register through where management writes are taken. -/
theorem State.checkWrite_managed {s : State} (hm : Managed s) {off v : Nat} {fs : List Fld} (h : s.fields off = some fs) (h1 : off % 4 = 0)
    (h2 : off < 0x40000) (h3 : fs.any (fun f => f.reserved v) = false) : s.checkWrite off v = .take fs := by
  unfold State.checkWrite
  rw [if_neg (by omega)]
  have : s.writeRefused off = false := by
    unfold State.writeRefused
    rcases hm with h | h | h | h | h <;> rw [h]
  rw [this, h]
  simp [h3]

/-- The bits of a word. -/
theorem bits_word (n : Nat) (h : n < 2 ^ 32) : (bits n 31 0) = n := by
  unfold bits; simp; omega

/-- A field that is the whole word takes the word written. -/
theorem put_whole {a : AccT} {old v : Nat} (h : old < 2 ^ 32) (h2 : v < 2 ^ 32) : (Fld.put ⟨31, 0, a, []⟩ old v) = v := by
  unfold Fld.put Fld.get
  simp only [bits_word _ h, bits_word _ h2]
  omega

/-- A register holds a word. -/
theorem State.reg_lt (s : State) (o : Nat) : s.reg o < 2 ^ 32 := BitVec.isLt _

/-- A write of a whole RW register that is not LIVE. -/
theorem State.writeReg_rw {s : State} {off v : Nat} (h : v < 2 ^ 32) (hl : liveRegs.contains off = false) :
    s.writeReg (whole .rw) off v = { s with regs := tset 0#32 s.regs off (BitVec.ofNat 32 v) } := by
  unfold State.writeReg
  dsimp only
  rw [hl]
  simp only [Bool.and_false, Bool.false_eq_true, if_false]
  unfold State.applyWrite whole
  simp only [List.foldl_cons, List.foldl_nil, applyField, put_whole (State.reg_lt s off) h]
  simp

/-- A write of a counter clears it. -/
theorem State.writeReg_cnt {s : State} {off v : Nat} (hl : liveRegs.contains off = false) :
    s.writeReg (whole .cnt) off v = { s with regs := tset 0#32 s.regs off 0#32 } := by
  unfold State.writeReg
  dsimp only
  rw [hl]
  simp only [Bool.and_false, Bool.false_eq_true, if_false]
  unfold State.applyWrite whole
  simp only [List.foldl_cons, List.foldl_nil, applyField]
  simp

/-- A write of an RO register changes nothing. -/
theorem State.writeReg_ro {s : State} (hb : Bounded s) {off v : Nat} (hl : liveRegs.contains off = false) :
    s.writeReg (whole .ro) off v = s := by
  unfold State.writeReg
  dsimp only
  rw [hl]
  simp only [Bool.and_false, Bool.false_eq_true, if_false]
  unfold State.applyWrite whole
  simp only [List.foldl_cons, List.foldl_nil, applyField]
  have : BitVec.ofNat 32 (s.reg off) = tget 0#32 s.regs off := by unfold State.reg; simp
  rw [this, tset_tget hb.2]
  simp

/-- Where a ring register stands. -/
theorem ringReg_fields {s : State} {r o : Nat} (h : r < s.part.rings) (ho : o < 0x40) (h4 : o % 4 = 0) :
    s.fields (ringReg r o) = ringFields o ∧ ringReg r o % 4 = 0 ∧ 0x2000 ≤ ringReg r o ∧ ringReg r o < 0x3000 ∧ ringReg r o % 64 = o ∧ (ringReg r o - 0x2000) / 64 = r := by
  have hr : r < 64 := lt_of_lt_of_le h (by cases hp : s.part <;> simp [Part.rings])
  have e : ringReg r o = 0x2000 + 64 * r + o := by unfold ringReg; omega
  have e1 : ringReg r o % 4 = 0 := by omega
  have e2 : (ringReg r o - 0x2000) / 64 = r := by omega
  refine ⟨?_, e1, by omega, by omega, by omega, e2⟩
  unfold State.fields
  rw [if_neg (by omega), if_neg (by omega), if_neg (by omega), if_pos (by omega), e2, if_pos h]
  congr 1; omega

/-- TAIL, CPL_HEAD and CTL are neither LIVE nor part of a pair. -/
theorem ringReg_plain {r o : Nat} (hr : r < 64) (ho : o < 0x40) (ho2 : o = 0x0C ∨ o = 0x20 ∨ o = 8) :
    liveRegs.contains (ringReg r o) = false ∧ pairLow (ringReg r o) = false ∧ pairHigh (ringReg r o) = false := by
  have e : ringReg r o = 0x2000 + 64 * r + o := by unfold ringReg; omega
  refine ⟨?_, ?_, ?_⟩
  · simp [liveRegs]; omega
  · simp [pairLow]; omega
  · simp [pairHigh, pairLow]; omega

/-- What a ring register refuses. -/
theorem State.writeBarred_ring {s : State} {r o v : Nat} (hr : r < 64) (ho : o = 0x0C ∨ o = 0x20 ∨ o = 8) :
    s.writeBarred (ringReg r o) v = s.ringBarred r o v := by
  have e : ringReg r o = 0x2000 + 64 * r + o := by unfold ringReg; omega
  have e2 : (ringReg r o - 0x2000) / 64 = r := by omega
  have e3 : ringReg r o % 64 = o := by omega
  unfold State.writeBarred
  rw [if_pos (by omega), e2, e3]

/-- TAIL and CPL_HEAD are plain registers. -/
theorem State.takeWrite_ring {s : State} {r o v : Nat} {n : List Byte} {fs : List Fld} (hr : r < 64) (ho : o = 0x0C ∨ o = 0x20) :
    s.takeWrite fs (ringReg r o) v n = s.writeReg fs (ringReg r o) v := by
  have e : ringReg r o = 0x2000 + 64 * r + o := by unfold ringReg; omega
  unfold State.takeWrite
  rw [if_pos (by omega), if_neg (by omega)]

end Sys2Proof.Machine
end

