-- ==== Sys2Proof/Laws/Setters.lean ====
section
/-! SUPPORT. What the writers of frames, rows, map entries, nodes, jobs, items, windows and tables do to each field of the state: one
lemma a field. -/

namespace Sys2Proof.Machine

/-! ### setFrame -/

@[simp] theorem State.setFrame_part (s : State) (f : Nat) (x : Frame) : (s.setFrame f x).part = s.part := rfl
@[simp] theorem State.setFrame_stepping (s : State) (f : Nat) (x : Frame) : (s.setFrame f x).stepping = s.stepping := rfl
@[simp] theorem State.setFrame_regs (s : State) (f : Nat) (x : Frame) : (s.setFrame f x).regs = s.regs := rfl
@[simp] theorem State.setFrame_cfg (s : State) (f : Nat) (x : Frame) : (s.setFrame f x).cfg = s.cfg := rfl
@[simp] theorem State.setFrame_seals (s : State) (f : Nat) (x : Frame) : (s.setFrame f x).seals = s.seals := rfl
@[simp] theorem State.setFrame_lcState (s : State) (f : Nat) (x : Frame) : (s.setFrame f x).lcState = s.lcState := rfl
@[simp] theorem State.setFrame_wiped (s : State) (f : Nat) (x : Frame) : (s.setFrame f x).wiped = s.wiped := rfl
@[simp] theorem State.setFrame_tamperSeen (s : State) (f : Nat) (x : Frame) : (s.setFrame f x).tamperSeen = s.tamperSeen := rfl
@[simp] theorem State.setFrame_wipeCount (s : State) (f : Nat) (x : Frame) : (s.setFrame f x).wipeCount = s.wipeCount := rfl
@[simp] theorem State.setFrame_errs (s : State) (f : Nat) (x : Frame) : (s.setFrame f x).errs = s.errs := rfl
@[simp] theorem State.setFrame_host (s : State) (f : Nat) (x : Frame) : (s.setFrame f x).host = s.host := rfl
@[simp] theorem State.setFrame_sched (s : State) (f : Nat) (x : Frame) : (s.setFrame f x).sched = s.sched := rfl
@[simp] theorem State.setFrame_cores (s : State) (f : Nat) (x : Frame) : (s.setFrame f x).cores = s.cores := rfl
@[simp] theorem State.setFrame_twin (s : State) (f : Nat) (x : Frame) : (s.setFrame f x).twin = s.twin := rfl
@[simp] theorem State.setFrame_health (s : State) (f : Nat) (x : Frame) : (s.setFrame f x).health = s.health := rfl
@[simp] theorem State.setFrame_test (s : State) (f : Nat) (x : Frame) : (s.setFrame f x).test = s.test := rfl
@[simp] theorem State.setFrame_pending (s : State) (f : Nat) (x : Frame) : (s.setFrame f x).pending = s.pending := rfl

/-! ### setSpd -/

@[simp] theorem State.setSpd_part (s : State) (c q o : Nat) (w : Word) : (s.setSpd c q o w).part = s.part := rfl
@[simp] theorem State.setSpd_stepping (s : State) (c q o : Nat) (w : Word) : (s.setSpd c q o w).stepping = s.stepping := rfl
@[simp] theorem State.setSpd_regs (s : State) (c q o : Nat) (w : Word) : (s.setSpd c q o w).regs = s.regs := rfl
@[simp] theorem State.setSpd_cfg (s : State) (c q o : Nat) (w : Word) : (s.setSpd c q o w).cfg = s.cfg := rfl
@[simp] theorem State.setSpd_seals (s : State) (c q o : Nat) (w : Word) : (s.setSpd c q o w).seals = s.seals := rfl
@[simp] theorem State.setSpd_lcState (s : State) (c q o : Nat) (w : Word) : (s.setSpd c q o w).lcState = s.lcState := rfl
@[simp] theorem State.setSpd_wiped (s : State) (c q o : Nat) (w : Word) : (s.setSpd c q o w).wiped = s.wiped := rfl
@[simp] theorem State.setSpd_tamperSeen (s : State) (c q o : Nat) (w : Word) : (s.setSpd c q o w).tamperSeen = s.tamperSeen := rfl
@[simp] theorem State.setSpd_wipeCount (s : State) (c q o : Nat) (w : Word) : (s.setSpd c q o w).wipeCount = s.wipeCount := rfl
@[simp] theorem State.setSpd_errs (s : State) (c q o : Nat) (w : Word) : (s.setSpd c q o w).errs = s.errs := rfl
@[simp] theorem State.setSpd_host (s : State) (c q o : Nat) (w : Word) : (s.setSpd c q o w).host = s.host := rfl
@[simp] theorem State.setSpd_sched (s : State) (c q o : Nat) (w : Word) : (s.setSpd c q o w).sched = s.sched := rfl
@[simp] theorem State.setSpd_store (s : State) (c q o : Nat) (w : Word) : (s.setSpd c q o w).store = s.store := rfl
@[simp] theorem State.setSpd_twin (s : State) (c q o : Nat) (w : Word) : (s.setSpd c q o w).twin = s.twin := rfl
@[simp] theorem State.setSpd_health (s : State) (c q o : Nat) (w : Word) : (s.setSpd c q o w).health = s.health := rfl
@[simp] theorem State.setSpd_test (s : State) (c q o : Nat) (w : Word) : (s.setSpd c q o w).test = s.test := rfl
@[simp] theorem State.setSpd_pending (s : State) (c q o : Nat) (w : Word) : (s.setSpd c q o w).pending = s.pending := rfl

/-! ### setWide -/

@[simp] theorem State.setWide_part (s : State) (t i : Nat) (w : DWord) : (s.setWide t i w).part = s.part := rfl
@[simp] theorem State.setWide_stepping (s : State) (t i : Nat) (w : DWord) : (s.setWide t i w).stepping = s.stepping := rfl
@[simp] theorem State.setWide_regs (s : State) (t i : Nat) (w : DWord) : (s.setWide t i w).regs = s.regs := rfl
@[simp] theorem State.setWide_cfg (s : State) (t i : Nat) (w : DWord) : (s.setWide t i w).cfg = s.cfg := rfl
@[simp] theorem State.setWide_seals (s : State) (t i : Nat) (w : DWord) : (s.setWide t i w).seals = s.seals := rfl
@[simp] theorem State.setWide_lcState (s : State) (t i : Nat) (w : DWord) : (s.setWide t i w).lcState = s.lcState := rfl
@[simp] theorem State.setWide_wiped (s : State) (t i : Nat) (w : DWord) : (s.setWide t i w).wiped = s.wiped := rfl
@[simp] theorem State.setWide_tamperSeen (s : State) (t i : Nat) (w : DWord) : (s.setWide t i w).tamperSeen = s.tamperSeen := rfl
@[simp] theorem State.setWide_wipeCount (s : State) (t i : Nat) (w : DWord) : (s.setWide t i w).wipeCount = s.wipeCount := rfl
@[simp] theorem State.setWide_errs (s : State) (t i : Nat) (w : DWord) : (s.setWide t i w).errs = s.errs := rfl
@[simp] theorem State.setWide_host (s : State) (t i : Nat) (w : DWord) : (s.setWide t i w).host = s.host := rfl
@[simp] theorem State.setWide_sched (s : State) (t i : Nat) (w : DWord) : (s.setWide t i w).sched = s.sched := rfl
@[simp] theorem State.setWide_cores (s : State) (t i : Nat) (w : DWord) : (s.setWide t i w).cores = s.cores := rfl
@[simp] theorem State.setWide_twin (s : State) (t i : Nat) (w : DWord) : (s.setWide t i w).twin = s.twin := rfl
@[simp] theorem State.setWide_health (s : State) (t i : Nat) (w : DWord) : (s.setWide t i w).health = s.health := rfl
@[simp] theorem State.setWide_test (s : State) (t i : Nat) (w : DWord) : (s.setWide t i w).test = s.test := rfl
@[simp] theorem State.setWide_pending (s : State) (t i : Nat) (w : DWord) : (s.setWide t i w).pending = s.pending := rfl

/-! ### setRow -/

@[simp] theorem State.setRow_part (s : State) (r : Nat) (x : CtxRow) : (s.setRow r x).part = s.part := rfl
@[simp] theorem State.setRow_stepping (s : State) (r : Nat) (x : CtxRow) : (s.setRow r x).stepping = s.stepping := rfl
@[simp] theorem State.setRow_regs (s : State) (r : Nat) (x : CtxRow) : (s.setRow r x).regs = s.regs := rfl
@[simp] theorem State.setRow_cfg (s : State) (r : Nat) (x : CtxRow) : (s.setRow r x).cfg = s.cfg := rfl
@[simp] theorem State.setRow_seals (s : State) (r : Nat) (x : CtxRow) : (s.setRow r x).seals = s.seals := rfl
@[simp] theorem State.setRow_lcState (s : State) (r : Nat) (x : CtxRow) : (s.setRow r x).lcState = s.lcState := rfl
@[simp] theorem State.setRow_wiped (s : State) (r : Nat) (x : CtxRow) : (s.setRow r x).wiped = s.wiped := rfl
@[simp] theorem State.setRow_tamperSeen (s : State) (r : Nat) (x : CtxRow) : (s.setRow r x).tamperSeen = s.tamperSeen := rfl
@[simp] theorem State.setRow_wipeCount (s : State) (r : Nat) (x : CtxRow) : (s.setRow r x).wipeCount = s.wipeCount := rfl
@[simp] theorem State.setRow_errs (s : State) (r : Nat) (x : CtxRow) : (s.setRow r x).errs = s.errs := rfl
@[simp] theorem State.setRow_host (s : State) (r : Nat) (x : CtxRow) : (s.setRow r x).host = s.host := rfl
@[simp] theorem State.setRow_sched (s : State) (r : Nat) (x : CtxRow) : (s.setRow r x).sched = s.sched := rfl
@[simp] theorem State.setRow_cores (s : State) (r : Nat) (x : CtxRow) : (s.setRow r x).cores = s.cores := rfl
@[simp] theorem State.setRow_twin (s : State) (r : Nat) (x : CtxRow) : (s.setRow r x).twin = s.twin := rfl
@[simp] theorem State.setRow_health (s : State) (r : Nat) (x : CtxRow) : (s.setRow r x).health = s.health := rfl
@[simp] theorem State.setRow_test (s : State) (r : Nat) (x : CtxRow) : (s.setRow r x).test = s.test := rfl
@[simp] theorem State.setRow_pending (s : State) (r : Nat) (x : CtxRow) : (s.setRow r x).pending = s.pending := rfl

/-! ### setDir -/

@[simp] theorem State.setDir_part (s : State) (r st : Nat) (d : DirEntry) : (s.setDir r st d).part = s.part := rfl
@[simp] theorem State.setDir_stepping (s : State) (r st : Nat) (d : DirEntry) : (s.setDir r st d).stepping = s.stepping := rfl
@[simp] theorem State.setDir_regs (s : State) (r st : Nat) (d : DirEntry) : (s.setDir r st d).regs = s.regs := rfl
@[simp] theorem State.setDir_cfg (s : State) (r st : Nat) (d : DirEntry) : (s.setDir r st d).cfg = s.cfg := rfl
@[simp] theorem State.setDir_seals (s : State) (r st : Nat) (d : DirEntry) : (s.setDir r st d).seals = s.seals := rfl
@[simp] theorem State.setDir_lcState (s : State) (r st : Nat) (d : DirEntry) : (s.setDir r st d).lcState = s.lcState := rfl
@[simp] theorem State.setDir_wiped (s : State) (r st : Nat) (d : DirEntry) : (s.setDir r st d).wiped = s.wiped := rfl
@[simp] theorem State.setDir_tamperSeen (s : State) (r st : Nat) (d : DirEntry) : (s.setDir r st d).tamperSeen = s.tamperSeen := rfl
@[simp] theorem State.setDir_wipeCount (s : State) (r st : Nat) (d : DirEntry) : (s.setDir r st d).wipeCount = s.wipeCount := rfl
@[simp] theorem State.setDir_errs (s : State) (r st : Nat) (d : DirEntry) : (s.setDir r st d).errs = s.errs := rfl
@[simp] theorem State.setDir_host (s : State) (r st : Nat) (d : DirEntry) : (s.setDir r st d).host = s.host := rfl
@[simp] theorem State.setDir_sched (s : State) (r st : Nat) (d : DirEntry) : (s.setDir r st d).sched = s.sched := rfl
@[simp] theorem State.setDir_cores (s : State) (r st : Nat) (d : DirEntry) : (s.setDir r st d).cores = s.cores := rfl
@[simp] theorem State.setDir_twin (s : State) (r st : Nat) (d : DirEntry) : (s.setDir r st d).twin = s.twin := rfl
@[simp] theorem State.setDir_health (s : State) (r st : Nat) (d : DirEntry) : (s.setDir r st d).health = s.health := rfl
@[simp] theorem State.setDir_test (s : State) (r st : Nat) (d : DirEntry) : (s.setDir r st d).test = s.test := rfl
@[simp] theorem State.setDir_pending (s : State) (r st : Nat) (d : DirEntry) : (s.setDir r st d).pending = s.pending := rfl

/-! ### setMapAt -/

@[simp] theorem State.setMapAt_part (s : State) (k : Nat) (e : MapEntry) : (s.setMapAt k e).part = s.part := rfl
@[simp] theorem State.setMapAt_stepping (s : State) (k : Nat) (e : MapEntry) : (s.setMapAt k e).stepping = s.stepping := rfl
@[simp] theorem State.setMapAt_regs (s : State) (k : Nat) (e : MapEntry) : (s.setMapAt k e).regs = s.regs := rfl
@[simp] theorem State.setMapAt_cfg (s : State) (k : Nat) (e : MapEntry) : (s.setMapAt k e).cfg = s.cfg := rfl
@[simp] theorem State.setMapAt_seals (s : State) (k : Nat) (e : MapEntry) : (s.setMapAt k e).seals = s.seals := rfl
@[simp] theorem State.setMapAt_lcState (s : State) (k : Nat) (e : MapEntry) : (s.setMapAt k e).lcState = s.lcState := rfl
@[simp] theorem State.setMapAt_wiped (s : State) (k : Nat) (e : MapEntry) : (s.setMapAt k e).wiped = s.wiped := rfl
@[simp] theorem State.setMapAt_tamperSeen (s : State) (k : Nat) (e : MapEntry) : (s.setMapAt k e).tamperSeen = s.tamperSeen := rfl
@[simp] theorem State.setMapAt_wipeCount (s : State) (k : Nat) (e : MapEntry) : (s.setMapAt k e).wipeCount = s.wipeCount := rfl
@[simp] theorem State.setMapAt_errs (s : State) (k : Nat) (e : MapEntry) : (s.setMapAt k e).errs = s.errs := rfl
@[simp] theorem State.setMapAt_host (s : State) (k : Nat) (e : MapEntry) : (s.setMapAt k e).host = s.host := rfl
@[simp] theorem State.setMapAt_sched (s : State) (k : Nat) (e : MapEntry) : (s.setMapAt k e).sched = s.sched := rfl
@[simp] theorem State.setMapAt_cores (s : State) (k : Nat) (e : MapEntry) : (s.setMapAt k e).cores = s.cores := rfl
@[simp] theorem State.setMapAt_twin (s : State) (k : Nat) (e : MapEntry) : (s.setMapAt k e).twin = s.twin := rfl
@[simp] theorem State.setMapAt_health (s : State) (k : Nat) (e : MapEntry) : (s.setMapAt k e).health = s.health := rfl
@[simp] theorem State.setMapAt_test (s : State) (k : Nat) (e : MapEntry) : (s.setMapAt k e).test = s.test := rfl
@[simp] theorem State.setMapAt_pending (s : State) (k : Nat) (e : MapEntry) : (s.setMapAt k e).pending = s.pending := rfl

/-! ### setNode -/

@[simp] theorem State.setNode_part (s : State) (n : Nat) (x : Node) : (s.setNode n x).part = s.part := rfl
@[simp] theorem State.setNode_stepping (s : State) (n : Nat) (x : Node) : (s.setNode n x).stepping = s.stepping := rfl
@[simp] theorem State.setNode_regs (s : State) (n : Nat) (x : Node) : (s.setNode n x).regs = s.regs := rfl
@[simp] theorem State.setNode_cfg (s : State) (n : Nat) (x : Node) : (s.setNode n x).cfg = s.cfg := rfl
@[simp] theorem State.setNode_seals (s : State) (n : Nat) (x : Node) : (s.setNode n x).seals = s.seals := rfl
@[simp] theorem State.setNode_lcState (s : State) (n : Nat) (x : Node) : (s.setNode n x).lcState = s.lcState := rfl
@[simp] theorem State.setNode_wiped (s : State) (n : Nat) (x : Node) : (s.setNode n x).wiped = s.wiped := rfl
@[simp] theorem State.setNode_tamperSeen (s : State) (n : Nat) (x : Node) : (s.setNode n x).tamperSeen = s.tamperSeen := rfl
@[simp] theorem State.setNode_wipeCount (s : State) (n : Nat) (x : Node) : (s.setNode n x).wipeCount = s.wipeCount := rfl
@[simp] theorem State.setNode_errs (s : State) (n : Nat) (x : Node) : (s.setNode n x).errs = s.errs := rfl
@[simp] theorem State.setNode_host (s : State) (n : Nat) (x : Node) : (s.setNode n x).host = s.host := rfl
@[simp] theorem State.setNode_sched (s : State) (n : Nat) (x : Node) : (s.setNode n x).sched = s.sched := rfl
@[simp] theorem State.setNode_cores (s : State) (n : Nat) (x : Node) : (s.setNode n x).cores = s.cores := rfl
@[simp] theorem State.setNode_twin (s : State) (n : Nat) (x : Node) : (s.setNode n x).twin = s.twin := rfl
@[simp] theorem State.setNode_health (s : State) (n : Nat) (x : Node) : (s.setNode n x).health = s.health := rfl
@[simp] theorem State.setNode_test (s : State) (n : Nat) (x : Node) : (s.setNode n x).test = s.test := rfl
@[simp] theorem State.setNode_pending (s : State) (n : Nat) (x : Node) : (s.setNode n x).pending = s.pending := rfl

/-! ### setSlot -/

@[simp] theorem State.setSlot_part (s : State) (n : Nat) (x : ParkSlot) : (s.setSlot n x).part = s.part := rfl
@[simp] theorem State.setSlot_stepping (s : State) (n : Nat) (x : ParkSlot) : (s.setSlot n x).stepping = s.stepping := rfl
@[simp] theorem State.setSlot_regs (s : State) (n : Nat) (x : ParkSlot) : (s.setSlot n x).regs = s.regs := rfl
@[simp] theorem State.setSlot_cfg (s : State) (n : Nat) (x : ParkSlot) : (s.setSlot n x).cfg = s.cfg := rfl
@[simp] theorem State.setSlot_seals (s : State) (n : Nat) (x : ParkSlot) : (s.setSlot n x).seals = s.seals := rfl
@[simp] theorem State.setSlot_lcState (s : State) (n : Nat) (x : ParkSlot) : (s.setSlot n x).lcState = s.lcState := rfl
@[simp] theorem State.setSlot_wiped (s : State) (n : Nat) (x : ParkSlot) : (s.setSlot n x).wiped = s.wiped := rfl
@[simp] theorem State.setSlot_tamperSeen (s : State) (n : Nat) (x : ParkSlot) : (s.setSlot n x).tamperSeen = s.tamperSeen := rfl
@[simp] theorem State.setSlot_wipeCount (s : State) (n : Nat) (x : ParkSlot) : (s.setSlot n x).wipeCount = s.wipeCount := rfl
@[simp] theorem State.setSlot_errs (s : State) (n : Nat) (x : ParkSlot) : (s.setSlot n x).errs = s.errs := rfl
@[simp] theorem State.setSlot_host (s : State) (n : Nat) (x : ParkSlot) : (s.setSlot n x).host = s.host := rfl
@[simp] theorem State.setSlot_sched (s : State) (n : Nat) (x : ParkSlot) : (s.setSlot n x).sched = s.sched := rfl
@[simp] theorem State.setSlot_cores (s : State) (n : Nat) (x : ParkSlot) : (s.setSlot n x).cores = s.cores := rfl
@[simp] theorem State.setSlot_twin (s : State) (n : Nat) (x : ParkSlot) : (s.setSlot n x).twin = s.twin := rfl
@[simp] theorem State.setSlot_health (s : State) (n : Nat) (x : ParkSlot) : (s.setSlot n x).health = s.health := rfl
@[simp] theorem State.setSlot_test (s : State) (n : Nat) (x : ParkSlot) : (s.setSlot n x).test = s.test := rfl
@[simp] theorem State.setSlot_pending (s : State) (n : Nat) (x : ParkSlot) : (s.setSlot n x).pending = s.pending := rfl

/-! ### modJob -/

@[simp] theorem State.modJob_part (s : State) (id : Nat) (f : Job → Job) : (s.modJob id f).part = s.part := rfl
@[simp] theorem State.modJob_stepping (s : State) (id : Nat) (f : Job → Job) : (s.modJob id f).stepping = s.stepping := rfl
@[simp] theorem State.modJob_regs (s : State) (id : Nat) (f : Job → Job) : (s.modJob id f).regs = s.regs := rfl
@[simp] theorem State.modJob_cfg (s : State) (id : Nat) (f : Job → Job) : (s.modJob id f).cfg = s.cfg := rfl
@[simp] theorem State.modJob_seals (s : State) (id : Nat) (f : Job → Job) : (s.modJob id f).seals = s.seals := rfl
@[simp] theorem State.modJob_lcState (s : State) (id : Nat) (f : Job → Job) : (s.modJob id f).lcState = s.lcState := rfl
@[simp] theorem State.modJob_wiped (s : State) (id : Nat) (f : Job → Job) : (s.modJob id f).wiped = s.wiped := rfl
@[simp] theorem State.modJob_tamperSeen (s : State) (id : Nat) (f : Job → Job) : (s.modJob id f).tamperSeen = s.tamperSeen := rfl
@[simp] theorem State.modJob_wipeCount (s : State) (id : Nat) (f : Job → Job) : (s.modJob id f).wipeCount = s.wipeCount := rfl
@[simp] theorem State.modJob_errs (s : State) (id : Nat) (f : Job → Job) : (s.modJob id f).errs = s.errs := rfl
@[simp] theorem State.modJob_host (s : State) (id : Nat) (f : Job → Job) : (s.modJob id f).host = s.host := rfl
@[simp] theorem State.modJob_store (s : State) (id : Nat) (f : Job → Job) : (s.modJob id f).store = s.store := rfl
@[simp] theorem State.modJob_cores (s : State) (id : Nat) (f : Job → Job) : (s.modJob id f).cores = s.cores := rfl
@[simp] theorem State.modJob_twin (s : State) (id : Nat) (f : Job → Job) : (s.modJob id f).twin = s.twin := rfl
@[simp] theorem State.modJob_health (s : State) (id : Nat) (f : Job → Job) : (s.modJob id f).health = s.health := rfl
@[simp] theorem State.modJob_test (s : State) (id : Nat) (f : Job → Job) : (s.modJob id f).test = s.test := rfl
@[simp] theorem State.modJob_pending (s : State) (id : Nat) (f : Job → Job) : (s.modJob id f).pending = s.pending := rfl

/-! ### modItem -/

@[simp] theorem State.modItem_part (s : State) (id k : Nat) (f : Item → Item) : (s.modItem id k f).part = s.part := rfl
@[simp] theorem State.modItem_stepping (s : State) (id k : Nat) (f : Item → Item) : (s.modItem id k f).stepping = s.stepping := rfl
@[simp] theorem State.modItem_regs (s : State) (id k : Nat) (f : Item → Item) : (s.modItem id k f).regs = s.regs := rfl
@[simp] theorem State.modItem_cfg (s : State) (id k : Nat) (f : Item → Item) : (s.modItem id k f).cfg = s.cfg := rfl
@[simp] theorem State.modItem_seals (s : State) (id k : Nat) (f : Item → Item) : (s.modItem id k f).seals = s.seals := rfl
@[simp] theorem State.modItem_lcState (s : State) (id k : Nat) (f : Item → Item) : (s.modItem id k f).lcState = s.lcState := rfl
@[simp] theorem State.modItem_wiped (s : State) (id k : Nat) (f : Item → Item) : (s.modItem id k f).wiped = s.wiped := rfl
@[simp] theorem State.modItem_tamperSeen (s : State) (id k : Nat) (f : Item → Item) : (s.modItem id k f).tamperSeen = s.tamperSeen := rfl
@[simp] theorem State.modItem_wipeCount (s : State) (id k : Nat) (f : Item → Item) : (s.modItem id k f).wipeCount = s.wipeCount := rfl
@[simp] theorem State.modItem_errs (s : State) (id k : Nat) (f : Item → Item) : (s.modItem id k f).errs = s.errs := rfl
@[simp] theorem State.modItem_host (s : State) (id k : Nat) (f : Item → Item) : (s.modItem id k f).host = s.host := rfl
@[simp] theorem State.modItem_store (s : State) (id k : Nat) (f : Item → Item) : (s.modItem id k f).store = s.store := rfl
@[simp] theorem State.modItem_cores (s : State) (id k : Nat) (f : Item → Item) : (s.modItem id k f).cores = s.cores := rfl
@[simp] theorem State.modItem_twin (s : State) (id k : Nat) (f : Item → Item) : (s.modItem id k f).twin = s.twin := rfl
@[simp] theorem State.modItem_health (s : State) (id k : Nat) (f : Item → Item) : (s.modItem id k f).health = s.health := rfl
@[simp] theorem State.modItem_test (s : State) (id k : Nat) (f : Item → Item) : (s.modItem id k f).test = s.test := rfl
@[simp] theorem State.modItem_pending (s : State) (id k : Nat) (f : Item → Item) : (s.modItem id k f).pending = s.pending := rfl

/-! ### setRing -/

@[simp] theorem State.setRing_part (s : State) (r : Nat) (x : Ring) : (s.setRing r x).part = s.part := rfl
@[simp] theorem State.setRing_stepping (s : State) (r : Nat) (x : Ring) : (s.setRing r x).stepping = s.stepping := rfl
@[simp] theorem State.setRing_regs (s : State) (r : Nat) (x : Ring) : (s.setRing r x).regs = s.regs := rfl
@[simp] theorem State.setRing_cfg (s : State) (r : Nat) (x : Ring) : (s.setRing r x).cfg = s.cfg := rfl
@[simp] theorem State.setRing_seals (s : State) (r : Nat) (x : Ring) : (s.setRing r x).seals = s.seals := rfl
@[simp] theorem State.setRing_lcState (s : State) (r : Nat) (x : Ring) : (s.setRing r x).lcState = s.lcState := rfl
@[simp] theorem State.setRing_wiped (s : State) (r : Nat) (x : Ring) : (s.setRing r x).wiped = s.wiped := rfl
@[simp] theorem State.setRing_tamperSeen (s : State) (r : Nat) (x : Ring) : (s.setRing r x).tamperSeen = s.tamperSeen := rfl
@[simp] theorem State.setRing_wipeCount (s : State) (r : Nat) (x : Ring) : (s.setRing r x).wipeCount = s.wipeCount := rfl
@[simp] theorem State.setRing_errs (s : State) (r : Nat) (x : Ring) : (s.setRing r x).errs = s.errs := rfl
@[simp] theorem State.setRing_host (s : State) (r : Nat) (x : Ring) : (s.setRing r x).host = s.host := rfl
@[simp] theorem State.setRing_store (s : State) (r : Nat) (x : Ring) : (s.setRing r x).store = s.store := rfl
@[simp] theorem State.setRing_cores (s : State) (r : Nat) (x : Ring) : (s.setRing r x).cores = s.cores := rfl
@[simp] theorem State.setRing_twin (s : State) (r : Nat) (x : Ring) : (s.setRing r x).twin = s.twin := rfl
@[simp] theorem State.setRing_health (s : State) (r : Nat) (x : Ring) : (s.setRing r x).health = s.health := rfl
@[simp] theorem State.setRing_test (s : State) (r : Nat) (x : Ring) : (s.setRing r x).test = s.test := rfl
@[simp] theorem State.setRing_pending (s : State) (r : Nat) (x : Ring) : (s.setRing r x).pending = s.pending := rfl

/-! ### setWindow -/

@[simp] theorem State.setWindow_part (s : State) (c w : Nat) (x : Window) : (s.setWindow c w x).part = s.part := rfl
@[simp] theorem State.setWindow_stepping (s : State) (c w : Nat) (x : Window) : (s.setWindow c w x).stepping = s.stepping := rfl
@[simp] theorem State.setWindow_regs (s : State) (c w : Nat) (x : Window) : (s.setWindow c w x).regs = s.regs := rfl
@[simp] theorem State.setWindow_cfg (s : State) (c w : Nat) (x : Window) : (s.setWindow c w x).cfg = s.cfg := rfl
@[simp] theorem State.setWindow_seals (s : State) (c w : Nat) (x : Window) : (s.setWindow c w x).seals = s.seals := rfl
@[simp] theorem State.setWindow_lcState (s : State) (c w : Nat) (x : Window) : (s.setWindow c w x).lcState = s.lcState := rfl
@[simp] theorem State.setWindow_wiped (s : State) (c w : Nat) (x : Window) : (s.setWindow c w x).wiped = s.wiped := rfl
@[simp] theorem State.setWindow_tamperSeen (s : State) (c w : Nat) (x : Window) : (s.setWindow c w x).tamperSeen = s.tamperSeen := rfl
@[simp] theorem State.setWindow_wipeCount (s : State) (c w : Nat) (x : Window) : (s.setWindow c w x).wipeCount = s.wipeCount := rfl
@[simp] theorem State.setWindow_errs (s : State) (c w : Nat) (x : Window) : (s.setWindow c w x).errs = s.errs := rfl
@[simp] theorem State.setWindow_host (s : State) (c w : Nat) (x : Window) : (s.setWindow c w x).host = s.host := rfl
@[simp] theorem State.setWindow_sched (s : State) (c w : Nat) (x : Window) : (s.setWindow c w x).sched = s.sched := rfl
@[simp] theorem State.setWindow_store (s : State) (c w : Nat) (x : Window) : (s.setWindow c w x).store = s.store := rfl
@[simp] theorem State.setWindow_twin (s : State) (c w : Nat) (x : Window) : (s.setWindow c w x).twin = s.twin := rfl
@[simp] theorem State.setWindow_health (s : State) (c w : Nat) (x : Window) : (s.setWindow c w x).health = s.health := rfl
@[simp] theorem State.setWindow_test (s : State) (c w : Nat) (x : Window) : (s.setWindow c w x).test = s.test := rfl
@[simp] theorem State.setWindow_pending (s : State) (c w : Nat) (x : Window) : (s.setWindow c w x).pending = s.pending := rfl

/-! ### setHealth -/

@[simp] theorem State.setHealth_part (s : State) (t : Nat) (h : TileHealth) : (s.setHealth t h).part = s.part := rfl
@[simp] theorem State.setHealth_stepping (s : State) (t : Nat) (h : TileHealth) : (s.setHealth t h).stepping = s.stepping := rfl
@[simp] theorem State.setHealth_regs (s : State) (t : Nat) (h : TileHealth) : (s.setHealth t h).regs = s.regs := rfl
@[simp] theorem State.setHealth_cfg (s : State) (t : Nat) (h : TileHealth) : (s.setHealth t h).cfg = s.cfg := rfl
@[simp] theorem State.setHealth_seals (s : State) (t : Nat) (h : TileHealth) : (s.setHealth t h).seals = s.seals := rfl
@[simp] theorem State.setHealth_lcState (s : State) (t : Nat) (h : TileHealth) : (s.setHealth t h).lcState = s.lcState := rfl
@[simp] theorem State.setHealth_wiped (s : State) (t : Nat) (h : TileHealth) : (s.setHealth t h).wiped = s.wiped := rfl
@[simp] theorem State.setHealth_tamperSeen (s : State) (t : Nat) (h : TileHealth) : (s.setHealth t h).tamperSeen = s.tamperSeen := rfl
@[simp] theorem State.setHealth_wipeCount (s : State) (t : Nat) (h : TileHealth) : (s.setHealth t h).wipeCount = s.wipeCount := rfl
@[simp] theorem State.setHealth_errs (s : State) (t : Nat) (h : TileHealth) : (s.setHealth t h).errs = s.errs := rfl
@[simp] theorem State.setHealth_host (s : State) (t : Nat) (h : TileHealth) : (s.setHealth t h).host = s.host := rfl
@[simp] theorem State.setHealth_sched (s : State) (t : Nat) (h : TileHealth) : (s.setHealth t h).sched = s.sched := rfl
@[simp] theorem State.setHealth_store (s : State) (t : Nat) (h : TileHealth) : (s.setHealth t h).store = s.store := rfl
@[simp] theorem State.setHealth_cores (s : State) (t : Nat) (h : TileHealth) : (s.setHealth t h).cores = s.cores := rfl
@[simp] theorem State.setHealth_twin (s : State) (t : Nat) (h : TileHealth) : (s.setHealth t h).twin = s.twin := rfl
@[simp] theorem State.setHealth_test (s : State) (t : Nat) (h : TileHealth) : (s.setHealth t h).test = s.test := rfl
@[simp] theorem State.setHealth_pending (s : State) (t : Nat) (h : TileHealth) : (s.setHealth t h).pending = s.pending := rfl

/-! ### putMig -/

@[simp] theorem State.putMig_part (s : State) (m : Mig) : (s.putMig m).part = s.part := rfl
@[simp] theorem State.putMig_stepping (s : State) (m : Mig) : (s.putMig m).stepping = s.stepping := rfl
@[simp] theorem State.putMig_regs (s : State) (m : Mig) : (s.putMig m).regs = s.regs := rfl
@[simp] theorem State.putMig_cfg (s : State) (m : Mig) : (s.putMig m).cfg = s.cfg := rfl
@[simp] theorem State.putMig_seals (s : State) (m : Mig) : (s.putMig m).seals = s.seals := rfl
@[simp] theorem State.putMig_lcState (s : State) (m : Mig) : (s.putMig m).lcState = s.lcState := rfl
@[simp] theorem State.putMig_wiped (s : State) (m : Mig) : (s.putMig m).wiped = s.wiped := rfl
@[simp] theorem State.putMig_tamperSeen (s : State) (m : Mig) : (s.putMig m).tamperSeen = s.tamperSeen := rfl
@[simp] theorem State.putMig_wipeCount (s : State) (m : Mig) : (s.putMig m).wipeCount = s.wipeCount := rfl
@[simp] theorem State.putMig_errs (s : State) (m : Mig) : (s.putMig m).errs = s.errs := rfl
@[simp] theorem State.putMig_host (s : State) (m : Mig) : (s.putMig m).host = s.host := rfl
@[simp] theorem State.putMig_sched (s : State) (m : Mig) : (s.putMig m).sched = s.sched := rfl
@[simp] theorem State.putMig_cores (s : State) (m : Mig) : (s.putMig m).cores = s.cores := rfl
@[simp] theorem State.putMig_twin (s : State) (m : Mig) : (s.putMig m).twin = s.twin := rfl
@[simp] theorem State.putMig_health (s : State) (m : Mig) : (s.putMig m).health = s.health := rfl
@[simp] theorem State.putMig_test (s : State) (m : Mig) : (s.putMig m).test = s.test := rfl
@[simp] theorem State.putMig_pending (s : State) (m : Mig) : (s.putMig m).pending = s.pending := rfl

/-! ### dropMig -/

@[simp] theorem State.dropMig_part (s : State) (k : Nat) : (s.dropMig k).part = s.part := rfl
@[simp] theorem State.dropMig_stepping (s : State) (k : Nat) : (s.dropMig k).stepping = s.stepping := rfl
@[simp] theorem State.dropMig_regs (s : State) (k : Nat) : (s.dropMig k).regs = s.regs := rfl
@[simp] theorem State.dropMig_cfg (s : State) (k : Nat) : (s.dropMig k).cfg = s.cfg := rfl
@[simp] theorem State.dropMig_seals (s : State) (k : Nat) : (s.dropMig k).seals = s.seals := rfl
@[simp] theorem State.dropMig_lcState (s : State) (k : Nat) : (s.dropMig k).lcState = s.lcState := rfl
@[simp] theorem State.dropMig_wiped (s : State) (k : Nat) : (s.dropMig k).wiped = s.wiped := rfl
@[simp] theorem State.dropMig_tamperSeen (s : State) (k : Nat) : (s.dropMig k).tamperSeen = s.tamperSeen := rfl
@[simp] theorem State.dropMig_wipeCount (s : State) (k : Nat) : (s.dropMig k).wipeCount = s.wipeCount := rfl
@[simp] theorem State.dropMig_errs (s : State) (k : Nat) : (s.dropMig k).errs = s.errs := rfl
@[simp] theorem State.dropMig_host (s : State) (k : Nat) : (s.dropMig k).host = s.host := rfl
@[simp] theorem State.dropMig_sched (s : State) (k : Nat) : (s.dropMig k).sched = s.sched := rfl
@[simp] theorem State.dropMig_cores (s : State) (k : Nat) : (s.dropMig k).cores = s.cores := rfl
@[simp] theorem State.dropMig_twin (s : State) (k : Nat) : (s.dropMig k).twin = s.twin := rfl
@[simp] theorem State.dropMig_health (s : State) (k : Nat) : (s.dropMig k).health = s.health := rfl
@[simp] theorem State.dropMig_test (s : State) (k : Nat) : (s.dropMig k).test = s.test := rfl
@[simp] theorem State.dropMig_pending (s : State) (k : Nat) : (s.dropMig k).pending = s.pending := rfl

/-! ### setService -/

@[simp] theorem State.setService_part (s : State) (t c v : Nat) : (s.setService t c v).part = s.part := rfl
@[simp] theorem State.setService_stepping (s : State) (t c v : Nat) : (s.setService t c v).stepping = s.stepping := rfl
@[simp] theorem State.setService_regs (s : State) (t c v : Nat) : (s.setService t c v).regs = s.regs := rfl
@[simp] theorem State.setService_cfg (s : State) (t c v : Nat) : (s.setService t c v).cfg = s.cfg := rfl
@[simp] theorem State.setService_seals (s : State) (t c v : Nat) : (s.setService t c v).seals = s.seals := rfl
@[simp] theorem State.setService_lcState (s : State) (t c v : Nat) : (s.setService t c v).lcState = s.lcState := rfl
@[simp] theorem State.setService_wiped (s : State) (t c v : Nat) : (s.setService t c v).wiped = s.wiped := rfl
@[simp] theorem State.setService_tamperSeen (s : State) (t c v : Nat) : (s.setService t c v).tamperSeen = s.tamperSeen := rfl
@[simp] theorem State.setService_wipeCount (s : State) (t c v : Nat) : (s.setService t c v).wipeCount = s.wipeCount := rfl
@[simp] theorem State.setService_errs (s : State) (t c v : Nat) : (s.setService t c v).errs = s.errs := rfl
@[simp] theorem State.setService_host (s : State) (t c v : Nat) : (s.setService t c v).host = s.host := rfl
@[simp] theorem State.setService_store (s : State) (t c v : Nat) : (s.setService t c v).store = s.store := rfl
@[simp] theorem State.setService_cores (s : State) (t c v : Nat) : (s.setService t c v).cores = s.cores := rfl
@[simp] theorem State.setService_twin (s : State) (t c v : Nat) : (s.setService t c v).twin = s.twin := rfl
@[simp] theorem State.setService_health (s : State) (t c v : Nat) : (s.setService t c v).health = s.health := rfl
@[simp] theorem State.setService_test (s : State) (t c v : Nat) : (s.setService t c v).test = s.test := rfl
@[simp] theorem State.setService_pending (s : State) (t c v : Nat) : (s.setService t c v).pending = s.pending := rfl

/-! ### putTable -/

@[simp] theorem State.putTable_part (s : State) (d : TableDef) : (s.putTable d).part = s.part := rfl
@[simp] theorem State.putTable_stepping (s : State) (d : TableDef) : (s.putTable d).stepping = s.stepping := rfl
@[simp] theorem State.putTable_regs (s : State) (d : TableDef) : (s.putTable d).regs = s.regs := rfl
@[simp] theorem State.putTable_seals (s : State) (d : TableDef) : (s.putTable d).seals = s.seals := rfl
@[simp] theorem State.putTable_lcState (s : State) (d : TableDef) : (s.putTable d).lcState = s.lcState := rfl
@[simp] theorem State.putTable_wiped (s : State) (d : TableDef) : (s.putTable d).wiped = s.wiped := rfl
@[simp] theorem State.putTable_tamperSeen (s : State) (d : TableDef) : (s.putTable d).tamperSeen = s.tamperSeen := rfl
@[simp] theorem State.putTable_wipeCount (s : State) (d : TableDef) : (s.putTable d).wipeCount = s.wipeCount := rfl
@[simp] theorem State.putTable_errs (s : State) (d : TableDef) : (s.putTable d).errs = s.errs := rfl
@[simp] theorem State.putTable_host (s : State) (d : TableDef) : (s.putTable d).host = s.host := rfl
@[simp] theorem State.putTable_sched (s : State) (d : TableDef) : (s.putTable d).sched = s.sched := rfl
@[simp] theorem State.putTable_store (s : State) (d : TableDef) : (s.putTable d).store = s.store := rfl
@[simp] theorem State.putTable_cores (s : State) (d : TableDef) : (s.putTable d).cores = s.cores := rfl
@[simp] theorem State.putTable_twin (s : State) (d : TableDef) : (s.putTable d).twin = s.twin := rfl
@[simp] theorem State.putTable_health (s : State) (d : TableDef) : (s.putTable d).health = s.health := rfl
@[simp] theorem State.putTable_test (s : State) (d : TableDef) : (s.putTable d).test = s.test := rfl
@[simp] theorem State.putTable_pending (s : State) (d : TableDef) : (s.putTable d).pending = s.pending := rfl

/-! ### Reading after writing -/

theorem State.setRow_row {s : State} (h : tabOk {} s.store.rows = true) (r : Nat) (x : CtxRow) : (s.setRow r x).row r = x := by
  unfold State.row State.setRow
  rw [tget_tset_self h]

theorem State.setRow_row_ne {s : State} (h : tabOk {} s.store.rows = true) {r q : Nat} (x : CtxRow) (hq : q ≠ r) :
    (s.setRow r x).row q = s.row q := by
  unfold State.row State.setRow
  rw [tget_tset_ne h _ hq]

theorem State.setMapAt_mapAt {s : State} (h : tabOk .empty s.store.map = true) (k : Nat) (e : MapEntry) : (s.setMapAt k e).mapAt k = e := by
  unfold State.mapAt State.setMapAt
  rw [tget_tset_self h]

theorem State.setMapAt_mapAt_ne {s : State} (h : tabOk .empty s.store.map = true) {k n : Nat} (e : MapEntry) (hn : n ≠ k) :
    (s.setMapAt k e).mapAt n = s.mapAt n := by
  unfold State.mapAt State.setMapAt
  rw [tget_tset_ne h _ hn]

theorem State.setNode_node {s : State} (h : tabOk {} s.store.nodes = true) (n : Nat) (x : Node) : (s.setNode n x).node n = x := by
  unfold State.node State.setNode
  rw [tget_tset_self h]

end Sys2Proof.Machine
end

