-- ==== Sys2Proof/WellFormed.lean ====
section
/-! DEFINITION. Which commands are well formed: the lengths and ranges that the spec gives their operands. -/

namespace Sys2Proof

/-- A core address of the architecture: rank 0 to 39 (01 R25). -/
def CoreId.wf (c : CoreId) : Bool := decide (c.rank.toNat < 40)

/-- A host view whose ranges are within 52-bit physical addresses (13 R353). -/
def HostView.wf (h : HostView) : Bool :=
  h.segs.all (fun p => decide (p.1 + p.2.length ≤ 2 ^ 52)) &&
  h.busErr.all (fun p => decide (p.1 + p.2 ≤ 2 ^ 52)) && h.silent.all (fun p => decide (p.1 + p.2 ≤ 2 ^ 52))

/-- Operand ranges, command by command; a command without one is always well formed. -/
def Instr.wf : Instr → Bool
  | .nvmBurst b => decide (b.length = 4096)
  | .keyWrite _ b => decide (b.length = 64)
  | .cpl _ _ p => decide (p.length % 64 = 0) && decide (p.length ≤ 512)
  | .wdata r _ f => r.wf && decide (f.length = 64)
  | .linkFrame b _ => decide (b.length = 256)
  | .hello h => decide (h.nonce.length = 32)
  | .auth c => decide (c.length = 32)
  | .linkUp _ n => decide (n.length = 32)
  | .helloRetry n => decide (n.length = 32)
  | .attach _ n => decide (n.length = 32)
  | .rowDelta _ _ b => decide (b.length = 256)
  | .bytesDelta _ _ o d => decide (o.toNat + d.length ≤ 73728)
  | .refetchData _ d => decide (d.length = 73728)
  | .resendData _ d => decide (d.length = 73728)
  | .tempReading _ v => decide (v.length = 16)
  | .voltReading _ v _ => decide (v.length = 8)
  | .processReading _ v => decide (v.length = 4)
  | .remoteRead _ _ c _ o n => c.wf && decide (o.toNat % 4 = 0) && decide (o.toNat + 4 * n.toNat ≤ 0xC000)
  | .credit r _ _ => r.wf
  | .wfence r _ => r.wf
  | .creditHoldTimeout c => c.wf
  | .spdScrub c _ _ => c.wf
  | .scrubClaim c _ => c.wf
  | .coreFault c _ => c.wf
  | .coreStallTimeout c => c.wf
  | .coreSubstitution c _ => c.wf
  | .descriptorIntake h => h.wf
  | .hatWalk _ _ h => h.wf
  | _ => true

end Sys2Proof
end

