-- ==== Sys2Proof/Tests/Slice0.lean ====
section
/-! SUPPORT. Tests of the model, and for each statement a state and operands that meet its hypotheses. -/

namespace Sys2Proof.Tests

open Sys2Proof Sys2Proof.Machine Sys2Proof.Safety

-- One kernel evaluation after the other: side by side they would need their stacks and memory all at once.
set_option Elab.async false

/-! ### Small states -/

/-- The reset state in a device state. -/
def inMode (m : Mode) : State := { State.reset with cfg := { State.reset.cfg with mode := m } }

/-- A part in READY whose host modules 0 of every tile are up. -/
def ready : State := inMode .ready

/-- A request of the host on module 0 of tile 0. -/
def q0 : Req := ⟨0, 0, 0⟩

/-- A core of tile 0. -/
def core0 : CoreId := ⟨0, 0, 0⟩

/-- An empty host view. -/
def noHost : HostView := ⟨[], [], []⟩

/-- A ready part with one job of a kind, its one item running on tile 0. -/
def running (kind : Nat) (words : List Nat) : State :=
  { ready with sched := { ready.sched with nextJob := 1, jobs := [{ id := 0, ring := 0, seq := 0, desc := kind :: words
                                                                    items := [{ tile := 0, entry := 0, st := .running }] }] } }

/-- The job and the item of it. -/
def job0 (kind : Nat) (words : List Nat) : Job :=
  { id := 0, ring := 0, seq := 0, desc := kind :: words, items := [{ tile := 0, entry := 0, st := .running }] }
def item0 : Item := { tile := 0, entry := 0, st := .running }

/-! ### Well-formed operands: an ill-formed term for each check -/

theorem test_wf_nvmBurst : Instr.wf (.nvmBurst []) = false := by decide
theorem test_wf_keyWrite : Instr.wf (.keyWrite 0 [0#8]) = false := by decide
theorem test_wf_cpl : Instr.wf (.cpl q0 0 [0#8]) = false := by decide
theorem test_wf_cpl_long : Instr.wf (.cpl q0 0 (List.replicate 576 0#8)) = false := by decide +kernel
theorem test_wf_wdata : Instr.wf (.wdata core0 0 []) = false := by decide
theorem test_wf_wdata_rank : Instr.wf (.wdata ⟨0, 40, 0⟩ 0 (List.replicate 64 0#8)) = false := by decide
theorem test_wf_linkFrame : Instr.wf (.linkFrame [] true) = false := by decide
theorem test_wf_hello : Instr.wf (.hello ⟨0, [], 0, 0, 0, 0, 0, 0, 0, 0, 0, 0, false, false, 0⟩) = false := by decide
theorem test_wf_auth : Instr.wf (.auth []) = false := by decide
theorem test_wf_linkUp : Instr.wf (.linkUp true []) = false := by decide
theorem test_wf_helloRetry : Instr.wf (.helloRetry []) = false := by decide
theorem test_wf_attach : Instr.wf (.attach q0 []) = false := by decide
theorem test_wf_rowDelta : Instr.wf (.rowDelta ⟨0, 0, 0⟩ 0 []) = false := by decide
theorem test_wf_bytesDelta : Instr.wf (.bytesDelta ⟨0, 0, 0⟩ 0 73728 [0#8]) = false := by decide
theorem test_wf_refetchData : Instr.wf (.refetchData 0 []) = false := by decide
theorem test_wf_resendData : Instr.wf (.resendData 0 []) = false := by decide
theorem test_wf_tempReading : Instr.wf (.tempReading 0 []) = false := by decide
theorem test_wf_voltReading : Instr.wf (.voltReading 0 [] 0) = false := by decide
theorem test_wf_processReading : Instr.wf (.processReading 0 []) = false := by decide
theorem test_wf_remoteRead_align : Instr.wf (.remoteRead 0 0 core0 0 2 1) = false := by decide
theorem test_wf_remoteRead_end : Instr.wf (.remoteRead 0 0 core0 0 0xBFFC 2) = false := by decide
theorem test_wf_remoteRead_core : Instr.wf (.remoteRead 0 0 ⟨0, 40, 0⟩ 0 0 1) = false := by decide
theorem test_wf_credit : Instr.wf (.credit ⟨0, 40, 0⟩ 0 0) = false := by decide
theorem test_wf_wfence : Instr.wf (.wfence ⟨0, 40, 0⟩ 0) = false := by decide
theorem test_wf_creditHoldTimeout : Instr.wf (.creditHoldTimeout ⟨0, 40, 0⟩) = false := by decide
theorem test_wf_spdScrub : Instr.wf (.spdScrub ⟨0, 40, 0⟩ 0 .clean) = false := by decide
theorem test_wf_scrubClaim : Instr.wf (.scrubClaim ⟨0, 40, 0⟩ 0) = false := by decide
theorem test_wf_coreFault : Instr.wf (.coreFault ⟨0, 40, 0⟩ 0) = false := by decide
theorem test_wf_coreStall : Instr.wf (.coreStallTimeout ⟨0, 40, 0⟩) = false := by decide
theorem test_wf_coreSubstitution : Instr.wf (.coreSubstitution ⟨0, 40, 0⟩ true) = false := by decide
theorem test_wf_intake_seg : Instr.wf (.descriptorIntake ⟨[(2 ^ 52, [0#8])], [], []⟩) = false := by decide
theorem test_wf_intake_busErr : Instr.wf (.descriptorIntake ⟨[], [(2 ^ 52, 1)], []⟩) = false := by decide
theorem test_wf_walk_silent : Instr.wf (.hatWalk 0 0 ⟨[], [], [(2 ^ 52, 1)]⟩) = false := by decide
theorem test_wf_idcode : Instr.wf .idcode = true := by decide

/-! ### One step each -/

/-- No row of the table gives bits. -/
theorem test_no_table_word : decodeTableWord 32 0 = none := by decide

/-- A first-stepping AE32 reads 0520_5967h (19 R489). -/
theorem test_idcode : (match exec .idcode ready with | .next t => t.test.out | _ => 0) = 0x05205967 := by decide

/-- RESET_N low puts the part in OFF; a tile beyond TILE_MAX stops. -/
theorem test_resetLow : (match exec .resetNLow ready with | .next t => t.cfg.mode | _ => .boot) = .off := by decide
theorem test_noSuchTile :
    exec (.tileWake 5) { State.reset with part := .ae1 } = .fault .noSuchTile := rfl

/-- A doorbell moves TAIL of an enabled ring (13 R356). -/
theorem test_doorbell : (match exec (.dbell q0 3 2) { ready with regs := tset 0#32 resetRegs (ringReg 3 8) 0x109#32 } with
    | .next t => t.reg (ringReg 3 0xC) | _ => 0) = 2 := by decide

/-- The visits of the pair with bounds 4 and 3, from the table under 12 R337. -/
theorem test_pair_serpentine : (pairOrder 1 4 3).drop 3 = [(3, 0), (3, 1), (2, 1), (1, 1), (0, 1), (0, 2), (1, 2), (2, 2), (3, 2)] := by decide
theorem test_pair_morton :
    pairOrder 2 4 3 = [(0, 0), (1, 0), (0, 1), (1, 1), (2, 0), (3, 0), (2, 1), (3, 1), (0, 2), (1, 2), (2, 2), (3, 2)] := by decide +kernel
theorem test_pair_hilbert :
    pairOrder 3 4 3 = [(0, 0), (1, 0), (1, 1), (0, 1), (0, 2), (1, 2), (2, 2), (3, 2), (3, 1), (2, 1), (2, 0), (3, 0)] := by decide +kernel

/-- Element (5, 14) of the plate at 0400h lies in bank 3 (03 R71), and one feeder delay of 4 holds its core for a cycle (04 R112). -/
theorem test_plate_element : plateOff 0x400 5 14 = 0x51C ∧ bankOf 0x51C = 3 := by decide
theorem test_feeder_hold : feederDelays [0, 4] = (3, 1) := by decide

/-- CRC-32C of the nine digits (08 R222), and SHA-384 of three letters (FIPS 180-4). -/
theorem test_crc32c : crc32c [0x31#8, 0x32#8, 0x33#8, 0x34#8, 0x35#8, 0x36#8, 0x37#8, 0x38#8, 0x39#8] = 0xE3069283#32 := by decide +kernel
theorem test_sha384 : (sha384 [0x61#8, 0x62#8, 0x63#8]).take 4 = [0xCB#8, 0x00#8, 0x75#8, 0x3F#8] := by decide +kernel

/-! ### States that meet the hypotheses of the statements -/

theorem witness_StepRunsFront : ∃ (s : State) (c : Instr) (rest : List Instr), s.pending = c :: rest :=
  ⟨{ State.reset with pending := [.idcode] }, .idcode, [], rfl⟩

theorem witness_StepFollowsStateTable : ∃ s t : State, step s = .next t ∧ s.cfg.mode = .halted := ⟨inMode .halted, _, rfl, rfl⟩

theorem witness_StepKeepsBounds : ∃ s t : State, Bounded s ∧ step s = .next t := ⟨State.reset, _, by decide, rfl⟩

theorem witness_StepTakesOneCommand : ∃ s t : State, step s = .next t := ⟨State.reset, _, rfl⟩

theorem witness_LifeCycleAdvancesByOne : ∃ (s t : State) (c : Instr) (rest : List Instr), s.pending = c :: rest ∧ step s = .next t :=
  ⟨{ ready with pending := [.lcStep 2], lcState := 1 }, _, .lcStep 2, [], rfl, rfl⟩

theorem witness_KeysEnterInProvisionOnly : ∃ (s t : State) (c : Instr) (rest : List Instr), s.pending = c :: rest ∧ step s = .next t :=
  ⟨{ ready with pending := [.keyWrite 0 []], lcState := 2 }, _, .keyWrite 0 [], [], rfl, rfl⟩

theorem witness_PowerAndResetChangeState :
    (inMode .off).cfg.mode = .off ∧ ready.cfg.mode ≠ .off ∧ ({ ready with twin := { linkUp := true } } : State).twin.linkUp = true := by
  decide

theorem witness_BootAndPairEnd :
    State.reset.cfg.mode = .boot ∧ (⟨false, [], [], []⟩ : BootReport).fuseBad = false ∧ State.reset.test.repair = [] ∧
    State.reset.seals.any (fun x => x.wipePending) = false ∧ State.reset.cfg.fuses.bootBist = false ∧
    (⟨true, [], [], []⟩ : BootReport).fuseBad = true ∧ State.reset.hasTile 31 = true ∧ 31 ≠ State.reset.errs.anchor ∧
    State.reset.errs.tileOut.contains 31 = false ∧ (inMode .pair).cfg.mode = .pair := by decide

/-- The first 256 bytes of an image of a LENGTH. -/
def header (length : Nat) : List Byte :=
  leBytes 4 0x49485246 ++ leBytes 2 1 ++ leBytes 2 0x100 ++ leBytes 4 length ++ zeroBytes 244

def loading (staged : List Byte) (repeats : Nat) : State :=
  { inMode .load with cfg := { (inMode .load).cfg with staged := staged, repeats := repeats } }

theorem witness_LoadReadsImage :
    (loading [] 2).cfg.mode = .load ∧ imageHeaderOk (header 512) = true ∧ (header 512).length < imageLength (header 512) ∧
    imageLength (header 256) ≤ (header 256).length ∧ imageHeaderOk (header 257) = false ∧ (loading [] 2).cfg.repeats < 3 ∧
    3 ≤ (loading [] 3).cfg.repeats := by decide +kernel

/-- An image that is its signature block alone: a public key and a signature of no bytes, found for this test. -/
def signed : List Byte :=
  beBytes 48 0xba2eae184d4fcd09acbf5436104d5a5a96426f75021790fdce6b2d574476d6b997ba2e3829a57f1896663ebdd6129c38 ++
  beBytes 48 0x746b4361316516f6f5da2baf1e675da1a0b9dceb0df6591a6d24dd9f4477f48975c74746a7e278729708c75a80effb9a ++
  beBytes 48 0xe2c1829d46b258e13364c9fac6c78da887f6dc4452f81d0d30331efd8fdb87689d3b7aff9dbd97ef546b4bc52262e56c ++
  beBytes 48 0x38b060a751ac96384cd9327eb1b1e36a21fdb71114be07434c0cc7bf63f6e1da274edebfe76f65fbd51ad2f14898b95b ++ zeroBytes 64

/-- In VERIFY with an image whose key is fused, in life-cycle state MANUFACTURE. -/
def verifying (img : List Byte) (minMajor : Nat) : State :=
  { inMode .verify with
    cfg := { (inMode .verify).cfg with staged := img, fuses := { keyHash := sha384 ((sigBlock img).take 96), minMajor := minMajor } }
    lcState := 1 }

theorem verifying_known (img : List Byte) (n : Nat) : KeyKnown (verifying img n) := .inl rfl

theorem witness_VerifyAuthenticatesThenChecks_signed : Signed (verifying signed 117) := by
  unfold Signed; decide +kernel

/-- The same image against a minimum version above its own, and one equal to it. -/
theorem witness_VerifyAuthenticatesThenChecks_version :
    hdrField (verifying signed 118).cfg.staged 19 1 < (verifying signed 118).cfg.fuses.minMajor ∧
    (verifying signed 117).cfg.fuses.minMajor ≤ hdrField (verifying signed 117).cfg.staged 19 1 := by decide +kernel

theorem witness_VerifyAuthenticatesThenChecks :
    (verifying [] 0).cfg.mode = .verify ∧ ({ verifying [] 0 with lcState := 4 } : State).lcState = 4 ∧ (verifying [] 0).lcState ≠ 4 ∧
    ¬ Signed (verifying (zeroBytes 256) 0) ∧ ¬ KeyKnown (inMode .verify) := by
  refine ⟨by decide, by decide, by decide, ?_, ?_⟩
  · unfold Signed; decide +kernel
  · unfold KeyKnown; decide +kernel

theorem witness_InitBuildsTables :
    (inMode .init).cfg.mode = .init ∧ (inMode .init).cfg.initMet = [] ∧ (inMode .init).cfg.image.pairing = 0 ∧
    ({ (inMode .init).cfg with image := { pairing := 2 } } : Cfg).image.pairing ≠ 0 := by decide

theorem witness_HaltsSendDying :
    ready.cfg.mode ≠ .off ∧ ready.cfg.mode ≠ .halted ∧ (inMode .halted).cfg.mode = .halted ∧ (inMode .off).cfg.mode = .off := by decide

/-- A log with as many entries. -/
def logged (n : Nat) : State := { ready with errs := { ready.errs with fifo := List.replicate n { severity := 0, cause := 2, unit := 0 } } }

theorem witness_ErrorLogTakesAndGivesEntries :
    (logged 63).errs.fifo.length < 64 ∧ 64 ≤ (logged 64).errs.fifo.length ∧ Bounded (logged 64) ∧ Arrives (logged 64) q0 ∧
    Managed (logged 64) ∧ Arrives (inMode .halted) q0 ∧ bit (1#32).toNat 0 = true ∧ bit (2#32).toNat 0 = false := by decide

theorem witness_TapIdentifiesScansAndOpens :
    ready.cfg.mode ≠ .off ∧ (inMode .halted).cfg.mode = .halted ∧ ({ ready with lcState := 1 } : State).lcState = 1 ∧
    ready.hasTile 31 = true ∧ ({ ready with lcState := 2 } : State).instrumentOk 31 .sensors = true ∧
    ({ ready with lcState := 3 } : State).instrumentOk 31 .sensors = false := by decide

theorem witness_LifeCycleAndKeys : ∃ t, step State.reset = .next t ∧ ready.cfg.mode ≠ .off ∧ (4#8).toNat = 3 + 1 ∧ (2#8).toNat = 1 + 1 ∧
    (4#8).toNat ≠ 2 + 1 := ⟨_, rfl, by decide⟩

theorem witness_MgtAccessReadsAndWrites :
    ready.cfg.mode ≠ .off ∧ ({ ready with lcState := 4 } : State).lcState ≠ 0 ∧ isAttach (4 * (0x3800#16).toNat) (1#32).toNat = true ∧
    isAttach (4 * (0x3800#16).toNat) (2#32).toNat = false := by decide

/-- A BIST run of a target under way on tile 31, and a burn. -/
def testing (v : Nat) : State := { ready with test := { ready.test with running := [(31, v)], repairBusy := some (31, 7) } }

theorem witness_BistAndBurnsRun_ends :
    (testing 0x800000F8).hasTile (31#5).toNat = true ∧ tget 0 (testing 0x800000F8).test.running (31#5).toNat ≠ 0 ∧
    cmdTarget (tget 0 (testing 0x800000FC).test.running (31#5).toNat) = 4 ∧ (testing 1).test.repairBusy = some (31, 7) := by decide

theorem witness_ManagementReadIsServedOrRefused :
    Arrives ready q0 ∧ (0x3FFFC#64).toNat % 4 = 0 ∧ (0x3FFFC#64).toNat < 0x40000 ∧ tget none ready.cfg.highCap 0x3FFFC = none ∧
    ready.fields 0x3FFFC = none ∧ readPair 0xF000 = true ∧ ready.fields 0xF000 ≠ none ∧
    tget none [(0xF004, some 5#32)] (0xF004#64).toNat = some 5#32 ∧ (2#64).toNat % 4 ≠ 0 ∧ 0x40000 ≤ (0x40000#64).toNat := by decide

theorem witness_RegisterWriteFollowsAccessType :
    Arrives ready q0 ∧ Bounded ready ∧ Managed ready ∧ ready.cfg.mode = .ready ∧ ready.reg 0xA000 % 2 ^ 23 = (0x800000#32).toNat % 2 ^ 23 ∧
    ready.reg 0xA000 % 2 ^ 23 ≠ (0x7FFFFF#32).toNat % 2 ^ 23 ∧ tabOk 0#32 ready.cfg.shadow = true ∧ Managed (inMode .init) := by decide

/-- A part with 64 INVALs of a module waiting. -/
def invalsWait (n : Nat) : State := { ready with host := { ready.host with invals := List.replicate n ⟨q0, 0, 1⟩ } }

theorem witness_RefusedAndReservedWrites :
    Arrives ready q0 ∧ Managed ready ∧ (3#32).toNat % 4 = 3 ∧ isAttach 2 3 = false ∧ (2#64).toNat % 4 ≠ 0 ∧ 0x40000 ≤ (0x40000#64).toNat ∧
    ready.fields 0x3FFFC = none ∧ Arrives (inMode .verify) q0 ∧ (invalsWait 64).excess q0 = true ∧ (invalsWait 63).excess q0 = false := by
  decide

/-- Ring 63 enabled with 16 descriptor and 16 completion slots, HEAD and CPL_HEAD at the top of their range. -/
def ringOn : State :=
  { ready with regs := [(0x2FC8, 0x109#32), (0x2FCC, 0xFFFFFFFF#32), (0x2FD0, 0xFFFFFFFF#32), (0x2FDC, 3#32), (0x2FE0, 0xFFFFFFFF#32),
      (0xC000, 1#32), (0xF010, 4#32)] }

theorem witness_TailAndHeadStayInBounds :
    Arrives ringOn q0 ∧ Managed ringOn ∧ ringOn.hasTile q0.tile.toNat = true ∧ (63#32).toNat < 64 ∧ (63#6).toNat < ringOn.part.rings ∧
    bit (ringOn.reg (ringReg 63 8)) 0 = true ∧ ahead (ringOn.reg (ringReg 63 0x10)) (15#64).toNat ≤ 2 ^ bits (ringOn.reg (ringReg 63 8)) 5 1 ∧
    2 ^ bits (ringOn.reg (ringReg 63 8)) 5 1 < ahead (ringOn.reg (ringReg 63 0x10)) (16#64).toNat ∧ bit (ready.reg (ringReg 63 8)) 0 = false ∧
    ahead (ringOn.reg (ringReg 63 0x20)) (3#32).toNat ≤ ahead (ringOn.reg (ringReg 63 0x20)) (ringOn.reg (ringReg 63 0x1C)) ∧
    ahead (ringOn.reg (ringReg 63 0x20)) (ringOn.reg (ringReg 63 0x1C)) < ahead (ringOn.reg (ringReg 63 0x20)) (4#32).toNat := by decide

theorem witness_RingEnableAndDisable :
    Arrives ringOn q0 ∧ Managed ringOn ∧ Bounded ringOn ∧ (0#6).toNat < ringOn.part.rings ∧ ringOn.ringBusy 0 = false ∧
    bit (0x421#32).toNat 0 = true ∧ 4 ≤ bits (0x109#32).toNat 5 1 ∧ bits (0x421#32).toNat 5 1 ≤ 16 ∧ 4 ≤ bits (0x109#32).toNat 10 6 ∧
    bits (0x421#32).toNat 10 6 ≤ 16 ∧ bit (ringOn.reg 0xC000) 0 = true ∧ bit (ready.reg 0xC000) 0 = false ∧
    bit (ringOn.reg (ringReg 63 8)) 0 = true ∧ bit (0x108#32).toNat 0 = false ∧
    bits (0x108#32).toNat 10 1 = bits (ringOn.reg (ringReg 63 8)) 10 1 ∧ tabOk {} ringOn.sched.rings = true := by decide

theorem witness_StatesAndTilePower :
    Arrives ready q0 ∧ Bounded ready ∧ Managed (inMode .drain) ∧ (inMode .maint).cfg.mode = .maint ∧ (inMode .maint).reg 0x14010 = 0 ∧
    (inMode .maint).reg 0x14014 = 0 ∧ (inMode .pair).cfg.mode ≠ .drain ∧ (0#32).toNat = ready.reg 0x14010 ∧
    (2#32).toNat ≠ ready.reg 0x14010 ∧ ((List.range 33).all fun t => !ready.inService t || ready.awake t) = true := by decide

/-- A commit that tile 31 has not adopted, its present window register `old`. -/
def adopting (old : Word) (rounds : List Round) : State :=
  { ready with cfg := { ready.cfg with pendingUnits := [31], adopted := [(31, [(0x3104, old)])] }
               sched := { ready.sched with rounds := rounds } }

theorem witness_CommitRunsAndIsAdopted :
    Arrives ready q0 ∧ Bounded ready ∧ ready.cfg.pendingUnits = [] ∧ bit (1#32).toNat 0 = true ∧ bit (0#32).toNat 0 = false ∧
    (31#6).toNat ∈ (adopting 5 []).cfg.pendingUnits ∧ (adopting 5 []).cfg.commitAgain = 0 ∧ (32#6).toNat ∉ ready.cfg.pendingUnits ∧
    (∀ r ∈ (adopting 5 []).sched.rounds, r.tile ≠ (31#6).toNat) ∧ bit (ready.reg 0x310C) 0 = false ∧
    (5#32).toNat ≠ (adopting 5 []).reg 0x3104 := by decide

theorem witness_TranslatorAndFaultQueue :
    Arrives ready q0 ∧ Managed ready ∧ Bounded ready ∧ ready.host.faults = [] ∧ ((List.range 64).all fun r => !ready.ringBusy r) = true ∧
    ringOn.ringBusy 63 = true ∧ ahead (ready.reg 0xC028) (0#32).toNat ≤ ahead (ready.reg 0xC028) (ready.reg 0xC024) ∧
    ahead (ready.reg 0xC028) (ready.reg 0xC024) < ahead (ready.reg 0xC028) (1#32).toNat := by decide

/-- An open fault of tile 31, place 255, generation 9, with two requesters. -/
def fault : HatFault :=
  { tile := 31, place := 255, gen := 9, acc := 0, both := false, cause := 1, level := 1, page := 5
    who := [(.intake 0, 10), (.record 3, 20)], opened := 0, ring := none, kind := 0, seq := 0, ctx := 0 }

def faulted : State := { ready with host := { ready.host with faults := [fault] } }

theorem witness_FaultIsRetriedOrFailed :
    Arrives faulted q0 ∧ Managed faulted ∧ faulted.host.faultOf (0x091FFF#24).toNat = some fault ∧
    faulted.host.faultOf (0x0A1FFF#24).toNat = none ∧ faulted.host.faultOf (0x093FFF#24).toNat = none := by decide

theorem witness_BistAndBurnsRun :
    Arrives ready q0 ∧ Managed ready ∧ bit (0x80000001#32).toNat 31 = true ∧ cmdTarget (0x80000005#32).toNat ≤ 5 ∧
    ready.hasTile (cmdTile (0x800000F9#32).toNat) = true ∧ tget 0 ready.test.running 31 = 0 ∧
    ready.indexOk (0x800FFFF9#32).toNat = false ∧ ready.indexOk (0x800000F9#32).toNat = true ∧ cmdTarget (0x800000F9#32).toNat ≤ 1 ∧
    ready.cfg.mode ≠ .init ∧ cmdTarget (0x800000FC#32).toNat = 4 ∧ (inMode .maint).cfg.mode = .maint ∧ cmdTarget (0x800000FA#32).toNat = 2 ∧
    cmdTile (0x800000FA#32).toNat ∉ ready.errs.tileOut ∧ tget 0 (testing 1).test.running (cmdTile (0x800000F9#32).toNat) ≠ 0 ∧
    bit (0x3F#32).toNat 0 = true ∧ ready.hasTile (bits (0x3F#32).toNat 5 1) = true ∧ ready.test.repairBusy = none ∧
    (tget [] ready.test.repair (bits (0x3F#32).toNat 5 1)).length < 4096 ∧ (testing 1).test.repairBusy ≠ none := by decide

/-! The host port and the translator -/

/-- A read and a write of the host under way on module 3 of tile 31 with tag 4095 and 0; one that timed out. -/
def readReq : HReq := { tile := 31, module := 3, tag := 4095, write := false, addr := 0, bytes := 64, off := 0, page := some 5, owner := .faultQueue }
def writeReq : HReq := { readReq with tag := 0, write := true }
def deadReq : HReq := { readReq with tag := 1, dead := true }
def asking : State := { ready with host := { ready.host with reqs := [readReq, writeReq, deadReq] } }

theorem witness_ResponsesMatchTags :
    asking.hasTile (31#5).toNat = true ∧ asking.host.match ⟨31, 2, 4095⟩ = none ∧ asking.host.match ⟨31, 3, 1⟩ = some deadReq ∧
    deadReq.dead = true ∧ asking.host.match ⟨31, 3, 4095⟩ = some readReq ∧ readReq.dead = false ∧ readReq.write = false ∧
    asking.host.match ⟨31, 3, 0⟩ = some writeReq ∧ writeReq.write = true := by decide

theorem witness_InvalidationDropsCovered :
    Covers 0 0x1000 1 1 ∧ Covers 8 0x40000000 262144 262144 ∧ Covers 0xFFFFF001 0 0 1048575 ∧ Covers 2 1 0 (2 ^ 52) ∧
    ready.hasTile q0.tile.toNat = true ∧ waitingInvals (invalsWait 63) q0 < 64 ∧ 64 ≤ waitingInvals (invalsWait 64) q0 ∧
    ready.host.invals.find? (fun x => x.q = q0) = none ∧ (invalsWait 1).host.invals.find? (fun x => x.q = q0) = some ⟨q0, 0, 1⟩ ∧
    asking.host.covered ⟨q0, 5, 1⟩ = true ∧ asking.host.covered ⟨q0, 4, 1⟩ = false := by
  refine ⟨.inl ?_, .inl ?_, .inr (.inl ?_), .inr (.inr ?_), ?_⟩ <;> decide

/-- A SIZE of 3, a COUNT of 0, a misaligned page and a reserved SCOPE name no page. -/
theorem witness_InvalidationDropsCovered_malformed :
    (¬ ∃ first n, Covers 12 0 first n) ∧ (¬ ∃ first n, Covers 1 0 first n) ∧ (¬ ∃ first n, Covers 4 0x1000 first n) ∧
    (¬ ∃ first n, Covers 3 0 first n) := by
  refine ⟨?_, ?_, ?_, ?_⟩ <;> (rintro ⟨first, n, h⟩; simp [Covers, bits] at h)

/-- A part whose modules are up as listed by tile. -/
def modulesUp (up : Tab Nat) : State := { ready with host := { ready.host with up := up } }

/-- One descriptor in channel 15 of tile 31. -/
def dmaDesc : DmaDesc := { srcSpace := 0, dstSpace := 1, host := 4096, count := 65, owner := .record 0 }
def dmaBusy (err : Word) : State :=
  { ready with regs := tset 0#32 resetRegs 0xD004 err, host := { ready.host with dma := [(31 * 16 + 15, [dmaDesc])] } }

theorem witness_PacketsModulesAndDma :
    bits (0x13#32).toNat 7 0 ∉ [0x04, 0x05, 0x10, 0x11, 0x12, 0x20] ∧
    (bits (0x100011#32).toNat 7 0 ∉ [0x04, 0x05] ∧ bits (0x100011#32).toNat 23 20 ≠ 0) ∧
    (bits (0x10#32).toNat 7 0 = 0x10 ∧ bits (64#32).toNat 31 6 ≠ 0 ∧ bits (63#32).toNat 31 6 = 0 ∧ bits (0x10#32).toNat 23 20 = 0) ∧
    bits (0xF00004#32).toNat 7 0 ∈ [0x04, 0x05] ∧ (bits (0x20#32).toNat 7 0 ∈ [0x11, 0x12, 0x20] ∧ bits (0x20#32).toNat 23 20 = 0) ∧
    ready.hasTile (31#5).toNat = true ∧ ready.cfg.mode ≠ .off ∧ (1#2).toNat < ready.part.modules ∧
    bit (tget 0 (modulesUp [(31, 8)]).host.up (31#5).toNat) (0#2).toNat = false ∧
    bit (tget 0 (modulesUp [(31, 8)]).host.up (31#5).toNat) (3#2).toNat = true ∧ tabOk 0 (modulesUp [(31, 8)]).host.up = true ∧
    0 < ready.part.tiles ∧ tget 0 (modulesUp [(0, 1), (31, 8)]).host.up 0 ≠ 0 ∧
    tget [] ready.host.dma ((31#5).toNat * 16 + (15#4).toNat) = [] ∧
    tget [] (dmaBusy 0).host.dma ((31#5).toNat * 16 + (15#4).toNat) = [dmaDesc] ∧ Bounded (dmaBusy 0) ∧
    bit ((dmaBusy 0x80000000#32).reg 0xD004) 31 = true ∧ bit ((dmaBusy 0).reg 0xD004) 31 = false := by decide

/-- A host that maps one page: four levels of tables from page 1 on, the leaf at level 1 with every right. -/
def pteView (leaf : Nat) (busErr : List (Nat × Nat)) : HostView :=
  ⟨[(0x1000, leBytes 8 0x2001), (0x2000, leBytes 8 0x3001), (0x3000, leBytes 8 0x4001), (0x4000, leBytes 8 leaf)], busErr, []⟩

/-- A walk of page 0 of tile 31, its table root in page 1. -/
def walk0 : Walk := { tile := 31, page := 0, acc := 0, both := false, who := [(.intake 0, none)] }
def walking : State := { ready with regs := tset 0#32 resetRegs 0xC008 0x1000#32, host := { ready.host with walks := [walk0] } }

theorem witness_WalkFillsFaultsOrExpires :
    walking.hasTile (31#5).toNat = true ∧ ready.host.walks.filter (fun k => k.tile = (31#5).toNat && k.page = (0#48).toNat / 4096) = [] ∧
    walking.host.walks.filter (fun k => k.tile = (31#5).toNat && k.page = (4095#48).toNat / 4096) = [walk0] ∧
    walkFrom (pteView 0x900F []) 0 0 false 4 (walking.reg64 0xC008 / 4096) = .leaf 1 0x900F 4 ∧
    walkFrom (pteView 0 []) 0 0 false 4 (walking.reg64 0xC008 / 4096) = .fault 0 0 ∧
    walkFrom (pteView 0 [(0x4000, 8)]) 0 0 false 4 (walking.reg64 0xC008 / 4096) = .bus ∧
    ready.host.faults.find? (fun f => f.tile = (31#5).toNat && f.place = (255#8).toNat) = none ∧
    faulted.host.faults.find? (fun f => f.tile = (31#5).toNat && f.place = (255#8).toNat) = some fault ∧
    (∃ p ∈ fault.who, p.2 ≠ fault.due) ∧ (∀ p ∈ ({ fault with who := [(.intake 0, 10)] } : HatFault).who, p.2 = 10) := by decide

/-! Intake, scheduling, completion -/

/-- The words of a NOP descriptor, of one with a reserved word set, and of an unknown kind. -/
def intaking (words : List Nat) (full : Bool) : State :=
  { ready with
    regs := [(0x2008, 0x109#32), (0x200C, 1#32), (0x201C, if full then 16#32 else 15#32), (0xC000, 1#32), (0xF010, 4#32)]
    sched := { ready.sched with rings := [(0, { reading := words })] } }

def nopWords : List Nat := 0x7F :: List.replicate 15 0

theorem witness_IntakeHoldsRefusesOrAccepts :
    Bounded (intaking nopWords false) ∧ ready.nextRing = none ∧ (intaking nopWords false).cfg.mode = .ready ∧
    (intaking nopWords false).errs.takeover = false ∧ (intaking nopWords false).nextRing = some 0 ∧
    (intaking nopWords true).nextRing = some 0 ∧ (intaking nopWords true).slotFree 0 = false ∧
    (intaking nopWords false).slotFree 0 = true ∧ ((intaking nopWords false).ring 0).reading ≠ [] ∧
    (intaking nopWords false).descOk { id := 0, ring := 0, seq := 0, desc := nopWords } = true ∧ isBatch 0x7F = false ∧
    (intaking nopWords false).fits 0 [(0, 1)] = true ∧
    (intaking [0x10] false).descOk { id := 0, ring := 0, seq := 0, desc := [0x7E] } = false := by decide +kernel

/-- A ring whose descriptor is held. -/
def held (aged : Bool) : State := { ready with sched := { ready.sched with rings := [(63, { heldTrk := true, aged := aged })] } }

/-- One item of a job in a state, and a round that holds it. -/
def itemIn (i : Item) (rounds : List Round) : State :=
  { ready with sched := { ready.sched with jobs := [{ id := 7, ring := 0, seq := 0, desc := [0x10], items := [i] }], rounds := rounds } }

def round0 : Round := { tile := 31, frame := 0xFFFFFF, gen := 0, core := 0, rows := [(7, 0)], opened := 0, closeAt := 0 }

theorem witness_AgeingRoundsAndWindows :
    ((held false).ring (63#6).toNat).aged = false ∧ ((held false).ring (63#6).toNat).heldTrk = true ∧
    ((held true).ring (63#6).toNat).aged = true ∧ (itemIn item0 []).item 7 0 = some item0 ∧ item0.st = .running ∧
    (itemIn item0 []).ageable 7 0 item0 = false ∧ (itemIn { item0 with st := .evictWait } []).ageable 7 0 { item0 with st := .evictWait } = true ∧
    (itemIn item0 []).roundsOf 7 0 = [] ∧
    (itemIn item0 [round0]).roundsOf 7 0 = [round0] ∧ (itemIn item0 []).item 7 1 = none ∧
    (itemIn { item0 with st := .evictWait } []).item 7 0 = some { item0 with st := .evictWait } ∧
    ready.hasTile (31#5).toNat = true ∧
    (itemIn item0 [round0]).sched.rounds.find? (fun r => r.tile = (31#5).toNat && r.frame = (0xFFFFFF#24).toNat &&
      decide (r.closeAt ≤ ready.now)) = some round0 ∧
    ready.sched.rounds.find? (fun r => r.tile = (31#5).toNat && r.frame = (0xFFFFFF#24).toNat && decide (r.closeAt ≤ ready.now)) = none ∧ Bounded ready ∧
    tget 0 [(31, 1023)] 31 < 1024 ∧ 1024 ≤ tget 0 [(31, 1024)] 31 ∧ 8191 * 4 < 32 * 1024 ∧ 32 * 1024 ≤ 8192 * 4 ∧
    24575 * 4 < 96 * 1024 ∧ 96 * 1024 ≤ 24576 * 4 := by decide

/-- A NOP that waits on tile 0. -/
def waiting : State :=
  { ready with sched := { ready.sched with jobs := [{ id := 0, ring := 0, seq := 0, desc := nopWords, items := [{ tile := 0, entry := 0 }] }] } }

theorem witness_DispatchStartsReadyItem :
    (inMode .maint).dispatches 0 = false ∧ ready.dispatches 31 = true ∧ ready.readyItems 31 = [] ∧ waiting.dispatches 0 = true ∧
    waiting.readyItems 0 = [({ id := 0, ring := 0, seq := 0, desc := nopWords, items := [{ tile := 0, entry := 0 }] }, 0, { tile := 0, entry := 0 })] ∧
    isBatch 0x7F = false ∧ waiting.jobNeeds { id := 0, ring := 0, seq := 0, desc := nopWords, items := [{ tile := 0, entry := 0 }] } = [] ∧
    waiting.host.failed = [] ∧ waiting.agedWaits = false := by decide +kernel

/-- An entry of a batch, and a batch job whose item has computed. -/
def entry0 : Entry := { handle := 0, first := 0, count := 1, slots := [], rows := 0, pos0 := 0, klen := 0, kspan := 0 }
def batchJob (kind : Nat) (i : Item) : Job := { id := 0, ring := 0, seq := 0, desc := [kind], entries := [entry0], items := [i] }
def withJob (j : Job) : State := { ready with sched := { ready.sched with jobs := [j], nextJob := 1 } }
def computed0 : Item := { item0 with st := .computed }

theorem witness_ItemsComplete :
    (inMode .off).engineOn = false ∧ (withJob (batchJob 0x10 computed0)).engineOn = true ∧
    (withJob (batchJob 0x10 computed0)).job 0 = some (batchJob 0x10 computed0) ∧
    (withJob (batchJob 0x10 computed0)).item 0 0 = some computed0 ∧ computed0.st = .computed ∧ computed0.writesLeft = 0 ∧
    (batchJob 0x10 computed0).migs = [] ∧ item0.st ≠ .computed ∧ isBatch (batchJob 0x7F computed0).kind = false ∧
    isBatch (batchJob 0x10 computed0).kind = true ∧ failing ({ computed0 with status := 0x41 } : Item).status = true ∧
    failing computed0.status = false ∧ (batchJob 0x10 computed0).entries[computed0.entry]? = some entry0 := by decide +kernel

/-- A receive window of an item, open, with and without its WFENCE. -/
def withWindow (fenced : Bool) : State :=
  { withJob (batchJob 0x10 computed0) with
    cores := { ready.cores with windows := [(8, { opened := true, fenced := fenced, owner := some (0, 0) })] } }

theorem witness_ItemsComplete_window :
    (withWindow false).engineOn = true ∧ ((withWindow false).itemEvents 0 0 []).windowsFenced 0 0 = false ∧
    ((withWindow true).itemEvents 0 0 []).windowsFenced 0 0 = true := by decide +kernel

theorem witness_ItemsComplete_result :
    (∃ o, (withJob (batchJob 0x10 computed0)).itemResult (batchJob 0x10 computed0) 0 computed0 = some o) ∧
    (∀ n ∈ (withJob (batchJob 0x10 computed0)).needsOf (batchJob 0x10 computed0) 0 computed0, ∃ p ∈ computed0.trans, p.1 = n.page) :=
  ⟨⟨_, rfl⟩, by decide +kernel⟩

/-- A merge tree of two leaves that lacks its root. -/
def rootless : Item := { computed0 with rows := [{ stream := 0, member := 0, row := 0, pos := 0, leaves := 2 }] }

/-- A settled NOP, its ring's slots in place, with and without a page of the completion ring translated. -/
def done (look : List (Nat × LookEntry)) (failed : List (Waiter × Nat)) : State :=
  { ready with
    regs := [(0x2008, 0x109#32), (0xC000, 1#32), (0xF010, 4#32)]
    host := { ready.host with look := look, failed := failed, up := [(0, 1)] }
    sched := { ready.sched with jobs := [{ id := 0, ring := 0, seq := 0, desc := nopWords, st := .settled
                                           items := [{ tile := 0, entry := 0, st := .done }] }]
                                rings := [(0, { irqWant := true })] } }

def look0 : LookEntry := { size := 0, first := 0, run := 1, pa := 0, r := true, w := true, a := false }

theorem witness_RecordsAndMessages :
    ready.job 0 = none ∧ (∃ j, (done [] []).job 0 = some j ∧ (done [] []).statsDue j = false ∧ (done [] []).mayRecord j = true) ∧
    (∃ tr t, (done [(0, look0)] []).translateAll 0 (.record 0) (needs 0 32 1) = .ok tr t) ∧
    (∃ t, (done [] []).translateAll 0 (.record 0) (needs 0 32 1) = .wait t) ∧
    ∃ e t, (done [] [(.record 0, 0x40)]).translateAll 0 (.record 0) (needs 0 32 1) = .failed e t :=
  ⟨rfl, ⟨_, rfl, rfl, rfl⟩, ⟨_, _, rfl⟩, ⟨_, rfl⟩, _, _, rfl⟩

theorem witness_RecordsAndMessages_message :
    (∃ tr t, (done [(0, look0)] []).translateAll 0 (.irq (0#6).toNat) (needs 0 4 1) = .ok tr t) ∧
    ∃ e t, (done [] [(.irq 0, 0x40)]).translateAll 0 (.irq (0#6).toNat) (needs 0 4 1) = .failed e t := ⟨⟨_, _, rfl⟩, _, _, rfl⟩

theorem witness_RecordsAndMessages_wanted :
    (done [] []).irqWanted (.ring 0) = true ∧ (done [] []).holdoffPassed (.ring 0) = true ∧ ready.irqWanted .twin = false ∧
    (done [] []).cfg.mode ≠ .off := by decide

theorem witness_ItemsComplete_rootless : (withJob (batchJob 0x11 rootless)).itemResult (batchJob 0x11 rootless) 0 rootless = none := rfl

/-! Jobs of contexts, prefixes and pages -/

theorem witness_IdleJobCommandsChangeNothing :
    (Instr.nop 7, 0, 0x7F) ∈ [(Instr.barrier 7, 0, 0x50), (.phaseSwitch 7, 0, 0x51), (.nop 7, 0, 0x7F)] ∧ (inMode .maint).job 7 = none ∧
    (inMode .off).engineOn = false ∧ (waiting.item 0 0).map (fun i => i.st) = some .waiting := by decide +kernel

/-- A running job whose item holds a translation of page 0, on a part with a row and a slot of the park table. -/
def item1 : Item := { item0 with trans := [(0, 0)] }
def job1 (words : List Nat) : Job := { id := 0, ring := 0, seq := 0, desc := words, items := [item1] }
def onJob (words : List Nat) (row : CtxRow) : State :=
  { ready with
    sched := { ready.sched with nextJob := 1, jobs := [job1 words] }
    store := { ready.store with rows := if row = {} then [] else [(0, row)] } }

theorem witness_ControlJobsEnd :
    Runs (onJob [0x7F] {}) 0 0 0x7F (job1 [0x7F]) item1 ∧ Runs (onJob [0x50] {}) 0 0 0x50 (job1 [0x50]) item1 ∧
    Runs (onJob [0x51, 0, 0, 0, 0] {}) 0 0 0x51 (job1 [0x51, 0, 0, 0, 0]) item1 ∧ bit ((job1 [0x51, 0, 0, 0, 0x10]).word 4) 5 = false ∧
    bit ((job1 [0x51, 0, 0, 0, 0x10]).word 4) 4 = true ∧ (onJob [0x51, 0, 0, 0, 0x10] {}).phaseJobs (job1 [0x51, 0, 0, 0, 0x10]) = [] ∧
    (onJob [0x51, 0, 0, 0, 0x10] {}).phaseWaits 0 = false := by decide +kernel

/-- An earlier job of the class whose record is not written, and a started append to a row the switch would close. -/
def switching (e : Job) : State :=
  { onJob [0x51, 0, 0, 0, 0x11] { state := 1 } with
    sched := { ready.sched with nextJob := 9, jobs := [e, { job1 [0x51, 0, 0, 0, 0x11] with id := 8 }] } }

theorem witness_ControlJobsEnd_waits :
    (switching { id := 0, ring := 0, seq := 0, desc := [0x10F] }).phaseJobs { job1 [0x51, 0, 0, 0, 0x11] with id := 8 } ≠ [] ∧
    (switching { batchJob 0x10 { item0 with started := true } with desc := [0x10] }).phaseWaits 0 = true := by decide +kernel

/-- A host that refuses its first 64 bytes. -/
def badHost : HostView := ⟨[], [(0, 64)], []⟩

/-- A part whose rows are all taken: AE-S, whose twin withholds them. -/
def fullTable (words : List Nat) : State := { onJob words {} with part := .aeS, twin := { st := .paired, mode := 1, role := true } }

theorem witness_ContextsOpenAndClose :
    Runs (onJob [1, 0, 0, 0, 0, 1] {}) 0 0 0x01 (job1 [1, 0, 0, 0, 0, 1]) item1 ∧
    readVirt badHost item1.trans ((job1 [1, 0, 0, 0, 0, 1]).dword 9) (4 * bits ((job1 [1, 0, 0, 0, 0, 1]).word 5) 8 0) = .fail 0x41 ∧
    readVirt noHost item1.trans 0 0 = .ok [] ∧ (onJob [1] {}).openListOk (job1 [1]) [] = false ∧
    (onJob [1, 0, 0, 0, 0, 0xFFFF0000, 0xFF] {}).openListOk (job1 [1, 0, 0, 0, 0, 0xFFFF0000, 0xFF]) [] = true ∧
    (onJob [1] {}).lowestRows 1 = [0] ∧ (fullTable [1]).lowestRows 1 = [] ∧ tabOk {} (onJob [1] {}).store.rows = true ∧
    Runs (onJob [2, 0, 0, 0, 0] { state := 1 }) 0 0 0x02 (job1 [2, 0, 0, 0, 0]) item1 ∧ (onJob [2] {}).live? 0 = none ∧
    (onJob [2] { state := 1 }).live? 0 = some 0 ∧ ((onJob [2] { state := 1 }).row 0).state ≠ 2 ∧
    (onJob [2] { state := 3 }).live? 0 = some 0 ∧ ((onJob [2] { state := 3 }).row 0).state = 3 := by decide +kernel

/-- A park record of an empty row, and the slot that matches it. -/
def parkRec : List Byte := zeroBytes 2312 ++ leBytes 4 (crc32c (zeroBytes 2312)).toNat ++ zeroBytes 52
def parked : State :=
  { onJob [5] {} with store := { ready.store with slots := [(0, { valid := true, crc := (crc32c (zeroBytes 2312)).toNat })] } }

theorem witness_ContextJobsCheckState :
    Runs (onJob [3] {}) 0 0 0x03 (job1 [3]) item1 ∧ Runs (onJob [4] {}) 0 0 0x04 (job1 [4]) item1 ∧
    Runs (onJob [5] {}) 0 0 0x05 (job1 [5]) item1 ∧ Runs (onJob [0x32] {}) 0 0 0x32 (job1 [0x32]) item1 ∧
    (onJob [3] {}).live? ((job1 [3]).word 4) = none ∧ (onJob [3] { state := 4 }).live? 0 = some 0 ∧
    ((onJob [3] { state := 4 }).row 0).state ≠ 1 ∧ ((onJob [3] { state := 1 }).row 0).state = 1 ∧
    (onJob [3, 0, 0, 0, 0, 0] { state := 1 }).forkRefusal (job1 [3, 0, 0, 0, 0, 0]) = none ∧
    (onJob [4] { state := 1 }).freeSlot = some 0 ∧ item1.writeStatus = 0 ∧ (job1 [5]).claim = [] ∧
    readVirt badHost item1.trans ((job1 [5]).dword 4) 2368 = .fail 0x41 ∧ ((onJob [0x32] { state := 4 }).row 0).lostPage * 64 < 1 ∧
    ((onJob [0x32] { state := 4 }).row 0).state = 4 := by decide +kernel

theorem witness_ContextJobsCheckState_pages : ∃ f u, (onJob [3] { state := 1 }).findPages 0 item1 ((onJob [3] { state := 1 }).allPages 0) = (f, u) ∧
    f.wait = false ∧ f.cold = [] := ⟨_, _, rfl, rfl, rfl⟩

set_option maxRecDepth 200000 in
theorem witness_ContextJobsCheckState_record :
    fieldAt parkRec 2312 4 = (crc32c (parkRec.take 2312)).toNat ∧ (parked.slotAt (fieldAt parkRec 2304 2)).crc = fieldAt parkRec 2312 4 ∧
    (parked.slotAt (fieldAt parkRec 2304 2)).valid = true ∧ (parked.slotAt (fieldAt parkRec 2304 2)).gen = fieldAt parkRec 2306 2 ∧
    parked.unparkRow parkRec = some 0 ∧ fieldAt (zeroBytes 2368) 2312 4 ≠ (crc32c ((zeroBytes 2368).take 2312)).toNat ∧
    readVirt noHost item1.trans 0 2368 = .ok (zeroBytes 2368) := by decide +kernel

/-- A batch job whose item runs on an entry without rows, in a row of head dimension 64 and token span 64. -/
def batching (kind : Nat) (rounds : List Round) : State :=
  { withJob (batchJob kind item1) with
    sched := { ready.sched with jobs := [batchJob kind item1], nextJob := 1, rounds := rounds }
    store := { ready.store with rows := [(0, { state := 1, hd := 64, tspan := 64, group := 1, qn := 255, kn := 255, turn := 255 })] } }

theorem witness_AppendStagesItsPages :
    (batchJob 0x10 item1).entries[item1.entry]? = some entry0 ∧ Runs (batching 0x10 []) 0 0 0x10 (batchJob 0x10 item1) item1 ∧
    (batching 0x10 []).yields item1 = false ∧ readVirt noHost item1.trans (entry0.slot 0) (entry0.kvBytes (fmtOf 0) 64) = .ok [] := by
  decide +kernel

theorem witness_AppendStagesItsPages_stages : ∃ ps acc u,
    runFM ((batching 0x10 []).stageEntry ((batching 0x10 []).appendCtl (batchJob 0x10 item1) item1 0 entry0) (batchJob 0x10 item1) 0 0 entry0
      [] []) = (ps, acc) ∧
    (batching 0x10 []).acquireAppend (batchJob 0x10 item1) 0 item1 entry0 0 (reencoded ps) = (u, true) := ⟨_, _, _, rfl, rfl⟩

/-- An aged item that waits for frames, before which another append yields. -/
def yielding : State :=
  { batching 0x10 [] with regs := [(0x3108, 1#32)], sched := { (batching 0x10 []).sched with jobs :=
      [batchJob 0x10 item1, { batchJob 0x10 { item1 with st := .evictWait, aged := 1 } with id := 1 }] } }

theorem witness_AppendStagesItsPages_yields : yielding.yields item1 = true := by decide +kernel

/-- An append of one row whose first 64 bytes the host refuses. -/
def entry1 : Entry := { entry0 with rows := 1 }
def item2 : Item := { item1 with bind := { commit := [(0x8020, 0xFFFFFFFF#32)] } }
def oneRow : Job := { batchJob 0x10 item2 with entries := [entry1] }
def onRow : State := { withJob oneRow with store := (batching 0x10 []).store }

theorem witness_AppendStagesItsPages_fails : Runs onRow 0 0 0x10 oneRow item2 ∧
    readVirt badHost item2.trans (entry1.slot 0) (entry1.kvBytes (fmtOf 0) 64) = .fail 0x41 ∧
    (onRow.acquireAppend oneRow 0 item2 entry1 0 (fun _ => false)).2 = true := by decide +kernel

theorem witness_AttentionItemsCompute :
    Runs (batching 0x11 []) 0 0 0x11 (batchJob 0x11 item1) item1 ∧ Runs (batching 0x12 []) 0 0 0x12 (batchJob 0x12 item1) item1 ∧
    Runs (batching 0x14 []) 0 0 0x14 (batchJob 0x14 item1) item1 ∧ Runs (batching 0x13 []) 0 0 0x13 (batchJob 0x13 item1) item1 ∧
    (batching 0x12 []).roundsOf 0 0 = [] ∧ entry0.app ≠ 2 ∧ (batchJob 0x12 item1).appends 0 item1 = false ∧
    bit (batchJob 0x12 item1).ctl 10 = false ∧ (batching 0x11 [{ round0 with rows := [(0, 0)] }]).roundsOf 0 0 ≠ [] ∧
    ({ item1 with leafAt := [(0, 0)] } : Item).leafAt ≠ [] := by decide +kernel

theorem witness_AttentionItemsCompute_bound :
    PagesBound (batching 0x12 []) (batchJob 0x12 item1) item1 entry0 ∧ PagesBound (batching 0x13 []) (batchJob 0x13 item1) item1 entry0 ∧
    (∃ xs, (batchJob 0x12 item1).readRows noHost item1 entry0 0 0 = .ok xs) ∧
    (∃ xs, (batchJob 0x13 item1).readBwd noHost item1 entry0 0 0 = .ok xs) :=
  ⟨⟨rfl, by decide +kernel⟩, ⟨rfl, by decide +kernel⟩, ⟨_, rfl⟩, ⟨_, rfl⟩⟩

theorem witness_PrefixJobsMatchInTurn :
    Runs (onJob [0x20] {}) 0 0 0x20 (job1 [0x20]) item1 ∧ Runs (onJob [0x21] {}) 0 0 0x21 (job1 [0x21]) item1 ∧
    Runs (onJob [0x22] {}) 0 0 0x22 (job1 [0x22]) item1 ∧ (onJob [0x20] {}).treeTurn (job1 [0x20]) = true ∧
    ({ onJob [0x21] {} with sched := { (onJob [0x21] {}).sched with jobs := [{ job1 [0x21] with begun := true, items := [{ item1 with started := true }] }] } } :
      State).treeTurn { job1 [0x21] with id := 1 } = false ∧ (onJob [0x20] {}).live? 0 = none ∧
    (onJob [0x20] { state := 4 }).live? 0 = some 0 ∧ ((onJob [0x20] { state := 4 }).row 0).state ≠ 1 ∧
    (onJob [0x20] { state := 1 }).live? 0 = some 0 ∧ (onJob [0x20] { state := 1 }).streamsOf 0 = [] ∧
    readVirt badHost item1.trans 0 4 = .fail 0x41 ∧ readVirt noHost item1.trans 0 0 = .ok [] ∧ (job1 [0x21]).build = [] ∧
    ([] : List Nat).length < (job1 [0x20, 0, 0, 0, 0, 0, 1]).word 6 ∧ bit ((job1 [0x22]).word 4) 0 = false ∧
    bit ((job1 [0x22, 0, 0, 0, 1, 0, 16384]).word 4) 0 = true ∧ 16384 ≤ (job1 [0x22, 0, 0, 0, 1, 0, 16384]).word 6 ∧
    ((onJob [0x22] { state := 1 }).live? 0).isSome = true := by decide +kernel

theorem witness_PrefixJobsMatchInTurn_match : ∃ ns u, (onJob [0x20] { state := 1, tspan := 64 }).matchPages
      (((onJob [0x20] { state := 1, tspan := 64 }).row 0).run false true) 0 0 noHost []
      ((onJob [0x20] { state := 1, tspan := 64 }).runHashes (((onJob [0x20] { state := 1, tspan := 64 }).row 0).run false true) 0 []) 0 [] [] =
    (ns, MatchEnd.done, u) := ⟨_, _, rfl⟩

/-- A declared QK-norm table at a generation, with a load of job 0 at its front or behind another. -/
def table0 (gen : Nat) (loading : List Nat) (old : Nat) : TableDef :=
  { kind := 1, num := 3, size := 64, bands := 1, base0 := 0, base1 := 64, gen := gen, loading := loading, refsOld := old }
def withTable (t : TableDef) (words : List Nat) : State :=
  { onJob words {} with cfg := { ready.cfg with tables := [t] }, host := { ready.host with look := [(0, look0)] } }
def loadWords : List Nat := [0x840, 0, 0, 0, 0x301, 1, 0, 0]

theorem witness_MovesAndTableLoads :
    Runs (onJob [0x30] {}) 0 0 0x30 (job1 [0x30]) item1 ∧ Runs (onJob [0x31] {}) 0 0 0x31 (job1 [0x31]) item1 ∧
    (onJob [0x30] {}).runsMoves ((job1 [0x30]).word 4) = none ∧ (onJob [0x30] { state := 4 }).runsMoves 0 = some 0 ∧
    Runs (withTable (table0 0 [0] 0) loadWords) 0 0 0x40 (job1 loadWords) item1 ∧
    (withTable (table0 0 [0] 0) loadWords).loadTable (job1 loadWords) = some (table0 0 [0] 0) ∧ (table0 0 [0] 1).waits 0 = true ∧
    (table0 0 [5, 0] 0).waits 0 = true ∧ (table0 0 [0] 0).waits 0 = false ∧ (job1 loadWords).nonblock = true ∧
    (job1 [0x40]).nonblock = false ∧ tableBytesOk 1 (padTo 64 [3#8]) = false ∧ tableBytesOk 1 (padTo 64 [0#8]) = true ∧ (table0 0xFFFFFFFF [0] 0).gen % 2 = 1 ∧
    (table0 0 [0] 0).gen % 2 = 0 := by decide +kernel

theorem witness_MovesAndTableLoads_bytes :
    (∃ tr u, (withTable (table0 0 [0] 0) loadWords).translateAll 0 (.item 0 0) (needs 0 1 0) = .ok tr u ∧
      readVirt ⟨[(0, [3#8])], [], []⟩ tr 0 1 = .ok [3#8] ∧ readVirt noHost tr 0 1 = .ok [0#8] ∧ u.rowsInUse = []) :=
  ⟨_, _, rfl, rfl, rfl, rfl⟩

/-! Cores, pages in transit, repairs -/

/-- A running item whose page 0 lies in a frame of tile 0, and a nest of its leaves that opens window 7. -/
def itemBound : Item :=
  { item1 with bind := { pages := [(0, 0, 0)], lens := [1], ctx := { hd := 64, tspan := 64, group := 1, qn := 255, kn := 255 } } }
def jobBound : Job := batchJob 0x11 itemBound
def nestWords : List Nat := [0x80000000] ++ List.replicate 45 0 ++ [0x30000, 0]
def nested : State :=
  { withJob jobBound with
    cfg := { ready.cfg with nests := [⟨0, [0x80000000] ++ List.replicate 45 0 ++ [768 * 2 ^ 18, 0]⟩]
                            selects := [⟨0x11, 6, 16, 0, 64, 64, 0, 0⟩] }
    store := { ready.store with rows := [(0, { state := 1, hd := 64, tspan := 64, group := 1, qn := 255, kn := 255 })] } }

/-- The core that the item's page names. -/
def coreB : CoreId := coreOf ((nested.itemCores jobBound 0 itemBound).headD 0)

/-- A part with an open window 7 on core 0. -/
def opened (credits unread : Nat) : State :=
  { ready with cores := { ready.cores with windows := [(7, { base := 0x20000, size := 768, pos := 767, credits := credits
                                                             unread := unread, opened := true })] } }

theorem witness_ScratchpadsAndWindows :
    ready.hasTile core0.tile.toNat = true ∧ ready.powered core0.tile.toNat = true ∧
    ready.reaches core0 (0#2).toNat (0xBFFC#16).toNat (1#16).toNat = true ∧ ready.reaches core0 (0#2).toNat (0xBFFE#16).toNat (1#16).toNat = false ∧
    ({ ready with health := { ready.health with tiles := [(0, { power := 2 })] } } : State).powered core0.tile.toNat = false ∧
    ((opened 0 768).window core0.key (7#3).toNat).opened = true ∧ (768#10).toNat ≤ ((opened 0 768).window core0.key (7#3).toNat).unread ∧
    ((opened 1 767).window core0.key (7#3).toNat).unread < (768#10).toNat ∧ (ready.window core0.key (7#3).toNat).opened = false ∧
    ready.windowFor core0.key (7#3).toNat = none ∧ 0 < ((opened 1 767).window core0.key (7#3).toNat).credits ∧
    State.tablesOk (opened 1 767) = true := by decide +kernel

theorem witness_ScratchpadsAndWindows_opens : ∃ y, (nested.window coreB.key (7#3).toNat).opened = false ∧
    nested.windowFor coreB.key (7#3).toNat = some y ∧ (768#10).toNat = y.size ∧ (767#10).toNat ≠ y.size ∧ nested.hasTile coreB.tile.toNat = true :=
  ⟨_, by decide +kernel, rfl, rfl, by decide, by decide +kernel⟩

/-- A core of tile 31 out of service, with or without spares left, and one out for good. -/
def core31 : CoreId := ⟨31, 39, 51⟩
def coreLost (spares : Tab Nat) (retired : List Nat) : State :=
  { ready with errs := { ready.errs with coresOut := [core31.key], sparesUsed := spares, coresRetired := retired } }

theorem witness_CoreFaultsAndSpares :
    (coreLost [] []).hasTile core31.tile.toNat = true ∧ (coreLost [] []).hasCore core31 = true ∧
    ready.errs.coresOut.contains core31.key = false ∧ ready.hasCore ⟨31, 40, 0⟩ = false ∧ core31.key ∈ (coreLost [] []).errs.coresOut ∧
    core31.key ∉ (coreLost [] []).errs.coresRetired ∧ core31.key ∈ (coreLost [] [core31.key]).errs.coresRetired ∧
    lowestClear 2 (tget 0 (coreLost [(31 * 64 + 39, 1)] []).errs.sparesUsed (31 * 64 + 39)) = some 1 ∧
    lowestClear 2 (tget 0 (coreLost [(31 * 64 + 39, 3)] []).errs.sparesUsed (31 * 64 + 39)) = none := by decide +kernel

/-- Settings of the retention of control SRAMs, and a bank tested a moment ago, at retention, or on its shadow. -/
def srams (at_ : Tab Nat) (retained : List Nat) (shadowed : List (Nat × Nat)) : State :=
  { ready with
    regs := [(0x1400C, 1#32), (0xF010, 4#32)]
    cores := { ready.cores with regionAt := at_, retained := retained, shadowed := shadowed }
    health := { ready.health with now := 1000000 } }

theorem witness_ScratchpadsAreScrubbedAndScreened :
    ready.hasCore core31 = true ∧ ready.scrubs core31 = true ∧ (inMode .init).scrubs core31 = false ∧ ready.inCache core31.key 0 0 = false ∧ ready.idleCache core31.key 0 0 = false ∧
    ({ ready with cores := { ready.cores with cacheSize := [(core31.key, 1)] } } : State).inCache core31.key 3 0x8000 = true ∧
    ({ ready with regs := [(0x1040, 3#32)] } : State).idleCache core31.key 3 0x8000 = true ∧
    bit ((srams [] [] []).liveFor (31#5).toNat 0x1400C) 0 = true ∧ (srams [] [] []).powered (31#5).toNat = true ∧
    (srams [] [] []).hasBank (31#5).toNat (3#3).toNat = true ∧ (srams [] [] []).hasBank (31#5).toNat (4#3).toNat = false ∧
    bit (ready.liveFor (31#5).toNat 0x1400C) 0 = false ∧ (srams [] [] []).cores.retained.contains (31 * 8 + 3) = false ∧
    (srams [] [31 * 8 + 3] []).cores.retained.contains (31 * 8 + 3) = true ∧ tget 0 (srams [(31 * 8 + 3, 1)] [] []).cores.regionAt (31 * 8 + 3) + 999999 ≤ (srams [] [] []).now ∧
    (srams [] [] []).now < tget 0 (srams [(31 * 8 + 3, 2)] [] []).cores.regionAt (31 * 8 + 3) + 999999 ∧
    (31 * 8 + 3, 0) ∈ (srams [] [] [(31 * 8 + 3, 0)]).cores.shadowed ∧ (31 * 8 + 3, 0) ∉ (srams [] [] []).cores.shadowed := by decide +kernel

/-- Merging items: a forward row of two null leaves; backward rows with dQ of two contributions, key gradients of two query
blocks, and, under CANON, of waves of 64. -/
def leaf2 (lo : Nat) : TreeNode := ⟨lo, 1, nullLeaf 1⟩
def grad (tile lo n : Nat) : GradNode := ⟨tile, lo, n, [(0x3F800000#64, false)]⟩
def work0 : BwdWork := { member := 0, row := 0, cls := .computed, leaves := 65, held := [0, 0, 5], nodes := [grad 0 0 1, grad 0 1 1, grad 5 0 1] }
def forward0 : Item :=
  { computed0 with rows := [{ stream := 0, member := 0, row := 0, pos := 0, leaves := 2, nodes := [leaf2 0, leaf2 1] }] }
def backward0 (ws : List BwdWork) (n : Nat) : Item :=
  { computed0 with bwd := ws, grads := (List.range n).map (fun k => grad 0 k 1) }
def gradJob (ctl n : Nat) (i : Item) : Job :=
  { batchJob 0x13 i with desc := 0x13 :: List.replicate 15 ctl, entries := [{ entry0 with rows := 64 * n }] }
def canonWork : BwdWork := { work0 with nodes := (List.range 65).map (fun k => grad 0 k 1) }

theorem witness_ReductionsCombine :
    (withJob (batchJob 0x11 forward0)).job 0 = some (batchJob 0x11 forward0) ∧ (withJob (batchJob 0x11 forward0)).item 0 0 = some forward0 ∧
    forward0.merging = true ∧ item0.merging = false ∧ isAttend (batchJob 0x11 forward0).kind = true ∧
    (∃ w, forward0.rows[0]? = some w ∧ (w.merge (profileOf 0) true 0 2).isSome = true ∧ (w.merge (profileOf 0) true 0 1).isNone = true) :=
  ⟨rfl, rfl, rfl, rfl, rfl, ⟨_, rfl, by decide, by decide⟩⟩

theorem witness_ReductionsCombine_backward (i : Item) (j : Job) (hi : i = backward0 [work0, { work0 with applied := [5] }] 2)
    (hj : j = gradJob 0 2 i) :
    i.merging = true ∧ (withJob j).item 0 0 = some i ∧ j.kind = 0x13 ∧ bit j.ctl 10 = false ∧ i.bwd[64 / 64]? = some { work0 with applied := [5] } ∧
    (mergeNodes true work0.nodes (64 % 64) (work0.heldBy (64 % 64)) 0 2).isSome = true ∧
    (∃ e, j.entries[i.entry]? = some e ∧ (mergeNodes true (j.keyNodes i) 0 e.blocks.length 0 2).isSome = true) ∧
    (nodeVals work0.nodes 5 0 (work0.heldBy 5)).isSome = true ∧ 5 ∉ work0.applied ∧ 5 ∈ ({ work0 with applied := [5] } : BwdWork).applied := by
  subst hi hj
  exact ⟨rfl, rfl, rfl, by decide, rfl, by decide, ⟨_, rfl, by decide +kernel⟩, by decide, by decide, by decide⟩

theorem witness_ReductionsCombine_waves (i : Item) (j : Job) (hi : i = backward0 [canonWork] 65) (hj : j = gradJob 0x400 65 i) :
    i.merging = true ∧ (withJob j).item 0 0 = some i ∧ j.kind = 0x13 ∧ bit j.ctl 10 = true ∧ i.bwd[0]? = some canonWork ∧
    (∃ e, j.entries[i.entry]? = some e ∧ ∀ p ∈ j.keyPages i e, (foldWave true (j.keyNodes i) p e.blocks.length 0).isSome = true) ∧
    (foldWave true canonWork.nodes 0 canonWork.leaves 0).isSome = true := by
  subst hi hj
  exact ⟨rfl, rfl, rfl, by decide, rfl, ⟨_, rfl, by decide +kernel⟩, by decide +kernel⟩

/-! Pages in transit, repairs -/

/-- An eviction and a recall of frame 5 of tile 0. -/
def evict0 : Mig :=
  { slot := 0, evict := true, frame := 5, loc := 0, stream := 0, page := 0, home := 0, record := 0, host := 0x100000, why := .background
    issued := true, acked := true }
def recall0 : Mig := { evict0 with slot := 1, evict := false, why := .job 0 }
def moving (ms : List Mig) : State :=
  { ready with
    regs := [(0x8000, 3#32), (0x8010, 0x00100010#32), (0xF010, 4#32)]
    store := { ready.store with migs := ms, nextMig := 2, frames := [(5, { st := .moving })] } }

theorem witness_MigrationsEnd :
    ready.mig 0 = none ∧ (moving [evict0]).mig 0 = some evict0 ∧ evict0.evicted = true ∧ evict0.ofPartner = false ∧
    ({ evict0 with left := 1 } : Mig).evicted = false ∧ ({ evict0 with redo := [(0, 64)] } : Mig).redo ≠ [] ∧
    (∃ p ∈ ({ evict0 with redo := [(0, 64)], fails := [(0, 4)] } : Mig).fails, 4 ≤ p.2) ∧
    (∀ p ∈ ({ evict0 with redo := [(0, 64)], fails := [(0, 3)] } : Mig).fails, p.2 < 4) ∧
    (moving [evict0, recall0]).mig 1 = some recall0 ∧ recall0.arrived = true ∧ ({ recall0 with left := 1 } : Mig).arrived = false ∧
    ({ recall0 with status := 0x41 } : Mig).status ≠ 0 ∧ recall0.ofPartner = false ∧ ((moving [recall0]).frame recall0.frame).st = .moving := by
  decide +kernel

theorem witness_MigrationsEnd_background :
    (moving []).hasTile (0#5).toNat = true ∧ bit ((moving []).liveFor (0#5).toNat 0x8000) 0 = true ∧
    bit ((moving []).liveFor (0#5).toNat 0x8000) 1 = true ∧ (moving []).freeCount (0#5).toNat ≥ 16 ∧
    bit (ready.liveFor (0#5).toNat 0x8000) 0 = false ∧
    ({ moving [] with store := { (moving []).store with next := [(0, ready.part.frames)] } } : State).freeCount (0#5).toNat < 16 := by
  decide +kernel

/-- Parts with a repair test and a resend, a relocation, a takeover. -/
def repairing (resend : List Nat) : State := { ready with errs := { ready.errs with repairTests := [7], resending := resend } }
def relocating (busy : Bool) : State :=
  { ready with
    errs := { ready.errs with tileOut := [5], tileState := [(5, 1)], relocating := [5] }
    store := { ready.store with migs := if busy then [{ evict0 with home := 5 }] else [] } }

theorem witness_SelfRepair :
    ready.hasTile (31#5).toNat = true ∧ ready.scrubsPages (31#5).toNat = true ∧ (inMode .init).scrubsPages (31#5).toNat = false ∧
    (7#24).toNat ∈ (repairing []).errs.repairTests ∧ (7#24).toNat ∉ (repairing []).errs.resending ∧ (7#24).toNat ∈ (repairing [7]).errs.resending ∧
    tget 0 (relocating false).errs.tileState (5#5).toNat = 1 ∧ tget 0 ready.errs.tileState (5#5).toNat ≠ 1 ∧
    ({ ready with errs := { ready.errs with takeover := true, spareBuilding := true } } : State).errs.takeover = true := by decide +kernel

theorem witness_SelfRepair_relocation : ∃ u : State, u = { relocating false with errs := { (relocating false).errs with
      relocated := insertKey (5#5).toNat (relocating false).errs.relocated } } ∧
    (relocating false).relocationBusy (5#5).toNat ((relocating false).rehomed u) = false ∧
    (relocating true).relocationBusy (5#5).toNat ((relocating true).rehomed u) = true := ⟨_, rfl, by decide +kernel, by decide +kernel⟩

/-! Clocks, monitors, the time base -/

/-- Tile 31 with some health. -/
def health (h : TileHealth) : State := { ready with health := { ready.health with tiles := [(31, h)] } }

theorem witness_ClockStepsAndWakes :
    ready.hasTile (31#5).toNat = true ∧ ready.part ≠ .aeS ∧ (health { voltAlert := true }).nextTarget 31 0 = 0 ∧
    (ready.tempThr 31).2.2.1 ≤ ({ temps := [100] } : TileHealth).hot ∧ ({ temps := [90] } : TileHealth).hot < (ready.tempThr 31).2.2.1 ∧
    (ready.tempThr 31).1 ≤ ({ temps := [90] } : TileHealth).hot ∧ ({ temps := [89] } : TileHealth).hot < (ready.tempThr 31).1 ∧
    (health { temps := [100] }).nextTarget 31 0 ≠ 9 ∧ (health {}).nextTarget 31 0 = ({} : TileHealth).target ∧
    (health { switching := true, target := 8 }).tileHealth (31#5).toNat = { switching := true, target := 8 } ∧
    tabOk {} (health { switching := true, target := 8 }).health.tiles = true ∧
    (health { switching := true }).itemsWhere (fun _ i => decide (i.tile = (31#5).toNat) && i.active) = [] ∧
    ((health { power := 3 }).tileHealth (31#5).toNat).power = 3 := by decide +kernel

theorem witness_MonitorsAlertAndTrip :
    ready.hasTile (31#5).toNat = true ∧ ready.cfg.mode ≠ .off ∧ tabOk {} (health { temps := [110], voltRun := [9] }).health.tiles = true ∧
    (∀ v ∈ [(-40 : Int), 89], v ≤ 150) ∧ ({ temps := [-40, 89] } : TileHealth).hot < (ready.tempThr 31).2.2.1 ∧
    (∀ p ∈ ({ temps := [-40, 89] } : TileHealth).sensorsIn, p.2 < (ready.tempThr 31).2.2.2) ∧
    (∃ p ∈ ({ temps := [110] } : TileHealth).sensorsIn, (ready.tempThr 31).2.2.2 ≤ p.2 ∧ p.1 < ([110] : List Int).length ∧
      (ready.tempThr 31).2.2.2 ≤ ([110] : List Int).getD p.1 0) := by decide +kernel

/-- Voltages within and outside bands of 10 and 20 half-percent steps, an oscillator at and below a floor. -/
theorem witness_MonitorsAlertAndTrip_bands :
    outside 1000 10 1050 = false ∧ outside 1000 10 1051 = true ∧ outside 1000 20 1101 = true ∧
    (∀ i, ¬ (i < 8 ∧ ({} : TileHealth).otherOut.contains (32 + i) = false ∧
      outside (1000#16).toNat 10 ((([1050#16] : List (BitVec 16)).map BitVec.toNat).getD i (1000#16).toNat) = true)) ∧
    9 ≤ ({ voltRun := [9] } : TileHealth).voltRun.getD 0 0 ∧
    (∃ i, i < 4 ∧ ({} : TileHealth).otherOut.contains (64 + i) = false ∧ (([99#16] : List (BitVec 16)).map BitVec.toNat).getD i 100 < 100) ∧
    0 < ({} : TileHealth).fmaxAged ∧ (3#5).toNat < 16 ∧ ({} : TileHealth).tempOut.contains (3#5).toNat = false ∧
    ({ tempOut := [3] } : TileHealth).tempOut.contains (3#5).toNat = true := by
  have e : ∀ i < 8, outside (1000#16).toNat 10 ((([1050#16] : List (BitVec 16)).map BitVec.toNat).getD i (1000#16).toNat) = false := by decide
  simp only [show outside 1000 10 1050 = false from rfl, show outside 1000 10 1051 = true from rfl, true_and,
    show outside 1000 20 1101 = true from rfl]
  refine ⟨?_, by decide, ⟨0, by decide⟩, by decide⟩
  rintro i ⟨h, -, h'⟩
  exact absurd (h'.symm.trans (e i h)) (by decide)

/-- A part with PPS_EN and an edge some cycles ago. -/
def pps (last : Option Nat) (ctl : Word) : State :=
  { ready with regs := [(0xF008, 5#32), (0xF010, ctl)], health := { ready.health with sincePps := last } }

theorem witness_PpsDisciplinesTime :
    Bounded (pps none 5) ∧ bit ((pps none 5).reg 0xF010) 0 = true ∧ bit ((pps none 5).reg 0xF010) 1 = false ∧
    bit ((pps none 5).reg 0xF010) 2 = true ∧ bit ((pps none 1).reg 0xF010) 2 = false ∧ (pps none 5).now < (pps none 5).reg64 0xF008 ∧
    (∀ n, (pps (some 500000001) 5).health.sincePps = some n → 500000000 < n) ∧ (pps (some 500000000) 5).health.sincePps = some 500000000 ∧
    bit (ready.reg 0xF010) 0 = false ∧ (pps none 5).now ≤ 1000 + (pps none 5).reg64 0xF008 := by
  have e : ∀ n, (pps (some 500000001) 5).health.sincePps = some n → 500000000 < n := by
    rintro n ⟨⟩
    decide
  refine ⟨?_, ?_, ?_, ?_, ?_, ?_, e, ?_⟩ <;> decide

theorem witness_IdleStepTicks : ready.pending = [] ∧ ready.cfg.mode ≠ .off ∧ (inMode .off).cfg.mode = .off ∧ ready.health.holdNs = 0 ∧
    0 < ({ ready with health := { ready.health with holdNs := 1 } } : State).health.holdNs := by decide

/-! The twin -/

/-- A part whose twin controller stands somewhere. -/
def twin (t : Twin) : State := { ready with twin := t }

/-- A link frame: VC and SEQ, the acknowledged SEQ and the NAK bit, the payload's length, and its check. -/
def frame0 (w0 w1 : Nat) : List Byte :=
  leBytes 4 w0 ++ leBytes 4 w1 ++ zeroBytes 244 ++ leBytes 4 (crc32c (leBytes 4 w0 ++ leBytes 4 w1 ++ zeroBytes 244)).toNat

theorem witness_WorlekLinkRecovers :
    (inMode .off).twinOn = false ∧ ready.twinOn = true ∧ (twin {}).pickLanes ≠ [] ∧ (twin { badLanes := List.range 11 }).pickLanes = [] ∧
    ready.part.lanes ≤ ready.goodLanes.length ∧ (twin { badLanes := List.range 10 }).goodLanes.length < ready.part.lanes ∧
    ready.part.lanes / 2 ≤ (twin { badLanes := List.range 10 }).goodLanes.length ∧ (17#5).toNat < ready.part.lanes + 2 ∧
    ready.part.lanes + 2 ≤ (18#5).toNat ∧ ((twin { linkUp := true, lanes := List.range 16, badLanes := [0, 1, 17] }).keepLanes).length = 8 ∧
    ((twin { linkUp := true, lanes := List.range 16, badLanes := [17] }).keepLanes).length = 16 := by decide +kernel

set_option maxRecDepth 100000 in
theorem witness_WorlekLinkRecovers_frames :
    frameGood (frame0 0xFFFFFF 0x10000000) = true ∧ bits (fieldAt (frame0 0x2000000 0) 0 4) 25 24 = 2 ∧
    bits (fieldAt (frame0 0xFFFFFF 0) 0 4) 25 24 < 2 ∧ bits (fieldAt (frame0 0xFFFFFF 0) 0 4) 23 0 = (twin { rxSeq := 0xFFFFFF }).twin.rxSeq ∧
    frameGood (zeroBytes 256) = false ∧ (5#24).toNat ≠ (twin {}).twin.txSeq ∧
    ([(5, .detach)] : List (Nat × TwinMsg)).any (fun p => decide (p.1 = (5#24).toNat)) = true := by decide +kernel

/-- Two parts' hellos, and a part in PENDING with a link key that has sent one and has received the other. -/
def hello0 (half rows : Bool) (level : BitVec 8) : Hello := ⟨1, zeroBytes 32, 1, 5, level, 0, 0, 1, 0, 1, 0, 0, half, rows, 0⟩
def greeting (mine peer : Option Hello) : State :=
  { twin { st := .pending, linkUp := true, helloing := true, retryAt := true, mine := mine, peer := peer } with
    seals := { keys := [(0, 1, zeroBytes 32)] } :: List.replicate 31 {} }

theorem witness_HelloAndHeartbeats :
    ownRow false 8191 = true ∧ ownRow true 8192 = true ∧ ready.rowsInUse = [] ∧ (onJob [] { state := 1 }).rowsInUse ≠ [] ∧
    roleFor (hello0 false true 0) (hello0 false true 0) = none ∧ roleFor (hello0 false true 0) (hello0 true true 0) = some false ∧
    modeFor (hello0 false false 0) (hello0 true false 2) = none ∧ modeFor (hello0 false false 0) (hello0 true false 1) = some (1, false) ∧
    (greeting none none).twin.st = .pending ∧ (greeting none none).twin.linkUp = true ∧ (greeting none none).linkKeys = [(1, zeroBytes 32)] ∧
    (greeting none none).keyFor (1#32).toNat = some (zeroBytes 32) ∧ (greeting none none).keyFor (2#32).toNat = none ∧
    ready.twin.st ∉ [TwinSt.pending, .syncing, .paired, .suspect] ∧ (7#32).toNat = (twin { st := .suspect, peerEpoch := 7 }).twin.peerEpoch := by
  decide +kernel

set_option maxRecDepth 200000 in
theorem witness_HelloAndHeartbeats_auth : ∃ code : List Byte,
    authCode (zeroBytes 32) (hello0 false false 0) (hello0 true false 0) (hello0 true false 0).serial.toNat = code ∧
    (greeting (some (hello0 false false 0)) (some (hello0 true false 0))).keyFor (hello0 false false 0).keyId.toNat = some (zeroBytes 32) :=
  ⟨_, rfl, by decide +kernel⟩

theorem witness_AttachAndDetach :
    Arrives ready q0 ∧ Managed ready ∧ Bounded ready ∧ ready.attachRefused = true ∧
    ({ ready with cfg := { ready.cfg with image := { pairing := 2 } } } : State).attachRefused = false ∧
    (twin { st := .paired }).detachable = true ∧ ready.detachable = false ∧ (twin { st := .pending, detaching := true }).twin.detaching = true ∧
    (twin { st := .paired }).twinOn = true ∧ ready.store.migs = [] ∧ ready.errs.refetching = [] ∧ tabOk {} ready.store.rows = true ∧
    ownRow true 0 = false := by decide +kernel

/-- A part that castles, in either mode, with a partner row and an own one. -/
def castling (mode : Nat) (before : TwinSt) (synced : List Nat) : State :=
  { twin { st := .castling, mode := mode, before := before, peerSynced := synced } with
    store := { ready.store with rows := [(0, { state := 1 }), (8192, { state := 1 }), (8193, { state := 2 })] } }

theorem witness_CastlingRuns :
    ready.store.migs = [] ∧ ready.errs.refetching = [] ∧ (twin { st := .suspect }).mayCastle = true ∧ ready.mayCastle = false ∧
    Arrives ready q0 ∧ Managed ready ∧ (0xFFFFCA57#32).toNat % 65536 = 0xCA57 ∧ (0#32).toNat % 65536 ≠ 0xCA57 ∧
    (castling 1 .paired []).twinOn = true ∧ (castling 1 .paired []).store.migs.any Mig.ofPartner = false ∧
    tabOk {} (castling 1 .paired []).store.rows = true ∧ 8192 ∈ (castling 1 .paired []).partnerRows ∧ 0 ∉ (castling 1 .paired []).partnerRows ∧
    (castling 2 .syncing [8192]).lostPage 8192 = none ∧ ((castling 2 .syncing [8193]).row 8193).state = 2 ∧
    (moving [{ evict0 with why := .mirror 1 }]).store.migs.any Mig.ofPartner = true := by decide +kernel

theorem witness_CastlingRuns_lost :
    ∃ s : State, s = { castling 2 .paired [] with store := { (castling 2 .paired []).store with
        dir := [(8192 * 256, { pages := 1, valid := true, hasRoot := true })], blocks := [0], map := [(0, .lost)] } } ∧
      s.lostPage 8192 = some 0 := ⟨_, rfl, by decide +kernel⟩

theorem witness_CastlingRuns_record : ∃ t u, (castling 1 .paired []).translateAll 0 .castle
    (needs ((castling 1 .paired []).reg64 0xE010) (64 + 16 * (castling 1 .paired []).promote.2.1.length) 1) = t ∧ t = .wait u := ⟨_, _, rfl, rfl⟩

/-- A group of row 0, ring 63, and a part of the other half with deltas of it staged; a mirrored frame 5. -/
def group0 : GroupId := ⟨0, 63, 7⟩
def staging (ds : List Delta) : State := twin { st := .paired, mode := 1, role := true, groups := if ds = [] then [] else [⟨group0, ds⟩] }
def mirroring (f : Frame) : State :=
  { twin { st := .paired, mode := 2, role := true } with
    cfg := { ready.cfg with image := { pairing := 2, partnerPct := 50 } }
    regs := [(0x8048, 100#32), (0xF010, 4#32)]
    store := { ready.store with frames := if f = {} then [] else [(ready.part.frames / 2 + 5, f)] } }

theorem witness_LedgerWaitsForCommit :
    ready.receives = false ∧ (staging []).receives = true ∧ (staging []).twin.groups.any (fun x => decide (x.id = group0)) = false ∧
    (staging [.row 0 []]).twin.groups = [] ++ ⟨group0, [.row 0 []]⟩ :: [] ∧ (staging []).mirrorOf (5#24).toNat = none ∧
    isSync group0 = false ∧ isSync ⟨0, 63, 0xFFFFFFFE⟩ = true ∧ isBackground group0 = false ∧ isBackground ⟨0, 63, 0xFFFFFFFF⟩ = true ∧
    (staging [.row 0 []]).store.migs = [] ∧ ownRow true (0#14).toNat = false ∧ ownRow false (0#14).toNat = true ∧
    rowOf ⟨0, 63, 0xFFFFFFFE⟩ = 0 ∧ (staging []).mirrored = false := by decide +kernel

theorem witness_LedgerWaitsForCommit_mirror : ∃ m, (mirroring {}).mirrorOf (5#24).toNat = some m ∧ m = ready.part.frames / 2 + 5 ∧
    (mirroring { st := .mirror }).receives = true ∧ (mirroring { st := .mirror }).mirrored = true ∧
    ((mirroring { st := .mirror, shadowSt := .isSealed }).frame m).st = .mirror ∧
    ((mirroring { st := .mirror, shadowSt := .isSealed }).frame m).shadowSt = .isSealed ∧
    ((mirroring { st := .mirror }).frame m).takesBytes (73727#17).toNat ([1#8] : List Byte).length = true ∧
    ((mirroring { st := .mirror, shadowSt := .priv, shadowRows := 5 }).frame m).takesBytes (0#17).toNat ([1#8] : List Byte).length = false ∧
    (mirroring { st := .mirror }).errs.resending.contains m = false ∧ (mirroring {}).mirrorRecord (49#23).toNat < (mirroring {}).coldSlots ∧
    (mirroring {}).coldSlots ≤ (mirroring {}).mirrorRecord (50#23).toNat ∧ (∀ x ∈ (mirroring {}).store.migs, x.frame ≠ m) :=
  ⟨_, rfl, by decide +kernel⟩

/-- An eviction that the partner has been told of; a refetch and a resend that wait. -/
def told : State := { moving [{ evict0 with acked := false }] with twin := { st := .paired, mode := 1, role := true } }
def asked : State := { mirroring { st := .mirror } with errs := { ready.errs with refetching := [(5, 9)], resending := [ready.part.frames / 2 + 5] } }

theorem witness_PagesComeBackFromTheTwin :
    ready.receives = false ∧ told.receives = true ∧ told.toldEviction (5#24).toNat = some { evict0 with acked := false } ∧
    told.toldEviction (6#24).toNat = none ∧ asked.mirrorOf (5#24).toNat = some (ready.part.frames / 2 + 5) ∧ asked.twin.groups = [] ∧
    asked.errs.refetching.find? (fun p => decide (p.1 = (5#24).toNat)) = some (5, 9) ∧
    asked.errs.refetching.find? (fun p => decide (p.1 = (6#24).toNat)) = none ∧ ([] : List Byte).length ≠ frameBytes ∧
    asked.errs.resending.contains (ready.part.frames / 2 + 5) = true ∧ (asked.frame (ready.part.frames / 2 + 5)).st = .mirror ∧
    (moving []).frame 5 = { st := .moving } ∧ (mirroring { st := .priv }).frame 5 = {} := by decide +kernel

theorem witness_PagesComeBackFromTheTwin_bytes : ∃ d : List Byte, d.length = frameBytes ∧ (pageOfBytes d).isSealed = false :=
  ⟨zeroBytes frameBytes, by simp [zeroBytes], by decide +kernel⟩
end Sys2Proof.Tests
end

section
/-! SUPPORT. Management accesses of the host: what a read answers and captures, which writes the common checks turn away, and
what a write of one field does once the part is in operation. The statements on management reads and register writes. -/

namespace Sys2Proof.Machine

open Sys2Proof.Safety

/-! ### Occupied offsets -/

/-- An occupied offset is aligned and inside the register space (20 R500, R501). -/
theorem State.fields_aligned_inside {s : State} {off : Nat} {fs : List Fld} (h : s.fields off = some fs) :
    off % 4 = 0 ∧ off < 0x40000 := by
  unfold State.fields at h
  constructor
  · by_contra h4
    rw [if_pos h4] at h
    cases h
  · by_contra hin
    simp (disch := omega) only [if_neg, ite_self] at h
    cases h

theorem State.valueAt_unoccupied {s : State} {off : Nat} (h : s.fields off = none) : s.valueAt off = 0 := by
  unfold State.valueAt
  rw [h]
  rfl

/-! ### Reads -/

/-- A captured high word is returned, and is captured no longer (00 R13). -/
theorem State.readReg_of_captured {s : State} {who off key : Nat} {w : Word} (hk : 2 ^ 18 * who + off = key)
    (h : tget none s.cfg.highCap key = some w) :
    s.readReg who off = ({ s with cfg := { s.cfg with highCap := tset none s.cfg.highCap key none } }, w.toNat) := by
  unfold State.readReg
  simp only [hk, h]

/-- The low word of an occupied pair captures the high word (00 R13). -/
theorem State.readReg_pair {s : State} {who off key : Nat} (hk : 2 ^ 18 * who + off = key)
    (h : tget none s.cfg.highCap key = none) (hp : readPair off = true) (hf : s.fields off ≠ none) :
    s.readReg who off = ({ s with cfg := { s.cfg with
      highCap := tset none s.cfg.highCap (key + 4) (some (BitVec.ofNat 32 (s.valueAt (off + 4)))) } }, s.valueAt off) := by
  unfold State.readReg
  simp only [hk, h, hp, Option.isSome_iff_ne_none.2 hf, Bool.and_self, if_true]

/-- A register that is no low word of an occupied pair is read without any effect. -/
theorem State.readReg_single {s : State} {who off key : Nat} (hk : 2 ^ 18 * who + off = key)
    (h : tget none s.cfg.highCap key = none) (hp : readPair off = false ∨ s.fields off = none) :
    s.readReg who off = (s, s.valueAt off) := by
  have hn : (readPair off && (s.fields off).isSome) = false := by
    rcases hp with hp | hp <;> simp [hp]
  unfold State.readReg
  simp only [hk, h, hn, Bool.false_eq_true, if_false]

/-- The host's captured words are kept under their own offsets. -/
theorem hostRequester_key (off : Nat) : 2 ^ 18 * hostRequester + off = off := by
  simp [hostRequester]

/-- A read of the host at an aligned offset of the space is answered OK with what the register gives. -/
theorem exec_mgrd_served {s t : State} {q : Req} {addr : BitVec 64} {v : Nat} (ha : Arrives s q) (h4 : addr.toNat % 4 = 0)
    (hin : addr.toNat < 0x40000) (hr : s.readReg hostRequester addr.toNat = (t, v)) :
    exec (.mgrd q addr) s = .next (t.answer q true v) := by
  obtain ⟨htile, hmode, hroom⟩ := ha
  refine (onTile_of_hasTile htile).trans ?_
  unfold State.hostRead State.mgtRead
  rw [if_neg hmode, hroom, if_neg (by omega : ¬ (addr.toNat % 4 ≠ 0 ∨ 0x40000 ≤ addr.toNat)), hr]
  rfl

/-- A read of the host at a misaligned offset or beyond the space is refused (13 R356, 20 R500). -/
theorem exec_mgrd_refused {s : State} {q : Req} {addr : BitVec 64} (ha : Arrives s q)
    (h : addr.toNat % 4 ≠ 0 ∨ 0x40000 ≤ addr.toNat) : exec (.mgrd q addr) s = .next (s.refuse q addr.toNat) := by
  obtain ⟨htile, hmode, hroom⟩ := ha
  refine (onTile_of_hasTile htile).trans ?_
  unfold State.hostRead State.mgtRead
  rw [if_neg hmode, hroom, if_pos h]
  rfl

/-- Settles O18: the three ways in which a register is read, and the refusal of the other offsets. -/
theorem managementReadIsServedOrRefused : Obligations.ManagementReadIsServedOrRefused := by
  intro s q addr ha
  have hk := hostRequester_key addr.toNat
  refine ⟨fun h4 hin hcap => ⟨fun hp => ?_, fun hp hf => ?_⟩, fun w h4 hin hcap => ?_, exec_mgrd_refused ha,
    State.valueAt_unoccupied, rfl, rfl, rfl⟩
  · exact exec_mgrd_served ha h4 hin (State.readReg_single hk hcap hp)
  · exact exec_mgrd_served ha h4 hin (State.readReg_pair hk hcap hp hf)
  · exact exec_mgrd_served ha h4 hin (State.readReg_of_captured hk hcap)

/-! ### The common checks of a write -/

theorem State.writeRefused_of_managed {s : State} (hm : Managed s) (off : Nat) : s.writeRefused off = false := by
  unfold State.writeRefused
  rcases hm with h | h | h | h | h <;> rw [h]

theorem State.writeRefused_of_startUp {s : State} (h : s.cfg.mode = .boot ∨ s.cfg.mode = .load ∨ s.cfg.mode = .verify) (off : Nat) :
    s.writeRefused off = true := by
  unfold State.writeRefused
  rcases h with h | h | h <;> rw [h]

/-- The writes that the common checks refuse (00 R6, 14 R398, 20 R500, R501). -/
theorem State.checkWrite_refused {s : State} {off v : Nat}
    (h : off % 4 ≠ 0 ∨ 0x40000 ≤ off ∨ s.fields off = none ∨ s.writeRefused off = true) : s.checkWrite off v = .refused := by
  unfold State.checkWrite
  split
  · rfl
  next hspace =>
    split
    · rfl
    next hmode =>
      have hf : s.fields off = none := by
        rcases h with h | h | h | h
        · exact absurd (.inl h) hspace
        · exact absurd (.inr h) hspace
        · exact h
        · exact absurd h hmode
      rw [hf]

/-- A reserved encoding in a field of an occupied register, where management writes are taken (00 R17). -/
theorem State.checkWrite_reserved {s : State} (hm : Managed s) {off v : Nat} {fs : List Fld} (hf : s.fields off = some fs)
    (hr : fs.any (fun f => f.reserved v) = true) : s.checkWrite off v = .reserved := by
  obtain ⟨h4, hin⟩ := State.fields_aligned_inside hf
  unfold State.checkWrite
  rw [if_neg (by omega : ¬ (off % 4 ≠ 0 ∨ 0x40000 ≤ off)), State.writeRefused_of_managed hm, hf]
  simp [hr]

/-- A host write that finds no room on its module is refused and does nothing else (13 R355). -/
theorem State.hostWrite_excess {s : State} {q : Req} {off v : Nat} {n : List Byte} (hmode : s.cfg.mode ≠ .off)
    (hx : s.excess q = true) : s.hostWrite q off v n = s.answer q false 0 := by
  unfold State.hostWrite
  rw [if_neg hmode, if_pos hx]

/-- A host write of a reserved encoding is logged, and answered OK. -/
theorem State.hostWrite_reserved {s : State} {q : Req} {off v : Nat} {n : List Byte} (ha : Arrives s q)
    (hc : s.checkWrite off v = .reserved) : s.hostWrite q off v n = (s.reservedWrite off).answer q true 0 := by
  obtain ⟨-, hmode, hroom⟩ := ha
  unfold State.hostWrite State.mgtWrite
  rw [if_neg hmode, hroom, hc]
  rfl

/-- A REGISTER_WRITE that is no ATTACH is a host write without a nonce. -/
theorem exec_registerWrite {s : State} {q : Req} {addr : BitVec 64} {v : BitVec 32} (htile : s.hasTile q.tile.toNat = true)
    (hna : isAttach addr.toNat v.toNat = false) :
    exec (.registerWrite q addr v) s = .next (s.hostWrite q addr.toNat v.toNat []) := by
  refine (onTile_of_hasTile htile).trans ?_
  unfold State.hostWriteAny
  rw [hna]
  rfl

/-- Settles O20: the reserved encoding, the refusals of the common checks, and the access that finds no room. -/
theorem refusedAndReservedWrites : Obligations.RefusedAndReservedWrites := by
  refine ⟨fun s q v ha hm hv => ?_, fun s q addr v hna => ⟨fun ha h => ?_, fun htile hmode hx => ?_⟩⟩
  · have htkind : Fld.reserved ⟨1, 0, .rw, [(3, 3)]⟩ v.toNat = true := by
      simp [Fld.reserved, Fld.get, bits, hv]
    have hc : s.checkWrite 0x1020 v.toNat = .reserved :=
      State.checkWrite_reserved (fs := [⟨1, 0, .rw, [(3, 3)]⟩, ⟨15, 8, .rw, []⟩]) hm rfl (by simp [htkind])
    exact (exec_registerWrite ha.1 rfl).trans (congrArg _ (State.hostWrite_reserved ha hc))
  · have hc : s.checkWrite addr.toNat v.toNat = .refused := by
      refine State.checkWrite_refused ?_
      rcases h with h | h | h | h
      · exact .inl h
      · exact .inr (.inl h)
      · exact .inr (.inr (.inl h))
      · exact .inr (.inr (.inr (State.writeRefused_of_startUp h _)))
    exact (exec_registerWrite ha.1 hna).trans (congrArg _ (State.hostWrite_refused ha hc))
  · exact (exec_registerWrite htile hna).trans (congrArg _ (State.hostWrite_excess hmode hx))

/-! ### Writes of one field in operation -/

@[simp] theorem State.applyWrite_mode (s : State) (fs : List Fld) (off v : Nat) :
    (s.applyWrite fs off v).cfg.mode = s.cfg.mode := by
  unfold State.applyWrite
  dsimp only
  split <;> rfl

/-- From READY on a write is clamped at a commit only (14 R400). -/
theorem State.writeReg_late {s : State} (he : s.early = false) (fs : List Fld) (off v : Nat) :
    s.writeReg fs off v = s.applyWrite fs off v := by
  have hl : (s.applyWrite fs off v).early = false := by
    unfold State.early at he ⊢
    rw [State.applyWrite_mode, he]
  unfold State.writeReg
  simp only [hl, Bool.false_and, Bool.false_eq_true, if_false]

/-- Writing a stored register with its own value changes nothing. -/
theorem State.tset_own_reg {s : State} (hb : Bounded s) (off : Nat) :
    tset 0#32 s.regs off (BitVec.ofNat 32 (s.reg off)) = s.regs := by
  unfold State.reg
  rw [BitVec.ofNat_toNat, BitVec.setWidth_eq, tset_tget hb.2]

/-- An RWL field outside INIT and PAIR keeps its value, and counts a write of another one (00 R15, 14 R398). -/
theorem State.applyWrite_rwl_late {s : State} (hb : Bounded s) (he : s.early = false) (hi lo off v : Nat) (r : List (Nat × Nat)) :
    s.applyWrite [⟨hi, lo, .rwl, r⟩] off v =
      if bits (s.reg off) hi lo = bits v hi lo then s else s.lockedWrite off := by
  unfold State.applyWrite
  simp only [List.foldl_cons, List.foldl_nil, applyField, he, Bool.false_eq_true, if_false, Bool.false_or, Fld.get, if_true,
    State.tset_own_reg hb]
  by_cases hsame : bits (s.reg off) hi lo = bits v hi lo
  · simp [hsame]
  · simp [hsame]

/-- A LIVE field outside INIT and PAIR takes the value into its shadow only (14 R398). -/
theorem State.applyWrite_rws_late {s : State} (hb : Bounded s) (he : s.early = false) (hi lo off v : Nat) (r : List (Nat × Nat)) :
    ∃ sh : Tab Word, s.applyWrite [⟨hi, lo, .rws, r⟩] off v = { s with cfg := { s.cfg with shadow := sh } } ∧
      (tabOk 0#32 s.cfg.shadow = true → sh = tset 0#32 s.cfg.shadow off
        (BitVec.ofNat 32 (Fld.put ⟨hi, lo, .rws, r⟩ (tget 0#32 s.cfg.shadow off).toNat v))) := by
  unfold State.applyWrite
  simp only [List.foldl_cons, List.foldl_nil, applyField, he, Bool.false_eq_true, if_false, State.tset_own_reg hb]
  refine ⟨_, rfl, fun hsh => ?_⟩
  split
  next hsame => rw [hsame, BitVec.ofNat_toNat, BitVec.setWidth_eq, tset_tget hsh]
  · rfl

theorem bits_low (v hi : Nat) : bits v hi 0 = v % 2 ^ (hi + 1) := by
  simp [bits]

/-- The low half of a word whose field 15:0 was replaced. -/
theorem put_low_half (a : AccT) (old v : Nat) : Fld.put ⟨15, 0, a, []⟩ old v % 65536 = v % 65536 := by
  unfold Fld.put Fld.get
  simp only [bits_low]
  omega

/-- A host write that the common checks let through, of a register that is no pair and refuses nothing. -/
theorem exec_registerWrite_taken {s t : State} {q : Req} {addr : BitVec 64} {v : BitVec 32} {fs : List Fld} (ha : Arrives s q)
    (hm : Managed s) (hf : s.fields addr.toNat = some fs) (hr : fs.any (fun f => f.reserved v.toNat) = false)
    (hlow : pairLow addr.toNat = false) (hhigh : pairHigh addr.toNat = false) (hbar : s.writeBarred addr.toNat v.toNat = false)
    (hna : isAttach addr.toNat v.toNat = false) (ht : s.takeWrite fs addr.toNat v.toNat [] = t) :
    exec (.registerWrite q addr v) s = .next (t.answer q true 0) := by
  obtain ⟨h4, hin⟩ := State.fields_aligned_inside hf
  rw [exec_registerWrite ha.1 hna, State.hostWrite_taken ha (State.checkWrite_managed hm hf h4 hin hr) hlow hhigh hbar, ht]

/-- In READY, DRAIN and MAINT writes are taken, and the rules of INIT and PAIR no longer hold. -/
theorem managed_late {s : State} (h : s.cfg.mode = .ready ∨ s.cfg.mode = .drain ∨ s.cfg.mode = .maint) :
    Managed s ∧ s.early = false := by
  refine ⟨.inr (.inr h), ?_⟩
  unfold State.early
  rcases h with h | h | h <;> simp [h]

/-- Settles O19: a register of each access type, each by the rule for its one field. -/
theorem registerWriteFollowsAccessType : Obligations.RegisterWriteFollowsAccessType := by
  intro s q v ha hb
  refine ⟨fun hm => ?_, fun hm => ?_, fun hm => ?_, fun hop => ?_⟩
  · have hw := State.writeReg_rw (s := s) (off := 0x18020) v.isLt rfl
    rw [BitVec.ofNat_toNat, BitVec.setWidth_eq] at hw
    exact exec_registerWrite_taken ha hm rfl rfl rfl rfl rfl rfl hw
  · exact exec_registerWrite_taken ha hm rfl rfl rfl rfl rfl rfl (State.writeReg_cnt (s := s) (off := 0x3008) rfl)
  · exact exec_registerWrite_taken ha hm rfl rfl rfl rfl rfl rfl (State.writeReg_ro (off := 0x3000) hb rfl)
  · obtain ⟨hm, he⟩ := managed_late hop
    have hrwl := (State.writeReg_late he _ _ _).trans (State.applyWrite_rwl_late hb he 22 0 0xA000 v.toNat [])
    simp only [bits_low] at hrwl
    obtain ⟨sh, hrws, hsh⟩ := State.applyWrite_rws_late hb he 15 0 0x8004 v.toNat []
    refine ⟨fun heq => ?_, fun hne => ?_, { s with cfg := { s.cfg with shadow := sh } }, ?_, rfl, fun hok => ?_⟩
    · exact exec_registerWrite_taken ha hm rfl rfl rfl rfl rfl rfl (hrwl.trans (if_pos heq))
    · exact exec_registerWrite_taken ha hm rfl rfl rfl rfl rfl rfl (hrwl.trans (if_neg hne))
    · exact exec_registerWrite_taken ha hm rfl rfl rfl rfl rfl rfl ((State.writeReg_late he _ _ _).trans hrws)
    · rw [hsh hok]
      refine ⟨?_, fun o ho => tget_tset_ne hok _ ho⟩
      rw [tget_tset_self hok, BitVec.toNat_ofNat, Nat.mod_mod_of_dvd _ (by norm_num : 65536 ∣ 2 ^ 32), put_low_half]

end Sys2Proof.Machine
end

section
/-! SUPPORT. What every command leaves of the sealed stores: the life-cycle state, keys and hashes (03 R100 to R102), LC_STEP,
KEY_WRITE, TAMPER_N and HALTED. The statements on life cycle, keys and the tamper wipe. -/

namespace Sys2Proof.Machine

/-! ### What every command does to the sealed stores -/

/-- The commands that `Ground` does not cover: those of power, reset and start-up, and the two that write the sealed stores. -/
def Instr.beyondGround : Instr → Bool
  | .resetNLow | .resetNRise | .pwrOkFall | .bootDone _ | .nvmBurst _ | .verify | .init | .lcStep _ | .keyWrite _ _ => true
  | _ => false

/-- Every other command leaves straps, fuses and queue, and at most wipes the sealed stores. -/
theorem exec_ground {c : Instr} {s t : State} (h : Instr.beyondGround c = false) (e : exec c s = .next t) : Ground s t := by
  cases c with
  | pllLockTimeout _ _ => exact (execPllLockTimeout_keeps _ _ e).ground
  | nvmTimeout => exact (execNvmTimeout_keeps e).ground
  | pairTimeout => exact (execPairTimeout_keeps e).ground
  | tamper => exact execTamper_ground e
  | trstN => exact execTrstN_ground e
  | bypass _ => exact execBypass_ground _ e
  | idcode => exact execIdcode_ground e
  | samplePreload _ => exact execSamplePreload_ground _ e
  | extest _ => exact execExtest_ground _ e
  | ijtag _ _ => exact execIjtag_ground _ _ e
  | mgtAccess _ _ _ => exact execMgtAccess_ground _ _ _ e
  | scan bits => exact execScan_ground bits e
  | dbell _ _ _ => exact execDbell_ground _ _ _ e
  | mgrd _ _ => exact (execMgrd_keeps _ _ e).ground
  | registerWrite _ _ _ => exact execRegisterWrite_ground _ _ _ e
  | hostPacket _ _ _ _ => exact (execHostPacket_keeps _ _ _ _ e).ground
  | cpl _ _ _ => exact (execCpl_keeps _ _ _ e).ground
  | wack _ _ => exact (execWack_keeps _ _ e).ground
  | inval _ _ _ => exact (execInval_keeps _ _ _ e).ground
  | invalAck _ => exact (execInvalAck_keeps _ e).ground
  | requestTimeout _ => exact (execRequestTimeout_keeps _ e).ground
  | ucieModuleUp _ _ _ => exact (execUcieModuleUp_keeps _ _ _ e).ground
  | ucieModuleDown _ _ => exact (execUcieModuleDown_keeps _ _ e).ground
  | ringEnable _ _ _ => exact execRingEnable_ground _ _ _ e
  | ringDisable _ _ _ => exact execRingDisable_ground _ _ _ e
  | jobRingTail _ _ _ => exact execJobRingTail_ground _ _ _ e
  | jobCplHead _ _ _ => exact execJobCplHead_ground _ _ _ e
  | descriptorIntake _ => exact (execDescriptorIntake_keeps _ e).ground
  | descriptorAged _ => exact (execDescriptorAged_keeps _ e).ground
  | openCtx _ _ => exact (execOpenCtx_keeps _ _ e).ground
  | close _ => exact (execClose_keeps _ e).ground
  | fork _ => exact (execFork_keeps _ e).ground
  | forkBinding _ => exact (execForkBinding_keeps _ e).ground
  | park _ => exact (execPark_keeps _ e).ground
  | unpark _ _ => exact (execUnpark_keeps _ _ e).ground
  | append _ _ _ => exact (execAppend_keeps _ _ _ e).ground
  | attendDecode _ _ _ => exact (execAttendDecode_keeps _ _ _ e).ground
  | attendPrefill _ _ _ => exact (execAttendPrefill_keeps _ _ _ e).ground
  | attendPartial _ _ _ => exact (execAttendPartial_keeps _ _ _ e).ground
  | attendBackward _ _ _ => exact (execAttendBackward_keeps _ _ _ e).ground
  | prefixLookup _ _ => exact (execPrefixLookup_keeps _ _ e).ground
  | prefixPublish _ _ => exact (execPrefixPublish_keeps _ _ e).ground
  | prefixDrop _ _ => exact (execPrefixDrop_keeps _ _ e).ground
  | evict _ => exact (execEvict_keeps _ e).ground
  | prefetch _ => exact (execPrefetch_keeps _ e).ground
  | truncate _ _ => exact (execTruncate_keeps _ _ e).ground
  | tableLoad _ _ => exact (execTableLoad_keeps _ _ e).ground
  | tableLoadProceed _ _ => exact (execTableLoadProceed_keeps _ _ e).ground
  | barrier _ => exact (execBarrier_keeps _ e).ground
  | phaseSwitch _ => exact (execPhaseSwitch_keeps _ e).ground
  | nop _ => exact (execNop_keeps _ e).ground
  | workItemDispatch _ => exact (execWorkItemDispatch_keeps _ e).ground
  | itemAged _ _ => exact (execItemAged_keeps _ _ e).ground
  | workItemComplete _ _ => exact (execWorkItemComplete_keeps _ _ e).ground
  | completionRecord _ => exact (execCompletionRecord_keeps _ e).ground
  | interruptMessage _ => exact (execInterruptMessage_keeps _ e).ground
  | batchRoundClose _ _ => exact (execBatchRoundClose_keeps _ _ e).ground
  | batchWindowAdapt _ => exact (execBatchWindowAdapt_keeps _ e).ground
  | remoteRead _ _ _ _ _ _ => exact (execRemoteRead_keeps _ _ _ _ _ _ e).ground
  | credit _ _ _ => exact (execCredit_keeps _ _ _ e).ground
  | wdata _ _ _ => exact (execWdata_keeps _ _ _ e).ground
  | wfence _ _ => exact (execWfence_keeps _ _ e).ground
  | creditHoldTimeout _ => exact (execCreditHoldTimeout_keeps _ e).ground
  | mergeNode _ _ _ _ _ => exact (execMergeNode_keeps _ _ _ _ _ e).ground
  | atomicAdd _ _ _ _ => exact (execAtomicAdd_keeps _ _ _ _ e).ground
  | waveFold _ _ _ => exact (execWaveFold_keeps _ _ _ e).ground
  | hatWalk _ _ _ => exact (execHatWalk_keeps _ _ _ e).ground
  | hatFqHead _ _ => exact execHatFqHead_ground _ _ e
  | retry _ _ => exact execRetry_ground _ _ e
  | fail _ _ => exact execFail_ground _ _ e
  | hatTimeout _ _ => exact (execHatTimeout_keeps _ _ e).ground
  | hatEnable _ => exact execHatEnable_ground _ e
  | hatDisable _ => exact execHatDisable_ground _ e
  | dmaDescriptorEnd _ _ _ => exact (execDmaDescriptorEnd_keeps _ _ _ e).ground
  | backgroundEviction _ => exact (execBackgroundEviction_keeps _ e).ground
  | evictionDone _ => exact (execEvictionDone_keeps _ e).ground
  | evictionWriteFail _ => exact (execEvictionWriteFail_keeps _ e).ground
  | recallDone _ => exact (execRecallDone_keeps _ e).ground
  | recallFail _ => exact (execRecallFail_keeps _ e).ground
  | cfgCommit _ _ => exact execCfgCommit_ground _ _ e
  | commitAdoption _ => exact (execCommitAdoption_keeps _ e).ground
  | reqDrain _ => exact execReqDrain_ground _ e
  | reqMaint _ => exact execReqMaint_ground _ e
  | reqResume _ => exact execReqResume_ground _ e
  | hltTileRetain _ _ => exact execHltTileRetain_ground _ _ e
  | hltTileGate _ _ => exact execHltTileGate_ground _ _ e
  | tileWake _ => exact (execTileWake_keeps _ e).ground
  | sramRetention _ _ => exact (execSramRetention_keeps _ _ e).ground
  | sramWake _ _ => exact (execSramWake_keeps _ _ e).ground
  | sramBackgroundTest _ _ _ => exact (execSramBackgroundTest_keeps _ _ _ e).ground
  | spdScrub _ _ _ => exact (execSpdScrub_keeps _ _ _ e).ground
  | scrubClaim _ _ => exact (execScrubClaim_keeps _ _ e).ground
  | pageMemoryScrub _ _ _ => exact (execPageMemoryScrub_keeps _ _ _ e).ground
  | coreFault _ _ => exact (execCoreFault_keeps _ _ e).ground
  | coreStallTimeout _ => exact (execCoreStallTimeout_keeps _ e).ground
  | coreSubstitution _ _ => exact (execCoreSubstitution_keeps _ _ e).ground
  | relocationDone _ => exact (execRelocationDone_keeps _ e).ground
  | anchorTakeover => exact (execAnchorTakeover_keeps e).ground
  | spareAnchorBuilt => exact (execSpareAnchorBuilt_keeps e).ground
  | errLogPop _ _ => exact execErrLogPop_ground _ _ e
  | bistStart _ _ => exact execBistStart_ground _ _ e
  | bistDone _ _ => exact execBistDone_ground _ _ e
  | burn _ _ => exact execBurn_ground _ _ e
  | burnDone _ => exact execBurnDone_ground _ e
  | stepWindow _ => exact (execStepWindow_keeps _ e).ground
  | cclkPllLock _ => exact (execCclkPllLock_keeps _ e).ground
  | pllUnlock _ => exact (execPllUnlock_keeps _ e).ground
  | tempReading _ _ => exact (execTempReading_keeps _ _ e).ground
  | voltReading _ _ _ => exact (execVoltReading_keeps _ _ _ e).ground
  | processReading _ _ => exact (execProcessReading_keeps _ _ e).ground
  | sensorFail _ _ _ => exact (execSensorFail_keeps _ _ _ e).ground
  | ppsEdge _ => exact (execPpsEdge_keeps _ e).ground
  | ppsMiss => exact (execPpsMiss_keeps e).ground
  | linkUp _ _ => exact (execLinkUp_keeps _ _ e).ground
  | linkRetrain => exact (execLinkRetrain_keeps e).ground
  | laneLoss _ => exact (execLaneLoss_keeps _ e).ground
  | linkFrame _ _ => exact (execLinkFrame_keeps _ _ e).ground
  | nak _ => exact (execNak_keeps _ e).ground
  | replayTimeout => exact (execReplayTimeout_keeps e).ground
  | hello _ => exact (execHello_keeps _ e).ground
  | auth _ => exact (execAuth_keeps _ e).ground
  | helloTimeout => exact (execHelloTimeout_keeps e).ground
  | helloRetry _ => exact (execHelloRetry_keeps _ e).ground
  | heartbeatSend => exact (execHeartbeatSend_keeps e).ground
  | heartbeat time state epoch => exact (execHeartbeat_keeps time state epoch e).ground
  | heartbeatMiss => exact (execHeartbeatMiss_keeps e).ground
  | twnAutoTimeout => exact (execTwnAutoTimeout_keeps e).ground
  | dying => exact (execDying_keeps e).ground
  | twnFence _ _ => exact execTwnFence_ground _ _ e
  | castled => exact (execCastled_keeps e).ground
  | attach _ _ => exact execAttach_ground _ _ e
  | detach _ => exact execDetach_ground _ e
  | detachTimeout => exact (execDetachTimeout_keeps e).ground
  | rowDelta _ _ _ => exact (execRowDelta_keeps _ _ _ e).ground
  | dirDelta _ _ _ _ => exact (execDirDelta_keeps _ _ _ _ e).ground
  | mapDelta _ _ _ _ _ => exact (execMapDelta_keeps _ _ _ _ _ e).ground
  | frameDelta _ _ _ _ => exact (execFrameDelta_keeps _ _ _ _ e).ground
  | bytesDelta _ _ _ _ => exact (execBytesDelta_keeps _ _ _ _ e).ground
  | copyDelta _ _ _ _ => exact (execCopyDelta_keeps _ _ _ _ e).ground
  | evictDelta _ _ _ _ _ _ => exact (execEvictDelta_keeps _ _ _ _ _ _ e).ground
  | recallDelta _ _ _ _ _ _ => exact (execRecallDelta_keeps _ _ _ _ _ _ e).ground
  | commitDelta _ => exact (execCommitDelta_keeps _ e).ground
  | groupAck _ => exact (execGroupAck_keeps _ e).ground
  | evictAck _ => exact (execEvictAck_keeps _ e).ground
  | evictNak _ => exact (execEvictNak_keeps _ e).ground
  | refetch _ => exact (execRefetch_keeps _ e).ground
  | refetchData _ _ => exact (execRefetchData_keeps _ _ e).ground
  | resend _ => exact (execResend_keeps _ e).ground
  | resendData _ _ => exact (execResendData_keeps _ _ e).ground
  | repairTestDone _ _ => exact (execRepairTestDone_keeps _ _ e).ground
  | evictBudgetElapsed _ _ => exact (execEvictBudgetElapsed_keeps _ _ e).ground
  | _ => simp [Instr.beyondGround] at h

theorem SealsStep.of_eq {a b : List Seal} (h : b = a) : SealsStep a b := h ▸ SealsStep.refl a

theorem Keeps.seals {u s : State} (h : Keeps u s) : s.seals = u.seals := congrArg Still.seals h.still

theorem State.boot_seals (s : State) : s.boot.seals = s.seals := by
  unfold State.boot
  split <;> rfl

theorem State.powerFails_seals (s : State) : s.powerFails.seals = s.seals := by
  unfold State.powerFails
  dsimp only
  split <;> rfl

theorem State.bootDone_sealsStep (s : State) (r : BootReport) : SealsStep s.seals (s.bootDone r).seals := by
  unfold State.bootDone
  split
  · exact SealsStep.refl _
  split
  · exact SealsStep.of_eq (State.halt_seals s _)
  have hload : Ground s (s.applyMaps.loadSeal r.sealBad) :=
    State.loadSeal_ground (State.applyMaps_keeps (Keeps.refl s)).ground r.sealBad
  generalize s.applyMaps.loadSeal r.sealBad = x at hload
  have hbist : Ground s (if x.cfg.fuses.bootBist then r.bist.foldl State.bootBist x else x) :=
    Ground.ite (fun _ => Ground.foldl (fun _ _ h => h.step (State.bootBist_keeps (Keeps.refl _) _)) hload _) (fun _ => hload)
  dsimp only
  generalize (if x.cfg.fuses.bootBist then r.bist.foldl State.bootBist x else x) = y at hbist
  split <;> exact hbist.seals

theorem State.nvmBurst_seals (s : State) (b : List Byte) : (s.nvmBurst b).seals = s.seals := by
  unfold State.nvmBurst
  dsimp only
  split
  · rfl
  split
  · exact State.halt_seals s _
  split <;> rfl

theorem State.verify_seals (s : State) : s.verify.seals = s.seals := by
  unfold State.verify
  split
  · rfl
  dsimp only
  split
  · exact State.halt_seals s _
  split
  · exact State.halt_seals _ _
  · rfl

theorem State.goReady_seals (s : State) : s.goReady.seals = s.seals :=
  congrArg Still.seals (State.goReady_calm (Calm.refl s)).still

theorem State.init_seals (s : State) : s.init.seals = s.seals := by
  unfold State.init
  split
  · rfl
  dsimp only
  generalize hx : List.foldl State.settleOut _ _ = x
  have hseals : x.seals = s.seals := by
    have hreg := (State.clearRings_keeps (State.applyRecords_keeps (Keeps.refl s) s.cfg.verified)).seals
    rw [← hx, (Keeps.foldl (fun _ t k => State.settleOut_keeps k t) (Keeps.refl _) _).seals,
      (Keeps.foldl (fun _ t k => State.fillReserve_keeps k t) (Keeps.refl _) _).seals]
    exact hreg
  split
  · exact (State.goReady_seals x).trans hseals
  · exact hseals

/-- Every command but the two that write the sealed stores keeps their life-cycle state, and keeps or wipes their keys and
hashes (03 R100, R101). -/
theorem exec_sealsStep {c : Instr} {s t : State} (e : exec c s = .next t) :
    SealsStep s.seals t.seals ∨ (∃ code, c = .lcStep code) ∨ ∃ slot image, c = .keyWrite slot image := by
  by_cases h : Instr.beyondGround c = false
  · exact .inl (exec_ground h e).seals
  cases c with
  | lcStep code => exact .inr (.inl ⟨code, rfl⟩)
  | keyWrite slot image => exact .inr (.inr ⟨slot, image, rfl⟩)
  | resetNLow => exact .inl (next_inj e ▸ SealsStep.refl _)
  | resetNRise => exact .inl (next_inj e ▸ .of_eq (State.boot_seals s))
  | pwrOkFall => exact .inl (next_inj e ▸ .of_eq (State.powerFails_seals s))
  | bootDone report => exact .inl (next_inj e ▸ State.bootDone_sealsStep s report)
  | nvmBurst bytes => exact .inl (next_inj e ▸ .of_eq (State.nvmBurst_seals s bytes))
  | verify => exact .inl (next_inj e ▸ .of_eq (State.verify_seals s))
  | init => exact .inl (next_inj e ▸ .of_eq ((State.init_seals _).trans (State.initEvents_keeps (Keeps.refl s)).seals))
  | _ => exact absurd rfl h

theorem SealsStep.lcs {a b : List Seal} (h : SealsStep a b) : b.map Seal.lc = a.map Seal.lc := by
  induction h with
  | nil => rfl
  | cons h _ ih => simp [h.1, ih]

theorem SealsStep.keys {a b : List Seal} (h : SealsStep a b) :
    List.Forall₂ (fun x y : Seal => y.keys = x.keys ∨ y.keys = []) a b :=
  h.imp (fun _ _ h => h.2.imp And.left And.left)

/-- A step without an LC_STEP or a KEY_WRITE at the front of the queue. -/
theorem step_sealsStep {s t : State} (e : step s = .next t) :
    SealsStep s.seals t.seals ∨ (∃ code rest, s.pending = .lcStep code :: rest) ∨
      ∃ slot image rest, s.pending = .keyWrite slot image :: rest := by
  unfold step at e
  split at e
  next => exact .inl (next_inj e ▸ .of_eq (State.tick_seals s))
  next c rest hp =>
    rw [hp]
    obtain h | ⟨code, rfl⟩ | ⟨slot, image, rfl⟩ := exec_sealsStep e
    · exact .inl h
    · exact .inr (.inl ⟨code, rest, rfl⟩)
    · exact .inr (.inr ⟨slot, image, rest, rfl⟩)

/-! ### The TAP -/

theorem State.tap_off {s : State} (h : s.cfg.mode = .off) (code : Nat) (act : State → State) : s.tap code act = s := if_pos h

theorem State.tap_allowed {s : State} {code : Nat} (hm : s.cfg.mode ≠ .off) (h : s.tapAllows code = true) (act : State → State) :
    s.tap code act = act { s with test := { s.test with ir := code } } := by
  unfold State.tap
  rw [if_neg hm, if_pos h]

theorem State.tap_bypassed {s : State} {code : Nat} (hm : s.cfg.mode ≠ .off) (h : s.tapAllows code = false) (act : State → State) :
    s.tap code act = s.tapBypass code := by
  unfold State.tap
  rw [if_neg hm, h]
  rfl

/-! ### LC_STEP (19 R491, 03 R101) -/

/-- A store after an LC_STEP: wiped, then the new life-cycle state. -/
def Seal.advance (lc : Nat) (x : Seal) : Seal := { x.wipe with lc := lc }

theorem tapAllows_lcStep {s : State} : s.tapAllows 0x30 = true ↔ 1 ≤ s.lcState ∧ s.lcState ≤ 3 := by
  simp [State.tapAllows]

theorem exec_lcStep_taken {s : State} {code : BitVec 8} (hm : s.cfg.mode ≠ .off) (h1 : 1 ≤ s.lcState) (h3 : s.lcState ≤ 3)
    (hc : code.toNat = s.lcState + 1) : exec (.lcStep code) s = .next { s with
      test := { s.test with ir := 0x30, out := 0 }, seals := s.seals.map (Seal.advance (s.lcState + 1)), wiped := true
      wipeCount := s.cleanSeal.wipe.wipeCount, lcState := s.lcState + 1 } := by
  refine congrArg _ ((State.tap_allowed hm (tapAllows_lcStep.2 ⟨h1, h3⟩) _).trans ?_)
  unfold State.lifeStep
  simp only [hc]
  rw [if_neg (by simp [State.shiftOut])]
  simp only [State.wipeSeals, List.map_map]
  rfl

theorem exec_lcStep_other {s : State} {code : BitVec 8} (hm : s.cfg.mode ≠ .off) (h1 : 1 ≤ s.lcState) (h3 : s.lcState ≤ 3)
    (hc : code.toNat ≠ s.lcState + 1) : exec (.lcStep code) s = .next { s with test := { s.test with ir := 0x30, out := 0 } } := by
  refine congrArg _ ((State.tap_allowed hm (tapAllows_lcStep.2 ⟨h1, h3⟩) _).trans ?_)
  unfold State.lifeStep
  exact if_pos hc

theorem exec_lcStep_bypassed {s : State} {code : BitVec 8} (hm : s.cfg.mode ≠ .off) (h : s.lcState = 0 ∨ 4 ≤ s.lcState) :
    exec (.lcStep code) s = .next { s with test := { s.test with ir := 0x30, bypassBit := false, out := 0 } } := by
  have hno : s.tapAllows 0x30 = false := by
    rw [← Bool.not_eq_true, tapAllows_lcStep]
    omega
  exact congrArg _ (State.tap_bypassed hm hno _)

theorem exec_lcStep_off {s : State} {code : BitVec 8} (hm : s.cfg.mode = .off) : exec (.lcStep code) s = .next s :=
  congrArg _ (State.tap_off hm _ _)

theorem mem_advance {lc : Nat} {l : List Seal} {x : Seal} (h : x ∈ l.map (Seal.advance lc)) :
    x.lc = lc ∧ x.keys = [] ∧ x.hashes = [] := by
  obtain ⟨y, -, rfl⟩ := List.mem_map.1 h
  exact ⟨rfl, rfl, rfl⟩

/-- An LC_STEP leaves the stores as they are, or it is the code of the next state and advances each of them. -/
theorem exec_lcStep_cases {s t : State} {code : BitVec 8} (e : exec (.lcStep code) s = .next t) :
    t.seals = s.seals ∨ (code.toNat = s.lcState + 1 ∧ 1 ≤ s.lcState ∧ s.lcState ≤ 3 ∧ t.lcState = s.lcState + 1 ∧
      t.seals = s.seals.map (Seal.advance (s.lcState + 1))) := by
  by_cases hm : s.cfg.mode = .off
  · exact .inl (congrArg State.seals (next_inj (exec_lcStep_off hm ▸ e)))
  by_cases hlc : 1 ≤ s.lcState ∧ s.lcState ≤ 3
  · by_cases hc : code.toNat = s.lcState + 1
    · obtain rfl := next_inj ((exec_lcStep_taken hm hlc.1 hlc.2 hc).symm.trans e)
      exact .inr ⟨hc, hlc.1, hlc.2, rfl, rfl⟩
    · obtain rfl := next_inj ((exec_lcStep_other hm hlc.1 hlc.2 hc).symm.trans e)
      exact .inl rfl
  · obtain rfl := next_inj ((exec_lcStep_bypassed (code := code) hm (by omega)).symm.trans e)
    exact .inl rfl

/-! ### KEY_WRITE (19 R491, 15 R411) -/

theorem tapAllows_keyWrite {s : State} : s.tapAllows 0x31 = true ↔ s.lcState = 2 := by
  simp [State.tapAllows]

theorem exec_keyWrite_taken {s : State} {slot : BitVec 8} {image : List Byte} (hm : s.cfg.mode ≠ .off) (h : s.lcState = 2) :
    exec (.keyWrite slot image) s = .next { s with
      test := { s.test with ir := 0x31, out := 0 }, seals := s.seals.map (fun x => x.putKey slot.toNat image) } :=
  congrArg _ (State.tap_allowed hm (tapAllows_keyWrite.2 h) _)

theorem exec_keyWrite_bypassed {s : State} {slot : BitVec 8} {image : List Byte} (hm : s.cfg.mode ≠ .off) (h : s.lcState ≠ 2) :
    exec (.keyWrite slot image) s = .next { s with test := { s.test with ir := 0x31, bypassBit := false, out := 0 } } := by
  have hno : s.tapAllows 0x31 = false := by
    rwa [← Bool.not_eq_true, tapAllows_keyWrite]
  exact congrArg _ (State.tap_bypassed hm hno _)

theorem exec_keyWrite_off {s : State} {slot : BitVec 8} {image : List Byte} (hm : s.cfg.mode = .off) :
    exec (.keyWrite slot image) s = .next s :=
  congrArg _ (State.tap_off hm _ _)

/-- A KEY_WRITE leaves the stores as they are, or, in PROVISION, writes a slot of each of them. -/
theorem exec_keyWrite_cases {s t : State} {slot : BitVec 8} {image : List Byte} (e : exec (.keyWrite slot image) s = .next t) :
    t.seals = s.seals ∨ (s.lcState = 2 ∧ t.seals = s.seals.map (fun x => x.putKey slot.toNat image)) := by
  by_cases hm : s.cfg.mode = .off
  · exact .inl (congrArg State.seals (next_inj (exec_keyWrite_off hm ▸ e)))
  by_cases hlc : s.lcState = 2
  · obtain rfl := next_inj ((exec_keyWrite_taken hm hlc).symm.trans e)
    exact .inr ⟨hlc, rfl⟩
  · obtain rfl := next_inj ((exec_keyWrite_bypassed hm hlc).symm.trans e)
    exact .inl rfl

theorem exec_keyWrite_lcs {s t : State} {slot : BitVec 8} {image : List Byte} (e : exec (.keyWrite slot image) s = .next t) :
    t.seals.map Seal.lc = s.seals.map Seal.lc := by
  obtain h | ⟨-, h⟩ := exec_keyWrite_cases e
  · rw [h]
  · rw [h, List.map_map]
    rfl

/-- A key of the written slot is the image's, under a KEY_ID other than 0. -/
theorem Seal.mem_putKey_slot {x : Seal} {slot id : Nat} {image key : List Byte} :
    (slot, id, key) ∈ (x.putKey slot image).keys ↔ id ≠ 0 ∧ id = fieldAt image 48 4 ∧ key = bytesAt image 0 48 := by
  unfold Seal.putKey
  dsimp only
  split
  next h0 =>
    simp only [List.mem_filter, decide_not, decide_true, Bool.not_true, Bool.false_eq_true, and_false, false_iff]
    omega
  next h0 =>
    simp only [List.mem_mergeSort, List.mem_append, List.mem_filter, List.mem_singleton, Prod.mk.injEq,
      true_and]
    constructor
    · rintro (⟨-, hne⟩ | ⟨rfl, rfl⟩)
      · simp at hne
      · exact ⟨h0, rfl, rfl⟩
    · rintro ⟨-, hid, hkey⟩
      exact .inr ⟨hid, hkey⟩

/-- The other slots stay. -/
theorem Seal.mem_putKey_ne {x : Seal} {slot : Nat} {image : List Byte} {k : Nat × Nat × List Byte} (hk : k.1 ≠ slot) :
    k ∈ (x.putKey slot image).keys ↔ k ∈ x.keys := by
  have hnew : k ≠ (slot, fieldAt image 48 4, bytesAt image 0 48) := fun h => hk (congrArg Prod.fst h)
  unfold Seal.putKey
  dsimp only
  split <;> simp [hk, hnew]

/-! ### TAMPER_N and HALTED (03 R102, 14 R386, 15 R428) -/

/-- A store after TAMPER_N. -/
def Seal.tampered (x : Seal) : Seal := { x.wipe with tamperSeen := true }

/-- What TAMPER_N does to the stores, before the BLOCK entry. -/
def State.tamperedSeals (s : State) : State :=
  { s with seals := s.seals.map Seal.tampered, wiped := true, wipeCount := s.cleanSeal.wipe.wipeCount, tamperSeen := true }

theorem exec_tamper {s : State} (hm : s.cfg.mode ≠ .off) :
    exec .tamper s = .next (s.tamperedSeals.block { severity := sevBlock, cause := 0x50, unit := 0x0C } 0x0A) := by
  refine congrArg Host.Outcome.next ((if_neg hm).trans ?_)
  simp only [State.wipeSeals, List.map_map]
  rfl

theorem State.halt_stopped {s : State} (h : s.cfg.mode = .off ∨ s.cfg.mode = .halted) (c : Nat) : s.halt c = s := if_pos h

theorem State.tell_thrice (s : State) (m : TwinMsg) : ((s.tell m).tell m).tell m =
    { s with twin := { s.twin with tx := if s.twin.linkUp then s.twin.tx ++ [m, m, m] else s.twin.tx } } := by
  cases hl : s.twin.linkUp with
  | true => simp [State.tell, hl]
  | false =>
    simp only [State.tell_down s m hl]
    rfl

theorem State.halt_running {s : State} (hoff : s.cfg.mode ≠ .off) (hhalted : s.cfg.mode ≠ .halted) (c : Nat) :
    s.halt c = { s with
      cfg := { s.cfg with mode := .halted, haltCause := c }
      twin := { s.twin with tx := if s.twin.linkUp then s.twin.tx ++ [.dying, .dying, .dying] else s.twin.tx } } := by
  unfold State.halt
  rw [if_neg (not_or.2 ⟨hoff, hhalted⟩), State.tell_thrice]

/-- Settles O13: TAMPER_N by its one equation, HALTED by the two of `State.halt`. -/
theorem haltsSendDying : Obligations.HaltsSendDying := by
  refine ⟨fun s hm => ?_, fun s c => ⟨fun h => State.halt_stopped h c, fun hoff hhalted => State.halt_running hoff hhalted c⟩⟩
  have hstill := (State.block_keeps (Keeps.refl s.tamperedSeals) { severity := sevBlock, cause := 0x50, unit := 0x0C } 0x0A).still
  have hseals : (s.tamperedSeals.block { severity := sevBlock, cause := 0x50, unit := 0x0C } 0x0A).seals = s.seals.map Seal.tampered :=
    State.block_seals _ _ _
  refine ⟨_, exec_tamper hm, State.halt_mode _ _ hm, fun hh => ?_, ?_, fun x hx => ?_, ?_, State.block_lcState _ _ _,
    State.block_wiped _ _ _, State.block_tamperSeen _ _ _, ⟨State.block_part _ _ _, State.block_stepping _ _ _,
    congrArg Still.fuses hstill, State.block_pending _ _ _⟩, ?_⟩
  · exact congrArg (fun u => u.cfg.haltCause) (State.halt_running (s := s.tamperedSeals.report _) hm hh _)
  · rw [hseals, List.length_map]
  · obtain ⟨y, -, rfl⟩ := List.mem_map.1 (hseals ▸ hx)
    exact ⟨rfl, rfl, rfl, rfl⟩
  · rw [hseals, List.map_map]
    rfl
  · exact congrArg Errors.fifo (State.halt_errs _ _)

/-- Settles O6: LC_STEP is the one command that writes a life-cycle state, and writes the next one. -/
theorem lifeCycleAdvancesByOne : Obligations.LifeCycleAdvancesByOne := by
  intro s t c rest hp e
  have hx : exec c { s with pending := rest } = .next t := by
    rwa [step, hp] at e
  obtain h | ⟨code, rfl⟩ | ⟨slot, image, rfl⟩ := exec_sealsStep hx
  · exact .inl h.lcs
  · obtain h | ⟨hc, h1, h3, hlc, hseals⟩ := exec_lcStep_cases hx
    · exact .inl (congrArg _ h)
    · exact .inr ⟨code, rfl, hc, h1, h3, hlc, fun x hx => mem_advance (hseals ▸ hx)⟩
  · exact .inl (exec_keyWrite_lcs (s := { s with pending := rest }) hx)

/-- Settles O7: a KEY_WRITE outside PROVISION writes no store, and every other command keeps or wipes the keys. -/
theorem keysEnterInProvisionOnly : Obligations.KeysEnterInProvisionOnly := by
  intro s t c rest hp e
  have hx : exec c { s with pending := rest } = .next t := by
    rwa [step, hp] at e
  obtain h | ⟨code, rfl⟩ | ⟨slot, image, rfl⟩ := exec_sealsStep hx
  · exact .inl h.keys
  · obtain h | ⟨-, -, -, -, h⟩ := exec_lcStep_cases hx
    · exact .inl (SealsStep.of_eq h).keys
    · rw [h, List.forall₂_map_right_iff, List.forall₂_same]
      exact .inl fun _ _ => .inr rfl
  · obtain h | ⟨hlc, -⟩ := exec_keyWrite_cases hx
    · exact .inl (SealsStep.of_eq h).keys
    · exact .inr ⟨hlc, slot, image, rfl⟩

/-- Settles O16: the equations of LC_STEP and KEY_WRITE, and that no other step writes a life-cycle state. -/
theorem lifeCycleAndKeys : Obligations.LifeCycleAndKeys := by
  refine ⟨⟨fun s t e => ?_, fun s code hm => ⟨fun h1 h3 hc => ?_, exec_lcStep_other hm, exec_lcStep_bypassed hm⟩⟩,
    fun s slot image hm => ⟨fun hlc => ?_, exec_keyWrite_bypassed hm⟩⟩
  · obtain h | h | ⟨slot, image, rest, hp⟩ := step_sealsStep e
    · exact .inl h.lcs
    · exact .inr h
    · rw [step, hp] at e
      exact .inl (exec_keyWrite_lcs (s := { s with pending := rest }) e)
  · exact ⟨_, exec_lcStep_taken hm h1 h3 hc, rfl, rfl, List.length_map _, fun x hx => mem_advance hx, rfl⟩
  · refine ⟨_, exec_keyWrite_taken hm hlc, rfl, ?_⟩
    rw [List.forall₂_map_right_iff, List.forall₂_same]
    exact fun x _ => ⟨fun id key => Seal.mem_putKey_slot, fun k hk => Seal.mem_putKey_ne hk, rfl, rfl⟩

end Sys2Proof.Machine
end

section
/-! SUPPORT. Receive windows, scrubbing and control SRAMs (03 R70, R83 to R99). The statements on scratchpads. -/

namespace Sys2Proof.Machine

/-! ### Flits in a scratchpad (03 R67, R84) -/

/-- A value that is not the default is listed by its write, whatever the table holds. -/
theorem tget_tset_listed {α : Type} [DecidableEq α] {d v : α} (hv : v ≠ d) (t : Tab α) (k : Nat) : tget d (tset d t k v) k = v := by
  induction t with
  | nil => simp [tset, tget, hv]
  | cons a rest ih =>
    obtain ⟨i, w⟩ := a
    unfold tset
    split
    next => simp [tget]
    next hki =>
      split
      next => simp [tget]
      next hne => simp [tget, Ne.symm hne, hki, ih]

/-- A word's key, by its local address alone. -/
theorem spdKey_localAddress (core addr : Nat) : spdKey core (addr / 65536) (addr % 65536) = 65536 * core + addr / 4 := by
  unfold spdKey
  omega

/-- The scratchpad words after the first `m` words of a flit at local address `a`. -/
def flitWords (core a : Nat) (flit : List Byte) (m : Nat) (t : Tab (Option Word)) : Tab (Option Word) :=
  (List.range m).foldl (fun t i => tset none t (spdKey core ((a + 4 * i) / 65536) ((a + 4 * i) % 65536))
    (some (BitVec.ofNat 32 (fieldAt flit (4 * i) 4)))) t

theorem flitWords_succ (core a : Nat) (flit : List Byte) (m : Nat) (t : Tab (Option Word)) :
    flitWords core a flit (m + 1) t = tset none (flitWords core a flit m t)
      (spdKey core ((a + 4 * m) / 65536) ((a + 4 * m) % 65536)) (some (BitVec.ofNat 32 (fieldAt flit (4 * m) 4))) := by
  simp only [flitWords, List.range_succ, List.foldl_append, List.foldl_cons, List.foldl_nil]

theorem flitWords_ok {core a : Nat} {flit : List Byte} {t : Tab (Option Word)} (h : tabOk none t = true) (m : Nat) :
    tabOk none (flitWords core a flit m t) = true := by
  induction m with
  | zero => exact h
  | succ m ih =>
    rw [flitWords_succ]
    exact tabOk_tset ih _ _

/-- A key that is none of the flit's keeps its word. -/
theorem flitWords_other {core a : Nat} {flit : List Byte} {t : Tab (Option Word)} (h : tabOk none t = true) {key m : Nat}
    (hkey : ∀ n, n < m → key ≠ spdKey core ((a + 4 * n) / 65536) ((a + 4 * n) % 65536)) :
    tget none (flitWords core a flit m t) key = tget none t key := by
  induction m with
  | zero => rfl
  | succ m ih =>
    rw [flitWords_succ, tget_tset_ne (flitWords_ok h m) _ (hkey m (Nat.lt_succ_self m))]
    exact ih fun n hn => hkey n (Nat.lt_succ_of_lt hn)

/-- Each word of the flit stands at its place. -/
theorem flitWords_own {core a : Nat} {flit : List Byte} {t : Tab (Option Word)} (h : tabOk none t = true) {n m : Nat} (hn : n < m) :
    tget none (flitWords core a flit m t) (spdKey core ((a + 4 * n) / 65536) ((a + 4 * n) % 65536)) =
      some (BitVec.ofNat 32 (fieldAt flit (4 * n) 4)) := by
  induction m with
  | zero => omega
  | succ m ih =>
    rw [flitWords_succ]
    by_cases hnm : n = m
    · rw [hnm, tget_tset_self (flitWords_ok h m)]
    · have hkeys : spdKey core ((a + 4 * n) / 65536) ((a + 4 * n) % 65536) ≠
          spdKey core ((a + 4 * m) / 65536) ((a + 4 * m) % 65536) := by
        rw [spdKey_localAddress, spdKey_localAddress]
        omega
      rw [tget_tset_ne (flitWords_ok h m) _ hkeys]
      exact ih (by omega)

theorem State.putFlit_eq (s : State) (core a : Nat) (flit : List Byte) :
    s.putFlit core a flit = { s with cores := { s.cores with spd := flitWords core a flit 16 s.cores.spd } } :=
  List.foldl_hom (fun t => ({ s with cores := { s.cores with spd := t } } : State)) (fun _ _ => rfl)

theorem State.spdWord_of_listed {s : State} {core q off : Nat} {w : Word} (h : tget none s.cores.spd (spdKey core q off) = some w) :
    s.spdWord core q off = w := by
  unfold State.spdWord
  rw [h]

/-- An open window is read as it was written. -/
theorem State.window_of_written {t : State} {core w : Nat} {l : Tab Window} {y : Window} (ho : y.opened = true)
    (ht : t.cores.windows = tset {} l (core * 8 + w) y) : t.window core w = y := by
  unfold State.window
  rw [ht]
  exact tget_tset_listed (fun h => Bool.noConfusion (ho.symm.trans (congrArg Window.opened h))) _ _

/-! ### Remote reads, CREDIT, WDATA, WFENCE -/

theorem exec_remoteRead_reached {s : State} {c : CoreId} (ht : s.hasTile c.tile.toNat = true) {id k : Nat} {q : BitVec 2}
    {off n : BitVec 16} (hp : s.powered c.tile.toNat = true) (hr : s.reaches c q.toNat off.toNat n.toNat = true) :
    exec (.remoteRead id k c q off n) s = .next { s with cores := { s.cores with
      remote := (List.range n.toNat).map (fun i => s.spdWord c.key q.toNat (off.toNat + 4 * i)) } } := by
  refine (onTile_of_hasTile ht).trans ?_
  unfold State.remoteRead
  rw [hp, hr]
  rfl

theorem exec_remoteRead_barred {s : State} {c : CoreId} (ht : s.hasTile c.tile.toNat = true) {id k : Nat} {q : BitVec 2}
    {off n : BitVec 16} (hp : s.powered c.tile.toNat = true) (hr : s.reaches c q.toNat off.toNat n.toNat = false) :
    exec (.remoteRead id k c q off n) s = .next (s.badAccess id k c q.toNat off.toNat) := by
  refine (onTile_of_hasTile ht).trans ?_
  unfold State.remoteRead
  rw [hp, hr]
  rfl

theorem exec_remoteRead_unpowered {s : State} {c : CoreId} (ht : s.hasTile c.tile.toNat = true) {id k : Nat} {q : BitVec 2}
    {off n : BitVec 16} (hp : s.powered c.tile.toNat = false) : exec (.remoteRead id k c q off n) s = .next s := by
  refine (onTile_of_hasTile ht).trans ?_
  unfold State.remoteRead
  rw [hp]
  rfl

section
variable {s : State} {core w n : Nat}

theorem State.credit_returned (ho : (s.window core w).opened = true) (hn : n ≤ (s.window core w).unread) :
    s.credit core w n = s.setWindow core w { s.window core w with
      credits := (s.window core w).credits + n, unread := (s.window core w).unread - n } := by
  unfold State.credit
  rw [if_pos ho, if_pos hn]

theorem State.credit_beyond (ho : (s.window core w).opened = true) (hn : (s.window core w).unread < n) : s.credit core w n = s := by
  unfold State.credit
  rw [if_pos ho, if_neg (by omega)]

/-- The first CREDIT of a window opens it with its whole size, and no other. -/
theorem State.credit_opening (ho : (s.window core w).opened = false) {y : Window} (hy : s.windowFor core w = some y) :
    s.credit core w n = if n = y.size then s.setWindow core w y else s := by
  unfold State.credit
  simp only [ho, hy, Bool.false_eq_true, if_false]

theorem State.credit_unasked (ho : (s.window core w).opened = false) (hy : s.windowFor core w = none) : s.credit core w n = s := by
  unfold State.credit
  simp only [ho, hy, Bool.false_eq_true, if_false]

theorem State.wfence_open (ho : (s.window core w).opened = true) :
    s.wfence core w = s.setWindow core w { s.window core w with fenced := true } := if_pos ho

theorem State.wfence_closed (ho : (s.window core w).opened = false) : s.wfence core w = s := by
  unfold State.wfence
  simp only [ho, Bool.false_eq_true, if_false]

end

section
variable {s : State} {c : CoreId} {w : Nat} {flit : List Byte} {x : Window}

theorem State.wdata_closed (hx : x = s.window c.key w) (ho : x.opened = false) :
    s.wdata c w flit = s.report
      { severity := sevJob, cause := 0x12, unit := 0x01, tile := c.tile.toNat, index := c.index, addr := x.base } := by
  subst hx
  unfold State.wdata
  simp only [ho, Bool.not_false, if_true]

theorem State.wdata_waits (hx : x = s.window c.key w) (ho : x.opened = true) (hc : x.credits = 0) : s.wdata c w flit = s := by
  subst hx
  unfold State.wdata
  simp only [ho, hc, Bool.not_true, Bool.false_eq_true, if_false, if_true]

theorem State.wdata_written (hx : x = s.window c.key w) (ho : x.opened = true) (hc : 0 < x.credits) :
    s.wdata c w flit = { s with cores := { s.cores with
      spd := flitWords c.key (x.base + 64 * x.pos) flit 16 s.cores.spd
      windows := tset {} s.cores.windows (c.key * 8 + w)
        { x with pos := (x.pos + 1) % x.size, credits := x.credits - 1, unread := x.unread + 1, fenced := false } } } := by
  subst hx
  unfold State.wdata
  simp only [ho, Nat.ne_of_gt hc, Bool.not_true, Bool.false_eq_true, if_false, State.putFlit_eq, State.setWindow]

end

/-- Settles O45: the equations of remote reads, CREDIT, WDATA and WFENCE, and where the words of a flit stand. -/
theorem scratchpadsAndWindows : Obligations.ScratchpadsAndWindows := by
  intro s c w ht
  have run : ∀ {u v : State}, u = v → onTile s c.tile.toNat u = .next v := fun h => (onTile_of_hasTile ht).trans (congrArg _ h)
  refine ⟨fun id k q off n => ⟨exec_remoteRead_reached ht, exec_remoteRead_barred ht, exec_remoteRead_unpowered ht⟩,
    fun units x hx => ?_, fun flit x hx => ?_, fun ho => run (State.wfence_open ho), fun ho => run (State.wfence_closed ho)⟩
  · subst hx
    refine ⟨fun ho hn => run (State.credit_returned ho hn), fun ho hn => run (State.credit_beyond ho hn),
      fun y ho hy => ⟨fun hn => ?_, fun hn => ?_⟩, fun ho hy => run (State.credit_unasked ho hy)⟩
    · exact run ((State.credit_opening ho hy).trans (if_pos hn))
    · exact run ((State.credit_opening ho hy).trans (if_neg hn))
  · refine ⟨fun ho => run (State.wdata_closed hx ho), fun ho hc => run (State.wdata_waits hx ho hc), fun ho hc hok a ha => ?_⟩
    have hspd : tabOk none s.cores.spd = true := (Bool.and_eq_true _ _ ▸ hok).2
    obtain ⟨t, hwritten⟩ : ∃ t, t = s.wdata c w.toNat flit := ⟨_, rfl⟩
    have hframe := hwritten.trans (State.wdata_written hx ho hc)
    rw [← ha] at hframe
    have hwords : t.cores.spd = flitWords c.key a flit 16 s.cores.spd := by rw [hframe]
    refine ⟨t, run hwritten.symm, State.window_of_written ho (by rw [hframe]), fun n hn => ?_, fun key hkey => ?_, by rw [hframe]⟩
    · refine State.spdWord_of_listed ?_
      rw [hwords]
      exact flitWords_own hspd hn
    · rw [hwords]
      exact flitWords_other hspd hkey

/-! ### Scrubbing of scratchpads (03 R92, 16 R438, R439) -/

/-- A word of the idle part of the cache quarter is not in the present cache (03 R78). -/
theorem State.idleCache_of_inCache {s : State} {core q off : Nat} (h : s.inCache core q off = true) : s.idleCache core q off = false := by
  unfold State.idleCache
  rw [h, Bool.not_true, Bool.and_false]

theorem State.scrubCore_idle {s : State} {c : CoreId} {bank : Nat} {w : Nat × Nat} (f : EccFinding)
    (hw : w = scrubWord bank (tget 0 s.cores.scrub (c.key * 64 + bank))) (hi : s.idleCache c.key w.1 w.2 = true) :
    s.scrubCore c bank f = s.advanceScrub c.key bank := by
  subst hw
  exact if_pos hi

section
variable {s : State} {c : CoreId} {bank : Nat} {w : Nat × Nat} {e : LogEntry}

/-- A clean word is left as it is, in the idle cache or not. -/
theorem State.scrubCore_clean : s.scrubCore c bank .clean = s.advanceScrub c.key bank := ite_self _

theorem State.scrubCore_corrected (hw : w = scrubWord bank (tget 0 s.cores.scrub (c.key * 64 + bank)))
    (hi : s.idleCache c.key w.1 w.2 = false)
    (he : e = { severity := sevNote, cause := 0x01, unit := 0x01, tile := c.tile.toNat, index := c.index, addr := 65536 * w.1 + w.2 }) :
    s.scrubCore c bank .corrected = ((s.advanceScrub c.key bank).bumpTile c.tile.toNat 0x1AC 1).report e := by
  subst hw he
  exact if_neg (ne_true_of_eq_false hi)

theorem State.scrubCore_cacheLost (hw : w = scrubWord bank (tget 0 s.cores.scrub (c.key * 64 + bank)))
    (hc : s.inCache c.key w.1 w.2 = true) :
    s.scrubCore c bank .uncorrectable = (s.advanceScrub c.key bank).lineLost c (65536 * w.1 + w.2) := by
  subst hw
  exact (if_neg (ne_true_of_eq_false (State.idleCache_of_inCache hc))).trans (if_pos hc)

theorem State.scrubCore_wordLost (hw : w = scrubWord bank (tget 0 s.cores.scrub (c.key * 64 + bank)))
    (hc : s.inCache c.key w.1 w.2 = false) (hi : s.idleCache c.key w.1 w.2 = false) :
    s.scrubCore c bank .uncorrectable = (s.advanceScrub c.key bank).coreFault c 0 := by
  subst hw
  exact (if_neg (ne_true_of_eq_false hi)).trans (if_neg (ne_true_of_eq_false hc))

end

theorem State.scrubClaim_eq (s : State) (c : CoreId) (bank : Nat) : s.scrubClaim c bank =
    if bank < 32 then (s.advanceScrub c.key bank).bumpTile c.tile.toNat 0x110 1 else s.advanceScrub c.key bank := by
  have hquarter : bank / 16 < 2 ↔ bank < 32 := by omega
  simp only [State.scrubClaim, hquarter]

/-! ### Control SRAMs (03 R97 to R99, 17 R474) -/

theorem State.retainBank_taken {s : State} {t b : Nat} (hset : bit (s.liveFor t 0x1400C) 0 = true) (hp : s.powered t = true)
    (hb : s.hasBank t b = true) :
    s.retainBank t b = { s with cores := { s.cores with retained := insertKey (t * 8 + b) s.cores.retained } } := by
  unfold State.retainBank
  rw [hset, hp, hb]
  rfl

theorem State.retainBank_other {s : State} {t b : Nat}
    (h : bit (s.liveFor t 0x1400C) 0 = false ∨ s.powered t = false ∨ s.hasBank t b = false) : s.retainBank t b = s := by
  unfold State.retainBank
  rw [if_neg]
  rcases h with h | h | h <;> simp [h]

/-- The state after a background test has moved to a bank's next region. -/
def State.regionRead (s : State) (t b : Nat) : State :=
  { s with cores := { s.cores with
    region := tset 0 s.cores.region (t * 8 + b) ((tget 0 s.cores.region (t * 8 + b) + 1) % bankRegions b)
    regionAt := tset 0 s.cores.regionAt (t * 8 + b) (s.now + 1) } }

/-- Whether a bank's next region may be tested: 1 ms after the last, whose time stands one higher so that 0 says none. -/
def State.testDue (s : State) (t b : Nat) : Prop :=
  tget 0 s.cores.regionAt (t * 8 + b) = 0 ∨ tget 0 s.cores.regionAt (t * 8 + b) + 999999 ≤ s.now

/-- A bank that is served, not retained, and due: its next region is read, and failing words that the shadow does not serve are handled. -/
theorem State.testRegion_tested {s : State} {t b : Nat} {bad : List Nat}
    (hm : s.cfg.mode = .ready ∨ s.cfg.mode = .drain ∨ s.cfg.mode = .maint) (hb : s.hasBank t b = true)
    (hr : s.cores.retained.contains (t * 8 + b) = false) (hd : s.testDue t b) :
    s.testRegion t b bad =
      if bad = [] ∨ s.cores.shadowed.contains (t * 8 + b, tget 0 s.cores.region (t * 8 + b)) then s.regionRead t b
      else (s.regionRead t b).failRegion t b (tget 0 s.cores.region (t * 8 + b)) bad.eraseDups := by
  have hmode : [Mode.ready, .drain, .maint].contains s.cfg.mode = true := by
    rcases hm with h | h | h <;> rw [h] <;> rfl
  unfold State.testDue at hd
  unfold State.testRegion
  dsimp only
  rw [if_neg]
  · rfl
  cases hat : tget 0 s.cores.regionAt (t * 8 + b) with
  | zero => simp only [hmode, hb, hr, Bool.not_false, Bool.and_true, Bool.not_true, Bool.false_eq_true, not_false_eq_true]
  | succ a =>
    have hnow : 1000000 + a ≤ s.now := by omega
    simp only [hmode, hb, hr, hnow, decide_true, Bool.not_false, Bool.and_true, Bool.not_true, Bool.false_eq_true, not_false_eq_true]

theorem State.testRegion_other {s : State} {t b : Nat} {bad : List Nat}
    (h : (s.cfg.mode ≠ .ready ∧ s.cfg.mode ≠ .drain ∧ s.cfg.mode ≠ .maint) ∨ s.hasBank t b = false ∨
      s.cores.retained.contains (t * 8 + b) = true ∨ ¬ s.testDue t b) : s.testRegion t b bad = s := by
  unfold State.testRegion
  dsimp only
  rw [if_pos]
  obtain ⟨h1, h2, h3⟩ | h | h | h := h
  · simp [h1, h2, h3]
  · simp [h]
  · simp only [h, Bool.not_true, Bool.and_false, Bool.false_and, Bool.not_false]
  · unfold State.testDue at h
    cases hat : tget 0 s.cores.regionAt (t * 8 + b) with
    | zero => omega
    | succ a =>
      have hnow : ¬ 1000000 + a ≤ s.now := by omega
      simp only [hnow, decide_false, Bool.and_false, Bool.not_false]

/-- Settles O47: the equations of the scrubber, of retention and wake, and of the background test. -/
theorem scratchpadsAreScrubbedAndScreened : Obligations.ScratchpadsAreScrubbedAndScreened := by
  refine ⟨fun s c bank ht => ?_, fun s tile b ht => ?_⟩
  · have run : ∀ {v x : State}, s.whenever (s.hasCore c && s.scrubs c) v = x →
        onTile s c.tile.toNat (s.whenever (s.hasCore c && s.scrubs c) v) = .next x :=
      fun h => (onTile_of_hasTile ht).trans (congrArg _ h)
    refine ⟨fun h => ?_, fun u w e hcore hscrubs hu hw he => ?_⟩
    · have hno : (s.hasCore c && s.scrubs c) = false := by
        rcases h with h | h <;> simp [h]
      have idle : ∀ v : State, s.whenever (s.hasCore c && s.scrubs c) v = s := fun v => by rw [hno, State.whenever_false]
      exact ⟨fun f => run (idle _), run (idle _)⟩
    · have active : ∀ v : State, s.whenever (s.hasCore c && s.scrubs c) v = v := fun v => by
        rw [hcore, hscrubs, Bool.and_self, State.whenever_true]
      replace hu : s.advanceScrub c.key bank.toNat = u := hu.symm
      refine ⟨run ((active _).trans ?_), fun hi => ⟨run ((active _).trans ?_), run ((active _).trans ?_)⟩,
        fun hi => run ((active _).trans ?_), fun hc => run ((active _).trans ?_), fun hc hi => run ((active _).trans ?_),
        run ((active _).trans ?_)⟩
      · rw [State.scrubCore_clean, hu]
      · rw [State.scrubCore_idle _ hw hi, hu]
      · rw [State.scrubCore_idle _ hw hi, hu]
      · rw [State.scrubCore_corrected hw hi he, hu]
      · rw [State.scrubCore_cacheLost hw hc, hu, he]
        rfl
      · rw [State.scrubCore_wordLost hw hc hi, hu]
      · rw [State.scrubClaim_eq, hu]
  · have run : ∀ {v x : State}, v = x → onTile s tile.toNat v = .next x := fun h => (onTile_of_hasTile ht).trans (congrArg _ h)
    refine ⟨fun hset hp hb => run (State.retainBank_taken hset hp hb), fun h => run (State.retainBank_other h), run rfl,
      fun bad k region u hk hregion hu => ⟨fun hm hb hr hd => ?_, fun h => run (State.testRegion_other ?_)⟩⟩
    · subst hk hregion
      replace hu : s.regionRead tile.toNat b.toNat = u := hu.symm
      have htest := State.testRegion_tested (bad := bad.map (fun w => w.toNat)) hm hb hr hd
      rw [hu] at htest
      refine ⟨fun h => run (htest.trans (if_pos ?_)), fun hbad hshadow => run (htest.trans (if_neg ?_))⟩
      · simpa using h
      · simp [hbad, hshadow]
    · subst hk
      refine h.imp_right (Or.imp_right (Or.imp_right fun h => ?_))
      unfold State.testDue
      omega

end Sys2Proof.Machine
end

section
/-! SUPPORT. A dispatch that finds one ready item (12 R343). The statement on dispatch. -/

namespace Sys2Proof.Machine

/-! ### Jobs and items read after a write -/

/-- The jobs after a write of one item. -/
theorem State.modItem_job (s : State) (id k : Nat) (f : Item → Item) (q : Nat) :
    (s.modItem id k f).job q = (s.job q).map (fun j => if j.id = id then j.modItem k f else j) := by
  have hid : ∀ j : Job, (if j.id = id then j.modItem k f else j).id = j.id := fun j => by split <;> rfl
  simp only [State.modItem, State.modJob, State.job, List.find?_map, Function.comp_def, hid]

theorem State.job_id {s : State} {q : Nat} {j : Job} (h : s.job q = some j) : j.id = q := by
  simpa using List.find?_some h

theorem State.modItem_job_ne (s : State) {id q : Nat} (hq : q ≠ id) (k : Nat) (f : Item → Item) :
    (s.modItem id k f).job q = s.job q := by
  rw [State.modItem_job]
  cases h : s.job q with
  | none => rfl
  | some j => simp only [Option.map_some, State.job_id h, hq, if_false]

theorem Job.modItem_item {j : Job} {k : Nat} {i : Item} (h : j.items[k]? = some i) (f : Item → Item) :
    (j.modItem k f).items[k]? = some (f i) := by
  have hk : k < j.items.length := (List.getElem?_eq_some_iff.1 h).1
  simp only [Job.modItem, h, List.getElem?_set_self hk]

theorem State.modItem_item {s : State} {id k : Nat} {i : Item} (h : s.item id k = some i) (f : Item → Item) :
    (s.modItem id k f).item id k = some (f i) := by
  obtain ⟨j, hj, hi⟩ := Option.bind_eq_some_iff.1 h
  unfold State.item
  rw [State.modItem_job, hj]
  simp only [Option.map_some, Option.bind_some, State.job_id hj, if_true, Job.modItem_item hi]

/-- What a write of an item leaves of a property that it does not change. -/
theorem Job.modItem_any (j : Job) (k : Nat) {f : Item → Item} {p : Item → Bool} (hp : ∀ x, p (f x) = p x) :
    (j.modItem k f).items.any p = j.items.any p := by
  unfold Job.modItem
  dsimp only
  split
  next x hx =>
    have hmap : (j.items.set k (f x)).map p = j.items.map p := by
      obtain ⟨hk, rfl⟩ := List.getElem?_eq_some_iff.1 hx
      rw [List.map_set, hp, ← List.getElem_map p (h := by rwa [List.length_map]), List.set_getElem_self]
    have hany := congrArg (fun l : List Bool => l.any fun b => b) hmap
    simpa only [List.any_map, Function.comp_def] using hany
  next => rfl

theorem State.modItem_agedWaits (s : State) (id k : Nat) {f : Item → Item} (hst : ∀ x, (f x).st = x.st) (haged : ∀ x, (f x).aged = x.aged) :
    (s.modItem id k f).agedWaits = s.agedWaits := by
  have hjob : ∀ j : Job, (if j.id = id then j.modItem k f else j).items.any (fun i => i.st = ItemSt.evictWait && decide (0 < i.aged)) =
      j.items.any (fun i => i.st = ItemSt.evictWait && decide (0 < i.aged)) := fun j => by
    split
    · exact Job.modItem_any j k fun x => by rw [hst, haged]
    · rfl
  simp only [State.agedWaits, State.modItem, State.modJob, List.any_map, Function.comp_def, hjob]

/-! ### Writes of the scheduler and the host port that send nothing -/

/-- Only registers, the scheduler and the host port differ, and no packet has been sent. -/
structure Silent (s t : State) : Prop where
  frame : t = { s with regs := t.regs, sched := t.sched, host := t.host }
  tx : t.host.tx = s.host.tx

theorem Silent.trans {s t u : State} (h : Silent s t) (k : Silent t u) : Silent s u := by
  refine ⟨k.frame.trans ?_, k.tx.trans h.tx⟩
  rw [h.frame]

theorem Silent.of_sched (s : State) (sc : Sched) : Silent s { s with sched := sc } := ⟨rfl, rfl⟩

theorem State.modItem_silent (s : State) (id k : Nat) (f : Item → Item) : Silent s (s.modItem id k f) := .of_sched s _

theorem State.rejoin_sched (s : State) (t c : Nat) (was : List Nat) :
    ∃ service, s.rejoin t c was = { s with sched := { s.sched with service := service } } := by
  unfold State.rejoin
  dsimp only
  split
  · exact ⟨_, rfl⟩
  · exact ⟨_, rfl⟩

theorem State.rejoins_sched (t : Nat) (was l : List Nat) (s : State) : ∃ service,
    l.foldl (fun s c => s.rejoin t c was) s = { s with sched := { s.sched with service := service } } := by
  induction l generalizing s with
  | nil => exact ⟨_, rfl⟩
  | cons c l ih =>
    obtain ⟨a, ha⟩ := State.rejoin_sched s t c was
    obtain ⟨b, hb⟩ := ih (s.rejoin t c was)
    exact ⟨b, by rw [List.foldl_cons, hb, ha]⟩

/-- Noting the classes that are ready changes service counts and the note itself (12 R343). -/
theorem State.noteReady_sched (s : State) (t : Nat) (now : List Nat) :
    ∃ service wasReady, s.noteReady t now = { s with sched := { s.sched with service := service, wasReady := wasReady } } := by
  refine ⟨(s.noteReady t now).sched.service, (s.noteReady t now).sched.wasReady, ?_⟩
  unfold State.noteReady
  dsimp only
  generalize hwas : (List.range 4).filter (fun c => bit (tget 0 s.sched.wasReady t) c) = was
  obtain ⟨a, ha⟩ := State.rejoins_sched t was (now.filter (fun c => !was.contains c)) s
  rw [ha]

theorem State.noteReady_nil (s : State) (t : Nat) :
    s.noteReady t [] = { s with sched := { s.sched with wasReady := tset 0 s.sched.wasReady t 0 } } := rfl

theorem State.noteReady_silent (s : State) (t : Nat) (now : List Nat) : Silent s (s.noteReady t now) := by
  obtain ⟨a, b, h⟩ := State.noteReady_sched s t now
  exact h ▸ .of_sched s _

theorem State.noteReady_job (s : State) (t : Nat) (now : List Nat) (q : Nat) : (s.noteReady t now).job q = s.job q := by
  obtain ⟨a, b, h⟩ := State.noteReady_sched s t now
  rw [h]
  rfl

theorem State.noteReady_agedWaits (s : State) (t : Nat) (now : List Nat) : (s.noteReady t now).agedWaits = s.agedWaits := by
  obtain ⟨a, b, h⟩ := State.noteReady_sched s t now
  rw [h]
  rfl

theorem State.describe_host (s : State) (tile : Nat) (write : Bool) (owner : Owner) (f : Fetch) (mod : Option Nat) :
    ∃ dma, s.describe tile write owner f mod = { s with host := { s.host with dma := dma } } := by
  unfold State.describe
  split
  · exact ⟨_, rfl⟩
  · exact ⟨_, rfl⟩

theorem State.describes_host (tile : Nat) (owner : Owner) (l : List Fetch) (s : State) : ∃ dma,
    l.foldl (fun s f => s.describe tile false owner f none) s = { s with host := { s.host with dma := dma } } := by
  induction l generalizing s with
  | nil => exact ⟨_, rfl⟩
  | cons f l ih =>
    obtain ⟨a, ha⟩ := State.describe_host s tile false owner f none
    obtain ⟨b, hb⟩ := ih (s.describe tile false owner f none)
    exact ⟨b, by rw [List.foldl_cons, hb, ha]⟩

/-- The reads of a job that is no batch job are submitted to the DMA engine, and that is all (13 R376). -/
theorem State.jobFetch_host (s : State) (j : Job) (tile : Nat) :
    ∃ dma, s.jobFetch j tile = { s with host := { s.host with dma := dma } } := by
  unfold State.jobFetch
  dsimp only
  split
  · exact State.describes_host _ _ _ s
  · exact State.describes_host _ _ _ s

/-! ### An item that needs no translation and no staging space (12 R343, 13 R365) -/

/-- A requester without accesses, failures and waits has every translation that it needs. -/
theorem State.translateAll_nil {s : State} {w : Waiter} (hf : ∀ p ∈ s.host.failed, p.1 ≠ w) (hb : s.host.blocked w = false)
    (tile : Nat) : s.translateAll tile w [] = .ok [] { s with host := s.host.dropCarried w } := by
  have hnone : s.host.failed.find? (fun p => p.1 = w) = none := List.find?_eq_none.2 fun p hp => by simpa using hf p hp
  unfold State.translateAll
  rw [hnone, hb]
  rfl

/-- Such an item runs at once, with its LIVE values bound. -/
theorem State.startOther_untranslated {s : State} {j : Job} {k : Nat} {i : Item} (hn : s.jobNeeds j = []) (hr : j.roles = [])
    (hf : ∀ p ∈ s.host.failed, p.1 ≠ .item j.id k) (hb : s.host.blocked (.item j.id k) = false) :
    ∃ (u : State) (f : Item → Item), s.startOther j k i false = (u.modItem j.id k f, true) ∧ Silent s u ∧ u.sched = s.sched ∧
      ∀ x : Item, x.bind = i.bind → (f x).st = .running ∧ (f x).started = decide (j.kind ≠ 0x03) ∧ (f x).trans = [] ∧
        (f x).tile = x.tile ∧ (f x).bind.lens ≠ [] := by
  obtain ⟨dma, hdma⟩ := State.jobFetch_host { s with host := s.host.dropCarried (.item j.id k) } j i.tile
  have hspace : ∀ b : Bool, (!b && decide (0 < if b = true then i.staging else 0) &&
      decide (ledgerBytes < s.stagingUsed + if b = true then i.staging else 0)) = false := fun b => by cases b <;> simp
  unfold State.startOther
  simp only [hr, hn, List.any_nil, Bool.false_eq_true, if_false, hspace, Bool.false_and, State.translateAll_nil hf hb, hdma]
  refine ⟨_, _, rfl, ⟨rfl, rfl⟩, rfl, fun x hx => ⟨rfl, rfl, rfl, rfl, ?_⟩⟩
  by_cases hl : i.bind.lens = []
  · simp [hl]
  · simp [hl, hx]

theorem State.afterStart_other {j : Job} (h : isBatch j.kind = false) (s : State) (t k : Nat) (aged : Bool) :
    ∃ regs, s.afterStart t j k aged = { s with regs := regs } := by
  unfold State.afterStart
  split
  next =>
    split
    · exact ⟨_, rfl⟩
    · cases aged <;> exact ⟨_, by simp only [h]; rfl⟩
  next => exact ⟨_, rfl⟩

/-! ### Dispatch (12 R343) -/

theorem State.mem_readyItems {s : State} {t : Nat} {p : Job × Nat × Item} (h : p ∈ s.readyItems t) :
    s.itemReady p.1 p.2.1 p.2.2 = true := by
  obtain ⟨j, -, hp⟩ := List.mem_flatMap.1 h
  split at hp
  · obtain ⟨x, hx, rfl⟩ := List.mem_map.1 hp
    have hready := (List.mem_filter.1 hx).2
    rw [Bool.and_eq_true] at hready
    exact hready.2
  · cases hp

/-- An item that is ready waits for no walk and no fault. -/
theorem State.itemReady_blocked {s : State} {j : Job} {k : Nat} {i : Item} (h : s.itemReady j k i = true) :
    s.host.blocked (.item j.id k) = false := by
  simp only [State.itemReady, Bool.and_eq_true, Bool.not_eq_true'] at h
  exact h.1.1.2

theorem Job.cls_lt (j : Job) : j.cls < 4 := by
  unfold Job.cls bits
  omega

theorem State.dispatch_off {s : State} {t : Nat} (h : s.dispatches t = false) : s.dispatch t = s := by
  unfold State.dispatch
  rw [h]
  rfl

/-- The one ready item is tried, aged or not. -/
theorem State.tryOrder_single (s : State) (t : Nat) (p : Job × Nat × Item) : s.tryOrder t [p] = [p] := by
  unfold State.tryOrder
  dsimp only
  cases hage : s.agedItem t p.2.2 with
  | true => simp [hage]
  | false =>
    have hclass : ([0, 1, 2, 3] : List Nat).flatMap (fun c => [p].filter (fun q => q.1.cls = c)) = [p] := by
      have hlt := Job.cls_lt p.1
      obtain h | h | h | h : p.1.cls = 0 ∨ p.1.cls = 1 ∨ p.1.cls = 2 ∨ p.1.cls = 3 := by omega
      all_goals simp [h]
    have hperm := (List.mergeSort_perm ([0, 1, 2, 3] : List Nat) (fun c d => s.classBeats t c d)).flatMap_right
      (fun c => [p].filter (fun q => q.1.cls = c))
    rw [hclass] at hperm
    simpa [hage] using hperm.eq_singleton

theorem State.dispatch_none {s : State} {t : Nat} (hd : s.dispatches t = true) (hr : s.readyItems t = []) :
    s.dispatch t = { s with sched := { s.sched with wasReady := tset 0 s.sched.wasReady t 0 } } := by
  have horder : ∀ u : State, u.tryOrder t [] = [] := fun u => by simp [State.tryOrder]
  have hclass : (List.range 4).filter (fun c => ([] : List (Job × Nat × Item)).any (fun q => q.1.cls = c)) = [] := rfl
  unfold State.dispatch
  simp only [hd, hr, List.map_nil, List.foldl_nil, hclass, horder, State.noteReady_nil, State.tryItems, Bool.not_true, Bool.false_eq_true,
    if_false]

/-- The state in which a tile with one ready item tries it: the item and its class are noted as ready. -/
def State.notedReady (s : State) (t : Nat) (p : Job × Nat × Item) : State :=
  (s.modItem p.1.id p.2.1 (fun i => i.foundReady s.now)).noteReady t [p.1.cls]

section
variable (s : State) (t : Nat) (p : Job × Nat × Item)

theorem State.notedReady_silent : Silent s (s.notedReady t p) :=
  (State.modItem_silent s _ _ _).trans (State.noteReady_silent _ _ _)

theorem State.notedReady_host : (s.notedReady t p).host = s.host := by
  obtain ⟨service, wasReady, h⟩ := State.noteReady_sched (s.modItem p.1.id p.2.1 (fun i => i.foundReady s.now)) t [p.1.cls]
  unfold State.notedReady
  rw [h, State.modItem_host]

theorem State.notedReady_job_ne {q : Nat} (hq : q ≠ p.1.id) : (s.notedReady t p).job q = s.job q :=
  (State.noteReady_job _ _ _ q).trans (State.modItem_job_ne s hq _ _)

theorem State.notedReady_agedWaits : (s.notedReady t p).agedWaits = s.agedWaits :=
  (State.noteReady_agedWaits _ _ _).trans (State.modItem_agedWaits s _ _ (fun _ => rfl) (fun _ => rfl))

end

theorem State.notedReady_item {s : State} {t : Nat} {p : Job × Nat × Item} (h : s.item p.1.id p.2.1 = some p.2.2) :
    (s.notedReady t p).item p.1.id p.2.1 = some (p.2.2.foundReady s.now) := by
  unfold State.item State.notedReady
  rw [State.noteReady_job]
  exact State.modItem_item h _

/-- A dispatch that finds one ready item tries it. -/
theorem State.dispatch_one {s : State} {t : Nat} {p : Job × Nat × Item} (hd : s.dispatches t = true) (hr : s.readyItems t = [p]) :
    s.dispatch t = ((s.notedReady t p).tryItem t (p.1, p.2.1, p.2.2.foundReady s.now) s.agedWaits).1 := by
  have hclass : (List.range 4).filter (fun c => [(p.1, p.2.1, p.2.2.foundReady s.now)].any (fun q => q.1.cls = c)) = [p.1.cls] := by
    have hlt := Job.cls_lt p.1
    obtain h | h | h | h : p.1.cls = 0 ∨ p.1.cls = 1 ∨ p.1.cls = 2 ∨ p.1.cls = 3 := by omega
    all_goals simp [h, List.range_succ]
  rw [← State.notedReady_agedWaits s t p]
  unfold State.dispatch State.notedReady
  simp only [hd, hr, List.map_cons, List.map_nil, List.foldl_cons, List.foldl_nil, hclass, State.tryOrder_single, State.tryItems,
    Bool.not_true, Bool.false_eq_true, if_false, ite_self]

theorem State.tryItem_other {s u : State} {t k : Nat} {j : Job} {i : Item} (hk : isBatch j.kind = false) (hs : i.served = false)
    (h : s.startOther j k i false = (u, true)) :
    s.tryItem t (j, k, i) false = (u.afterStart t j k (s.agedItem t i), true) := by
  unfold State.tryItem
  simp only [hk, hs, h, Bool.false_and, Bool.false_eq_true, if_false, Bool.not_true]

/-- An item of a job that is no batch job, without translations and staging space to wait for, runs when it is tried. -/
theorem State.tryItem_runs {s : State} {t k : Nat} {j : Job} {i : Item} (hk : isBatch j.kind = false) (hn : s.jobNeeds j = [])
    (hr : j.roles = []) (hi : s.item j.id k = some i) (hs : i.served = false) (hf : ∀ p ∈ s.host.failed, p.1 ≠ .item j.id k)
    (hb : s.host.blocked (.item j.id k) = false) :
    Silent s (s.tryItem t (j, k, i) false).1 ∧ (∀ q, q ≠ j.id → (s.tryItem t (j, k, i) false).1.job q = s.job q) ∧
      ∃ x, (s.tryItem t (j, k, i) false).1.item j.id k = some x ∧ x.st = .running ∧ x.started = decide (j.kind ≠ 0x03) ∧
        x.trans = [] ∧ x.tile = i.tile ∧ x.bind.lens ≠ [] := by
  obtain ⟨u, f, hstart, hsilent, hsched, hrun⟩ := State.startOther_untranslated hn hr hf hb
  obtain ⟨regs, hafter⟩ := State.afterStart_other hk (u.modItem j.id k f) t k (s.agedItem t i)
  have hjobs : ∀ q, u.job q = s.job q := fun q => by unfold State.job; rw [hsched]
  have hitem : u.item j.id k = some i := by
    unfold State.item at hi ⊢
    rw [hjobs, hi]
  rw [State.tryItem_other hk hs hstart, hafter]
  exact ⟨(hsilent.trans (State.modItem_silent u _ _ _)).trans ⟨rfl, rfl⟩,
    fun q hq => (State.modItem_job_ne u hq k f).trans (hjobs q), f i, State.modItem_item hitem f, hrun i rfl⟩

theorem exec_workItemDispatch {s : State} {tile : BitVec 5} (ht : s.hasTile tile.toNat = true) (srams : List SramEvent) :
    exec (.workItemDispatch ⟨tile, srams⟩) s = .next ((s.sramEvents tile.toNat srams).dispatch tile.toNat) := onTile_of_hasTile ht

theorem State.sramEvents_hasTile (s : State) (t : Nat) (srams : List SramEvent) (n : Nat) :
    (s.sramEvents t srams).hasTile n = s.hasTile n := by
  have hpart : (s.sramEvents t srams).part = s.part := congrArg Still.part (State.sramEvents_keeps (Keeps.refl s) t srams).still
  unfold State.hasTile
  rw [hpart]

/-- Settles O34: a dispatch without a ready item, with one, and with one that waits for nothing. -/
theorem dispatchStartsReadyItem : Obligations.DispatchStartsReadyItem := by
  intro s tile ht
  have run : exec (.workItemDispatch ⟨tile, []⟩) s = .next (s.dispatch tile.toNat) := exec_workItemDispatch ht []
  refine ⟨fun srams => ?_, fun hd => ?_, fun hd hr => ?_, fun p hd hr => ?_, fun j i hd hr hk hn hroles hj hi hs hf ha => ?_⟩
  · rw [exec_workItemDispatch ht, exec_workItemDispatch ((State.sramEvents_hasTile s _ srams _).trans ht)]
    rfl
  · rw [run, State.dispatch_off hd]
  · rw [run, State.dispatch_none hd hr]
  · rw [run, State.dispatch_one hd hr]
    rfl
  · have hone := State.dispatch_one hd hr
    rw [ha] at hone
    have hnoted := State.notedReady_silent s tile.toNat (j, 0, i)
    have hneeds : (s.notedReady tile.toNat (j, 0, i)).jobNeeds j = [] := by rw [hnoted.frame]; exact hn
    have hblocked : s.host.blocked (.item j.id 0) = false :=
      State.itemReady_blocked (State.mem_readyItems (p := (j, 0, i)) (hr ▸ List.mem_singleton_self _))
    rw [← State.notedReady_host s tile.toNat (j, 0, i)] at hf hblocked
    obtain ⟨hsilent, hjobs, hitem⟩ :=
      State.tryItem_runs (t := tile.toNat) hk hneeds hroles (State.notedReady_item (p := (j, 0, i)) hi) hs hf hblocked
    rw [← hone] at hsilent hjobs hitem
    have hall := hnoted.trans hsilent
    have hframe := hall.frame
    refine ⟨_, run, hitem, fun q hq => (hjobs q hq).trans (State.notedReady_job_ne s _ _ hq), ?_, hall.tx, ?_, ?_, ?_, ?_, ?_, ?_, ?_⟩
    all_goals rw [hframe]
    · exact ⟨rfl, rfl, rfl, rfl⟩
    · exact ⟨rfl, rfl, rfl, rfl, rfl⟩

end Sys2Proof.Machine
end

section
/-! SUPPORT. What computations leave of spill slots (04 R121): the rule of each form of computation, and the operations of
Machine/Formats.lean, which leave none. -/

namespace Sys2Proof.Machine

/-! ### Forms of computations -/

/-- Whatever has run before, a computation leaves the spill slots `l` after those left so far. -/
def Spills {α : Type} (c : FM α) (l : List (Nat × DWord)) : Prop := ∀ a, (StateT.run c a).2.slots = a.slots ++ l

section
variable {α β : Type}

theorem Spills.runFM {c : FM α} {l : List (Nat × DWord)} (h : Spills c l) : (runFM c).2.slots = l := h {}

theorem spills_pure (x : α) : Spills (pure x : FM α) [] := fun a => (List.append_nil a.slots).symm

theorem Spills.bind {c : FM α} {f : α → FM β} {l m : List (Nat × DWord)} (h : Spills c l) (k : ∀ x, Spills (f x) m) :
    Spills (c >>= f) (l ++ m) := fun a => by
  have hrun : (StateT.run (c >>= f) a).2 = (StateT.run (f (StateT.run c a).1) (StateT.run c a).2).2 := rfl
  rw [hrun, k, h, List.append_assoc]

/-- After a computation without spill slots. -/
theorem Spills.after {c : FM α} {f : α → FM β} {l : List (Nat × DWord)} (h : Spills c []) (k : ∀ x, Spills (f x) l) :
    Spills (c >>= f) l := h.bind k

theorem spills_modify {f : Acc → Acc} {l : List (Nat × DWord)} (h : ∀ a, (f a).slots = a.slots ++ l) :
    Spills (modify f : FM PUnit) l := h

theorem noSpill_modify {f : Acc → Acc} (h : ∀ a, (f a).slots = a.slots) : Spills (modify f : FM PUnit) [] :=
  spills_modify fun a => (h a).trans (List.append_nil a.slots).symm

theorem spills_setFlag (f : Flags) : Spills (setFlag f) [] := noSpill_modify fun _ => rfl

theorem spills_addAcc (a : Acc) : Spills (addAcc a) a.slots := spills_modify fun _ => rfl

theorem spills_ite {c : Prop} [Decidable c] {x y : FM α} {l : List (Nat × DWord)} (h : Spills x l) (k : Spills y l) :
    Spills (if c then x else y) l := by
  split
  · exact h
  · exact k

theorem spills_mapM {f : α → FM β} {g : α → List (Nat × DWord)} {l : List α} (h : ∀ x ∈ l, Spills (f x) (g x)) :
    Spills (l.mapM f) (l.flatMap g) := by
  induction l with
  | nil => exact spills_pure []
  | cons x l ih =>
    rw [List.mapM_cons, List.flatMap_cons, ← List.append_nil (l.flatMap g)]
    exact (h x List.mem_cons_self).bind fun y => (ih fun z hz => h z (List.mem_cons_of_mem x hz)).bind fun ys => spills_pure _

theorem noSpill_mapM {f : α → FM β} (h : ∀ x, Spills (f x) []) (l : List α) : Spills (l.mapM f) [] := by
  have hnil : l.flatMap (fun _ => ([] : List (Nat × DWord))) = [] := List.flatMap_eq_nil_iff.2 fun _ _ => rfl
  exact hnil ▸ spills_mapM fun x _ => h x

theorem noSpill_foldlM {f : β → α → FM β} (h : ∀ b x, Spills (f b x) []) (l : List α) (b : β) : Spills (l.foldlM f b) [] := by
  induction l generalizing b with
  | nil => exact spills_pure b
  | cons x l ih => exact (h b x).after ih

theorem noSpill_forM {f : α → FM PUnit} (h : ∀ x, Spills (f x) []) (l : List α) : Spills (l.forM f) [] := by
  induction l with
  | nil => exact spills_pure _
  | cons x l ih => exact (h x).after fun _ => ih

end

/-! ### Arithmetic of Machine/Formats.lean -/

theorem noSpill_consume (v : Val) : Spills (consume v) [] := by
  unfold consume
  split
  · exact spills_setFlag _
  · exact spills_pure _

theorem noSpill_addVal (a b : Val) : Spills (addVal a b) [] := by
  refine (noSpill_consume a).after fun _ => (noSpill_consume b).after fun _ => ?_
  split
  case h_3 => exact spills_ite (spills_pure _) ((spills_setFlag _).after fun _ => spills_pure _)
  all_goals exact spills_pure _

theorem noSpill_mulVal (a b : Val) : Spills (mulVal a b) [] := by
  refine (noSpill_consume a).after fun _ => (noSpill_consume b).after fun _ => ?_
  split
  case h_4 | h_5 => exact spills_ite ((spills_setFlag _).after fun _ => spills_pure _) (spills_pure _)
  all_goals exact spills_pure _

theorem noSpill_rneRatio (f : Fmt) (neg : Bool) (num den : Nat) (e : Int) : Spills (rneRatio f neg num den e) [] :=
  spills_ite (spills_pure _) ((spills_setFlag _).after fun _ => spills_pure _)

theorem noSpill_rneVal (f : Fmt) (v : Val) : Spills (rneVal f v) [] := by
  unfold rneVal
  split
  · exact spills_ite ((spills_setFlag _).after fun _ => spills_pure _) (spills_pure _)
  · exact spills_ite (spills_pure _) ((spills_setFlag _).after fun _ => spills_pure _)
  · exact noSpill_rneRatio _ _ _ _ _

theorem noSpill_roundMode (strict : Bool) (f : Fmt) (v : Val) : Spills (roundMode strict f v) [] := by
  unfold roundMode
  split
  · exact spills_ite ((spills_setFlag _).after fun _ => spills_pure _) (noSpill_rneRatio _ _ _ _ _)
  · exact noSpill_rneVal _ _

theorem noSpill_round32 (strict : Bool) (v : Val) : Spills (round32 strict v) [] :=
  (noSpill_roundMode _ _ _).after fun _ => spills_pure _

theorem noSpill_round64 (strict : Bool) (v : Val) : Spills (round64 strict v) [] :=
  (noSpill_roundMode _ _ _).after fun _ => spills_pure _

theorem noSpill_fadd (strict : Bool) (a b : Word) : Spills (fadd strict a b) [] :=
  (noSpill_addVal _ _).after fun _ => noSpill_round32 _ _

theorem noSpill_wadd (strict : Bool) (a b : DWord) : Spills (wadd strict a b) [] :=
  (noSpill_addVal _ _).after fun _ => noSpill_round64 _ _

/-! ### Reductions of gradients (07 R204 to R206) -/

theorem noSpill_gradAdd (strict canon : Bool) (x y : DWord × Bool) : Spills (gradAdd strict canon x y) [] :=
  spills_ite ((noSpill_wadd _ _ _).after fun _ => spills_pure _) ((noSpill_fadd _ _ _).after fun _ => spills_pure _)

theorem noSpill_gradsAdd (strict canon : Bool) (x y : List (DWord × Bool)) : Spills (gradsAdd strict canon x y) [] :=
  noSpill_mapM (fun _ => noSpill_gradAdd _ _ _ _) _

/-- What a merge node of a backward reduction adds leaves no spill slots. -/
theorem mergeNodes_noSpill {strict : Bool} {ns : List GradNode} {part total lo n : Nat} {c : FM GradNode}
    (h : mergeNodes strict ns part total lo n = some c) : Spills c [] := by
  unfold mergeNodes at h
  split at h
  · cases h
  dsimp only at h
  split at h
  · cases h
    exact (noSpill_gradsAdd _ _ _ _).after fun _ => spills_pure _
  · cases h

theorem foldNodes_noSpill {strict canon : Bool} {ns : List GradNode} {part fuel lo n : Nat} {c : FM (List (DWord × Bool))}
    (h : foldNodes strict canon ns part fuel lo n = some c) : Spills c [] := by
  induction fuel generalizing lo n c with
  | zero => cases h
  | succ fuel ih =>
    unfold foldNodes at h
    split at h
    next => exact Option.some.inj h ▸ spills_pure _
    next =>
      split at h
      next => cases h
      next =>
        dsimp only at h
        split at h
        next a b ha hb =>
          cases h
          exact (ih ha).after fun _ => (ih hb).after fun _ => noSpill_gradsAdd _ _ _ _
        next => cases h

/-- What the fold of a wave adds leaves no spill slots. -/
theorem foldWave_noSpill {strict : Bool} {ns : List GradNode} {part n wave : Nat} {c : FM GradNode}
    (h : foldWave strict ns part n wave = some c) : Spills c [] := by
  unfold foldWave at h
  dsimp only at h
  generalize (if fullWave n wave = true then 64 * wave else 0) = lo at h
  generalize (if fullWave n wave = true then 64 else n) = m at h
  split at h
  · cases h
  · obtain ⟨b, hb, rfl⟩ := Option.map_eq_some_iff.1 h
    exact (foldNodes_noSpill hb).after fun _ => spills_pure _

/-- What holds of every result of a function holds of a list of its results. -/
theorem forall_of_mapM_some {α β : Type} {f : α → Option β} {P : β → Prop} (hf : ∀ x y, f x = some y → P y) {l : List α}
    {ys : List β} (h : l.mapM f = some ys) : ∀ y ∈ ys, P y := by
  induction l generalizing ys with
  | nil =>
    cases h
    exact List.forall_mem_nil _
  | cons x l ih =>
    rw [List.mapM_cons] at h
    obtain ⟨y, hy, hrest⟩ := Option.bind_eq_some_iff.1 h
    obtain ⟨zs, hzs, hcons⟩ := Option.bind_eq_some_iff.1 hrest
    cases hcons
    exact List.forall_mem_cons.2 ⟨hf x y hy, ih hzs⟩

end Sys2Proof.Machine
end

section
/-! SUPPORT. Computations of one item: what they change of it, and what of the rest (02 R63, R64, 04 R121, R132); the merges,
contributions and waves that combine its results. The statement on reductions. -/

namespace Sys2Proof.Machine

/-! ### Steps of one item -/

/-- A computation of item `k` of job `id`: registers, cores, wide reduction buffers and jobs may differ, and the item comes into a
relation with what it was. -/
structure ItemStep (id k : Nat) (R : Item → Item → Prop) (s t : State) : Prop where
  frame : t = { s with regs := t.regs, cores := t.cores, store := { s.store with wide := t.store.wide }
                       sched := { s.sched with jobs := t.sched.jobs } }
  item : ∀ x, s.item id k = some x → ∃ y, t.item id k = some y ∧ R x y

section
variable {id k : Nat} {R S T : Item → Item → Prop} {s t u : State}

theorem ItemStep.trans (h : ItemStep id k R s t) (g : ItemStep id k S t u) (hT : ∀ x y z, R x y → S y z → T x z) :
    ItemStep id k T s u where
  frame := by
    refine g.frame.trans ?_
    rw [h.frame]
  item x hx := by
    obtain ⟨y, hy, hR⟩ := h.item x hx
    obtain ⟨z, hz, hS⟩ := g.item y hy
    exact ⟨z, hz, hT x y z hR hS⟩

/-- A step before which the item has stayed as it was. -/
theorem ItemStep.from_same (h : ItemStep id k Eq s t) (g : ItemStep id k R t u) : ItemStep id k R s u :=
  h.trans g fun _ _ _ hxy hyz => hxy ▸ hyz

theorem ItemStep.keeps_item (h : ItemStep id k Eq s t) {x : Item} (hx : s.item id k = some x) : t.item id k = some x := by
  obtain ⟨y, hy, rfl⟩ := h.item x hx
  exact hy

/-- A step may change registers, cores and the wide reduction buffers. -/
theorem ItemStep.of_outside (s : State) (regs : Tab Word) (cores : Cores) (wide : Tab DWord) :
    ItemStep id k Eq s { s with regs := regs, cores := cores, store := { s.store with wide := wide } } :=
  ⟨rfl, fun x hx => ⟨x, hx, rfl⟩⟩

theorem ItemStep.refl (s : State) : ItemStep id k Eq s s := .of_outside s s.regs s.cores s.store.wide

theorem ItemStep.foldl {α : Type} {f : State → α → State} (hf : ∀ s a, ItemStep id k Eq s (f s a)) (l : List α) (s : State) :
    ItemStep id k Eq s (l.foldl f s) := by
  induction l generalizing s with
  | nil => exact .refl s
  | cons a l ih => exact (hf s a).from_same (ih (f s a))

end

theorem State.bumpTile_step (s : State) (id k t w n : Nat) : ItemStep id k Eq s (s.bumpTile t w n) :=
  .of_outside s _ s.cores s.store.wide

theorem State.modItem_step (s : State) (id k : Nat) (f : Item → Item) : ItemStep id k (fun x y => y = f x) s (s.modItem id k f) :=
  ⟨rfl, fun x hx => ⟨f x, State.modItem_item hx f, rfl⟩⟩

/-! ### What a computation left (State.took) -/

theorem State.putSlot_step (s : State) (id k core slot : Nat) (w : DWord) : ItemStep id k Eq s (s.putSlot core slot w) := by
  unfold State.putSlot
  split
  · exact .of_outside s s.regs s.cores _
  · exact .of_outside s s.regs _ s.store.wide

theorem State.spillSlots_step (s : State) (id k core : Nat) (l : List (Nat × DWord)) : ItemStep id k Eq s (s.spillSlots core l) :=
  .foldl (fun s _ => State.putSlot_step s id k core _ _) l.zipIdx s

/-- An item but for what its computations count and note: its cores, its flags, its repeats and spills. -/
def Item.Tallied (x y : Item) : Prop :=
  y = { x with ran := y.ran, merge := y.merge, flags := y.flags, repeats := y.repeats, spills := y.spills }

theorem Item.Tallied.trans {x y z : Item} (h : Item.Tallied x y) (g : Item.Tallied y z) : Item.Tallied x z := by
  unfold Item.Tallied at *
  refine g.trans ?_
  rw [h]

theorem ItemStep.tallied {id k : Nat} {s t : State} (h : ItemStep id k Eq s t) : ItemStep id k Item.Tallied s t :=
  ⟨h.frame, fun x hx => ⟨x, h.keeps_item hx, rfl⟩⟩

/-- A write of what is tallied. -/
theorem State.modItem_tallied (s : State) (id k : Nat) {f : Item → Item} (hf : ∀ x, Item.Tallied x (f x)) :
    ItemStep id k Item.Tallied s (s.modItem id k f) :=
  (ItemStep.refl s).trans (State.modItem_step s id k f) fun x _ _ hxy hyz => by
    subst hxy hyz
    exact hf x

theorem State.useCore_step (s : State) (id k core : Nat) : ItemStep id k Item.Tallied s (s.useCore id k core) := by
  unfold State.useCore
  split
  · exact (ItemStep.refl s).tallied
  split
  · exact (ItemStep.refl s).tallied
  · exact (ItemStep.of_outside s s.regs _ s.store.wide).from_same (State.modItem_tallied _ _ _ fun x => rfl)

/-- The state in which a computation's spill slots are written: its repeats, saturated tiles and new spills counted, its flags kept. -/
def State.tallied (s : State) (core : Nat) (a : Acc) (spilled : Nat) : State :=
  let u := ((s.bumpTile (core / 4096) 0x118 a.repeats).bumpTile (core / 4096) 0x11C a.satTiles).bumpTile (core / 4096) 0x120 spilled
  { u with cores := { u.cores with flags := tset 0#6 u.cores.flags core (tget 0#6 u.cores.flags core ||| a.flags) } }

theorem State.tallied_step (s : State) (id k core : Nat) (a : Acc) (spilled : Nat) :
    ItemStep id k Eq s (s.tallied core a spilled) :=
  .of_outside s _ _ s.store.wide

theorem State.took_of_item {s : State} {id k core : Nat} {a : Acc} {x : Item} (hx : (s.useCore id k core).item id k = some x) :
    s.took id k core a = (((s.useCore id k core).tallied core a
        (max (x.spills + a.spills) x.spillMax - max x.spills x.spillMax)).spillSlots core a.slots).modItem id k (fun y => { y with
      flags := y.flags ||| a.flags, repeats := y.repeats + a.repeats, spills := x.spills + a.spills }) := by
  unfold State.took
  dsimp only
  rw [hx]
  rfl

theorem State.took_of_none {s : State} {id k core : Nat} {a : Acc} (hx : (s.useCore id k core).item id k = none) :
    s.took id k core a = s.useCore id k core := by
  unfold State.took
  dsimp only
  rw [hx]

theorem State.took_step (s : State) (id k core : Nat) (a : Acc) : ItemStep id k Item.Tallied s (s.took id k core a) := by
  have huse := State.useCore_step s id k core
  cases hx : (s.useCore id k core).item id k with
  | none =>
    rw [State.took_of_none hx]
    exact huse
  | some x =>
    rw [State.took_of_item hx]
    exact huse.trans (((State.tallied_step _ id k core a _).from_same (State.spillSlots_step _ id k core a.slots)).from_same
      (State.modItem_tallied _ _ _ fun x => rfl)) fun _ _ _ => Item.Tallied.trans

theorem State.useCore_store (s : State) (id k core : Nat) : (s.useCore id k core).store = s.store := by
  unfold State.useCore
  split
  · rfl
  split <;> rfl

/-- A computation without spill slots leaves the store as it was. -/
theorem State.took_store (s : State) (id k core : Nat) {a : Acc} (ha : a.slots = []) : (s.took id k core a).store = s.store := by
  refine Eq.trans ?_ (State.useCore_store s id k core)
  cases hx : (s.useCore id k core).item id k with
  | none => rw [State.took_of_none hx]
  | some x =>
    rw [State.took_of_item hx, ha]
    rfl

/-! ### Merge nodes (06 R172, 07 R204, R205) -/

section
variable {s : State} {id k : Nat} {j : Job} {i : Item}

theorem State.mergeNode_idle (hj : s.job id = some j) (hi : s.item id k = some i) (hm : i.merging = false) (target lo n : Nat) :
    s.mergeNode id k target lo n = s := by
  unfold State.mergeNode
  simp only [hj, hi, hm, Bool.not_false, if_true]

theorem State.mergeNode_forward (hj : s.job id = some j) (hi : s.item id k = some i) (hm : i.merging = true)
    (hk : isAttend j.kind = true) (target lo n : Nat) : s.mergeNode id k target lo n = s.mergeForward j k i target lo n := by
  unfold State.mergeNode
  simp only [hj, hi, hm, hk, Bool.not_true, Bool.false_eq_true, if_false, if_true]

theorem State.mergeNode_backward (hj : s.job id = some j) (hi : s.item id k = some i) (hm : i.merging = true) (hk : j.kind = 0x13)
    (target lo n : Nat) : s.mergeNode id k target lo n = s.mergeBackward j k i target lo n := by
  have hno : isAttend 0x13 = false := rfl
  unfold State.mergeNode
  simp only [hj, hi, hm, hno, hk, Bool.not_true, Bool.false_eq_true, if_false, if_true]

end

section
variable {s : State} {j : Job} {k : Nat} {i : Item} {target lo n : Nat}

theorem State.mergeForward_missing {w : FwdRow} (hw : i.rows[target]? = some w)
    (hc : w.merge (profileOf s.cfg.image.np) (bit j.nctl 2) lo n = none) : s.mergeForward j k i target lo n = s := by
  unfold State.mergeForward
  simp only [hw, hc]

theorem State.mergeForward_merged {w : FwdRow} {c : FM FwdRow} (hw : i.rows[target]? = some w)
    (hc : w.merge (profileOf s.cfg.image.np) (bit j.nctl 2) lo n = some c) :
    s.mergeForward j k i target lo n = (s.took j.id k i.mergeCore (runFM c).2).modItem j.id k (fun i =>
      { i with rows := i.rows.set target (runFM c).1 }) := by
  unfold State.mergeForward
  simp only [hw, hc]

/-- The nodes after a merge: of those before, and the new one over the two children. -/
theorem FwdRow.merge_nodes {pf : Profile} {strict : Bool} {w : FwdRow} {c : FM FwdRow} (h : w.merge pf strict lo n = some c) :
    ∃ (p : TreeNode → Bool) (l : Leaf), (runFM c).1.nodes = w.nodes.filter p ++ [⟨lo, n, l⟩] := by
  unfold FwdRow.merge at h
  split at h
  · cases h
  dsimp only at h
  split at h
  next a b ha hb =>
    cases h
    exact ⟨_, _, rfl⟩
  next => cases h

theorem State.mergeBackward_row (hcanon : bit j.ctl 10 = false) (ht : target < keyTarget) {w : BwdWork}
    (hw : i.bwd[target / 64]? = some w) {c : FM GradNode}
    (hc : mergeNodes (bit j.nctl 2) w.nodes (target % 64) (w.heldBy (target % 64)) lo n = some c) :
    s.mergeBackward j k i target lo n = (s.took j.id k i.mergeCore (runFM c).2).modItem j.id k (fun i =>
      { i with bwd := i.bwd.set (target / 64) { w with nodes := w.nodes ++ [(runFM c).1] } }) := by
  unfold State.mergeBackward
  simp only [hcanon, Nat.ne_of_lt ht, hw, hc, Bool.false_eq_true, if_false]

theorem State.mergeBackward_keys (hcanon : bit j.ctl 10 = false) {e : Entry} (he : j.entries[i.entry]? = some e)
    {cs : List (FM GradNode)}
    (hcs : (j.keyPages i e).mapM (fun p => mergeNodes (bit j.nctl 2) (j.keyNodes i) p e.blocks.length lo n) = some cs) :
    s.mergeBackward j k i keyTarget lo n = s.keepNodes j.id k (bits e.handle 13 0) i cs := by
  unfold State.mergeBackward
  simp only [hcanon, he, hcs, Bool.false_eq_true, if_false, if_true]

end

/-- The nodes kept join the item's, in their order. -/
theorem State.keepNodes_step (s : State) (id k r : Nat) (i : Item) (cs : List (FM GradNode)) :
    ItemStep id k (fun x y => y.grads = x.grads ++ cs.map (fun c => (runFM c).1)) s (s.keepNodes id k r i cs) := by
  induction cs generalizing s with
  | nil => exact (ItemStep.refl s).trans (ItemStep.refl s) fun x y z hxy hyz => by simp [← hyz, ← hxy]
  | cons c cs ih =>
    have hone := (State.took_step s id k (s.keyCoreOf r i (runFM c).1.part) (runFM c).2).trans
      (State.modItem_step _ id k (fun x => { x with grads := x.grads ++ [(runFM c).1] }))
      (T := fun x y => y.grads = x.grads ++ [(runFM c).1]) fun x y z hxy hyz => by rw [hyz, hxy]
    exact hone.trans (ih _) fun x y z hxy hyz => by rw [hyz, hxy, List.append_assoc, List.map_cons, List.singleton_append]

theorem State.keepNodes_store (s : State) (id k r : Nat) (i : Item) {cs : List (FM GradNode)} (h : ∀ c ∈ cs, Spills c []) :
    (s.keepNodes id k r i cs).store = s.store := by
  induction cs generalizing s with
  | nil => rfl
  | cons c cs ih =>
    obtain ⟨hc, hcs⟩ := List.forall_mem_cons.1 h
    exact (ih _ hcs).trans (State.took_store s id k _ hc.runFM)

/-! ### Atomic contributions (07 R205) -/

section
variable {s : State} {id k row source : Nat} {j : Job} {i : Item}

theorem State.atomicAdd_idle (hj : s.job id = some j) (hi : s.item id k = some i) (hm : i.merging = false) :
    s.atomicAdd id k row source = s := by
  unfold State.atomicAdd
  simp only [hj, hi, hm, Bool.not_false, Bool.true_or, if_true]
  split <;> rfl

section
variable {w : BwdWork} {v : List (DWord × Bool)} (hj : s.job id = some j) (hi : s.item id k = some i) (hm : i.merging = true)
  (hcanon : bit j.ctl 10 = false) (hw : i.bwd[row]? = some w) (hv : nodeVals w.nodes source 0 (w.heldBy source) = some v)
include hj hi hm hcanon hw hv

theorem State.atomicAdd_again (ha : source ∈ w.applied) : s.atomicAdd id k row source = s.bumpTile i.tile 0x134 1 := by
  unfold State.atomicAdd
  simp only [hj, hi, hw, hm, hcanon, hv, List.contains_iff_mem.2 ha, Bool.not_true, Bool.or_self, Bool.false_eq_true, if_false,
    if_true]

theorem State.atomicAdd_applied (ha : source ∉ w.applied) {a : List (DWord × Bool) × Acc}
    (hsum : a = runFM (gradsAdd (bit j.nctl 2) false (if w.target = [] then v.map (fun _ => (0#64, false)) else w.target) v)) :
    s.atomicAdd id k row source = (s.bumpTile i.tile 0x130 1).modItem id k (fun i => { i with
      flags := i.flags ||| a.2.flags
      bwd := i.bwd.set row { w with target := a.1, applied := w.applied ++ [source] } }) := by
  have hnot : w.applied.contains source = false := by simpa using ha
  unfold State.atomicAdd
  simp only [hj, hi, hw, hm, hcanon, hv, hnot, hsum, Bool.not_true, Bool.or_self, Bool.false_eq_true, if_false]

end

end

/-! ### Waves (07 R206) -/

section
variable {s : State} {id k t wave : Nat} {j : Job} {i : Item}

theorem State.waveFold_idle (hj : s.job id = some j) (hi : s.item id k = some i) (hm : i.merging = false) (ht : t < 2048) :
    s.waveFold id (2048 * k + t) wave = s := by
  have hitem : (2048 * k + t) / 2048 = k := by omega
  unfold State.waveFold
  simp only [hitem, hj, hi, hm, Bool.not_false, Bool.true_or, if_true]

section
variable (hj : s.job id = some j) (hi : s.item id k = some i) (hm : i.merging = true) (hk : j.kind = 0x13)
  (hcanon : bit j.ctl 10 = true)
include hj hi hm hk hcanon

theorem State.waveFold_keys {e : Entry} (he : j.entries[i.entry]? = some e) :
    s.waveFold id (2048 * k + 1024) wave = s.keyWave j k i e wave := by
  have hitem : (2048 * k + 1024) / 2048 = k := by omega
  have htarget : (2048 * k + 1024) % 2048 = 1024 := by omega
  unfold State.waveFold
  simp [hitem, htarget, hj, hi, hm, hk, hcanon, he]

theorem State.waveFold_row (ht : t < 1024) : s.waveFold id (2048 * k + t) wave = s.rowWave j k i t wave := by
  have hitem : (2048 * k + t) / 2048 = k := by omega
  have htarget : (2048 * k + t) % 2048 = t := by omega
  unfold State.waveFold
  simp [hitem, htarget, hj, hi, hm, hk, hcanon, Nat.ne_of_lt ht]

end

theorem State.rowWave_folded {row : Nat} {w : BwdWork} (hw : i.bwd[row]? = some w) {c : FM GradNode}
    (hc : foldWave (bit j.nctl 2) w.nodes 0 w.leaves wave = some c) :
    s.rowWave j k i row wave = ((if wave < w.leaves / 64 then s.bumpTile i.tile 0x138 1 else s).took j.id k i.mergeCore
      (runFM c).2).modItem j.id k (fun i => { i with bwd := i.bwd.set row { w with nodes := freeWave (runFM c).1 w.nodes } }) := by
  unfold State.rowWave
  simp only [hw, hc, fullWave, decide_eq_true_eq]

end

/-- The contributions of an item that a wave leaves: those outside of it. -/
theorem Item.mem_yieldWave_grads {lo n b0 : Nat} {y : Item} {g : GradNode} :
    g ∈ (y.yieldWave lo n b0).grads ↔ g ∈ y.grads ∧ (g.lo < lo ∨ lo + n < g.lo + g.n) := by
  simp only [Item.yieldWave, List.mem_filter, Bool.not_eq_true', Bool.and_eq_false_iff, decide_eq_false_iff_not, Nat.not_le]

/-- The job after a wave over `n` contributions from `lo` has taken its contributions from the items of an item's entry and stream. -/
def Job.yieldWave (i : Item) (lo n b0 : Nat) (j : Job) : Job :=
  { j with items := j.items.map (fun y => if y.entry = i.entry && y.stream = i.stream then y.yieldWave lo n b0 else y) }

theorem State.yieldWave_step {s : State} {id k : Nat} (i : Item) (lo n b0 : Nat) :
    ItemStep id k (fun x y => x = i → y = i.yieldWave lo n b0) s (s.modJob id (Job.yieldWave i lo n b0)) := by
  refine ⟨rfl, fun x hx => ?_⟩
  obtain ⟨j, hj, hjx⟩ := Option.bind_eq_some_iff.1 hx
  have hid : ∀ j : Job, (if j.id = id then Job.yieldWave i lo n b0 j else j).id = j.id := fun j => by split <;> rfl
  have hjob : (s.modJob id (Job.yieldWave i lo n b0)).job id = some (Job.yieldWave i lo n b0 j) := by
    simp only [State.modJob, State.job, List.find?_map, Function.comp_def, hid]
    rw [show s.sched.jobs.find? (fun j => j.id = id) = some j from hj, Option.map_some, if_pos (State.job_id hj)]
  refine ⟨if x.entry = i.entry && x.stream = i.stream then x.yieldWave lo n b0 else x, ?_, fun h => by simp [h]⟩
  unfold State.item
  rw [hjob, Option.bind_some, Job.yieldWave, List.getElem?_map, hjx, Option.map_some]

/-- First contribution, and number of contributions, of a wave over `n` (R206). -/
def waveLo (n wave : Nat) : Nat := if fullWave n wave then 64 * wave else 0
def waveLen (n wave : Nat) : Nat := if fullWave n wave then 64 else n

/-- The state after a wave of dK and dV is counted, where it is full, and its contributions have left their items. -/
def State.keyWaveTaken (s : State) (id wave : Nat) (i : Item) (e : Entry) : State :=
  (if fullWave e.blocks.length wave then i.keyTiles.foldl (fun s t => s.bumpTile t 0x138 1) s else s).modJob id
    (Job.yieldWave i (waveLo e.blocks.length wave) (waveLen e.blocks.length wave) (e.pos0 / 64))

theorem State.waveCounted_step (s : State) (id k wave : Nat) (i : Item) (e : Entry) : ItemStep id k Eq s
    (if fullWave e.blocks.length wave then i.keyTiles.foldl (fun s t => s.bumpTile t 0x138 1) s else s) := by
  split
  · exact .foldl (fun s t => State.bumpTile_step s id k t 0x138 1) _ s
  · exact .refl s

theorem State.keyWaveTaken_store (s : State) (id wave : Nat) (i : Item) (e : Entry) : (s.keyWaveTaken id wave i e).store = s.store := by
  unfold State.keyWaveTaken
  rw [State.modJob_store]
  split
  · exact List.foldlRecOn (motive := fun t : State => t.store = s.store) _ _ rfl fun _ h _ _ => h
  · rfl

/-- A wave of dK and dV that folds. -/
theorem State.keyWave_folded {s : State} {j : Job} {k : Nat} {i : Item} {e : Entry} {wave : Nat} {cs : List (FM GradNode)}
    (h : (j.keyPages i e).mapM (fun p => foldWave (bit j.nctl 2) (j.keyNodes i) p e.blocks.length wave) = some cs) (hne : cs ≠ []) :
    s.keyWave j k i e wave = (s.keyWaveTaken j.id wave i e).keepNodes j.id k (bits e.handle 13 0) i cs := by
  unfold State.keyWave State.keyWaveTaken Job.yieldWave waveLo waveLen
  simp only [h, hne, ne_eq, not_false_eq_true, decide_true, Bool.and_true]

/-- After a wave the item holds what the wave left it, and the wave's nodes. -/
theorem State.keyWave_step (s : State) (id k wave : Nat) (i : Item) (e : Entry) (cs : List (FM GradNode)) :
    ItemStep id k (fun x y => x = i → y.grads =
        (i.yieldWave (waveLo e.blocks.length wave) (waveLen e.blocks.length wave) (e.pos0 / 64)).grads ++ cs.map (fun c => (runFM c).1))
      s ((s.keyWaveTaken id wave i e).keepNodes id k (bits e.handle 13 0) i cs) :=
  ((State.waveCounted_step s id k wave i e).from_same (State.yieldWave_step i _ _ _)).trans
    (State.keepNodes_step _ id k (bits e.handle 13 0) i cs) fun _ _ _ hxy hyz hx => by rw [hyz, hxy hx]

/-- Settles O48: merge nodes, contributions and waves by their equations; sums of gradients leave no spill slots, so the store stays. -/
theorem reductionsCombine : Obligations.ReductionsCombine := by
  intro s id k j i hj hi
  obtain rfl := State.job_id hj
  have run : ∀ {c : Instr} {u v : State}, exec c s = .next u → u = v → exec c s = .next v := fun h h' => h' ▸ h
  refine ⟨fun hm => ⟨fun target lo n => run rfl (State.mergeNode_idle hj hi hm target lo n),
      fun row source => run rfl (State.atomicAdd_idle hj hi hm)⟩,
    fun hm hk target lo n w hw => ⟨fun hc => ?_, fun c hc => ⟨?_, ?_⟩⟩, fun hm hk hcanon target lo n w ht hw c hc => ?_,
    fun hm hk hcanon e lo n cs he hcs => ?_, fun hm hcanon row source w v hw hv => ⟨fun ha => ?_, fun ha => ?_⟩,
    fun hm hk hcanon e wave cs he hcs hne => ?_, fun hm hk hcanon row wave w c hrow hw hc => ?_,
    fun hm t wave ht => run rfl (State.waveFold_idle hj hi hm ht)⟩
  · exact run rfl ((State.mergeNode_forward hj hi hm hk target lo n).trans (State.mergeForward_missing hw hc))
  · exact run rfl ((State.mergeNode_forward hj hi hm hk target lo n).trans (State.mergeForward_merged hw hc))
  · obtain ⟨p, l, hnodes⟩ := FwdRow.merge_nodes hc
    rw [hnodes]
    refine ⟨fun x hx => ?_, _, List.mem_append_right _ (List.mem_singleton_self _), rfl, rfl⟩
    obtain hold | hnew := List.mem_append.1 hx
    · exact .inl (List.mem_of_mem_filter hold)
    · obtain rfl := List.mem_singleton.1 hnew
      exact .inr ⟨rfl, rfl⟩
  · exact run rfl ((State.mergeNode_backward hj hi hm hk target lo n).trans (State.mergeBackward_row hcanon ht hw hc))
  · have hstep := State.keepNodes_step s j.id k (bits e.handle 13 0) i cs
    have hstore := State.keepNodes_store s j.id k (bits e.handle 13 0) i
      (forall_of_mapM_some (fun _ _ => mergeNodes_noSpill) hcs)
    refine ⟨_, run rfl ((State.mergeNode_backward hj hi hm hk _ lo n).trans (State.mergeBackward_keys hcanon he hcs)),
      hstep.item i hi, hstore, ?_, ?_, ?_, ?_⟩
    all_goals rw [hstep.frame]
  · exact run rfl (State.atomicAdd_again hj hi hm hcanon hw hv ha)
  · refine ⟨_, _, run rfl (State.atomicAdd_applied hj hi hm hcanon hw hv ha rfl), ⟨_, State.modItem_item hi _, ?_⟩, rfl,
      rfl, rfl, rfl, rfl, rfl, rfl⟩
    exact List.getElem?_set_self (List.getElem?_eq_some_iff.1 hw).1
  · have hfold := (State.waveFold_keys hj hi hm hk hcanon he).trans (State.keyWave_folded (s := s) (k := k) (wave := wave) hcs hne)
    have hstep := State.keyWave_step s j.id k wave i e cs
    have hstore := State.keepNodes_store (s.keyWaveTaken j.id wave i e) j.id k (bits e.handle 13 0) i
      (forall_of_mapM_some (fun _ _ => foldWave_noSpill) hcs)
    obtain ⟨x, hx, hgrads⟩ := hstep.item i hi
    refine ⟨_, run rfl hfold, ⟨x, _, hx, hgrads rfl, fun g hg => ?_⟩, hstore.trans (State.keyWaveTaken_store s j.id wave i e),
      ?_, ?_, ?_, ?_⟩
    · obtain ⟨hmem, hout⟩ := Item.mem_yieldWave_grads.1 hg
      refine ⟨hmem, fun hfull => ?_⟩
      simpa only [waveLo, waveLen, fullWave, hfull, decide_true, if_true] using hout
    all_goals rw [hstep.frame]
  · exact run rfl ((State.waveFold_row hj hi hm hk hcanon hrow).trans (State.rowWave_folded hw hc))

end Sys2Proof.Machine
end

section
/-! SUPPORT. Spill slots of the Cuboid's cells (04 R116 to R126) and of a page leaf (06 R169): a nest that does not spill leaves none. -/

namespace Sys2Proof.Machine

/-! ### Arithmetic and special functions -/

theorem noSpill_fsub (strict : Bool) (a b : Word) : Spills (fsub strict a b) [] :=
  (noSpill_addVal _ _).after fun _ => noSpill_round32 _ _

theorem noSpill_fmul (strict : Bool) (a b : Word) : Spills (fmul strict a b) [] :=
  (noSpill_mulVal _ _).after fun _ => noSpill_round32 _ _

theorem noSpill_ffma (strict : Bool) (a b c : Word) : Spills (ffma strict a b c) [] :=
  (noSpill_mulVal _ _).after fun _ => (noSpill_addVal _ _).after fun _ => noSpill_round32 _ _

theorem noSpill_w64To32 (strict : Bool) (a : DWord) : Spills (w64To32 strict a) [] := noSpill_round32 _ _

theorem noSpill_fmax (strict : Bool) (a b : Word) : Spills (fmax strict a b) [] := by
  refine (noSpill_consume _).after fun _ => (noSpill_consume _).after fun _ => ?_
  split
  · exact spills_pure _
  · exact noSpill_round32 _ _
  · exact noSpill_round32 _ _
  · split
    · exact spills_pure _
    · exact noSpill_round32 _ _

theorem noSpill_toBf16 (strict : Bool) (w : Word) : Spills (toBf16 strict w) [] :=
  (noSpill_rneVal _ _).after fun _ => spills_pure _

theorem noSpill_exp2 (pf : Profile) (w : Word) : Spills (sfu pf .exp2 w) [] := by
  unfold sfu
  dsimp only
  split
  · exact spills_ite ((spills_setFlag _).after fun _ => spills_pure _) (spills_pure _)
  · exact spills_pure _
  · refine spills_ite (spills_pure _) (spills_ite ((spills_setFlag _).after fun _ => spills_pure _) ?_)
    exact spills_ite (spills_pure _) (spills_pure _)

/-! ### Sums (04 R114 to R118) -/

theorem noSpill_prodTerm (c : NumCtl) (a b : Val) : Spills (prodTerm c a b) [] :=
  (noSpill_mulVal _ _).after fun _ => noSpill_round32 _ _

theorem noSpill_crossTerm (c : NumCtl) (a b : Val) : Spills (crossTerm c a b) [] :=
  spills_ite (noSpill_prodTerm _ _ _) (spills_pure _)

theorem noSpill_pairLeaves (c : NumCtl) {comb : Word → Word → FM Word} (h : ∀ x y, Spills (comb x y) []) (ts : List Word) :
    Spills (pairLeaves c comb ts) [] := by
  induction ts using pairLeaves.induct with
  | case1 => exact spills_pure _
  | case2 t => exact spills_pure _
  | case3 t u rest ih => exact (h t u).after fun _ => ih.after fun _ => spills_pure _

theorem noSpill_stackInsert (c : NumCtl) (l : List (Nat × Word)) (lvl : Nat) (v : Word) : Spills (stackInsert c lvl v l) [] := by
  induction l generalizing lvl v with
  | nil => exact spills_pure _
  | cons x rest ih =>
    unfold stackInsert
    exact spills_ite ((noSpill_fadd _ _ _).after fun _ => ih _ _) (spills_pure _)

theorem noSpill_blockSum (c : NumCtl) (leaves : List Word) : Spills (blockSum c leaves) [] := by
  refine Spills.after (noSpill_foldlM (fun _ _ => noSpill_stackInsert _ _ _ _) _ _) fun st => ?_
  split
  · exact spills_pure _
  · exact noSpill_foldlM (fun _ _ => noSpill_fadd _ _ _) _ _

theorem noSpill_kahanStep (c : NumCtl) (sc : Word × Word) (b : Word) : Spills (kahanStep c sc b) [] :=
  (noSpill_fsub _ _ _).after fun _ => (noSpill_fadd _ _ _).after fun _ => (noSpill_fsub _ _ _).after fun _ =>
    (noSpill_fsub _ _ _).after fun _ => spills_pure _

section
variable {ns : NestSum} (hns : ns.spill = none)
include hns

theorem noSpill_keepSlot (w : DWord) : Spills (keepSlot ns w) [] := by
  unfold keepSlot
  rw [hns]
  exact spills_pure _

theorem noSpill_spillPoint (c : NumCtl) (n b : Nat) (sc : Word × Word) : Spills (spillPoint c ns n b sc) [] := by
  unfold spillPoint spillAfter
  rw [hns]
  exact spills_pure _

theorem noSpill_compensatedFold (c : NumCtl) (n : Nat) (xs : List Word) (b : Nat) (sc : Word × Word) :
    Spills (compensatedFold c ns n b sc xs) [] := by
  induction xs generalizing b sc with
  | nil => exact spills_pure _
  | cons x xs ih => exact (noSpill_kahanStep _ _ _).after fun _ => (noSpill_spillPoint hns _ _ _ _).after fun _ => ih _ _

theorem noSpill_combineBlocks (c : NumCtl) (bs : List Word) : Spills (combineBlocks c ns bs) [] := by
  unfold combineBlocks
  split
  · exact spills_pure _
  · dsimp only
    refine spills_ite ?_ ?_
    · refine Spills.after (noSpill_foldlM (fun _ _ => noSpill_wadd _ _ _) _ _) fun t => ?_
      exact Spills.after (noSpill_modify fun _ => rfl) fun _ => (noSpill_keepSlot hns t).after fun _ => noSpill_w64To32 _ _
    · exact (noSpill_spillPoint hns _ _ _ _).after fun _ => (noSpill_compensatedFold hns _ _ _ _ _).after fun _ =>
        spills_ite (spills_pure _) (noSpill_fsub _ _ _)

theorem noSpill_sumTerms (c : NumCtl) (ts : List Word) : Spills (sumTerms c ns ts) [] := by
  unfold sumTerms
  dsimp only
  refine spills_ite ?_ ?_
  · split
    · exact spills_pure _
    · exact noSpill_foldlM (fun _ _ => noSpill_fadd _ _ _) _ _
  · exact (noSpill_pairLeaves _ (fun _ _ => noSpill_fadd _ _ _) _).after fun _ =>
      (noSpill_mapM (fun _ => noSpill_blockSum _ _) _).after fun _ => noSpill_combineBlocks hns _ _

/-! ### Cells (04 R123 to R126) -/

theorem noSpill_mulAddAttempt (c : NumCtl) (sh : Int) (a b : List Opnd) : Spills (mulAddAttempt c ns sh a b) [] := by
  have hcross : ∀ (f g : Opnd → Val) (l : List (Opnd × Opnd)),
      Spills (l.mapM fun p => crossTerm c (f p.1) (scaleVal (g p.2) sh)) [] := fun f g l => noSpill_mapM (fun _ => noSpill_crossTerm _ _ _) l
  unfold mulAddAttempt
  refine spills_ite ((noSpill_mapM (fun _ => noSpill_prodTerm _ _ _) _).after fun _ => noSpill_sumTerms hns _ _) ?_
  refine (noSpill_mapM (fun _ => noSpill_prodTerm _ _ _) _).after fun _ => (noSpill_sumTerms hns _ _).after fun _ => ?_
  refine (hcross splitHi splitLo _).after fun _ => (noSpill_sumTerms hns _ _).after fun _ => spills_ite (noSpill_fadd _ _ _) ?_
  exact (hcross splitLo splitHi _).after fun _ => (noSpill_sumTerms hns _ _).after fun _ =>
    (noSpill_fadd _ _ _).after fun _ => noSpill_fadd _ _ _

end

theorem noSpill_rescaleCell (c : NumCtl) (w : Word) (sh : Int) : Spills (rescaleCell c w sh) [] := by
  refine (noSpill_round32 _ _).after fun _ => ?_
  split <;> exact spills_pure _

/-- A cell leaves the last slot of the attempt that it keeps. -/
theorem noSpill_repeatCell (c : NumCtl) (finite : Bool) {attempt : Nat → FM Word} (h : ∀ n, Spills (attempt n) []) :
    Spills (repeatCell c finite attempt) [] := by
  have hkept : ∀ n, Spills (addAcc (cellAcc (runFM (attempt n)).2)) [] := fun n => by
    have hlast : (cellAcc (runFM (attempt n)).2).slots = [] := by
      unfold cellAcc
      rw [(h n).runFM]
      rfl
    exact hlast ▸ spills_addAcc (cellAcc (runFM (attempt n)).2)
  have hrescaled : ∀ n w sh, Spills (do
      addAcc (cellAcc (runFM (attempt n)).2)
      let w ← rescaleCell c w sh
      pure (⟨w.1, n, w.2⟩ : CellOut)) [] := fun n w sh =>
    (hkept n).after fun _ => (noSpill_rescaleCell _ _ _).after fun _ => spills_pure _
  unfold repeatCell
  dsimp only
  refine spills_ite ((hkept 0).after fun _ => spills_pure _) (spills_ite (hrescaled 1 _ _) (spills_ite (hrescaled 2 _ _) ?_))
  refine (hkept 2).after fun _ => (spills_setFlag _).after fun _ => ?_
  split
  · exact (spills_setFlag _).after fun _ => spills_pure _
  · exact spills_pure _
  · exact spills_pure _

/-- A cell of a nest that does not spill. -/
theorem noSpill_cellMulAdd (c : NumCtl) {ns : NestSum} (hns : ns.spill = none) (a b : List Opnd) : Spills (cellMulAdd c ns a b) [] :=
  noSpill_repeatCell c _ fun _ => noSpill_mulAddAttempt hns c _ a b

theorem noSpill_tilesCount (ns : NestSum) (outs : List CellOut) : Spills (tilesCount ns outs) [] := by
  refine noSpill_forM (fun l => ?_) _
  have hsat : Spills (if l.any (fun o => o.saturated) then modify (fun g : Acc => { g with satTiles := g.satTiles + 1 }) else pure PUnit.unit) [] :=
    spills_ite (noSpill_modify fun _ => rfl) (spills_pure _)
  unfold tileCount
  dsimp only
  exact spills_ite (Spills.after (spills_setFlag _) fun _ => Spills.after (noSpill_modify fun _ => rfl) fun _ => hsat) hsat

theorem noSpill_tileCells (ns : NestSum) {cells : List (FM CellOut)} (h : ∀ x ∈ cells, Spills x []) : Spills (tileCells ns cells) [] := by
  have hcells : Spills (cells.mapM id) [] := by
    have hnil : cells.flatMap (fun _ => ([] : List (Nat × DWord))) = [] := List.flatMap_eq_nil_iff.2 fun _ _ => rfl
    exact hnil ▸ spills_mapM h
  exact (hcells.after fun _ => (noSpill_tilesCount _ _).after fun _ => spills_pure _).after fun _ => spills_pure _

/-! ### A page leaf (06 R169) -/

theorem noSpill_finishScore (c : NumCtl) (mc : MaskCtl) (r : QRow) (ck dot : Word) (k : Nat) : Spills (finishScore c mc r ck dot k) [] := by
  refine (noSpill_fmul _ _ _).after fun _ => (noSpill_ffma _ _ _ _).after fun _ => ?_
  split <;> exact spills_pure _

theorem noSpill_oneCell {cell : FM CellOut} (h : Spills cell []) : Spills (oneCell cell) [] :=
  (noSpill_tileCells _ (List.forall_mem_singleton.2 h)).after fun _ => spills_pure _

theorem noSpill_scaledCells (c : NumCtl) (ns : NestSum) (cs : Word) {cells : List (FM CellOut)} (h : ∀ x ∈ cells, Spills x []) :
    Spills (scaledCells c ns cs cells) [] :=
  (noSpill_tileCells ns h).after fun _ => noSpill_mapM (fun _ => noSpill_fmul _ _ _) _

theorem spills_leafScores {c : NumCtl} {ns : NestSum} {mc : MaskCtl} {r : QRow} {p : Page} {i t : Nat} {l : List (Nat × DWord)}
    (h : Spills (liveScores c ns mc r p i t) l) : Spills (leafScores c ns mc r p i t) l := by
  rw [← List.append_nil l]
  exact h.bind fun ss => spills_pure _

/-- With sums of its output that do not spill, a page leaf leaves the slots of its scores. -/
theorem spills_pageLeaf {pf : Profile} {c : NumCtl} {sm : StageSums} {mc : MaskCtl} {r : QRow} {p : Page} {i t : Nat} (hd : Nat)
    {l : List (Nat × DWord)} (h : Spills (liveScores c sm.score mc r p i t) l) (hout : sm.out.spill = none) :
    Spills (pageLeaf pf c sm mc r p i t hd) l := by
  have hweight : ∀ (m : Word) (js : Nat × Word), Spills (do
      let d ← fsub c.strict js.2 m
      let e ← sfu pf .exp2 d
      let b ← toBf16 c.strict e
      pure (js.1, b)) [] := fun m js =>
    (noSpill_fsub _ _ _).after fun _ => (noSpill_exp2 _ _).after fun _ => (noSpill_toBf16 _ _).after fun _ => spills_pure _
  unfold pageLeaf
  dsimp only
  rw [← List.append_nil l]
  refine (spills_leafScores h).bind fun ss => Spills.after (noSpill_foldlM (fun _ _ => noSpill_fmax _ _ _) _ _) fun m => ?_
  refine Spills.after (noSpill_mapM (hweight m) ss) fun pb => ?_
  refine Spills.after (noSpill_oneCell (noSpill_cellMulAdd c (ns := {}) rfl _ _)) fun _ => ?_
  refine Spills.after (noSpill_scaledCells c sm.out p.cv (List.forall_mem_map.2 fun d _ =>
    noSpill_cellMulAdd c (ns := sm.out.over p) hout _ _)) fun _ => spills_pure _

end Sys2Proof.Machine
end

section
/-! SUPPORT. Spill slots in the wide reduction buffers (04 R121, 08 R214), which are part of the store: an attention item whose nest
spills there does not leave the store as it was. The statement on attention items. -/

namespace Sys2Proof.Machine

open Sys2Proof.Safety

/-! ### Slots that reach the wide reduction buffers -/

/-- A value that is not the default is listed by its write. -/
theorem tset_ne_nil {α : Type} [DecidableEq α] {d v : α} (hv : v ≠ d) (t : Tab α) (k : Nat) : tset d t k v ≠ [] := fun h =>
  hv ((tget_tset_listed hv t k).symm.trans (congrArg (fun l => tget d l k) h))

/-- Where the slot of a cell lies: each cell has its own, in the order of the cells. -/
def slotPlace (p : (Nat × DWord) × Nat) : Nat := p.1.1 + (if 2 ^ 31 ≤ p.1.1 then p.2 else 8 * p.2)

theorem State.putSlot_wide {s : State} {core slot : Nat} {w : DWord} (hw : w ≠ 0#64) (h : s.store.wide ≠ [] ∨ 2 ^ 31 ≤ slot) :
    (s.putSlot core slot w).store.wide ≠ [] := by
  unfold State.putSlot
  split
  next => exact tset_ne_nil hw _ _
  next hlow => exact h.resolve_right hlow

theorem State.putSlots_wide {core : Nat} {l : List ((Nat × DWord) × Nat)} (hl : ∀ p ∈ l, p.1.2 ≠ 0#64) (s : State)
    (h : s.store.wide ≠ [] ∨ ∃ p ∈ l, 2 ^ 31 ≤ slotPlace p) :
    (l.foldl (fun s p => s.putSlot core (slotPlace p) p.1.2) s).store.wide ≠ [] := by
  induction l generalizing s with
  | nil => exact h.resolve_right fun ⟨p, hp, _⟩ => nomatch hp
  | cons p l ih =>
    obtain ⟨hp, hrest⟩ := List.forall_mem_cons.1 hl
    refine ih hrest _ ?_
    obtain h | ⟨q, hq, hplace⟩ := h
    · exact .inl (State.putSlot_wide hp (.inl h))
    · obtain rfl | hq := List.mem_cons.1 hq
      · exact .inl (State.putSlot_wide hp (.inr hplace))
      · exact .inr ⟨q, hq, hplace⟩

/-- Slots beyond the first 2^28 of a run lie in the wide reduction buffers, wherever the run's first slot is. -/
theorem State.spillSlots_wide (s : State) (core : Nat) {l : List (Nat × DWord)} (hl : ∀ p ∈ l, p.2 ≠ 0#64) (hlen : 2 ^ 28 < l.length) :
    (s.spillSlots core l).store.wide ≠ [] := by
  refine State.putSlots_wide (fun p hp => hl p.1 (List.fst_mem_of_mem_zipIdx hp)) s (.inr ⟨(l[2 ^ 28], 2 ^ 28), ?_, ?_⟩)
  · exact List.mk_mem_zipIdx_iff_getElem?.2 (List.getElem?_eq_getElem hlen)
  · unfold slotPlace
    dsimp only
    split <;> omega

theorem State.took_wide {s : State} {id k core : Nat} {a : Acc} {x : Item} (hx : s.item id k = some x)
    (ha : ∀ p ∈ a.slots, p.2 ≠ 0#64) (hlen : 2 ^ 28 < a.slots.length) : (s.took id k core a).store.wide ≠ [] := by
  obtain ⟨y, hy, -⟩ := (State.useCore_step s id k core).item x hx
  rw [State.took_of_item hy]
  exact State.spillSlots_wide _ core ha hlen

/-! ### A leaf that is not null (04 R131, 06 R168) -/

theorem or_foldl_low {ws : List Word} {a : Word} (ha : a.getLsbD 0 = true) : (ws.foldl (logicJoin .or) a).getLsbD 0 = true := by
  induction ws generalizing a with
  | nil => exact ha
  | cons w ws ih => exact ih (by simp [logicJoin, ha])

/-- The first mask word of positions that begin with a live one has bit 0 set. -/
theorem maskWords_cons (bs : List Bool) : ∃ w ws, maskWords (true :: bs) = w :: ws ∧ w.getLsbD 0 = true := by
  refine ⟨_, _, rfl, ?_⟩
  have heven : 2 ∣ (((bs.take 31).zipIdx 1).map (fun p => if p.1 then 2 ^ p.2 else 0)).sum := by
    refine List.dvd_sum fun x hx => ?_
    obtain ⟨p, hp, rfl⟩ := List.mem_map.1 hx
    have hpos : p.2 ≠ 0 := by
      have := (List.mem_zipIdx hp).1
      omega
    split
    · exact dvd_pow_self 2 hpos
    · exact dvd_zero 2
  have hsum : (((true :: bs).take 32).zipIdx.map (fun p => if p.1 then 2 ^ p.2 else 0)).sum =
      1 + (((bs.take 31).zipIdx 1).map (fun p => if p.1 then 2 ^ p.2 else 0)).sum := rfl
  dsimp only
  rw [hsum, BitVec.getLsbD_ofNat, Nat.testBit_zero]
  simp only [Nat.zero_lt_succ, decide_true, Bool.true_and, decide_eq_true_eq]
  omega

theorem isNullLeaf_of_live {mc : MaskCtl} {r : QRow} {t i : Nat} (h : liveAt mc r (i * (t + 1)) = true) :
    isNullLeaf mc r (t + 1) i = false := by
  obtain ⟨w, ws, hw, hlow⟩ := maskWords_cons ((List.range t).map (fun j => liveAt mc r (i * (t + 1) + (j + 1))))
  have hbits : (List.range (t + 1)).map (fun j => liveAt mc r (i * (t + 1) + j)) =
      true :: (List.range t).map (fun j => liveAt mc r (i * (t + 1) + (j + 1))) := by
    rw [List.range_succ_eq_map, List.map_cons, List.map_map, Nat.add_zero, h]
    rfl
  have hsummary : maskSummary mc r (t + 1) i = ws.foldl (logicJoin .or) (0#32 ||| w) := by
    unfold maskSummary
    rw [hbits, hw]
    rfl
  have hbit : (maskSummary mc r (t + 1) i).getLsbD 0 = true := hsummary ▸ or_foldl_low (by simpa using hlow)
  unfold isNullLeaf
  refine decide_eq_false fun hzero => ?_
  rw [hzero] at hbit
  cases hbit

/-! ### The slots of a page's scores -/

/-- A live score leaves what its cell left. -/
theorem spills_liveScore {c : NumCtl} {mc : MaskCtl} {r : QRow} {ck : Word} {k : Nat} {cell : CellOut × Acc}
    (h : (runFM (finishScore c mc r ck cell.1.value k)).1 ≠ 0xFF800000#32) : Spills (liveScore c mc r ck k cell) cell.2.slots := by
  have hfinish := spills_addAcc (runFM (finishScore c mc r ck cell.1.value k)).2
  rw [(noSpill_finishScore c mc r ck cell.1.value k).runFM] at hfinish
  unfold liveScore
  dsimp only
  rw [if_neg h, ← List.append_nil cell.2.slots]
  exact (spills_addAcc cell.2).bind fun _ => hfinish.after fun _ => spills_pure _

/-- A page whose slots are all live, and whose cells each leave the slot `w`, leaves one for each slot. -/
theorem spills_liveScores {c : NumCtl} {ns : NestSum} {mc : MaskCtl} {r : QRow} {p : Page} {i t : Nat} {w : Nat × DWord} {v : CellOut}
    {a : Acc} (hlive : ∀ j, j < t → liveAt mc r (i * t + j) = true) (hrows : p.rows = t)
    (hcell : ∀ j, j < t → runFM (cellMulAdd c (ns.over p) r.op ((decodeRow p.fmt (p.k.getD j {})).map narrow)) = (v, a))
    (hw : a.slots = [w]) (hscore : ∀ k, (runFM (finishScore c mc r p.ck v.value k)).1 ≠ 0xFF800000#32) :
    Spills (liveScores c ns mc r p i t) (List.replicate t w) := by
  have hslots : (List.range t).filter (fun j => liveAt mc r (i * t + j) && decide (j < p.rows)) = List.range t := by
    refine List.filter_eq_self.2 fun j hj => ?_
    rw [List.mem_range] at hj
    simp [hlive j hj, hrows, hj]
  have hcells : (scoreDots c ns r p (List.range t)).map runFM = List.replicate t (v, a) := by
    unfold scoreDots
    rw [List.map_map]
    refine List.eq_replicate_iff.2 ⟨by simp, fun x hx => ?_⟩
    obtain ⟨j, hj, rfl⟩ := List.mem_map.1 hx
    exact hcell j (List.mem_range.1 hj)
  have hflat : ((List.range t).zip (List.replicate t (v, a))).flatMap (fun _ => [w]) = List.replicate t w := by
    rw [← List.map_eq_flatMap, List.map_const', List.length_zip, List.length_range, List.length_replicate, Nat.min_self]
  unfold liveScores
  dsimp only
  rw [hslots, hcells, ← List.append_nil (List.replicate t w), ← hflat]
  refine (noSpill_tilesCount _ _).after fun _ => Spills.bind (spills_mapM fun jd hjd => ?_) fun _ => spills_pure _
  have hjd2 : jd.2 = (v, a) := List.eq_of_mem_replicate (List.of_mem_zip hjd).2
  have hone := spills_liveScore (cell := jd.2) (mc := mc) (r := r) (ck := p.ck) (c := c) (k := i * t + jd.1)
    (by rw [hjd2]; exact hscore _)
  rw [hjd2, hw] at hone
  rw [← List.append_nil [w], hjd2]
  exact hone.bind fun _ => spills_pure _

/-! ### An attention item -/

theorem ItemStep.frame_page {id k : Nat} {R : Item → Item → Prop} {s t : State} (h : ItemStep id k R s t) (f : Nat) :
    t.frame f = s.frame f := by
  rw [h.frame]
  rfl

/-- A row of one leaf that spills beyond 2^28 slots writes the wide reduction buffers. -/
theorem State.forwardRow_wide {s : State} {j : Job} {k : Nat} {i y : Item} {e : Entry} {v : RowEnv} {x : RowIn} {q : QRow} {f : Nat}
    {l : List (Nat × DWord)} (hskip : bit j.ctl 10 = false) (hy : s.item j.id k = some y)
    (hq : (runFM (v.query e (fmtOf (bits (j.word 9) 2 0)) x.row x.member x.q)).1 = q) (hn : leafCount v.mc q v.tspan = 1)
    (hnull : isNullLeaf v.mc q v.tspan 0 = false) (hf : i.frameOf 0 = some f)
    (hleaf : Spills (pageLeaf v.pf v.num (v.sums 0) v.mc q (s.frame f).page 0 v.tspan v.hd) l) (hl : ∀ p ∈ l, p.2 ≠ 0#64)
    (hlen : 2 ^ 28 < l.length) : (s.forwardRow j k i e v x).store.wide ≠ [] := by
  have htook := State.took_step s j.id k i.mergeCore (runFM (v.query e (fmtOf (bits (j.word 9) 2 0)) x.row x.member x.q)).2
  obtain ⟨z, hz, -⟩ := htook.item y hy
  unfold State.forwardRow
  simp only [hskip, hq, hn, Bool.false_eq_true, if_false, State.modItem_store, State.rowLeaves, State.rowLeaf, List.range_one,
    List.foldl_cons, List.foldl_nil, hnull, hf]
  refine State.took_wide hz ?_ ?_
  all_goals rw [htook.frame_page, hleaf.runFM]
  · exact hl
  · exact hlen

theorem State.withMerge_step (s : State) (j : Job) (k : Nat) : ItemStep j.id k Item.Tallied s (s.withMerge j k) := by
  unfold State.withMerge
  split
  · exact (ItemStep.refl s).tallied
  split
  · exact State.modItem_tallied s j.id k fun x => rfl
  · exact (ItemStep.refl s).tallied

/-- A command of a job's item acts on the item as it stands. -/
theorem State.onItem_of_runs {s : State} {id k kind : Nat} {j : Job} {i : Item} (h : Runs s id k kind j i)
    (f : State → Job → Item → State) : s.onItem id k kind f = f s j i := by
  obtain ⟨hj, hi, hon, hkind, hst, hleft, htile, htrans⟩ := h
  have hheld : (s.needsOf j k i).filter (fun n => !i.trans.any (fun p => p.1 = n.page)) = [] := by
    refine List.filter_eq_nil_iff.2 fun n hn => ?_
    obtain ⟨p, hp, hpage⟩ := htrans n hn
    have hany : i.trans.any (fun p => p.1 = n.page) = true := List.any_eq_true.2 ⟨p, hp, decide_eq_true hpage⟩
    simp [hany]
  unfold State.onItem
  simp only [hj, hi, hon, hkind, hst, hleft, htile, State.retranslate, hheld, decide_true, Bool.and_self, Bool.not_true,
    Bool.false_eq_true, if_false, if_true, Option.getD_some]

/-- An item that has started. -/
def Item.begin (i : Item) : Item := { i with started := true }

/-- With every page bound nothing is recalled or pinned: the item has started. -/
theorem State.bindRows_bound {s : State} {j : Job} {k : Nat} {i : Item} {e : Entry} (h : PagesBound s j i e) :
    s.bindRows j k i e (s.rowEnv j i e []) = (s.modItem j.id k Item.begin, true) := by
  have hlack : ((s.rowEnv j i e []).pages e (e.itemRows j.kind i)
      (if j.qt then (s.dirOf (bits e.handle 13 0) i.stream).pages else i.bind.dir.pages)).filter (fun p => (i.frameOf p).isNone) = [] := by
    refine List.filter_eq_nil_iff.2 fun p hp => ?_
    rw [Option.isNone_iff_eq_none]
    exact Option.isSome_iff_ne_none.1 (h.2 p hp)
  unfold State.bindRows
  simp only [hlack, ne_eq, not_true_eq_false, false_and, if_false, if_true]
  rfl

theorem State.placeLate_placed {s : State} {j : Job} {i : Item} (h : i.leafAt ≠ [] ∨ j.kind ≠ 0x11) (k : Nat) (e : Entry)
    (v : RowEnv) : s.placeLate j k i e v = s := by
  unfold State.placeLate
  rw [if_neg]
  obtain h | h := h <;> simp [h]

theorem ItemStep.roundsOf_eq {id k : Nat} {R : Item → Item → Prop} {s t : State} (h : ItemStep id k R s t) (q n : Nat) :
    t.roundsOf q n = s.roundsOf q n := by
  rw [h.frame]
  rfl

/-- The state in which an item whose pages are bound runs its rows. -/
def State.begun (s : State) (j : Job) (k : Nat) : State := (s.modItem j.id k Item.begin).withMerge j k

theorem State.begun_step (s : State) (j : Job) (k : Nat) : ItemStep j.id k (fun x y => Item.Tallied x.begin y) s (s.begun j k) :=
  (State.modItem_step s j.id k Item.begin).trans (State.withMerge_step _ j k) fun _ _ _ hxy hyz => hxy ▸ hyz

/-- An item whose pages are bound, whose leaf tasks stand in no round and whose rows can be read runs its rows. -/
theorem State.attendRows_bound {s : State} {j : Job} {k : Nat} {i x : Item} {e : Entry} {hv : HostView} {xs : List RowIn}
    (hi : s.item j.id k = some i) (hx : (s.begun j k).item j.id k = some x) (htally : Item.Tallied i.begin x)
    (hpages : PagesBound s j i e) (hplaced : i.leafAt ≠ [] ∨ j.kind ≠ 0x11) (hr : s.roundsOf j.id k = [])
    (hxs : j.readRows hv i e i.bind.ctx.group i.bind.ctx.hd = .ok xs) :
    s.attendRows j k e hv = (xs.foldl (fun t r => t.forwardRow j k x e (s.rowEnv j i e []) r) (s.begun j k)).modItem j.id k (fun i =>
      { i with st := .computed }) := by
  have hsegs : j.readSegs hv i e = .ok [] := by
    unfold Job.readSegs
    rw [hpages.1]
    rfl
  have hleaf : x.leafAt ≠ [] ∨ j.kind ≠ 0x11 := by
    rw [htally]
    exact hplaced
  have hrows : j.readRows hv x e x.bind.ctx.group x.bind.ctx.hd = .ok xs := by
    rw [htally]
    exact hxs
  have hrounds : (s.begun j k).roundsOf j.id k = [] := ((State.begun_step s j k).roundsOf_eq _ _).trans hr
  have hbegun : (s.modItem j.id k Item.begin).withMerge j k = s.begun j k := rfl
  unfold State.attendRows
  simp only [hi, hsegs, State.bindRows_bound hpages, hbegun, hx, Option.getD_some, State.placeLate_placed hleaf, hrows,
    hrounds, ne_eq, not_true_eq_false, Bool.not_true, Bool.false_eq_true, if_false]

/-- An item that makes no append of its entry goes on to its rows. -/
theorem State.attendItem_rows {s : State} {j : Job} {k : Nat} {i : Item} {e : Entry} (he : j.entries[i.entry]? = some e)
    (hr : s.roundsOf j.id k = []) (happ : e.app ≠ 2) (hown : j.appends k i = false) (hv : HostView) :
    s.attendItem j k i hv = s.attendRows j k e hv := by
  unfold State.attendItem
  simp only [he, hr, happ, hown, ne_eq, not_true_eq_false, or_self, if_false, Bool.not_false, if_true]

end Sys2Proof.Machine
end

section
/-! SUPPORT. A state in which the nest of an item's scores spills into the wide reduction buffers: one context of one head of one
element, one page of more than 2^28 rows of 1.0, a nest that spills every block. The page's rows are never listed. -/

namespace Sys2Proof.Machine

open Sys2Proof.Safety

/-! ### The scenario -/

/-- So many slots that some lie in the wide reduction buffers, wherever the filled nest places the first. -/
def spillSpan : Nat := 2 ^ 28 + 1

/-- A context of one page of one element a row, without tables. -/
def spillRow : CtxRow := { state := 1, group := 1, hd := 1, tspan := spillSpan, turn := 255, qn := 255, kn := 255 }

/-- The page, all of whose rows are 1.0. -/
def spillPage : Page :=
  { fmt := { hd := 1 }, tspan := spillSpan, k := List.replicate spillSpan { codes := [0x3F80] }
    v := List.replicate spillSpan { codes := [0x3F80] } }

/-- One query row over the whole page. -/
def spillEntry : Entry := { handle := 0, first := 0, count := 1, slots := [], rows := 1, pos0 := 0, klen := 0, kspan := 0 }

/-- The entry's item, with its page bound. -/
def spillItem : Item :=
  { tile := 0, entry := 0, st := .running, trans := [(0, 0)]
    bind := { ctx := spillRow, dir := { pages := 1 }, lens := [spillSpan], pages := [(0, 0, 0)] } }

/-- A prefill job of that item. -/
def spillJob : Job := { id := 0, ring := 0, seq := 0, desc := [0x12], entries := [spillEntry], items := [spillItem] }

/-- A template of SPILL = 1b and SPILL_LOG2 = 0 (12 R341). -/
def spillNest : Nest := ⟨0, 0x800 :: List.replicate 47 0⟩

/-- The selection table names the template for the scores of the job, and for no other stage. -/
def spillState : State :=
  { State.reset with
    cfg := { State.reset.cfg with mode := .ready, nests := [spillNest], selects := [⟨0x12, 6, 16, 0, 1, spillSpan, 4, 0⟩] }
    sched := { State.reset.sched with jobs := [spillJob], nextJob := 1 }
    store := { State.reset.store with rows := [(0, spillRow)], frames := [(0, { page := spillPage })] } }

/-- The bytes of 1.0 in BF16. -/
def spillBytes : List Byte := [0x80#8, 0x3F#8]

/-- The host returns 1.0 for the query. -/
def spillHost : HostView := ⟨[(0, spillBytes)], [], []⟩

/-- The row environment of the item. -/
def spillEnv : RowEnv := spillState.rowEnv spillJob spillItem spillEntry []

/-- The operands that 1.0 gives. -/
def spillOnes : List Opnd := [⟨.fin false 128 (-7), false⟩]

/-- The query's row. -/
def spillQuery : QRow := { op := spillOnes, len := spillSpan }

/-! ### The item is one that computes -/

theorem spill_runs : Runs spillState 0 0 0x12 spillJob spillItem := by decide +kernel

theorem spill_readRows : spillJob.readRows spillHost spillItem spillEntry spillItem.bind.ctx.group spillItem.bind.ctx.hd =
    .ok [⟨0, 0, spillBytes, []⟩] := by rfl

theorem spill_pagesBound : PagesBound spillState spillJob spillItem spillEntry := by
  refine ⟨by decide +kernel, fun p hp => ?_⟩
  obtain rfl : p = 0 := Nat.lt_one_iff.1 (List.mem_range.1 (List.mem_filter.1 hp).1)
  rfl

/-! ### Its row has one leaf, all of whose slots are live -/

theorem spill_query : (runFM (spillEnv.query spillEntry (fmtOf (bits (spillJob.word 9) 2 0)) 0 0 spillBytes)).1 = spillQuery := by
  decide +kernel

theorem spill_leafCount : leafCount spillEnv.mc spillQuery spillEnv.tspan = 1 := by decide +kernel

theorem spill_mask : spillEnv.mc = {} := by decide +kernel

theorem spill_live {j : Nat} (h : j < spillSpan) : liveAt spillEnv.mc spillQuery (0 * spillSpan + j) = true := by
  have hlen : spillQuery.len = spillSpan := rfl
  rw [spill_mask]
  simp [liveAt, hlen, h]

theorem spill_leaf : isNullLeaf spillEnv.mc spillQuery spillEnv.tspan 0 = false :=
  isNullLeaf_of_live (t := 2 ^ 28) (spill_live (Nat.succ_pos _))

/-! ### Each slot spills its score -/

theorem spill_key {j : Nat} (h : j < spillSpan) : (decodeRow spillPage.fmt (spillPage.k.getD j {})).map narrow = spillOnes := by
  have hrow : spillPage.k.getD j {} = { codes := [0x3F80] } := List.getD_replicate _ h
  rw [hrow]
  decide +kernel

/-- What the cell of a slot gives. -/
def spillCell : CellOut × Acc :=
  runFM (cellMulAdd spillEnv.num ((spillEnv.sums 0).score.over spillPage) spillQuery.op spillOnes)

theorem spillCell_slots : ∃ slot, spillCell.2.slots = [(slot, 0x3FF0000000000000#64)] := by
  have hwords : spillCell.2.slots.map Prod.snd = [0x3FF0000000000000#64] := by decide +kernel
  obtain ⟨⟨slot, w⟩, hslots, hw⟩ := List.map_eq_singleton_iff.1 hwords
  exact ⟨slot, hw ▸ hslots⟩

/-- Without a bias a score does not depend on its position. -/
theorem finishScore_of_noBias {r : QRow} (h : r.bias = none) (c : NumCtl) (mc : MaskCtl) (ck dot : Word) (k : Nat) :
    finishScore c mc r ck dot k = finishScore c mc r ck dot 0 := by
  simp only [finishScore, biasAt, h]

theorem spill_score (k : Nat) : (runFM (finishScore spillEnv.num spillEnv.mc spillQuery spillPage.ck spillCell.1.value k)).1 ≠
    0xFF800000#32 := by
  rw [finishScore_of_noBias rfl]
  decide +kernel

theorem spill_out : (spillEnv.sums 0).out.spill = none := by decide +kernel

theorem spill_scores : ∃ slot, Spills (liveScores spillEnv.num (spillEnv.sums 0).score spillEnv.mc spillQuery spillPage 0 spillSpan)
    (List.replicate spillSpan (slot, 0x3FF0000000000000#64)) := by
  obtain ⟨slot, hslot⟩ := spillCell_slots
  have hrows : spillPage.rows = spillSpan := List.length_replicate
  have hcell : ∀ j, j < spillSpan → runFM (cellMulAdd spillEnv.num ((spillEnv.sums 0).score.over spillPage) spillQuery.op
      ((decodeRow spillPage.fmt (spillPage.k.getD j {})).map narrow)) = (spillCell.1, spillCell.2) := fun j hj => by
    rw [spill_key hj, Prod.mk.eta, spillCell]
  exact ⟨slot, spills_liveScores (v := spillCell.1) (a := spillCell.2) (fun j => spill_live) hrows hcell hslot spill_score⟩

theorem spill_page : (spillState.frame 0).page = spillPage := rfl

theorem spill_tspan : spillEnv.tspan = spillSpan := rfl

theorem spill_pageLeaf : ∃ slot, Spills (pageLeaf spillEnv.pf spillEnv.num (spillEnv.sums 0) spillEnv.mc spillQuery
    (spillState.frame 0).page 0 spillEnv.tspan spillEnv.hd) (List.replicate spillSpan (slot, 0x3FF0000000000000#64)) := by
  rw [spill_page, spill_tspan]
  exact spill_scores.imp fun _ h => spills_pageLeaf spillEnv.hd h spill_out

/-! ### The item's step -/

theorem spill_app : spillEntry.app ≠ 2 := by decide

theorem spill_appends : spillJob.appends 0 spillItem = false := by decide +kernel

theorem spill_noSkip : bit spillJob.ctl 10 = false := by decide +kernel

/-- The item as it runs its row. -/
theorem spill_begun : ∃ x, (spillState.begun spillJob 0).item 0 0 = some x ∧ spillItem.begin.Tallied x :=
  (State.begun_step spillState spillJob 0).item spillItem rfl

/-- Its page's scores leave words in the wide reduction buffers. -/
theorem spill_wide : (spillState.attendItem spillJob 0 spillItem spillHost).store.wide ≠ [] := by
  obtain ⟨x, hx, htally⟩ := spill_begun
  obtain ⟨slot, hleaf⟩ := spill_pageLeaf
  have hframe : x.frameOf 0 = some 0 := by
    rw [htally]
    rfl
  rw [State.attendItem_rows (e := spillEntry) rfl rfl spill_app spill_appends, State.attendRows_bound rfl hx htally spill_pagesBound
    (.inr (by decide +kernel)) rfl spill_readRows, State.modItem_store]
  rw [← (State.begun_step spillState spillJob 0).frame_page] at hleaf
  have hword : (0x3FF0000000000000#64 : DWord) ≠ 0#64 := by decide
  refine State.forwardRow_wide spill_noSkip hx spill_query spill_leafCount spill_leaf hframe hleaf (fun p hp => ?_) ?_
  · exact List.eq_of_mem_replicate hp ▸ hword
  · rw [List.length_replicate]
    exact Nat.lt_succ_self _

/-- Refutes O42: a nest that spills puts words into the wide reduction buffers, which are part of the store (04 R121, 08 R214), so the
store is not as it was. -/
theorem not_attentionItemsCompute : ¬ Obligations.AttentionItemsCompute := by
  intro h
  obtain ⟨t, hnext, -, -, hstore, -⟩ := ((h spillState 0 0 0x12 (.attendPrefill 0 0 spillHost) spillJob spillItem spillEntry spillHost
    rfl).1 (.inr (.inl ⟨rfl, rfl⟩)) spill_runs).2 _ rfl spill_app spill_appends spill_pagesBound (.inr (by decide)) spill_noSkip
    spill_readRows
  have hrun : exec (.attendPrefill 0 0 spillHost) spillState = .next (spillState.attendItem spillJob 0 spillItem spillHost) :=
    congrArg Host.Outcome.next (State.onItem_of_runs spill_runs _)
  have hsame : (spillState.attendItem spillJob 0 spillItem spillHost).store = spillState.store :=
    next_inj (hnext.symm.trans hrun) ▸ hstore
  exact spill_wide (congrArg Store.wide hsame)

end Sys2Proof.Machine
end

section
/-! SUPPORT. The end of a job of one item; EVICT, PREFETCH and TABLE_LOAD (09 R261, 14 R402 to R404). The statement on moves and table
loads. -/

namespace Sys2Proof.Machine

open Sys2Proof.Safety

/-! ### Commands of a job's item -/

section
variable {s : State} {id k kind : Nat} {j : Job} {i : Item}

/-- A command whose meaning is an action on a job's item, by its effect on an item that runs. -/
theorem next_onItem {f : State → Job → Item → State} {t : State} (h : Runs s id k kind j i) (ht : f s j i = t) :
    (.next (s.onItem id k kind f) : Out) = .next t :=
  congrArg _ ((State.onItem_of_runs h f).trans ht)

theorem State.modJob_job (s : State) (id : Nat) {f : Job → Job} (hf : ∀ j, (f j).id = j.id) (q : Nat) :
    (s.modJob id f).job q = (s.job q).map (fun j => if j.id = id then f j else j) := by
  have hid : ∀ j : Job, (if j.id = id then f j else j).id = j.id := fun j => by
    split
    · exact hf j
    · rfl
  simp only [State.modJob, State.job, List.find?_map, Function.comp_def, hid]

theorem State.modJob_item (s : State) (id : Nat) {f : Job → Job} (hid : ∀ j, (f j).id = j.id) (hitems : ∀ j, (f j).items = j.items)
    (q k : Nat) : (s.modJob id f).item q k = s.item q k := by
  unfold State.item
  rw [State.modJob_job s id hid]
  cases s.job q with
  | none => rfl
  | some j =>
    simp only [Option.map_some, Option.bind_some]
    split
    · rw [hitems]
    · rfl

/-- An item that has ended with a status. -/
def Item.ends (status : Nat) (i : Item) : Item := { i with st := .computed, status := status, started := true }

/-- A job with its RESULT0. -/
def Job.endsWith (r0 : Nat) (j : Job) : Job := { j with r0 := r0 }

theorem State.endJob_job (s : State) (id status r0 q : Nat) : (s.endJob id status r0).job q =
    ((s.job q).map fun j => if j.id = id then j.modItem 0 (Item.ends status) else j).map fun j => if j.id = id then j.endsWith r0 else j :=
  (State.modJob_job (s.modItem id 0 (Item.ends status)) id (f := Job.endsWith r0) (fun _ => rfl) q).trans
    (congrArg _ (State.modItem_job s id 0 (Item.ends status) q))

/-- The job of an item that runs ends with a status and RESULT0. -/
theorem State.endJob_ended (h : Runs s id 0 kind j i) (status r0 : Nat) : Ended s (s.endJob id status r0) id status r0 := by
  obtain ⟨hj, hi, -⟩ := h
  have hid : (j.modItem 0 (Item.ends status)).id = id := (State.job_id hj : j.id = id)
  have hjob : (s.endJob id status r0).job id = some ((j.modItem 0 (Item.ends status)).endsWith r0) := by
    rw [State.endJob_job, hj, Option.map_some, if_pos (State.job_id hj), Option.map_some, if_pos hid]
  have hitem : (s.endJob id status r0).item id 0 = some (i.ends status) :=
    (State.modJob_item (s.modItem id 0 (Item.ends status)) id (f := Job.endsWith r0) (fun _ => rfl) (fun _ => rfl) id 0).trans
      (State.modItem_item hi _)
  refine ⟨rfl, ⟨_, _, hjob, hitem, rfl, rfl, rfl, rfl⟩, fun q hq => ?_⟩
  rw [State.endJob_job]
  cases hq' : s.job q with
  | none => rfl
  | some j => simp only [Option.map_some, State.job_id hq', hq, if_false]

end

/-! ### EVICT and PREFETCH (09 R261) -/

section
variable {s : State} {j : Job} {i : Item}

theorem State.evictJob_barred (h : s.runsMoves (j.word 4) = none) : s.evictJob j i = s.endJob j.id 0x11 0 := by
  unfold State.evictJob
  rw [h]
  rfl

theorem State.prefetchJob_barred (h : s.runsMoves (j.word 4) = none) : s.prefetchJob j i = s.endJob j.id 0x11 0 := by
  unfold State.prefetchJob
  rw [h]
  rfl

variable {r : Nat} (h : s.runsMoves (j.word 4) = some r)
include h

theorem State.evictJob_handled : s.evictJob j i = ((j.namedPages.zipIdx).foldl (fun s p =>
    s.evictPage j.id r p.2 (bit (tget 0#32 i.bind.commit 0x8000).toNat 0) p.1) s).allHandled j.id := by
  unfold State.evictJob
  simp only [h]

theorem State.prefetchJob_handled : s.prefetchJob j i = s.prefetchFrom j r (allocCtl i.bind.commit false j.cls i.budgetOut)
    ((j.namedPages.zipIdx).drop j.pageNext) := by
  unfold State.prefetchJob
  simp only [h]

end

/-! ### TABLE_LOAD (14 R402 to R404) -/

section
variable {s : State} {j : Job} {i : Item} {hv : HostView} {t : TableDef}

section
variable (ht : s.loadTable j = some t)
include ht

theorem State.tableLoadJob_waits (hw : t.waits j.id = true) (first : Bool) :
    s.tableLoadJob j i hv first = if first && j.nonblock then s.loadEnds t j.id 0x60 else s := by
  unfold State.tableLoadJob
  simp only [ht, hw, Bool.not_true, Bool.false_eq_true, if_false]
  rfl

theorem State.tableLoadJob_goes (hw : t.waits j.id = false) (first : Bool) :
    s.tableLoadJob j i hv first = s.loadTableNow j i t hv := by
  unfold State.tableLoadJob
  simp only [ht, hw, Bool.not_false, if_true]

end

/-- A load whose source is translated and read: its contents, filled up to the table's size, become the next generation or end it. -/
theorem State.loadTableNow_read {tr : Trans} {v u : State} {bs : List Byte}
    (htr : s.translateAll i.tile (.item j.id 0) (needs (j.dword 6) (j.word 5) 0) = .ok tr v)
    (hu : u = v.fetch i.tile (.table j.id) (runFetches [(j.dword 6, j.word 5)])) (hb : readVirt hv tr (j.dword 6) (j.word 5) = .ok bs) :
    s.loadTableNow j i t hv =
      if tableBytesOk t.kind (padTo t.size bs) && u.rowsInUse.all (u.rowTakes t.kind t.num (padTo t.size bs)) then
        u.loadEnds (t.flip (padTo t.size bs)) j.id 0
      else u.loadEnds t j.id 0x30 := by
  subst hu
  unfold State.loadTableNow
  simp only [htr, hb]
  rfl

/-- The copy of an even generation is replaced by the odd one that follows, and conversely. -/
theorem TableDef.flip_copies (t : TableDef) (b : List Byte) :
    (t.gen % 2 = 0 → (t.flip b).copy1 = b ∧ (t.flip b).copy0 = t.copy0) ∧
    (t.gen % 2 = 1 → (t.flip b).copy0 = b ∧ (t.flip b).copy1 = t.copy1) := by
  refine ⟨fun h => ?_, fun h => ?_⟩
  · have hodd : ¬ (t.gen + 1) % 2 ^ 32 % 2 = 0 := by omega
    exact ⟨if_neg hodd, if_neg hodd⟩
  · have heven : (t.gen + 1) % 2 ^ 32 % 2 = 0 := by omega
    exact ⟨if_pos heven, if_pos heven⟩

end

/-- Settles O44: EVICT and PREFETCH by their equations, and a TABLE_LOAD that waits, goes on, and has read its source. -/
theorem movesAndTableLoads : Obligations.MovesAndTableLoads := by
  intro s id j i hv
  refine ⟨fun hm => ⟨fun h => ?_, fun h => ?_⟩, fun r hm => ⟨fun h => ?_, fun h => ?_⟩, fun h t ht => ?_⟩
  · obtain rfl := State.job_id h.1
    exact ⟨_, next_onItem h (State.evictJob_barred hm), State.endJob_ended h _ _⟩
  · obtain rfl := State.job_id h.1
    exact ⟨_, next_onItem h (State.prefetchJob_barred hm), State.endJob_ended h _ _⟩
  · obtain rfl := State.job_id h.1
    exact next_onItem h (State.evictJob_handled hm)
  · exact next_onItem h (State.prefetchJob_handled hm)
  obtain rfl := State.job_id h.1
  have load : ∀ {u : State}, s.tableLoadJob j i hv true = u → exec (.tableLoad j.id hv) s = .next u := fun hu => next_onItem h hu
  have proceed : ∀ {u : State}, s.tableLoadJob j i hv false = u → exec (.tableLoadProceed j.id hv) s = .next u := fun hu =>
    next_onItem h hu
  refine ⟨fun hw => ⟨?_, fun hn => ?_, fun hn => ?_⟩,
    fun hw => ⟨?_, fun tr v u bs htr hu hb => ⟨fun hok hrows => ?_, fun hok => ?_⟩⟩⟩
  · exact proceed (State.tableLoadJob_waits ht hw _)
  · exact load ((State.tableLoadJob_waits ht hw _).trans (by rw [hn]; rfl))
  · exact load ((State.tableLoadJob_waits ht hw _).trans (by rw [hn]; rfl))
  · exact (load (State.tableLoadJob_goes ht hw _)).trans (proceed (State.tableLoadJob_goes ht hw _)).symm
  · refine ⟨proceed ((State.tableLoadJob_goes ht hw _).trans ((State.loadTableNow_read htr hu hb).trans (if_pos ?_))), rfl,
      TableDef.flip_copies t _⟩
    simpa [hok] using hrows
  · refine proceed ((State.tableLoadJob_goes ht hw _).trans ((State.loadTableNow_read htr hu hb).trans (if_neg ?_)))
    simp [hok]

end Sys2Proof.Machine
end

section
/-! SUPPORT. The ends of evictions and recalls, and what decides on background eviction (09 R258 to R266). The statement on migrations. -/

namespace Sys2Proof.Machine

/-! ### The values that a tile has adopted -/

/-- Each key written in turn with a value of its own holds that value; every other key is as it was. -/
theorem tget_foldl_tset {α : Type} [DecidableEq α] {d : α} (f : Nat → α) (ks : List Nat) {t : Tab α} (h : tabOk d t = true) (k : Nat) :
    tget d (ks.foldl (fun t o => tset d t o (f o)) t) k = if k ∈ ks then f k else tget d t k := by
  induction ks generalizing t with
  | nil => simp
  | cons a rest ih =>
    rw [List.foldl_cons, ih (tabOk_tset h a (f a))]
    by_cases hk : k = a
    · subst hk
      simp [tget_tset_self h]
    · simp [hk, tget_tset_ne h (f a) hk]

/-- An adopted value is a word. -/
theorem State.liveFor_lt (s : State) (u off : Nat) : s.liveFor u off < 2 ^ 32 := by
  unfold State.liveFor
  split
  · exact BitVec.isLt _
  · exact State.reg_lt s off

/-- A snapshot of a tile holds the value that the tile has adopted (09 R252). -/
theorem State.snapshot_toNat {s : State} {t off : Nat} (h : off ∈ boundRegs) : (tget 0#32 (s.snapshot t) off).toNat = s.liveFor t off := by
  unfold State.snapshot
  rw [tget_foldl_tset _ _ rfl, if_pos h, BitVec.toNat_ofNat, Nat.mod_eq_of_lt (s.liveFor_lt t off)]

/-! ### Background eviction (09 R260) -/

/-- Whether a tile evicts in the background: it is enabled, and the free frames are below LOW, or below HIGH once it has begun. -/
def State.evicts (s : State) (t : Nat) : Bool :=
  let wm := s.liveFor t 0x8010
  let low := bits wm 15 0
  bit (s.liveFor t 0x8000) 0 && bit (s.liveFor t 0x8000) 1 &&
    ((s.store.bg.contains t || decide (s.freeCount t < low)) && decide (s.freeCount t < max (bits wm 31 16) low))

theorem State.background_eq (s : State) (t : Nat) : s.background t =
    if s.evicts t then (({ s with store := { s.store with bg := insertKey t s.store.bg } } : State).bgLoop 4 t).pump
    else { s with store := { s.store with bg := s.store.bg.erase t } } := by
  have hctl := State.snapshot_toNat (s := s) (t := t) (show 0x8000 ∈ boundRegs by decide)
  have hwm := State.snapshot_toNat (s := s) (t := t) (show 0x8010 ∈ boundRegs by decide)
  unfold State.background State.evicts
  simp only [hctl, hwm]
  cases bit (s.liveFor t 0x8000) 0 && bit (s.liveFor t 0x8000) 1 with
  | false => rfl
  | true =>
    simp only [Bool.true_and]
    generalize ((s.store.bg.contains t || _) && _) = short
    cases short <;> rfl

theorem State.evicts_eq_true {s : State} {t ctl wm low high : Nat} (hctl : ctl = s.liveFor t 0x8000) (hwm : wm = s.liveFor t 0x8010)
    (hlow : low = bits wm 15 0) (hhigh : high = max (bits wm 31 16) low) :
    s.evicts t = true ↔ bit ctl 0 = true ∧ bit ctl 1 = true ∧ (t ∈ s.store.bg ∨ s.freeCount t < low) ∧ s.freeCount t < high := by
  subst hhigh hlow hwm hctl
  simp only [State.evicts, Bool.and_eq_true, Bool.or_eq_true, decide_eq_true_eq, List.contains_iff_mem, and_assoc]

/-! ### Migrations that end -/

section
variable {s : State} {m : Mig}

/-- A migration of the part's own, as against one that the partner asked for. -/
theorem Mig.why_ne_mirror (h : m.ofPartner = false) (f : Nat) : m.why ≠ .mirror f := fun hw => by
  simp [Mig.ofPartner, hw] at h

theorem State.evictionDone_own (h : m.ofPartner = false) :
    s.evictionDone m = ((((((if m.released then s.dropLabFrame m.frame else { s.dropLabFrame m.frame with store := {
        (s.dropLabFrame m.frame).store with
          cold := tset none (s.dropLabFrame m.frame).store.cold (8388608 * m.home + m.record) (some ((s.frame m.frame).cold m.host))
          map := tset .empty (s.dropLabFrame m.frame).store.map m.loc (.cold (8388608 * m.home + m.record)) } }).dropMig m.slot).freeFrame
      m.frame).wakeGranted).bumpTile (frameTile m.frame) 0x158 1).tellEnd m true).pump := by
  unfold State.evictionDone
  split
  next own hw => exact absurd hw (Mig.why_ne_mirror h own)
  · rfl

theorem State.evictionFails_own (h : m.ofPartner = false) :
    s.evictionFails m =
      if m.fails.any (fun p => decide (4 ≤ p.2)) then
        (((s.frameBad m.frame 0x04 (frameTile m.frame) 0 m.frame).dropMig m.slot).tellEnd m false).pump
      else if m.issued then m.redo.foldl (fun s w => s.redoWrite m.slot w) s
      else (s.putMig { m with status := 0, redo := [] }).pump := by
  unfold State.evictionFails
  split
  next own hw => exact absurd hw (Mig.why_ne_mirror h own)
  · rfl

/-- A recall that no item asked for: its frame is free again, and its record stays. -/
theorem State.recallFails_own (h : m.ofPartner = false) (hitem : ∀ id i, m.why ≠ .item id i) (hmoving : (s.frame m.frame).st = .moving) :
    s.recallFails m = (((s.freeFrame m.frame).dropMig m.slot).tellEnd m false).pump := by
  unfold State.recallFails
  cases hw : m.why with
  | mirror f => exact absurd hw (Mig.why_ne_mirror h f)
  | item id i => exact absurd hw (hitem id i)
  | background => simp only [if_pos hmoving]
  | job id => simp only [if_pos hmoving]

section
variable {slot : Nat} (hm : s.mig slot = some m)
include hm

theorem exec_evictionDone : exec (.evictionDone slot) s = .next (s.whenever m.evicted (s.evictionDone m)) :=
  congrArg Host.Outcome.next (by rw [hm])

theorem exec_evictionWriteFail :
    exec (.evictionWriteFail slot) s = .next (s.whenever (m.evict && m.redo ≠ []) (s.evictionFails m)) :=
  congrArg Host.Outcome.next (by rw [hm])

theorem exec_recallDone : exec (.recallDone slot) s = .next (s.whenever m.arrived (s.recallDone m)) :=
  congrArg Host.Outcome.next (by rw [hm])

theorem exec_recallFail : exec (.recallFail slot) s = .next (s.whenever (!m.evict && m.status ≠ 0) (s.recallFails m)) :=
  congrArg Host.Outcome.next (by rw [hm])

end

end

/-- Settles O49: what each end of a migration does to one that has come to it, and what decides on background eviction. -/
theorem migrationsEnd : Obligations.MigrationsEnd := by
  intro s
  refine ⟨fun slot hm => ?_, fun slot m hm => ?_,
    fun tile ctl wm low high ht hctl hwm hlow hhigh => ⟨fun hstop => ?_, fun h0 h1 hfree hon => ?_⟩⟩
  · refine ⟨?_, ?_, ?_, ?_⟩ <;> exact congrArg Host.Outcome.next (by rw [hm])
  · rw [exec_evictionDone hm, exec_evictionWriteFail hm, exec_recallDone hm, exec_recallFail hm]
    refine ⟨fun h => ?_, fun h => ?_, fun u h hown hu => ?_, fun h => ?_, fun he hr hown => ?_, fun h => ?_, fun h => ?_, fun h => ?_,
      fun he hst => ?_, fun he hst hown hitem hmoving => ?_⟩
    · rw [h, State.whenever_false]
    · rw [h, State.whenever_true]
    · rw [h, State.whenever_true, State.evictionDone_own hown, hu]
    · have hc : (m.evict && decide (m.redo ≠ [])) = false := by
        rcases h with h | h <;> simp [h]
      rw [hc, State.whenever_false]
    · have hc : (m.evict && decide (m.redo ≠ [])) = true := by simp [he, hr]
      rw [hc, State.whenever_true, State.evictionFails_own hown]
      refine ⟨fun hfour => ?_, fun hfew hi => ?_, fun hfew hi => ?_⟩
      · rw [if_pos (by simpa using hfour)]
      · rw [if_neg (by simpa using hfew), if_pos hi]
      · rw [if_neg (by simpa using hfew), hi, if_neg Bool.false_ne_true]
    · rw [h, State.whenever_false]
    · rw [h, State.whenever_true]
    · have hc : (!m.evict && decide (m.status ≠ 0)) = false := by
        rcases h with h | h <;> simp [h]
      rw [hc, State.whenever_false]
    · have hc : (!m.evict && decide (m.status ≠ 0)) = true := by simp [he, hst]
      rw [hc, State.whenever_true]
    · have hc : (!m.evict && decide (m.status ≠ 0)) = true := by simp [he, hst]
      rw [hc, State.whenever_true, State.recallFails_own hown hitem hmoving]
  · have hoff : ¬ s.evicts tile.toNat = true := by
      rw [State.evicts_eq_true hctl hwm hlow hhigh]
      rintro ⟨h0, h1, hon, hfree⟩
      rcases hstop with h | h | h | ⟨hlow, hbg⟩
      · exact Bool.false_ne_true (h.symm.trans h0)
      · exact Bool.false_ne_true (h.symm.trans h1)
      · exact h.not_gt hfree
      · exact hon.elim hbg hlow.not_gt
    exact (onTile_of_hasTile ht).trans (congrArg _ ((State.background_eq s _).trans (if_neg hoff)))
  · have hon : s.evicts tile.toNat = true := (State.evicts_eq_true hctl hwm hlow hhigh).2 ⟨h0, h1, hon.symm, hfree⟩
    exact (onTile_of_hasTile ht).trans (congrArg _ ((State.background_eq s _).trans (if_pos hon)))

end Sys2Proof.Machine
end

section
/-! SUPPORT. Spill slots of the staging of rows (09 R245): of quantization and re-encoding, which leave none, and of an RMS normalization
whose sum spills, which leaves one. -/

namespace Sys2Proof.Machine

/-! ### Quantization and re-encoding (02 R44 to R47, 09 R248) -/

theorem noSpill_rneSatRatio (f : Fmt) (neg : Bool) (num den : Nat) (e : Int) : Spills (rneSatRatio f neg num den e) [] :=
  spills_ite (spills_pure _) ((spills_setFlag _).after fun _ => spills_pure _)

theorem noSpill_quantElem (f : Fmt) (dm : Nat) (de : Int) (v : Val) : Spills (quantElem f dm de v) [] := by
  cases v with
  | fin neg m e => exact noSpill_rneSatRatio _ _ _ _ _
  | inf neg => exact noSpill_rneVal _ _
  | nan sig => exact noSpill_rneVal _ _

theorem noSpill_quantElems (f : Fmt) (dm : Nat) (de : Int) (vs : List Val) : Spills (vs.mapM (quantElem f dm de)) [] :=
  noSpill_mapM (fun _ => noSpill_quantElem _ _ _ _) vs

theorem noSpill_quantTwoLevel (p : PageFmt) (c : Word) (b : List Val) : Spills (quantTwoLevel p c b) [] := by
  unfold quantTwoLevel
  dsimp only
  exact spills_ite (spills_ite (spills_pure _) ((noSpill_quantElems _ _ _ _).after fun _ => spills_pure _))
    ((spills_setFlag _).after fun _ => spills_pure _)

theorem noSpill_quantMx (p : PageFmt) (b : List Val) : Spills (quantMx p b) [] := by
  unfold quantMx
  dsimp only
  exact spills_ite ((noSpill_quantElems _ _ _ _).after fun _ => spills_pure _) ((spills_setFlag _).after fun _ => spills_pure _)

theorem noSpill_quantRow (p : PageFmt) (c : Word) (row : List Val) : Spills (quantRow p c row) [] := by
  unfold quantRow
  split
  · exact (noSpill_mapM (fun _ => noSpill_rneVal _ _) _).after fun _ => spills_pure _
  · exact (noSpill_quantElems _ _ _ _).after fun _ => spills_pure _
  · exact (noSpill_mapM (fun _ => noSpill_quantTwoLevel _ _ _) _).after fun _ => spills_pure _
  · exact (noSpill_mapM (fun _ => noSpill_quantMx _ _) _).after fun _ => spills_pure _

theorem noSpill_reencodeRows (p : PageFmt) (cOld cNew : Word) (rows : List Row) : Spills (reencodeRows p cOld cNew rows) [] :=
  noSpill_mapM (fun _ => noSpill_quantRow _ _ _) rows

theorem noSpill_prepareK (p : Page) (row : List Val) : Spills (prepareK p row) [] :=
  spills_ite (spills_pure _) (spills_ite
    (((noSpill_reencodeRows _ _ _ _).after fun _ => spills_pure _).after fun _ => spills_pure _) (spills_pure _))

theorem noSpill_prepareV (p : Page) (row : List Val) : Spills (prepareV p row) [] :=
  spills_ite (spills_pure _) (spills_ite
    (((noSpill_reencodeRows _ _ _ _).after fun _ => spills_pure _).after fun _ => spills_pure _) (spills_pure _))

/-- A computation that has run apart leaves what it leaves. -/
theorem Spills.addAcc {α : Type} {c : FM α} {l : List (Nat × DWord)} (h : Spills c l) : Spills (addAcc (Machine.runFM c).2) l :=
  h.runFM ▸ spills_addAcc _

/-- A row that is stored in a staged page leaves no spill slots. -/
theorem noSpill_stageRow (p : Page) (k v : List Word) : Spills (stageRow p k v) [] := by
  unfold stageRow
  dsimp only
  refine Spills.after (Spills.addAcc ?_) fun _ => spills_pure _
  exact (noSpill_prepareK _ _).after fun _ => (noSpill_prepareV _ _).after fun _ => (noSpill_quantRow _ _ _).after fun _ =>
    (noSpill_quantRow _ _ _).after fun _ => spills_pure _

/-! ### Sums that spill (04 R114 to R126) -/

/-- What runs after a computation without spill slots leaves what it leaves on that one's result. -/
theorem runFM_bind_slots {α β : Type} {c : FM α} {f : α → FM β} {l : List (Nat × DWord)} (hc : Spills c [])
    (hf : Spills (f (runFM c).1) l) : (runFM (c >>= f)).2.slots = l := by
  have hrun : (runFM (c >>= f)).2 = (StateT.run (f (runFM c).1) (runFM c).2).2 := rfl
  rw [hrun, hf, hc.runFM, List.nil_append]

theorem spills_keepSlot {ns : NestSum} (h : ns.spill.isSome = true) (w : DWord) : Spills (keepSlot ns w) [(ns.slot, w)] := by
  unfold keepSlot
  rw [if_pos h]
  exact spills_modify fun _ => rfl

/-- In the chunked class the sum of one block stands in the slot. -/
theorem spills_combineBlocks_one {c : NumCtl} {ns : NestSum} (hc : c.chunked = true) (hs : ns.spill.isSome = true) (b : Word) :
    Spills (combineBlocks c ns [b]) [(ns.slot, toW64 b)] := by
  unfold combineBlocks
  simp only [hc, if_true, chunkedFold, List.foldlM_nil, pure_bind]
  exact Spills.after (noSpill_modify fun _ => rfl) fun _ => (spills_keepSlot hs _).bind fun _ => noSpill_w64To32 _ _

/-- The blocks that an attempt of a DISTANCE cell combines, for B entries of `entry` elements. -/
def distanceBlocks (c : NumCtl) (entry : Nat) (sh : Int) (a b : List Val) : FM (List Word) := do
  let ts ← (a.zip b).mapM (fun p => do
    let d ← addVal (scaleVal p.1 sh) (negVal (scaleVal p.2 sh))
    let d ← round32 c.strict d
    fmul c.strict d d)
  let leaves ← pairLeaves c (fadd c.strict) (fillEntry c entry 0#32 ts)
  (chunksOf (blockSize c) leaves.length leaves).mapM (blockSum c)

theorem noSpill_distanceBlocks (c : NumCtl) (entry : Nat) (sh : Int) (a b : List Val) : Spills (distanceBlocks c entry sh a b) [] :=
  (noSpill_mapM (fun _ => (noSpill_addVal _ _).after fun _ => (noSpill_round32 _ _).after fun _ => noSpill_fmul _ _ _) _).after
    fun _ => (noSpill_pairLeaves c (fun _ _ => noSpill_fadd _ _ _) _).after fun _ => noSpill_mapM (fun _ => noSpill_blockSum _ _) _

theorem distanceAttempt_eq {c : NumCtl} (hc : c.strict = false) (ns : NestSum) (sh : Int) (a b : List Val) :
    distanceAttempt c ns sh a b = distanceBlocks c ns.entry sh a b >>= combineBlocks c ns := by
  simp [distanceAttempt, distanceBlocks, sumTerms, sumLeaves, hc]

/-- A cell leaves the last slot of the attempt that it keeps. -/
theorem spills_repeatCell (c : NumCtl) (finite : Bool) (attempt : Nat → FM Word) :
    ∃ n < 3, Spills (repeatCell c finite attempt) (runFM (attempt n)).2.slots.getLast?.toList := by
  have hkept : ∀ {f : FM CellOut} (n : Nat), Spills f [] →
      Spills (addAcc (cellAcc (runFM (attempt n)).2) >>= fun _ => f) (runFM (attempt n)).2.slots.getLast?.toList := fun n hf => by
    have := (spills_addAcc (cellAcc (runFM (attempt n)).2)).bind fun _ => hf
    rwa [List.append_nil] at this
  have hrescaled : ∀ n w sh, Spills (do
      let w ← rescaleCell c w sh
      pure (⟨w.1, n, w.2⟩ : CellOut)) [] := fun n w sh => (noSpill_rescaleCell _ _ _).after fun _ => spills_pure _
  unfold repeatCell
  dsimp only
  split
  · exact ⟨0, by decide, hkept 0 (spills_pure _)⟩
  split
  · exact ⟨1, by decide, hkept 1 (hrescaled _ _ _)⟩
  split
  · exact ⟨2, by decide, hkept 2 (hrescaled _ _ _)⟩
  · refine ⟨2, by decide, hkept 2 ((spills_setFlag _).after fun _ => ?_)⟩
    split
    · exact (spills_setFlag _).after fun _ => spills_pure _
    · exact spills_pure _
    · exact spills_pure _

/-- So many spill slots, each with a word that is not zero. -/
def Filled (n : Nat) (l : List (Nat × DWord)) : Prop := l.length = n ∧ ∀ p ∈ l, p.2 ≠ 0#64

/-- A DISTANCE cell of one block, whose sum is not zero whichever attempt is kept, fills its slot. -/
theorem filled_cellDistance {c : NumCtl} {ns : NestSum} {a b : List Val} (hstrict : c.strict = false) (hchunked : c.chunked = true)
    (hs : ns.spill.isSome = true)
    (hblock : ∀ n < 3, ∃ w, (runFM (distanceBlocks c ns.entry (-(8 * n : Nat)) a b)).1 = [w] ∧ toW64 w ≠ 0#64) :
    ∃ l, Filled 1 l ∧ Spills (cellDistance c ns a b) l := by
  obtain ⟨n, hn, hcell⟩ := spills_repeatCell c (allFinite a && allFinite b) fun k => distanceAttempt c ns (-(8 * k : Nat)) a b
  obtain ⟨w, hw, hne⟩ := hblock n hn
  have hslots : (runFM (distanceAttempt c ns (-(8 * n : Nat)) a b)).2.slots = [(ns.slot, toW64 w)] := by
    rw [distanceAttempt_eq hstrict]
    refine runFM_bind_slots (noSpill_distanceBlocks _ _ _ _ _) ?_
    rw [hw]
    exact spills_combineBlocks_one hchunked hs w
  rw [hslots] at hcell
  exact ⟨_, ⟨rfl, List.forall_mem_singleton.2 hne⟩, hcell⟩

theorem spills_oneCell {cell : FM CellOut} {l : List (Nat × DWord)} (h : Spills cell l) : Spills (oneCell cell) l := by
  have hcells : Spills ([cell].mapM id) l := by
    rw [← List.flatMap_singleton (fun _ => l) cell]
    exact spills_mapM fun x hx => List.mem_singleton.1 hx ▸ h
  rw [← List.append_nil l]
  refine Spills.bind (l := l) ?_ fun _ => spills_pure _
  rw [← List.append_nil l]
  refine Spills.bind (l := l) ?_ fun _ => spills_pure _
  rw [← List.append_nil l]
  exact hcells.bind fun _ => (noSpill_tilesCount _ _).after fun _ => spills_pure _

/-! ### Staging (05 R155, 09 R245) -/

theorem noSpill_rsqrt (pf : Profile) (w : Word) : Spills (sfu pf .rsqrt w) [] := by
  unfold sfu
  dsimp only
  split
  · exact spills_ite ((spills_setFlag _).after fun _ => spills_pure _) (spills_pure _)
  · exact spills_ite ((spills_setFlag _).after fun _ => spills_pure _) (spills_pure _)
  · exact spills_ite (spills_pure _) (spills_ite ((spills_setFlag _).after fun _ => spills_pure _) (spills_pure _))

theorem spills_normRms {pf : Profile} {c : NumCtl} {ns : NestSum} {t : NormTable} {x : List Word} {l : List (Nat × DWord)}
    (h : Spills (cellDistance c ns (x.map (operand32 c.strict)) ((x.map (operand32 c.strict)).map fun _ => .fin false 0 0)) l) :
    Spills (normRms pf c ns t x) l := by
  unfold normRms
  rw [← List.append_nil l]
  refine (spills_oneCell h).bind fun ss => (noSpill_fmul _ _ _).after fun ms => (noSpill_fadd _ _ _).after fun me =>
    (noSpill_rsqrt _ _).after fun r => noSpill_mapM (fun p => (noSpill_fmul _ _ _).after fun _ => noSpill_fmul _ _ _) _

/-- Without rotation a row leaves what its normalization leaves. -/
theorem spills_stageOne {a : AppendCtl} {st pos : Nat} {k v : List Word} {l : List (Nat × DWord)} (hturn : a.turn.rotDims = 0)
    (h : Spills (normRow a.pf a.num (a.sum (pos - a.pos0)) a.norm k) l) (g : StreamStage) : Spills (stageOne a st g pos k v) l := by
  have hrotate : ∀ k, Spills (rotateRow a.pf a.num.strict a.turn pos k) [] := fun k => by
    unfold rotateRow
    rw [hturn]
    exact spills_pure _
  unfold stageOne
  rw [← List.append_nil l]
  exact h.bind fun _ => (hrotate _).after fun _ => (noSpill_stageRow _ _ _).after fun _ => spills_ite (spills_pure _) (spills_pure _)

/-- A fold whose every step fills one slot, whatever it starts from, fills one for each. -/
theorem filled_foldlM {α β : Type} {f : β → α → FM β} {xs : List α} (h : ∀ x ∈ xs, ∃ l, Filled 1 l ∧ ∀ b, Spills (f b x) l) :
    ∃ l, Filled xs.length l ∧ ∀ b, Spills (xs.foldlM f b) l := by
  induction xs with
  | nil => exact ⟨[], ⟨rfl, List.forall_mem_nil _⟩, fun b => spills_pure b⟩
  | cons x xs ih =>
    obtain ⟨hx, hxs⟩ := List.forall_mem_cons.1 h
    obtain ⟨l, ⟨hl, hlne⟩, hf⟩ := hx
    obtain ⟨m, ⟨hm, hmne⟩, hrest⟩ := ih hxs
    refine ⟨l ++ m, ⟨?_, List.forall_mem_append.2 ⟨hlne, hmne⟩⟩, fun b => ?_⟩
    · rw [List.length_append, List.length_cons, hl, hm, Nat.add_comm]
    · rw [List.foldlM_cons]
      exact (hf b).bind hrest

end Sys2Proof.Machine
end

section
/-! SUPPORT. Appends whose rows are read (09 R245, R251): the state after one, reads of whole pages of host memory, and the slots that the
staging of an entry fills. -/

namespace Sys2Proof.Machine

open Sys2Proof.Safety

/-! ### An append whose rows are read -/

/-- An append that need not yield, whose rows are read and whose frames and blocks are had, has staged its pages. -/
theorem State.appendItem_staged {s u : State} {j : Job} {k : Nat} {i : Item} {e : Entry} {hv : HostView} {ks vs : List Byte}
    {ps : List StagedPage} {acc : Acc} (he : j.entries[i.entry]? = some e) (hkind : j.kind = 0x10) (hy : s.yields i = false)
    (hks : readVirt hv i.trans (e.slot 0) (e.kvBytes (fmtOf (bits (j.word 9) 2 0)) (s.row (bits e.handle 13 0)).hd) = .ok ks)
    (hvs : readVirt hv i.trans (e.slot 1) (e.kvBytes (fmtOf (bits (j.word 9) 2 0)) (s.row (bits e.handle 13 0)).hd) = .ok vs)
    (hrun : runFM (s.stageEntry (s.appendCtl j i (bits e.handle 13 0) e) j i.entry (bits e.handle 13 0) e ks vs) = (ps, acc))
    (hacq : s.acquireAppend j k i e (bits e.handle 13 0) (reencoded ps) = (u, true)) :
    s.appendItem j k i hv = (u.took j.id k (s.stageCore j i e (bits e.handle 13 0)) acc).modItem j.id k (fun i =>
      { i.keep ps with st := .computed }) := by
  have hslots : j.kvSlots = (0, 1) := if_pos hkind
  unfold State.appendItem State.stageItem
  simp only [he, hslots, hy, hks, hvs, hrun, hacq, Bool.false_eq_true, if_false, if_true]

/-! ### Reads of whole pages -/

theorem Answer.join_const (n : Nat) (b : List Byte) : Answer.join (List.replicate n (.ok b)) = .ok (List.replicate n b).flatten := by
  induction n with
  | zero => rfl
  | succ n ih => simp only [List.replicate_succ, Answer.join, ih, List.flatten_cons]

theorem pagesOf_pages (m : Nat) : pagesOf 0 (4096 * m) = List.range m := by
  unfold pagesOf
  split
  next h =>
    obtain rfl : m = 0 := by omega
    rfl
  next h =>
    have hm : (4096 * m + 0 - 1) / 4096 - 0 / 4096 + 1 = m := by omega
    rw [hm]
    simp

/-- A read of the one segment that the host lists. -/
theorem readPhys_segment (bs : List Byte) : readPhys ⟨[(0, bs)], [], []⟩ 0 bs.length = .ok bs := by
  simp [readPhys, hostBytes]

/-- A read of pages that all lie in the first physical page, whose bytes are all the same, gives that byte. -/
theorem readVirt_const {hv : HostView} {t : Trans} {b : Byte} {m : Nat}
    (hpage : readPhys hv 0 4096 = .ok (List.replicate 4096 b)) (ht : ∀ p < m, t.phys (4096 * p) = 0) :
    readVirt hv t 0 (4096 * m) = .ok (List.replicate (m * 4096) b) := by
  have hpieces : (piecesOf 0 (4096 * m)).map (fun p => readPhys hv (t.phys (4096 * p.1 + p.2.1)) p.2.2) =
      List.replicate m (.ok (List.replicate 4096 b)) := by
    unfold piecesOf
    rw [pagesOf_pages, List.map_map]
    refine List.eq_replicate_iff.2 ⟨by simp, fun x hx => ?_⟩
    obtain ⟨p, hp, rfl⟩ := List.mem_map.1 hx
    have hp := List.mem_range.1 hp
    have hlo : max 0 (4096 * p) - 4096 * p = 0 := by omega
    have hlen : min (4096 * m + 0) (4096 + 4096 * p) - max 0 (4096 * p) = 4096 := by omega
    simp only [Function.comp_apply, hlo, hlen]
    rw [Nat.add_zero, ht p hp, hpage]
  unfold readVirt
  rw [hpieces, Answer.join_const, List.flatten_replicate_replicate]

theorem bytesAt_const {b : Byte} {m off n : Nat} (h : off + n ≤ m) : bytesAt (List.replicate m b) off n = List.replicate n b := by
  have hn : min n (m - off) = n := by omega
  simp [bytesAt, hn]

/-- The rows of one stream in a buffer all of whose bytes are the same. -/
theorem rowsOf_const {e : Entry} {b : Byte} {stride : Nat} {x : List Byte}
    (hx : x ∈ rowsOf (List.replicate (e.rows * stride) b) e e.first stride) : x = List.replicate stride b := by
  obtain ⟨r, hr, rfl⟩ := List.mem_map.1 hx
  refine bytesAt_const ?_
  have hrow : (r + 1) * stride ≤ e.rows * stride := Nat.mul_le_mul_right _ (List.mem_range.1 hr)
  simpa [Nat.succ_mul] using hrow

/-! ### Virtual pages that are one physical page -/

/-- Translations of `m` pages, all of which lie in the first physical page. -/
def onePage (m : Nat) : Trans := (List.range m).map (fun p => (p, 0))

theorem onePage_phys {m p : Nat} (hp : p < m) : (onePage m).phys (4096 * p) = 0 := by
  have hmem : (p, 0) ∈ onePage m := List.mem_map_of_mem (List.mem_range.2 hp)
  have hpage : 4096 * p / 4096 = p := by omega
  unfold Trans.phys
  rw [hpage]
  cases hfind : (onePage m).find? (fun q => q.1 = p) with
  | none => exact absurd (decide_eq_true rfl) (List.find?_eq_none.1 hfind _ hmem)
  | some q =>
    obtain ⟨n, -, rfl⟩ := List.mem_map.1 (List.mem_of_find?_eq_some hfind)
    dsimp only
    omega

/-- The needs of a read of whole pages are those pages. -/
theorem mem_needs_pages {m acc : Nat} {n : Need} (hn : n ∈ needs 0 (4096 * m) acc) : ∃ p ∈ onePage m, p.1 = n.page := by
  unfold needs at hn
  rw [pagesOf_pages] at hn
  obtain ⟨p, hp, rfl⟩ := List.mem_map.1 hn
  exact ⟨(p, 0), List.mem_map_of_mem hp, rfl⟩

/-! ### The staging of an entry -/

/-- An entry of one stream, without rotation, the normalization of whose K rows each fills a slot: its staging fills one for each row. -/
theorem filled_stageEntry {s : State} {a : AppendCtl} {j : Job} {n r : Nat} {e : Entry} {ks vs : List Byte} (hone : e.count = 1)
    (hturn : a.turn.rotDims = 0)
    (hrow : ∀ x ∈ rowsOf ks e e.first (rowStride a.fmt (s.row r).hd), ∀ i, ∃ l, Filled 1 l ∧
      Spills (normRow a.pf a.num (a.sum i) a.norm (rowWords a.num.strict a.fmt (s.row r).hd x)) l) :
    ∃ l, Filled e.rows l ∧ Spills (s.stageEntry a j n r e ks vs) l := by
  have hstreams : e.streams = [e.first] := by
    unfold Entry.streams
    rw [hone]
    simp
  obtain ⟨l, hl, hstage⟩ := filled_foldlM (f := fun g (p : (List Byte × List Byte) × Nat) =>
      stageOne a e.first g (a.pos0 + p.2) (rowWords a.num.strict a.fmt (s.row r).hd p.1.1) (rowWords a.num.strict a.fmt (s.row r).hd p.1.2))
    (xs := ((rowsOf ks e e.first (rowStride a.fmt (s.row r).hd)).zip (rowsOf vs e e.first (rowStride a.fmt (s.row r).hd))).zipIdx)
    fun p hp => by
      obtain ⟨l, hl, hnorm⟩ := hrow p.1.1 (List.of_mem_zip (List.fst_mem_of_mem_zipIdx hp)).1 p.2
      refine ⟨l, hl, spills_stageOne hturn ?_⟩
      rwa [Nat.add_sub_cancel_left]
  have hlen : (((rowsOf ks e e.first (rowStride a.fmt (s.row r).hd)).zip
      (rowsOf vs e e.first (rowStride a.fmt (s.row r).hd))).zipIdx).length = e.rows := by simp [rowsOf]
  rw [hlen] at hl
  refine ⟨l, hl, ?_⟩
  unfold State.stageEntry
  rw [hstreams, ← List.append_nil l]
  refine Spills.bind (l := l) ?_ fun _ => spills_pure _
  rw [← List.flatMap_singleton (fun _ => l) e.first]
  refine spills_mapM fun st hst => ?_
  rw [List.mem_singleton.1 hst, ← List.append_nil l]
  exact (hstage _).bind fun _ => spills_pure _

end Sys2Proof.Machine
end

section
/-! SUPPORT. An append of more than 2^28 rows, the normalization of each of which spills its sum: wherever the scheduler places the first
slots (log entry 30), some of them lie in the wide reduction buffers. The statement on appends. -/

namespace Sys2Proof.Machine

open Sys2Proof.Safety

/-! ### The scenario -/

/-- So many rows that, with one slot each, some slot lies in the wide reduction buffers, wherever the filled nests place the first ones;
their bytes are whole pages. -/
def manyRows : Nat := 2 ^ 28 + 64

/-- A QK-norm table of KIND 1: DIM 64, EPS 1.0 (05 R153). -/
def rmsTable : TableDef :=
  { kind := 1, num := 0, size := 272, bands := 1, base0 := 0, base1 := 512, copy0 := [1#8, 0#8, 64#8, 0#8, 0#8, 0#8, 0x80#8, 0x3F#8] }

/-- A context of one element a row, whose K rows are normalized. -/
def manyCtx : CtxRow := { state := 1, group := 1, hd := 1, tspan := manyRows, turn := 255, qn := 255, kn := 0 }

/-- The append of the rows to stream 0, K and V at address 0. -/
def manyEntry : Entry := { handle := 0, first := 0, count := 1, slots := [], rows := manyRows, pos0 := 0, klen := 0, kspan := 0 }

/-- The pages of the rows, as K and as V. -/
def manyPages : Nat := 2 ^ 22 + 1

/-- The entry's item; a run that was stopped has left it the frame of page 0. -/
def manyItem : Item :=
  { tile := 0, entry := 0, st := .running, trans := onePage manyPages, bind := { ctx := manyCtx }
    acq := [{ stream := 0, page := 0, frame := 0, use := .fresh }] }

def manyJob : Job := { id := 0, ring := 0, seq := 0, desc := [0x10], entries := [manyEntry], items := [manyItem] }

/-- The selection table names a template of SPILL = 1b for the sums of the normalization, and for no other stage. -/
def manyState : State :=
  { State.reset with
    cfg := { State.reset.cfg with
      mode := .ready, nests := [spillNest], selects := [⟨0x10, 2, 20, 20, 1, manyRows, 0, 0⟩], tables := [rmsTable] }
    sched := { State.reset.sched with jobs := [manyJob], nextJob := 1 }
    store := { State.reset.store with rows := [(0, manyCtx)] } }

/-- The first physical page of the host's memory, all of whose bytes are 3Fh. -/
def manyHost : HostView := ⟨[(0, List.replicate 4096 0x3F#8)], [], []⟩

/-- How the append reads its rows. -/
def manyAppend : AppendCtl := manyState.appendCtl manyJob manyItem 0 manyEntry

/-- The bytes of the rows. -/
def manyBytes : List Byte := List.replicate (manyPages * 4096) 0x3F#8

/-! ### The item is one that appends -/

theorem many_bytes : manyEntry.kvBytes (fmtOf (bits (manyJob.word 9) 2 0)) (manyState.row 0).hd = 4096 * manyPages := by decide +kernel

theorem many_page : readPhys manyHost 0 4096 = .ok (List.replicate 4096 0x3F#8) := by
  have hread := readPhys_segment (List.replicate 4096 0x3F#8)
  rwa [List.length_replicate] at hread

theorem many_trans : manyItem.trans = onePage manyPages := by simp only [manyItem]

/-- K and V stand at the same address. -/
theorem many_read : readVirt manyHost manyItem.trans 0 (manyEntry.kvBytes (fmtOf (bits (manyJob.word 9) 2 0)) (manyState.row 0).hd) =
    .ok manyBytes := by
  rw [many_bytes, many_trans]
  exact readVirt_const many_page fun _ => onePage_phys

theorem many_needs : manyState.needsOf manyJob 0 manyItem =
    runNeeds [(0, manyEntry.kvBytes (fmtOf (bits (manyJob.word 9) 2 0)) (manyState.row 0).hd),
      (0, manyEntry.kvBytes (fmtOf (bits (manyJob.word 9) 2 0)) (manyState.row 0).hd)] 0 ++ [] := by
  rfl

theorem many_runs : Runs manyState 0 0 0x10 manyJob manyItem := by
  refine ⟨rfl, rfl, rfl, rfl, rfl, rfl, by decide +kernel, fun n hn => ?_⟩
  rw [many_needs, many_bytes, List.append_nil] at hn
  obtain ⟨run, hrun, hn⟩ := List.mem_flatMap.1 hn
  have hrun : run = (0, 4096 * manyPages) := by simpa using hrun
  rw [hrun] at hn
  rw [many_trans]
  exact mem_needs_pages hn

theorem many_yields : manyState.yields manyItem = false := by decide +kernel

/-- The item holds the one frame that it needs. -/
theorem many_acquired (again : Nat → Bool) : manyState.acquireAppend manyJob 0 manyItem manyEntry 0 again = (manyState, true) := by rfl

/-! ### Each row spills its sum of squares -/

theorem many_select : manyState.selectNest ⟨0x10, 2, 20, 20, 1, manyRows, 0⟩ = some spillNest := by decide +kernel

theorem spillNest_fill_header (facts : List Nat) : (spillNest.fill facts).word 0 = 0x800 := by rfl

theorem State.sumOf_spillNest {s : State} {u : NestUse} (h : s.selectNest u.key = some spillNest) :
    (s.sumOf u).spill = some 1 ∧ (s.sumOf u).entry = (entryShape u.key.fmtB).1 := by
  unfold State.sumOf State.filled
  simp only [h, Option.map_some, spillNest_fill_header]
  exact ⟨by decide, trivial⟩

theorem many_sum (row : Nat) : (manyAppend.sum row).spill = some 1 ∧ (manyAppend.sum row).entry = 8 :=
  State.sumOf_spillNest (u := manyJob.useOf manyEntry manyItem row ⟨0x10, 2, 20, 20, 1, manyRows, 0⟩) many_select

theorem many_words : rowWords manyAppend.num.strict manyAppend.fmt 1 (List.replicate 64 0x3F#8) = [0x3F3F0000#32] := by decide +kernel

theorem many_num : manyAppend.num.strict = false ∧ manyAppend.num.chunked = true := by decide +kernel

theorem many_norm : manyAppend.norm.kind = 1 := by decide +kernel

theorem many_turn : manyAppend.turn.rotDims = 0 := by decide +kernel

/-- The one value of each row of K. -/
def manyVals : List Val := [0x3F3F0000#32].map (operand32 manyAppend.num.strict)

/-- The blocks of attempt `n` at a row's sum of squares. -/
def manyBlocks (n : Nat) : List Word :=
  (runFM (distanceBlocks manyAppend.num 8 (-(8 * n : Nat)) manyVals (manyVals.map fun _ => .fin false 0 0))).1

/-- Each attempt has one block, which is not zero: it may scale the value, never to zero. -/
theorem many_block : ∀ n < 3, manyBlocks n = [(manyBlocks n).headD 0#32] ∧ toW64 ((manyBlocks n).headD 0#32) ≠ 0#64 := by
  decide +kernel

theorem many_normRow (row : Nat) : ∃ l, Filled 1 l ∧ Spills (normRow manyAppend.pf manyAppend.num (manyAppend.sum row) manyAppend.norm
    [0x3F3F0000#32]) l := by
  obtain ⟨hspill, hentry⟩ := many_sum row
  obtain ⟨l, hl, hcell⟩ := filled_cellDistance (c := manyAppend.num) (ns := manyAppend.sum row) (a := manyVals) many_num.1
    many_num.2 (by rw [hspill]; rfl) fun n hn => ⟨(manyBlocks n).headD 0#32, by rw [hentry]; exact many_block n hn⟩
  unfold normRow
  rw [if_pos many_norm]
  exact ⟨l, hl, spills_normRms hcell⟩

theorem many_hd : (manyState.row 0).hd = 1 := rfl

theorem many_stride : rowStride manyAppend.fmt (manyState.row 0).hd = 64 := by decide +kernel

theorem many_rowBytes : manyBytes = List.replicate (manyEntry.rows * 64) 0x3F#8 :=
  congrArg (fun n => List.replicate n 0x3F#8) (by decide +kernel : manyPages * 4096 = manyEntry.rows * 64)

/-! ### The append -/

/-- The staging of the rows fills a slot for each. -/
theorem many_staged : ∃ ps acc, runFM (manyState.stageEntry manyAppend manyJob 0 0 manyEntry manyBytes manyBytes) = (ps, acc) ∧
    Filled manyEntry.rows acc.slots := by
  obtain ⟨l, hl, hstage⟩ := filled_stageEntry (s := manyState) (a := manyAppend) (j := manyJob) (n := 0) (r := 0) (e := manyEntry)
    (ks := manyBytes) (vs := manyBytes) rfl many_turn fun x hx i => by
      rw [many_stride, many_rowBytes] at hx
      rw [rowsOf_const hx, many_hd, many_words]
      exact many_normRow i
  refine ⟨_, _, Prod.mk.eta.symm, ?_⟩
  rw [hstage.runFM]
  exact hl

/-- Refutes O41: the sums of a normalization that spills stand in the wide reduction buffers after the append, which are part of the store
(04 R121, 08 R214), so the store is not the one that the frames and blocks were taken from. -/
theorem not_appendStagesItsPages : ¬ Obligations.AppendStagesItsPages := by
  intro h
  obtain ⟨ps, acc, hrun, hlen, hne⟩ := many_staged
  obtain ⟨-, hstage, -⟩ := h manyState 0 0 manyJob manyItem manyEntry manyHost rfl many_runs
  obtain ⟨t, hnext, -, hstore, -⟩ := hstage manyBytes manyBytes ps acc manyState many_yields many_read many_read hrun (many_acquired _)
  have hstep := next_onItem (id := 0) (f := fun s j i => s.appendItem j 0 i manyHost) many_runs
    (State.appendItem_staged rfl rfl many_yields many_read many_read hrun (many_acquired _))
  have hsame := next_inj (hnext.symm.trans hstep) ▸ hstore
  refine State.took_wide (s := manyState) (id := 0) (k := 0) (x := manyItem) rfl hne ?_ (congrArg Store.wide hsame)
  rw [hlen]
  decide

end Sys2Proof.Machine
end

section
/-! SUPPORT. OPEN and CLOSE; the checks of FORK, PARK, UNPARK and TRUNCATE (10 R272 to R285). The statements on contexts. -/

namespace Sys2Proof.Machine

open Sys2Proof.Safety

/-! ### What every operation keeps -/

theorem Keeps.samePart {s t : State} (h : Keeps s t) : SamePart s t :=
  ⟨congrArg Still.part h.still, congrArg Still.stepping h.still, congrArg Still.fuses h.still, congrArg Still.pending h.still⟩

theorem Keeps.sameSeals {s t : State} (h : Keeps s t) : SameSeals s t :=
  ⟨congrArg Still.seals h.still, congrArg Still.lcState h.still, congrArg Still.wiped h.still, congrArg Still.tamperSeen h.still,
    congrArg Still.wipeCount h.still⟩

/-! ### Jobs that end -/

/-- A command that ends the job of an item that runs. -/
theorem ended_onItem {s : State} {id kind status r0 : Nat} {j : Job} {i : Item} {f : State → Job → Item → State}
    (h : Runs s id 0 kind j i) (hf : f s j i = s.endJob j.id status r0) :
    ∃ t : State, (.next (s.onItem id 0 kind f) : Out) = .next t ∧ Ended s t id status r0 := by
  obtain rfl := State.job_id h.1
  exact ⟨_, next_onItem h hf, State.endJob_ended h status r0⟩

theorem writesLeft_of_runs {s : State} {id k kind : Nat} {j : Job} {i : Item} (h : Runs s id k kind j i) : i.writesLeft = 0 := by
  obtain ⟨-, -, -, -, -, hleft, -⟩ := h
  exact hleft

/-- The job and its item as `endJob` leaves them. -/
theorem State.endJob_result {s : State} {id : Nat} {i : Item} (h : s.item id 0 = some i) (status r0 : Nat) :
    ∃ x, (s.endJob id status r0).job id = some x ∧ x.r0 = r0 ∧ (s.endJob id status r0).item id 0 = some (i.ends status) := by
  obtain ⟨j, hj, -⟩ := Option.bind_eq_some_iff.1 h
  have hid : (j.modItem 0 (Item.ends status)).id = id := (State.job_id hj : j.id = id)
  refine ⟨(j.modItem 0 (Item.ends status)).endsWith r0, ?_, rfl, ?_⟩
  · rw [State.endJob_job, hj, Option.map_some, if_pos (State.job_id hj), Option.map_some, if_pos hid]
  · exact (State.modJob_item (s.modItem id 0 (Item.ends status)) id (f := Job.endsWith r0) (fun _ => rfl) (fun _ => rfl) id 0).trans
      (State.modItem_item h _)

/-! ### Changes reported to the twin (15 R419) -/

/-- A job that waits for the acknowledgement of one group more. -/
def Job.joins (g : GroupId) (j : Job) : Job := if !j.groups.contains g then { j with groups := j.groups ++ [g] } else j

theorem Job.joins_id (g : GroupId) (j : Job) : (j.joins g).id = j.id := by
  unfold Job.joins
  split <;> rfl

theorem Job.joins_items (g : GroupId) (j : Job) : (j.joins g).items = j.items := by
  unfold Job.joins
  split <;> rfl

/-- A report to the twin sends nothing, or deltas of a group that the job joins. -/
theorem State.sendPart_cases (s : State) (bases : List Base) (before : Store) (g : GroupId) (id : Nat) :
    s.sendPart bases before g id = s ∨ ∃ l, s.sendPart bases before g id = (s.ledgerSend l).modJob id (Job.joins g) := by
  have hjoin : ∀ j : Job, (if j.id = id ∧ !j.groups.contains g then { j with groups := j.groups ++ [g] } else j) =
      if j.id = id then j.joins g else j := fun j => ite_and _ _ _ _
  unfold State.sendPart
  cases s.deltasSince bases before with
  | nil => exact .inl rfl
  | cons d ds =>
    refine .inr ⟨(d :: ds).map (TwinMsg.delta g), ?_⟩
    simp only [hjoin]
    rfl

/-- What the end of a job and its report to the twin leave as it was: tables and frames, configuration, cores, host port, test access. -/
structure OnlyReported (s t : State) : Prop where
  store : t.store = s.store
  cfg : t.cfg = s.cfg
  cores : t.cores = s.cores
  host : t.host = s.host
  test : t.test = s.test

theorem OnlyReported.trans {s t u : State} (h : OnlyReported s t) (k : OnlyReported t u) : OnlyReported s u :=
  ⟨k.store.trans h.store, k.cfg.trans h.cfg, k.cores.trans h.cores, k.host.trans h.host, k.test.trans h.test⟩

theorem OnlyReported.row {s t : State} (h : OnlyReported s t) (r : Nat) : t.row r = s.row r := by
  unfold State.row
  rw [h.store]

theorem OnlyReported.handle {s t : State} (h : OnlyReported s t) (r : Nat) : t.handle r = s.handle r := by
  unfold State.handle
  rw [h.row]

theorem State.endJob_reported (s : State) (id status r0 : Nat) : OnlyReported s (s.endJob id status r0) := ⟨rfl, rfl, rfl, rfl, rfl⟩

theorem State.sendPart_reported (s : State) (bases : List Base) (before : Store) (g : GroupId) (id : Nat) :
    OnlyReported s (s.sendPart bases before g id) := by
  obtain h | ⟨l, h⟩ := State.sendPart_cases s bases before g id
  all_goals
    rw [h]
    exact ⟨rfl, rfl, rfl, rfl, rfl⟩

theorem State.sendPart_item (s : State) (bases : List Base) (before : Store) (g : GroupId) (id q k : Nat) :
    (s.sendPart bases before g id).item q k = s.item q k := by
  obtain h | ⟨l, h⟩ := State.sendPart_cases s bases before g id
  · rw [h]
  · rw [h, State.modJob_item _ _ (Job.joins_id g) (Job.joins_items g)]
    rfl

/-! ### OPEN (10 R273 to R275) -/

theorem State.setDirs_frame {α : Type} (r : Nat) (stream : α → Nat) (d : α → DirEntry) (l : List α) (s : State) :
    ∃ dir, l.foldl (fun s a => s.setDir r (stream a) (d a)) s = { s with store := { s.store with dir := dir } } := by
  induction l generalizing s with
  | nil => exact ⟨_, rfl⟩
  | cons a l ih => exact ih (s.setDir r (stream a) (d a))

/-- The state with a context opened at row `r`, before the report to the twin. -/
def State.opened (s : State) (j : Job) (r : Nat) (dir : Tab DirEntry) : State :=
  let s := s.setRow r (j.openRow r (s.row r).gen)
  { s with store := { s.store with dir := dir } }

/-- An OPEN writes its row and directory entries, and reports them. -/
theorem State.openAt_reports (s : State) (j : Job) (r : Nat) (ws : List Nat) : ∃ dir,
    s.openAt j r ws = (s.opened j r dir).sendPart [] s.store (j.group ((s.opened j r dir).handle r)) j.id := by
  obtain ⟨dir, hdir⟩ := State.setDirs_frame r (fun p : Nat × Nat => p.2)
    (fun p => { layer := (streamEntry p.1).1, kvHead := (streamEntry p.1).2.1, bias := (streamEntry p.1).2.2, valid := true })
    ws.zipIdx (s.setRow r (j.openRow r (s.row r).gen))
  refine ⟨dir, ?_⟩
  unfold State.openAt
  dsimp only at hdir ⊢
  rw [hdir]
  rfl

theorem State.openAt_item (s : State) (j : Job) (r : Nat) (ws : List Nat) (q k : Nat) : (s.openAt j r ws).item q k = s.item q k := by
  obtain ⟨dir, h⟩ := State.openAt_reports s j r ws
  rw [h, State.sendPart_item]
  rfl

theorem State.openAt_reported (s : State) (j : Job) (r : Nat) (ws : List Nat) :
    ∃ dir, OnlyReported (s.opened j r dir) (s.openAt j r ws) := by
  obtain ⟨dir, h⟩ := State.openAt_reports s j r ws
  exact ⟨dir, h ▸ State.sendPart_reported _ _ _ _ _⟩

section
variable {s : State} {j : Job} {i : Item} {hv : HostView}

theorem State.openJob_unread {e : Nat} (h : readVirt hv i.trans (j.dword 9) (4 * bits (j.word 5) 8 0) = .fail e) :
    s.openJob j i hv = s.endJob j.id e 0 := by
  unfold State.openJob
  simp only [h]

variable {bs : List Byte} (hread : readVirt hv i.trans (j.dword 9) (4 * bits (j.word 5) 8 0) = .ok bs)
include hread

theorem State.openJob_invalid (h : s.openListOk j (wordsOf bs (bits (j.word 5) 8 0)) = false) :
    s.openJob j i hv = s.endJob j.id 0x30 0 := by
  unfold State.openJob
  simp only [hread, h, Bool.not_false, if_true]
  rfl

variable (hlist : s.openListOk j (wordsOf bs (bits (j.word 5) 8 0)) = true)
include hlist

theorem State.openJob_full (h : s.lowestRows 1 = []) : s.openJob j i hv = s.endJob j.id 0x10 0 := by
  unfold State.openJob
  simp only [hread, hlist, h, Bool.not_true, Bool.false_eq_true, if_false]
  rfl

theorem State.openJob_opens {r : Nat} (h : s.lowestRows 1 = [r]) :
    s.openJob j i hv = (s.openAt j r (wordsOf bs (bits (j.word 5) 8 0))).endJob j.id 0
      ((s.openAt j r (wordsOf bs (bits (j.word 5) 8 0))).handle r) := by
  unfold State.openJob
  simp only [hread, hlist, h, Bool.not_true, Bool.false_eq_true, if_false]
  rfl

end

/-! ### CLOSE (10 R276) -/

section
variable {s : State} {j : Job} {r : Nat}

theorem State.closeJob_stale (h : s.live? (j.word 4) = none) : s.closeJob j = s.endJob j.id 0x11 0 := by
  unfold State.closeJob
  simp only [h]
  rfl

variable (h : s.live? (j.word 4) = some r)
include h

theorem State.closeJob_barred (hst : (s.row r).state = 2 ∨ (s.row r).state = 3) : s.closeJob j = s.endJob j.id 0x11 0 := by
  unfold State.closeJob
  simp only [h, if_pos hst]
  rfl

theorem State.closeJob_closes (h2 : (s.row r).state ≠ 2) (h3 : (s.row r).state ≠ 3) :
    s.closeJob j = ((s.closeContext r).sendPart [] s.store (j.group (j.word 4)) j.id).endJob j.id 0 0 := by
  unfold State.closeJob
  simp only [h, h2, h3, or_self, if_false]
  rfl

end

/-- Settles O39: OPEN and CLOSE by their equations; of an OPEN that succeeds, what it writes and the report of it. -/
theorem contextsOpenAndClose : Obligations.ContextsOpenAndClose := by
  intro s id j i hv
  refine ⟨fun h => ⟨fun e he => ?_, fun bs hbs => ⟨fun hbad => ?_, fun hok hfull => ?_, fun r hok hrow htab => ?_⟩⟩,
    fun h => ⟨fun hstale => ?_, fun r hr => ⟨fun hst => ?_, fun h2 h3 => ?_⟩⟩⟩
  · exact ended_onItem h (State.openJob_unread he)
  · exact ended_onItem h (State.openJob_invalid hbs hbad)
  · exact ended_onItem h (State.openJob_full hbs hok hfull)
  · obtain rfl := State.job_id h.1
    have hexec : exec (.openCtx j.id hv) s = _ := next_onItem h (State.openJob_opens hbs hok hrow)
    generalize wordsOf bs (bits (j.word 5) 8 0) = ws at hexec
    refine ⟨_, hexec, ?_⟩
    have hitem := (State.openAt_item s j r ws j.id 0).trans h.2.1
    obtain ⟨dir, hopen⟩ := State.openAt_reported s j r ws
    have hkeeps := State.openAt_keeps (Keeps.refl s) j r ws
    generalize s.openAt j r ws = u at hopen hitem hkeeps ⊢
    obtain ⟨x, hx, hr0, hy⟩ := State.endJob_result hitem 0 (u.handle r)
    have hend := State.endJob_reported u j.id 0 (u.handle r)
    have hrep := hopen.trans hend
    replace hkeeps := State.endJob_keeps hkeeps j.id 0 (u.handle r)
    exact ⟨(hrep.row r).trans (State.setRow_row htab r _), fun q hq => (hrep.row q).trans (State.setRow_row_ne htab _ hq),
      ⟨x, i.ends 0, hx, hr0.trans (hend.handle r).symm, hy, rfl, rfl⟩,
      (congrArg Store.map hrep.store).trans rfl, (congrArg Store.frames hrep.store).trans rfl, (congrArg Store.nodes hrep.store).trans rfl,
      hrep.cfg, hrep.cores, hrep.host, hrep.test, hkeeps.samePart, hkeeps.sameSeals⟩
  · exact ended_onItem h (State.closeJob_stale hstale)
  · exact ended_onItem h (State.closeJob_barred hr hst)
  · obtain rfl := State.job_id h.1
    exact next_onItem h (State.closeJob_closes hr h2 h3)

/-! ### FORK (10 R277, R278) -/

section
variable {s u : State} {j : Job} {i : Item} {r : Nat}

theorem State.forkJob_barred (h : s.live? (j.word 4) = none ∨ ∃ r, s.live? (j.word 4) = some r ∧ (s.row r).state ≠ 1) (bind : Bool) :
    s.forkJob j i bind = s.endJob j.id 0x11 0 := by
  unfold State.forkJob
  obtain h | ⟨r, h, hst⟩ := h
  · simp only [h]
    rfl
  · simp only [h, if_pos hst]
    rfl

/-- A FORK whose parent's pages are all resident goes on when it is told to bind. -/
theorem State.forkJob_resident {f : Found} (h : s.live? (j.word 4) = some r) (hst : (s.row r).state = 1)
    (hf : s.findPages r i (s.allPages r) = (f, u)) (hwait : f.wait = false) (hcold : f.cold = []) (bind : Bool) :
    s.forkJob j i bind =
      if bind then (u.forkRefusal j).elim (u.forkBind j i r) (fun st => u.endJob j.id st 0) else u := by
  unfold State.forkJob
  simp only [h, hst, hf, hwait, hcold, ne_eq, not_true_eq_false, Bool.false_eq_true, if_false]
  cases bind with
  | false => rfl
  | true => cases u.forkRefusal j <;> rfl

end

/-! ### PARK (10 R284) -/

section
variable {s : State} {j : Job} {i : Item} (hidle : i.writesLeft = 0)
include hidle

theorem State.parkJob_barred (h : s.live? (j.word 4) = none ∨ ∃ r, s.live? (j.word 4) = some r ∧ (s.row r).state ≠ 1) :
    s.parkJob j i = s.endJob j.id 0x11 0 := by
  unfold State.parkJob
  rw [if_neg (not_not_intro hidle)]
  obtain h | ⟨r, h, hst⟩ := h
  · simp only [h]
    rfl
  · simp only [h, if_pos hst]
    rfl

variable {r : Nat} (h : s.live? (j.word 4) = some r) (hst : (s.row r).state = 1)
include h hst

theorem State.parkJob_full (hslot : s.freeSlot = none) : s.parkJob j i = s.endJob j.id 0x10 0 := by
  unfold State.parkJob
  rw [if_neg (not_not_intro hidle)]
  simp only [h, if_neg (not_not_intro hst), hslot]
  rfl

theorem State.parkJob_parks {n : Nat} (hslot : s.freeSlot = some n) : s.parkJob j i = s.parkAt j i r n := by
  unfold State.parkJob
  rw [if_neg (not_not_intro hidle)]
  simp only [h, if_neg (not_not_intro hst), hslot]

end

/-! ### UNPARK (10 R285) -/

section
variable {s : State} {j : Job} {i : Item} {hv : HostView} (hidle : i.writesLeft = 0) (hok : i.writeStatus = 0) (hclaim : j.claim = [])
include hidle hok hclaim

theorem State.unparkJob_unread {e : Nat} (h : readVirt hv i.trans (j.dword 4) 2368 = .fail e) :
    s.unparkJob j i hv = s.endJob j.id e 0 := by
  unfold State.unparkJob
  rw [if_neg (not_not_intro hidle), if_neg (not_not_intro hok)]
  simp only [hclaim, h]

variable {b : List Byte} (h : readVirt hv i.trans (j.dword 4) 2368 = .ok b)
include h

theorem State.unparkJob_damaged (hcrc : fieldAt b 2312 4 ≠ (crc32c (b.take 2312)).toNat) :
    s.unparkJob j i hv = s.endJob j.id 0x30 0 := by
  unfold State.unparkJob
  rw [if_neg (not_not_intro hidle), if_neg (not_not_intro hok)]
  simp only [hclaim, h, if_pos (Or.inl hcrc)]
  rfl

theorem State.unparkJob_goes {r : Nat} (hcrc : fieldAt b 2312 4 = (crc32c (b.take 2312)).toNat)
    (hslot : (s.slotAt (fieldAt b 2304 2)).crc = fieldAt b 2312 4) (hvalid : (s.slotAt (fieldAt b 2304 2)).valid = true)
    (hgen : (s.slotAt (fieldAt b 2304 2)).gen = fieldAt b 2306 2) (hrow : s.unparkRow b = some r) :
    s.unparkJob j i hv = s.unparkGo j b r hv := by
  unfold State.unparkJob
  rw [if_neg (not_not_intro hidle), if_neg (not_not_intro hok)]
  simp [hclaim, h, ← hcrc, hslot, hvalid, hgen, hrow]

end

/-! ### TRUNCATE (10 R272, R281) -/

section
variable {s : State} {j : Job} {i : Item} {hv : HostView}

theorem State.truncateJob_barred
    (h : s.live? (j.word 4) = none ∨ ∃ r, s.live? (j.word 4) = some r ∧ (s.row r).state ≠ 1 ∧ (s.row r).state ≠ 4) :
    s.truncateJob j i hv = s.endJob j.id 0x11 0 := by
  unfold State.truncateJob
  obtain h | ⟨r, h, h1, h4⟩ := h
  · simp only [h]
    rfl
  · simp only [h, h1, h4, if_false]
    rfl

variable {r : Nat} (h : s.live? (j.word 4) = some r)
include h

theorem State.truncateJob_aboveLost (hst : (s.row r).state = 4) (hlost : (s.row r).lostPage * (s.row r).tspan < j.word 5) :
    s.truncateJob j i hv = s.endJob j.id 0x50 0 := by
  unfold State.truncateJob
  simp only [h, hst, OfNat.ofNat_ne_one, if_false, if_true, if_neg (Nat.not_le.2 hlost)]
  rfl

theorem State.truncateJob_cuts
    (hst : (s.row r).state = 1 ∨ ((s.row r).state = 4 ∧ j.word 5 ≤ (s.row r).lostPage * (s.row r).tspan)) :
    s.truncateJob j i hv = s.cutJob j i r (j.word 5) hv := by
  unfold State.truncateJob
  obtain hst | ⟨hst, hlost⟩ := hst
  · simp only [h, hst, if_true]
  · simp only [h, hst, OfNat.ofNat_ne_one, if_false, if_true, if_pos hlost]

end

/-- Settles O40: each job by its equation for a context that bars it, and for one that lets it go on. -/
theorem contextJobsCheckState : Obligations.ContextJobsCheckState := by
  intro s id j i hv
  refine ⟨fun h => ⟨fun hbar => ⟨?_, ?_⟩, fun r f u hr hst hf hwait hcold => ⟨?_, fun st hno => ?_, fun hyes => ?_⟩⟩,
    fun h => ⟨fun hbar => ?_, fun r hr hst => ⟨fun hslot => ?_, fun n hslot => ?_⟩⟩,
    fun h hok hclaim => ⟨fun e he => ?_, fun b hb => ⟨fun hcrc => ?_, fun r hcrc hslot hvalid hgen hrow => ?_⟩⟩,
    fun h => ⟨fun hbar => ?_, fun r hr => ⟨fun hst hlost => ?_, fun hst => ?_⟩⟩⟩
  · exact ended_onItem h (State.forkJob_barred hbar false)
  · exact ended_onItem h (State.forkJob_barred hbar true)
  · exact next_onItem h (State.forkJob_resident hr hst hf hwait hcold false)
  · obtain rfl := State.job_id h.1
    refine next_onItem h ((State.forkJob_resident hr hst hf hwait hcold true).trans ?_)
    rw [hno]
    rfl
  · refine next_onItem h ((State.forkJob_resident hr hst hf hwait hcold true).trans ?_)
    rw [hyes]
    rfl
  · exact ended_onItem h (State.parkJob_barred (writesLeft_of_runs h) hbar)
  · exact ended_onItem h (State.parkJob_full (writesLeft_of_runs h) hr hst hslot)
  · exact next_onItem h (State.parkJob_parks (writesLeft_of_runs h) hr hst hslot)
  · exact ended_onItem h (State.unparkJob_unread (writesLeft_of_runs h) hok hclaim he)
  · exact ended_onItem h (State.unparkJob_damaged (writesLeft_of_runs h) hok hclaim hb hcrc)
  · exact next_onItem h (State.unparkJob_goes (writesLeft_of_runs h) hok hclaim hb hcrc hslot hvalid hgen hrow)
  · exact ended_onItem h (State.truncateJob_barred hbar)
  · exact ended_onItem h (State.truncateJob_aboveLost hr hst hlost)
  · exact next_onItem h (State.truncateJob_cuts hr hst)

end Sys2Proof.Machine
end

section
/-! SUPPORT. The turn of a tree operation; PREFIX_LOOKUP, PREFIX_PUBLISH and PREFIX_DROP (10 R289, R293 to R296). The statement on
prefixes. -/

namespace Sys2Proof.Machine

open Sys2Proof.Safety

/-! ### The turn (10 R296) -/

/-- A tree operation that has begun. -/
def Job.begins (j : Job) : Job := { j with begun := true }

theorem State.modJob_job_ne (s : State) {id q : Nat} (hq : q ≠ id) {f : Job → Job} (hf : ∀ j, (f j).id = j.id) :
    (s.modJob id f).job q = s.job q := by
  rw [State.modJob_job s id hf]
  cases h : s.job q with
  | none => rfl
  | some j => simp only [Option.map_some, State.job_id h, hq, if_false]

section
variable {s t : State} {id kind : Nat} {j : Job} {i : Item}

theorem runs_begins (h : Runs s id 0 kind j i) : Runs (s.modJob id Job.begins) id 0 kind j.begins i := by
  obtain ⟨hj, hi, hrest⟩ := h
  refine ⟨?_, ?_, hrest⟩
  · rw [State.modJob_job s id (f := Job.begins) (fun _ => rfl), hj, Option.map_some, if_pos (State.job_id hj)]
  · rw [State.modJob_item s id (f := Job.begins) (fun _ => rfl) (fun _ => rfl), hi]

/-- To have begun is no change of another job, and none outside the job list. -/
theorem ended_of_begins {status r0 : Nat} (h : Ended (s.modJob id Job.begins) t id status r0) : Ended s t id status r0 := by
  obtain ⟨hframe, hend, hothers⟩ := h
  exact ⟨hframe, hend, fun q hq => (hothers q hq).trans (State.modJob_job_ne s hq fun _ => rfl)⟩

variable {f : State → Job → Item → State}

theorem next_waits (h : Runs s id 0 kind j i) (ht : s.treeTurn j = false) :
    (.next (s.onItem id 0 kind fun s j i => s.inTurn j fun s => f s j i) : Out) = .next s := by
  refine next_onItem h ?_
  unfold State.inTurn
  rw [ht]
  rfl

theorem next_inTurn (h : Runs s id 0 kind j i) (ht : s.treeTurn j = true) (hf : f (s.modJob id Job.begins) j i = t) :
    (.next (s.onItem id 0 kind fun s j i => s.inTurn j fun s => f s j i) : Out) = .next t := by
  obtain rfl := State.job_id h.1
  refine next_onItem h ?_
  unfold State.inTurn
  rw [ht]
  exact hf

theorem ended_inTurn {status r0 : Nat} (h : Runs s id 0 kind j i) (ht : s.treeTurn j = true)
    (hf : f (s.modJob id Job.begins) j i = (s.modJob id Job.begins).endJob j.id status r0) :
    ∃ t : State, (.next (s.onItem id 0 kind fun s j i => s.inTurn j fun s => f s j i) : Out) = .next t ∧
      Ended s t id status r0 := by
  refine ⟨_, next_inTurn h ht hf, ?_⟩
  obtain rfl := State.job_id h.1
  exact ended_of_begins (State.endJob_ended (runs_begins h) status r0)

end

/-! ### PREFIX_LOOKUP (10 R289, R293) -/

section
variable {s v : State} {j : Job} {i : Item} {hv : HostView} {bad : List BadCompare} {r : Nat} {ns : List Nat}

theorem State.lockNodes_row (s : State) (j : Job) (ns : List Nat) (r : Nat) : (s.lockNodes j ns).row r = s.row r := by
  have hset : ∀ (l : List Nat) (s : State),
      (l.foldl (fun s n => s.setNode n { s.node n with locked := (s.node n).locked + 1 }) s).row r = s.row r := fun l => by
    induction l with
    | nil => exact fun _ => rfl
    | cons n l ih => exact fun s => ih _
  exact hset _ s

theorem State.cacheTree_row (s : State) (hs ns : List Nat) (r : Nat) : (s.cacheTree hs ns).row r = s.row r := rfl

/-- A match shorter than asked for maps nothing. -/
theorem State.lookupMap_short (h : ns.length < j.word 6) :
    s.lookupMap j r ns = s.endJob j.id 0x22 (ns.length * (s.row r).tspan) := by
  unfold State.lookupMap
  exact if_pos h

theorem State.lookupJob_barred (h : s.live? (j.word 4) = none ∨ ∃ r, s.live? (j.word 4) = some r ∧
    ((s.row r).state ≠ 1 ∨ ∃ d ∈ s.streamsOf r, d.2.pages ≠ 0)) : s.lookupJob j i hv bad = s.endJob j.id 0x11 0 := by
  unfold State.lookupJob
  obtain h | ⟨r, h, hbar⟩ := h
  · simp only [h]
    rfl
  · have hany : (s.row r).state ≠ 1 ∨ (s.streamsOf r).any (fun d => decide (d.2.pages ≠ 0)) = true :=
      hbar.imp_right fun ⟨d, hd, hp⟩ => List.any_eq_true.2 ⟨d, hd, decide_eq_true hp⟩
    simp only [h, if_pos hany]
    rfl

section
variable (h : s.live? (j.word 4) = some r) (hst : (s.row r).state = 1) (hempty : ∀ d ∈ s.streamsOf r, d.2.pages = 0)
include hst hempty

theorem State.lookupJob_open : ¬ ((s.row r).state ≠ 1 ∨ (s.streamsOf r).any (fun d => decide (d.2.pages ≠ 0)) = true) := by
  rintro (hne | hany)
  · exact hne hst
  · obtain ⟨d, hd, hp⟩ := List.any_eq_true.1 hany
    exact of_decide_eq_true hp (hempty d hd)

include h

theorem State.lookupJob_unread {e : Nat} (hread : readVirt hv i.trans (j.dword 7) (4 * j.word 5) = .fail e) :
    s.lookupJob j i hv bad = s.endJob j.id e 0 := by
  unfold State.lookupJob
  simp only [h, if_neg (State.lookupJob_open hst hempty), hread]

theorem State.lookupJob_matched {toks : List Byte} {hs : List Nat} {m : MatchEnd}
    (hread : readVirt hv i.trans (j.dword 7) (4 * j.word 5) = .ok toks) (hm : m = .done ∨ m = .differs)
    (hhs : hs = s.runHashes ((s.row r).run false true) (j.word 5 / (s.row r).tspan) toks)
    (hmatch : s.matchPages ((s.row r).run false true) i.tile j.id hv bad hs 0 toks [] = (ns, m, v)) :
    s.lookupJob j i hv bad = ((v.lockNodes j ns).cacheTree hs ns).lookupMap j r ns := by
  subst hhs
  unfold State.lookupJob
  simp only [h, if_neg (State.lookupJob_open hst hempty), hread, hmatch]
  obtain rfl | rfl := hm <;> rfl

end

/-! ### PREFIX_PUBLISH (10 R289, R291) -/

section
variable (hbuild : j.build = [])
include hbuild

theorem State.publishJob_barred (h : s.live? (j.word 4) = none ∨ ∃ r, s.live? (j.word 4) = some r ∧ (s.row r).state ≠ 1) :
    s.publishJob j i hv bad = s.endJob j.id 0x11 0 := by
  unfold State.publishJob
  rw [if_neg (not_not_intro hbuild)]
  obtain h | ⟨r, h, hst⟩ := h
  · simp only [h]
    rfl
  · simp only [h, if_pos hst]
    rfl

/-- A run that matches to its end or to where the tree ends: it is published already, or its other pages are. -/
theorem State.publishJob_matched {toks : List Byte} {hs : List Nat} (h : s.live? (j.word 4) = some r) (hst : (s.row r).state = 1)
    (hread : readVirt hv i.trans (j.dword 6) (4 * j.word 5 * (s.row r).tspan) = .ok toks)
    (hhs : hs = s.runHashes ((s.row r).run true false) (j.word 5) toks)
    (hmatch : s.matchPages ((s.row r).run true false) i.tile j.id hv bad hs 0 toks [] = (ns, .done, v)) :
    s.publishJob j i hv bad =
      if ns.length = j.word 5 then (((v.lockNodes j ns).touchNodes ns).cacheTree hs ns).endJob j.id 0 0
      else (v.lockNodes j ns).publishAcquire j i r ns.length hs toks := by
  subst hhs
  unfold State.publishJob
  rw [if_neg (not_not_intro hbuild)]
  simp only [h, if_neg (not_not_intro hst), hread, hmatch]
  rfl

end

/-! ### PREFIX_DROP (10 R294, R295) -/

theorem State.dropJob_all (h : bit (j.word 4) 0 = false) : s.dropJob j i hv bad = s.dropAll.1.endJob j.id 0 s.dropAll.2 := by
  unfold State.dropJob
  rw [h]
  rfl

theorem State.dropJob_chain (h : bit (j.word 4) 0 = true) : s.dropJob j i hv bad = s.dropChain j i hv bad := by
  unfold State.dropJob
  rw [h]
  rfl

theorem State.dropChain_stale (h : s.live? (j.word 5) = none) : s.dropChain j i hv bad = s.endJob j.id 0x11 0 := by
  unfold State.dropChain
  simp only [h]
  rfl

/-- No node stands for a page of index 16,384 or more (log entry 159). -/
theorem State.dropChain_beyond (h : (s.live? (j.word 5)).isSome) (hpage : 16384 ≤ j.word 6) :
    s.dropChain j i hv bad = s.endJob j.id 0 0 := by
  obtain ⟨r, hr⟩ := Option.isSome_iff_exists.1 h
  unfold State.dropChain
  simp only [hr, if_pos (Nat.lt_succ_of_le hpage)]
  rfl

end

/-- Settles O43: the turn first, then each job by its equations in the state in which it has begun. -/
theorem prefixJobsMatchInTurn : Obligations.PrefixJobsMatchInTurn := by
  intro s u id j i hv bad hu
  replace hu : u = s.modJob id Job.begins := hu
  subst hu
  refine ⟨fun ht => ⟨fun h => ?_, fun h => ?_, fun h => ?_⟩,
    fun h ht => ⟨fun hbar => ?_, fun r hr hst hempty => ⟨fun e he => ?_, fun toks hs ns m v hread hm hhs hmatch => ?_⟩⟩,
    fun h ht hbuild => ⟨fun hbar => ?_, fun r toks hs ns v hr hst hread hhs hmatch => ⟨fun hall => ?_, fun hsome => ?_⟩⟩,
    fun h ht => ⟨fun hmode => ?_, fun hmode hstale => ?_, fun hmode hpage hlive => ?_⟩⟩
  · exact next_waits h ht
  · exact next_waits h ht
  · exact next_waits h ht
  · exact ended_inTurn h ht (State.lookupJob_barred hbar)
  · exact ended_inTurn h ht (State.lookupJob_unread (s := s.modJob _ Job.begins) hr hst hempty he)
  all_goals obtain rfl := State.job_id h.1
  · have hexec : exec (.prefixLookup j.id ⟨hv, bad⟩) s = _ :=
      next_inTurn h ht (State.lookupJob_matched (s := s.modJob _ Job.begins) hr hst hempty hread hm hhs hmatch)
    refine ⟨hexec, fun hshort => hexec.trans ?_⟩
    rw [State.lookupMap_short hshort, State.cacheTree_row, State.lockNodes_row]
  · exact ended_inTurn h ht (State.publishJob_barred hbuild hbar)
  · exact next_inTurn h ht ((State.publishJob_matched (s := s.modJob _ Job.begins) hbuild hr hst hread hhs hmatch).trans (if_pos hall))
  · exact next_inTurn h ht ((State.publishJob_matched (s := s.modJob _ Job.begins) hbuild hr hst hread hhs hmatch).trans (if_neg hsome))
  · exact next_inTurn h ht (State.dropJob_all hmode)
  · exact ended_inTurn h ht ((State.dropJob_chain hmode).trans (State.dropChain_stale hstale))
  · exact ended_inTurn h ht ((State.dropJob_chain hmode).trans (State.dropChain_beyond hlive hpage))

end Sys2Proof.Machine
end

section
/-! SUPPORT. Commands of jobs whose item does not run; NOP, BARRIER and PHASE_SWITCH (11 R323, R325). The statements on idle job commands
and control jobs. -/

namespace Sys2Proof.Machine

open Sys2Proof.Safety

/-! ### Commands of an item that does not run (log entry 2) -/

/-- A command acts on an item only where the engine runs, the job is of its kind and the item runs. -/
theorem State.onItem_idle {s : State} {id k kind : Nat}
    (h : s.engineOn = false ∨ (∀ j, s.job id = some j → j.kind ≠ kind) ∨ (∀ i, s.item id k = some i → i.st ≠ .running))
    (f : State → Job → Item → State) : s.onItem id k kind f = s := by
  unfold State.onItem
  split
  next j i hj hi =>
    refine if_pos ?_
    obtain hoff | hkind | hst := h
    · simp [hoff]
    · simp [hkind j hj]
    · simp [hst i hi]
  next => rfl

/-- A command that acts on an item of a job of one kind, and through it alone: (command, item, kind). -/
def ActsOnItem (s : State) (id : Nat) (p : Instr × Nat × Nat) : Prop := ∃ f, exec p.1 s = .next (s.onItem id p.2.1 p.2.2 f)

/-- Settles O37: every job command acts on its item, and an action on an item that does not run does nothing. -/
theorem idleJobCommandsChangeNothing : Obligations.IdleJobCommandsChangeNothing := by
  intro s c id k kind hv bad hc hidle
  have hacts : ActsOnItem s id (c, k, kind) := by
    revert hc
    generalize (c, k, kind) = p
    revert p
    simp only [List.forall_mem_cons, List.not_mem_nil, false_imp_iff, implies_true, and_true]
    refine ⟨?_, ?_, ?_, ?_, ?_, ?_, ?_, ?_, ?_, ?_, ?_, ?_, ?_, ?_, ?_, ?_, ?_, ?_, ?_, ?_, ?_, ?_⟩
    all_goals exact ⟨_, rfl⟩
  obtain ⟨f, hf⟩ := hacts
  exact hf.trans (congrArg _ (State.onItem_idle hidle f))

/-! ### PHASE_SWITCH (11 R325) -/

section
variable {s : State} {j : Job}

/-- Without items aborted the job's RESULT1 stays. -/
theorem State.modJob_r1_zero (s : State) (n : Nat) : s.modJob n (fun j => { j with r1 := j.r1 + 0 }) = s := by
  have hsame : (fun j : Job => if j.id = n then { j with r1 := j.r1 + 0 } else j) = id := by
    funext j
    exact ite_self j
  unfold State.modJob
  rw [hsame, List.map_id]

variable (habort : bit (j.word 4) 5 = false)
include habort

/-- A PHASE_SWITCH without abort waits for the records of the class's earlier jobs, and for appends to the rows that it closes. -/
theorem State.phaseJob_waits
    (h : s.phaseJobs j ≠ [] ∨ (bit (j.word 4) 4 = true ∧ s.phaseWaits (bits (j.word 4) 1 0) = true)) : s.phaseJob j = s := by
  unfold State.phaseJob
  simp only [habort, Bool.false_eq_true, if_false, State.modJob_r1_zero]
  exact if_pos h

variable (hjobs : s.phaseJobs j = [])
include hjobs

/-- A PHASE_SWITCH without release ends once nothing of its class is left. -/
theorem State.phaseJob_ends (hrel : bit (j.word 4) 4 = false) : s.phaseJob j = s.endJob j.id 0 0 := by
  unfold State.phaseJob
  simp only [habort, hjobs, hrel, Bool.false_eq_true, if_false, State.modJob_r1_zero, ne_eq, not_true_eq_false, false_and, or_self]
  rfl

/-- A PHASE_SWITCH that releases closes the class's rows in turn, and reports how many. -/
theorem State.phaseJob_releases (hrel : bit (j.word 4) 4 = true) (hw : s.phaseWaits (bits (j.word 4) 1 0) = false) :
    s.phaseJob j = ((s.phaseRows (bits (j.word 4) 1 0)).foldl (fun s r => s.phaseClose j r) s).endJob j.id 0
      (s.phaseRows (bits (j.word 4) 1 0)).length := by
  unfold State.phaseJob
  simp only [habort, hjobs, hrel, hw, Bool.false_eq_true, if_false, if_true, State.modJob_r1_zero, ne_eq, not_true_eq_false, and_false,
    or_self]
  rfl

end

/-- Settles O38: NOP and BARRIER end at once; a PHASE_SWITCH by its equations for the state in which it waits, ends or releases. -/
theorem controlJobsEnd : Obligations.ControlJobsEnd := by
  intro s id j i
  refine ⟨fun h => ended_onItem h rfl, fun h => ended_onItem h rfl, fun h habort =>
    ⟨fun hjobs => ?_, fun hjobs hrel => ?_, fun hjobs hrel hw => ?_, fun hjobs hrel hw => ?_⟩⟩
  · exact next_onItem h (State.phaseJob_waits habort (.inl hjobs))
  · exact ended_onItem h (State.phaseJob_ends habort hjobs hrel)
  · exact next_onItem h (State.phaseJob_waits habort (.inr ⟨hrel, hw⟩))
  · obtain rfl := State.job_id h.1
    exact next_onItem h (State.phaseJob_releases habort hjobs hrel hw)

end Sys2Proof.Machine
end

section
/-! SUPPORT. Completion records and interrupt messages (11 R315 to R320, 13 R374). The statement on records and messages. -/

namespace Sys2Proof.Machine

/-! ### Completion records (11 R315, R319) -/

section
variable {s : State} {id : Nat}

theorem exec_completionRecord_none (h : s.job id = none) : exec (.completionRecord id) s = .next s := by
  unfold exec execCompletionRecord
  simp only [h]

variable {j : Job}

/-- A statistics record that is due comes first (07 R210). -/
theorem exec_completionRecord_stats (h : s.job id = some j) (hdue : s.statsDue j = true) :
    exec (.completionRecord id) s = .next (s.writeStats j) := by
  unfold exec execCompletionRecord
  simp only [h, hdue, if_true]

/-- Without one the job's own record has its turn (11 R319). -/
theorem exec_completionRecord_turn (h : s.job id = some j) (hdue : s.statsDue j = false) :
    exec (.completionRecord id) s = .next (s.whenever (s.mayRecord j) (s.writeRecord j)) := by
  unfold exec execCompletionRecord
  simp only [h, hdue, Bool.false_eq_true, if_false]

/-- The address of a pair's next record: CPL_TAIL's slot of its completion ring (11 R315). -/
def State.recordAddr (s : State) (r : Nat) : Nat :=
  s.reg64 (ringReg r 0x14) + 32 * (s.reg (ringReg r 0x1C) % 2 ^ bits (s.reg (ringReg r 8)) 10 6)

/-- The translation of the next record's address for a job. -/
def State.recordTrans (s : State) (j : Job) : Translated :=
  s.translateAll s.errs.anchor (.record j.id) (needs (s.recordAddr j.ring) 32 1)

variable {t : State}

theorem State.writeRecord_waits (h : s.recordTrans j = .wait t) : s.writeRecord j = t := by
  unfold State.recordTrans State.recordAddr at h
  unfold State.writeRecord
  simp only [h]

/-- A record whose address fails is not written, and CPL_TAIL rises all the same (11 R319, 13 R374). -/
theorem State.writeRecord_fails {e : Nat} (h : s.recordTrans j = .failed e t) : s.writeRecord j = t.recordDone j.id false := by
  unfold State.recordTrans State.recordAddr at h
  unfold State.writeRecord
  simp only [h]

/-- A record whose address is translated goes out as one write. -/
theorem State.writeRecord_issues {tr : Trans} (h : s.recordTrans j = .ok tr t) : s.writeRecord j =
    (t.moveVirt t.errs.anchor true (.record j.id) tr (s.recordAddr j.ring) 0 32
      (j.record (s.reg (ringReg j.ring 0x1C)) (bits (s.reg (ringReg j.ring 8)) 10 6) t.now)).1.modJob j.id
        (fun j => { j with st := .recording }) := by
  unfold State.recordTrans State.recordAddr at h
  unfold State.writeRecord State.recordAddr
  simp only [h]

end

/-! ### Interrupt messages (11 R320) -/

section
variable {s : State} {src : IrqSrc}

/-- Whether a source issues a message: it is wanted, its holdoff has passed, and the part is not off. -/
def State.irqDue (s : State) (src : IrqSrc) : Bool := decide (s.cfg.mode ≠ .off) && s.irqWanted src && s.holdoffPassed src

theorem State.irqDue_eq_false (h : s.cfg.mode = .off ∨ s.irqWanted src = false ∨ s.holdoffPassed src = false) :
    s.irqDue src = false := by
  unfold State.irqDue
  obtain h | h | h := h <;> simp [h]

theorem exec_interruptMessage_held (h : s.irqDue src = false) : exec (.interruptMessage src) s = .next s :=
  congrArg (fun c => Host.Outcome.next (s.whenever c (s.sendIrq src))) h

theorem exec_interruptMessage_due (hmode : s.cfg.mode ≠ .off) (hwant : s.irqWanted src = true) (hpass : s.holdoffPassed src = true) :
    exec (.interruptMessage src) s = .next (s.sendIrq src) := by
  have hdue : s.irqDue src = true := by simp [State.irqDue, hmode, hwant, hpass]
  exact congrArg (fun c => Host.Outcome.next (s.whenever c (s.sendIrq src))) hdue

variable {r : BitVec 6} {t : State}

theorem State.sendIrq_ring {tr : Trans}
    (h : s.translateAll s.errs.anchor (.irq r.toNat) (needs (s.reg64 (ringReg r.toNat 0x24)) 4 1) = .ok tr t) :
    s.sendIrq (.ring r) = (t.moveVirt t.errs.anchor true (.irq (.ring r)) tr (s.reg64 (ringReg r.toNat 0x24)) 0 4
      (leBytes 4 (s.reg (ringReg r.toNat 0x2C)))).1.irqIssued (.ring r) := by
  unfold State.sendIrq
  simp only [irqRegs, h]

theorem State.sendIrq_ring_fails {e : Nat}
    (h : s.translateAll s.errs.anchor (.irq r.toNat) (needs (s.reg64 (ringReg r.toNat 0x24)) 4 1) = .failed e t) :
    s.sendIrq (.ring r) = (t.clearIrq (.ring r)).irqDropped (.ring r) := by
  unfold State.sendIrq
  simp only [irqRegs, h]

/-- A message of the part itself goes to a physical address (13 R358). -/
theorem State.sendIrq_part (h : ∀ r, src ≠ .ring r) : s.sendIrq src =
    (s.movePhys s.errs.anchor true (.irq src) none (s.reg64 (irqRegs src).1) 0 4 (leBytes 4 (s.reg (irqRegs src).2))).1.irqIssued src := by
  cases src with
  | ring r => exact absurd rfl (h r)
  | faultQueue => rfl
  | twin => rfl
  | errorLog => rfl

end

/-- Settles O36: a record by the outcome of its address's translation, a message by its source. -/
theorem recordsAndMessages : Obligations.RecordsAndMessages := by
  intro s
  refine ⟨fun id => ⟨exec_completionRecord_none, fun j => exec_completionRecord_stats, fun j hj hdue => ?_⟩,
    fun src => ⟨fun h => exec_interruptMessage_held (State.irqDue_eq_false h), fun hmode hwant hpass => ?_⟩⟩
  · obtain rfl := State.job_id hj
    have hturn := exec_completionRecord_turn hj hdue
    refine ⟨fun hmay => ?_, fun va x log2 hmay hx hlog hva => ?_⟩
    · rw [hturn, hmay, State.whenever_false]
    · subst hva hlog hx
      rw [hmay, State.whenever_true] at hturn
      exact ⟨fun tr t h => hturn.trans (congrArg _ (State.writeRecord_issues h)),
        fun e t h => hturn.trans (congrArg _ (State.writeRecord_fails h)),
        fun t h => hturn.trans (congrArg _ (State.writeRecord_waits h))⟩
  · have hsend := exec_interruptMessage_due hmode hwant hpass
    refine ⟨fun r hr tr t h => ?_, fun r hr e t h => ?_, fun hpart => ?_⟩
    · subst hr
      exact hsend.trans (congrArg _ (State.sendIrq_ring h))
    · subst hr
      exact hsend.trans (congrArg _ (State.sendIrq_ring_fails h))
    · exact hsend.trans (congrArg _ (State.sendIrq_part hpart))

end Sys2Proof.Machine
end

section
/-! SUPPORT. Writes of JOB_RING_CTL (11 R300): a pair's control word, the registers that ENABLE clears, and draining. The statement on
enabling and disabling. -/

namespace Sys2Proof.Machine

open Sys2Proof.Safety

/-! ### The control word (11 R299, R300) -/

/-- The fields of JOB_RING_CTL: ENABLE, the sizes of both rings, the message enable. -/
def ctlFields : List Fld := [⟨0, 0, .rw, []⟩, ⟨5, 1, .rw, sizeResv⟩, ⟨10, 6, .rw, sizeResv⟩, ⟨11, 11, .rw, []⟩]

/-- A control word with its fields replaced by those of a value. -/
def ctlWord (old v : Nat) : Nat := old - old % 4096 + v % 4096

/-- The sizes that a pair may have: 2^4 to 2^16 (11 R300). -/
def SizesOk (v : Nat) : Prop := 4 ≤ bits v 5 1 ∧ bits v 5 1 ≤ 16 ∧ 4 ≤ bits v 10 6 ∧ bits v 10 6 ≤ 16

theorem Fld.size_legal {hi lo v : Nat} (h : 4 ≤ bits v hi lo) (k : bits v hi lo ≤ 16) :
    Fld.reserved ⟨hi, lo, .rw, sizeResv⟩ v = false := by
  have hsmall : ¬ bits v hi lo ≤ 3 := by omega
  have hlarge : ¬ 17 ≤ bits v hi lo := by omega
  simp [Fld.reserved, Fld.get, sizeResv, hsmall, hlarge]

theorem ctlFields_legal {v : Nat} (h : SizesOk v) : ctlFields.any (fun f => f.reserved v) = false := by
  obtain ⟨hlow, hhigh, hclow, hchigh⟩ := h
  simp only [ctlFields, List.any_cons, List.any_nil, Fld.size_legal hlow hhigh, Fld.size_legal hclow hchigh]
  rfl

theorem Part.rings_le (p : Part) : p.rings ≤ 64 := by
  cases p <;> decide

section
variable {s : State} {r v : Nat}

/-- The fields are the word's bits 11 to 0. -/
theorem State.writeReg_ringCtl (hr : r < 64) :
    s.writeReg ctlFields (ringReg r 8) v = s.setReg (ringReg r 8) (ctlWord (s.reg (ringReg r 8)) v) := by
  obtain ⟨hlive, -, -⟩ := ringReg_plain hr (o := 8) (by decide) (.inr (.inr rfl))
  have hput : ∀ old < 2 ^ 32, (Fld.put ⟨11, 11, .rw, []⟩ (Fld.put ⟨10, 6, .rw, sizeResv⟩ (Fld.put ⟨5, 1, .rw, sizeResv⟩
      (Fld.put ⟨0, 0, .rw, []⟩ old v) v) v) v) = ctlWord old v := fun old ho => by
    simp only [Fld.put, Fld.get, bits, Nat.shiftRight_eq_div_pow, ctlWord]
    norm_num
    omega
  unfold State.writeReg
  simp only [hlive, Bool.and_false, Bool.false_eq_true, if_false]
  unfold State.applyWrite ctlFields
  simp only [List.foldl_cons, List.foldl_nil, applyField, hput _ (State.reg_lt s _), Bool.false_eq_true, if_false, if_true]
  rfl

/-- Writes of the pair's control word that no check turns away, and those that its own rule refuses (11 R300, 20 R505). -/
theorem State.writeFrom_ringCtl {q : Req} (ha : Arrives s q) (hm : Managed s) (hr : r < s.part.rings) (hv : SizesOk v) :
    s.writeFrom q (ringReg r 8) v = .next (if s.ringBarred r 8 v then s.refuse q (ringReg r 8)
      else (s.writeRingCtl ctlFields r v).answer q true 0) := by
  have hr64 : r < 64 := hr.trans_le (Part.rings_le _)
  obtain ⟨hf, h4, hlo, hhi, hmod, hdiv⟩ := ringReg_fields (o := 8) hr (by decide) (by decide)
  obtain ⟨-, hplow, hphigh⟩ := ringReg_plain hr64 (o := 8) (by decide) (.inr (.inr rfl))
  have hc : s.checkWrite (ringReg r 8) v = .take ctlFields := State.checkWrite_managed hm hf h4 (by omega) (ctlFields_legal hv)
  have hbar : s.writeBarred (ringReg r 8) v = s.ringBarred r 8 v := State.writeBarred_ring hr64 (.inr (.inr rfl))
  rw [State.writeFrom_arrives ha]
  cases hb : s.ringBarred r 8 v with
  | true => rw [State.hostWrite_barred ha hc hplow hphigh (hbar.trans hb), if_pos rfl]
  | false =>
    have htake : s.takeWrite ctlFields (ringReg r 8) v [] = s.writeRingCtl ctlFields r v := by
      unfold State.takeWrite
      rw [if_pos ⟨hlo, hhi⟩, if_pos hmod, hdiv]
    rw [State.hostWrite_taken ha hc hplow hphigh (hbar.trans hb), htake]
    rfl

/-! ### Enabling (11 R300) -/

/-- The registers that ENABLE clears: HEAD, TAIL, CPL_TAIL, CPL_HEAD and SEQ. -/
def clearedRegs (r : Nat) : List Nat := [0x0C, 0x10, 0x1C, 0x20, 0x3C].map (ringReg r)

/-- A pair that is not busy takes its control word and is as new; what intake had read and carried for it is gone. -/
theorem State.writeRingCtl_enables (hr : r < 64) (hoff : bit (s.reg (ringReg r 8)) 0 = false) (hv : bit v 0 = true) :
    ∃ sc h, s.writeRingCtl ctlFields r v = { s with
        regs := (clearedRegs r).foldl (fun t o => tset 0#32 t o 0#32) (s.setReg (ringReg r 8) (ctlWord (s.reg (ringReg r 8)) v)).regs
        sched := sc, host := h } ∧ sc.jobs = s.sched.jobs ∧ h.tx = s.host.tx := by
  unfold State.writeRingCtl
  simp only [hoff, hv, State.writeReg_ringCtl hr, Bool.not_false, Bool.and_self, if_true]
  exact ⟨_, _, rfl, rfl, rfl⟩

/-! ### Disabling (11 R300) -/

/-- The control word of a pair that is disabled: ENABLE reads 1b while its jobs are in flight. -/
def disabledWord (v : Nat) (jobs : Bool) : Nat := if jobs then v % 4096 / 2 * 2 + 1 else v % 4096

theorem State.writeRingCtl_disables {jobs : Bool} (hr : r < 64) (hon : bit (s.reg (ringReg r 8)) 0 = true) (hv : bit v 0 = false)
    (hjobs : jobs = s.sched.jobs.any (fun j => j.ring = r)) :
    ∃ x : Ring, x.draining = jobs ∧ s.writeRingCtl ctlFields r v =
      (((s.setReg (ringReg r 8) (ctlWord (s.reg (ringReg r 8)) v)).setRing r x).setReg (ringReg r 8) (disabledWord v jobs)) := by
  subst hjobs
  unfold State.writeRingCtl
  simp only [hon, hv, State.writeReg_ringCtl hr, Bool.not_true, Bool.not_false, Bool.and_true, Bool.false_and, Bool.false_eq_true,
    if_false, if_true]
  exact ⟨_, rfl, rfl⟩

/-- ENABLE reads 1b for as long as the pair's jobs are in flight. -/
theorem disabledWord_enable (hv : bit v 0 = false) (jobs : Bool) : bit (disabledWord v jobs % 2 ^ 32) 0 = jobs := by
  unfold bit at hv ⊢
  rw [Nat.testBit_zero, decide_eq_false_iff_not] at hv
  rw [Nat.testBit_zero]
  cases jobs with
  | true =>
    have hodd : (v % 4096 / 2 * 2 + 1) % 2 ^ 32 % 2 = 1 := by omega
    exact decide_eq_true hodd
  | false =>
    have heven : ¬ v % 4096 % 2 ^ 32 % 2 = 1 := by omega
    exact decide_eq_false heven

end

/-! ### Reading the pair's registers and ring -/

theorem ringReg_inj {r o p : Nat} : ringReg r o = ringReg r p ↔ o = p := by
  unfold ringReg
  omega

/-- Registers that are cleared in turn read 0, and every other one as before. -/
theorem State.reg_cleared {s t : State} (hs : tabOk 0#32 s.regs = true) {ks : List Nat}
    (ht : t.regs = ks.foldl (fun t o => tset 0#32 t o 0#32) s.regs) (off : Nat) : t.reg off = if off ∈ ks then 0 else s.reg off := by
  unfold State.reg
  rw [ht, tget_foldl_tset (fun _ => 0#32) ks hs]
  split <;> rfl

theorem State.setRing_ring {s : State} (h : tabOk {} s.sched.rings = true) (r : Nat) (x : Ring) : (s.setRing r x).ring r = x := by
  unfold State.ring State.setRing
  rw [tget_tset_self h]

theorem ctlWord_low (old v : Nat) : ctlWord old v % 2 ^ 32 % 4096 = v % 4096 := by
  unfold ctlWord
  omega

/-- The control word of a pair is not among the registers that ENABLE clears. -/
theorem ctl_not_cleared (r : Nat) : ringReg r 8 ∉ clearedRegs r := by
  simp [clearedRegs, ringReg_inj]

/-- Settles O22: the write of the control word of a pair that is not busy, and of one that is enabled. -/
theorem ringEnableAndDisable : Obligations.RingEnableAndDisable := by
  refine ⟨fun s q ring v ha hm hb hr hbusy hv h1 h2 h3 h4 => ?_, fun s q ring v ha hm hb hr hon hv hsame h1 h2 h3 h4 hrings => ?_⟩
  all_goals
    have hr64 : ring.toNat < 64 := ring.isLt
    have hwrite := State.writeFrom_ringCtl ha hm hr ⟨h1, h2, h3, h4⟩
    have hok := State.setReg_ok hb.2 (ringReg ring.toNat 8) (ctlWord (s.reg (ringReg ring.toNat 8)) v.toNat)
  · have hoff : bit (s.reg (ringReg ring.toNat 8)) 0 = false := (Bool.or_eq_false_iff.1 hbusy).1
    have hbarred : s.ringBarred ring.toNat 8 v.toNat = !bit (s.reg 0xC000) 0 := by
      unfold State.ringBarred
      simp only [hbusy, hv, Bool.false_eq_true, if_false, Bool.true_and]
    rw [hbarred] at hwrite
    refine ⟨fun hat => ?_, fun hat => ?_⟩
    · rw [hat] at hwrite
      obtain ⟨sc, h, hen, hjobs, htx⟩ := State.writeRingCtl_enables (s := s) hr64 hoff hv
      rw [hen] at hwrite
      refine ⟨_, hwrite, ?_, fun o ho => ?_, fun off hne => ?_, congrArg (· ++ _) htx, rfl, hjobs, rfl, rfl, rfl, rfl, rfl,
        ⟨rfl, rfl, rfl, rfl⟩, ⟨rfl, rfl, rfl, rfl, rfl⟩⟩
      · refine (congrArg (· % 4096) ((State.reg_cleared hok rfl _).trans (if_neg (ctl_not_cleared _)))).trans ?_
        rw [State.setReg_reg_self hb.2, ctlWord_low]
      · exact (State.reg_cleared hok rfl _).trans (if_pos (List.mem_map_of_mem ho))
      · rw [List.map_cons, List.mem_cons, not_or] at hne
        exact (State.reg_cleared hok rfl _).trans ((if_neg hne.2).trans (State.setReg_reg_ne hb.2 _ hne.1))
    · rw [hat] at hwrite
      exact hwrite
  · have hbarred : s.ringBarred ring.toNat 8 v.toNat = false := by
      unfold State.ringBarred State.ringBusy
      simp [hon, hsame]
    rw [hbarred] at hwrite
    obtain ⟨x, hx, hdis⟩ := State.writeRingCtl_disables hr64 hon hv rfl
    rw [hdis] at hwrite
    refine ⟨_, hwrite, ?_, ?_, fun off hne => ?_, rfl, rfl, rfl, rfl, rfl, rfl, rfl, rfl, ⟨rfl, rfl, rfl, rfl⟩,
      ⟨rfl, rfl, rfl, rfl, rfl⟩⟩
    · exact (congrArg Ring.draining (State.setRing_ring hrings _ x)).trans hx
    · exact (congrArg (bit · 0) (State.setReg_reg_self hok _ _)).trans (disabledWord_enable hv _)
    · exact (State.setReg_reg_ne hok _ hne).trans (State.setReg_reg_ne hb.2 _ hne)

end Sys2Proof.Machine
end

section
/-! SUPPORT. Intake of one descriptor (11 R301 to R304, R313): the turn of a ring, what consuming a descriptor changes, refusal and
acceptance. The statement on intake. -/

namespace Sys2Proof.Machine

open Sys2Proof.Safety

/-! ### The turn of a ring (11 R302) -/

section
variable {s : State} {r : Nat} {hv : HostView}

/-- Intake runs in READY only, pauses while the anchor is replaced, and needs a ring to serve. -/
theorem State.intake_idle (h : s.cfg.mode ≠ .ready ∨ s.errs.takeover = true ∨ s.nextRing = none) : s.intake hv = s := by
  unfold State.intake
  split
  next => rfl
  next hrun =>
    simp only [Bool.or_eq_true, decide_eq_true_eq, not_or] at hrun
    obtain ⟨hmode, htake⟩ := hrun
    rw [(h.resolve_left hmode).resolve_left htake]

/-- A ring whose turn it is: it was served last, and its descriptor is under way. -/
def State.atRing (s : State) (r : Nat) : State := { s with sched := { s.sched with lastRing := r, intakeOf := some r } }

theorem State.intake_serves (hmode : s.cfg.mode = .ready) (htake : s.errs.takeover = false) (hr : s.nextRing = some r) :
    s.intake hv = (s.atRing r).intakeRing r hv := by
  unfold State.intake
  simp only [hmode, htake, hr, ne_eq, not_true_eq_false, decide_false, Bool.or_self, Bool.false_eq_true, if_false]
  rfl

/-- With no completion slot free the descriptor is held whatever it holds (11 R303). -/
theorem State.intakeRing_full (h : s.slotFree r = false) : s.intakeRing r hv = s.hold r false [] := by
  unfold State.intakeRing
  rw [h]
  rfl

/-- A descriptor that has been read is checked. -/
theorem State.intakeRing_read (h : s.slotFree r = true) (hread : (s.ring r).reading ≠ []) :
    s.intakeRing r hv = s.intakeDesc r (s.ring r).reading hv := by
  unfold State.intakeRing
  rw [h, if_pos hread]
  rfl

/-- A descriptor that does not pass its own checks is refused with INVALID_DESCRIPTOR (11 R303 row 2). -/
theorem State.intakeDesc_bad {desc : List Nat} {j : Job}
    (hj : j = { id := s.sched.nextJob, ring := r, seq := s.reg (ringReg r 0x3C), desc := desc }) (h : s.descOk j = false) :
    s.intakeDesc r desc hv = s.refuseDesc r desc 0x30 := by
  subst hj
  unfold State.intakeDesc
  simp only [h, Bool.not_false, if_true]
  rfl

/-- One of a kind without batch has no lists to read. -/
theorem State.intakeDesc_good {desc : List Nat} {j : Job}
    (hj : j = { id := s.sched.nextJob, ring := r, seq := s.reg (ringReg r 0x3C), desc := desc }) (h : s.descOk j = true)
    (hkind : isBatch j.kind = false) : s.intakeDesc r desc hv = s.decide303 r j := by
  subst hj
  unfold State.intakeDesc
  simp only [h, hkind, Bool.not_true, Bool.false_eq_true, if_false]

theorem Part.trackers_pos (p : Part) : 1 ≤ p.trackers := by
  cases p <;> decide

/-- One item on the anchor needs one tracker entry there; where it fits the job is accepted with it (11 R305, R313). -/
theorem State.decide303_single {j : Job} (hkind : isBatch j.kind = false) (hlists : j.entries = [])
    (hfits : s.fits r [(s.errs.anchor, 1)] = true) :
    s.decide303 r j = s.acceptDesc r { j with items := [{ tile := s.errs.anchor, entry := 0 }] } := by
  have hitems : s.expand j = [{ tile := s.errs.anchor, entry := 0 }] := by
    unfold State.expand
    rw [hkind]
    rfl
  have hneeds : itemNeeds [{ tile := s.errs.anchor, entry := 0 }] = [(s.errs.anchor, 1)] := by
    simp [itemNeeds, List.eraseDups_cons]
  have hcap : [(s.errs.anchor, 1)].any (fun n => decide (s.part.trackers < n.2)) = false := by
    have := Part.trackers_pos s.part
    simp
    omega
  unfold State.decide303
  simp only [hlists, hitems, hneeds, hcap, hkind, hfits, List.map_nil, List.foldl_nil, Bool.false_and, Bool.not_true, Bool.false_eq_true,
    if_false, (by decide : ¬ 262144 < 0)]

/-! ### Descriptors consumed (11 R302, R303) -/

/-- HEAD has passed the ring's next descriptor. -/
def State.headNext (s : State) (r : Nat) : State := s.setReg (ringReg r 0x10) ((s.reg (ringReg r 0x10) + 1) % 2 ^ 32)

/-- The sequence number has passed an accepted descriptor. -/
def State.seqNext (s : State) (r : Nat) : State := s.setReg (ringReg r 0x3C) ((s.reg (ringReg r 0x3C) + 1) % 2 ^ 32)

/-- A job that stands for a refused descriptor: its record is due, and it has no item. -/
def Job.refusedWith (status : Nat) (j : Job) : Job := { j with refused := true, st := .settled, status := status }

theorem State.noteComplete_frame (s : State) (id : Nat) :
    ∃ l, s.noteComplete id = { s with sched := { s.sched with completed := l } } := by
  unfold State.noteComplete
  split
  · split <;> exact ⟨_, rfl⟩
  · exact ⟨_, rfl⟩

/-- A refusal moves HEAD and adds a job; SEQ stays. -/
theorem State.refuseDesc_frame {desc : List Nat} {j : Job}
    (hj : j = { id := s.sched.nextJob, ring := r, seq := s.reg (ringReg r 0x3C), desc := desc }) (status : Nat) :
    ∃ sc, sc.jobs = s.sched.jobs ++ [j.refusedWith status] ∧ s.refuseDesc r desc status = { s.headNext r with sched := sc } := by
  subst hj
  obtain ⟨l, hl⟩ := State.noteComplete_frame ((s.consume r).addJob (Job.refusedWith status
    { id := s.sched.nextJob, ring := r, seq := s.reg (ringReg r 0x3C), desc := desc })) s.sched.nextJob
  exact ⟨_, rfl, hl⟩

/-- An acceptance moves HEAD and SEQ and adds the job; of the configuration only a table's loads change (14 R403). -/
theorem State.acceptDesc_frame (s : State) (r : Nat) (j : Job) : ∃ sc c, sc.jobs = s.sched.jobs ++ [j] ∧
    s.acceptDesc r j = { (s.headNext r).seqNext r with sched := sc, cfg := c } := by
  unfold State.acceptDesc
  dsimp only
  split
  · exact ⟨_, _, rfl, rfl⟩
  · exact ⟨_, _, rfl, rfl⟩

end

section
variable {s : State} (hb : Bounded s) (r : Nat)
include hb

theorem State.headNext_head : (s.headNext r).reg (ringReg r 0x10) = (s.reg (ringReg r 0x10) + 1) % 2 ^ 32 := by
  unfold State.headNext
  rw [State.setReg_reg_self hb.2, Nat.mod_mod]

theorem State.headNext_seq : (s.headNext r).reg (ringReg r 0x3C) = s.reg (ringReg r 0x3C) :=
  State.setReg_reg_ne hb.2 _ (by simp [ringReg])

theorem State.headNext_bounded : Bounded (s.headNext r) := ⟨hb.1, State.setReg_ok hb.2 _ _⟩

theorem State.seqNext_seq : (s.seqNext r).reg (ringReg r 0x3C) = (s.reg (ringReg r 0x3C) + 1) % 2 ^ 32 := by
  unfold State.seqNext
  rw [State.setReg_reg_self hb.2, Nat.mod_mod]

theorem State.seqNext_head : (s.seqNext r).reg (ringReg r 0x10) = s.reg (ringReg r 0x10) :=
  State.setReg_reg_ne hb.2 _ (by simp [ringReg])

end

/-- Settles O32: the turn of a ring, held without a completion slot; its descriptor refused, or accepted with one item. -/
theorem intakeHoldsRefusesOrAccepts : Obligations.IntakeHoldsRefusesOrAccepts := by
  intro s hv hb
  refine ⟨fun h => congrArg _ (State.intake_idle h), fun r hmode htake hr => ?_⟩
  have hturn : exec (.descriptorIntake hv) s = .next ((s.atRing r).intakeRing r hv) := congrArg _ (State.intake_serves hmode htake hr)
  refine ⟨fun hfull => hturn.trans (congrArg _ (State.intakeRing_full (s := s.atRing r) hfull)), fun j hfree hread hlt hj => ?_⟩
  have hj' : j = { id := (s.atRing r).sched.nextJob, ring := r, seq := (s.atRing r).reg (ringReg r 0x3C)
                   desc := ((s.atRing r).ring r).reading } := hj
  have hb' : Bounded (s.atRing r) := hb
  rw [State.intakeRing_read (s := s.atRing r) hfree hread] at hturn
  refine ⟨fun hbad => ?_, fun hgood hkind hfits => ?_⟩
  · obtain ⟨sc, hjobs, hframe⟩ := State.refuseDesc_frame hj' 0x30
    rw [State.intakeDesc_bad (s := s.atRing r) hj' hbad, hframe] at hturn
    exact ⟨_, hturn, hjobs, State.headNext_head hb' r, State.headNext_seq hb' r, rfl, rfl, rfl, rfl, rfl, rfl⟩
  · have hlists : j.entries = [] := by rw [hj]
    obtain ⟨sc, c, hjobs, hframe⟩ := State.acceptDesc_frame (s.atRing r) r { j with items := [{ tile := s.errs.anchor, entry := 0 }] }
    rw [State.intakeDesc_good (s := s.atRing r) hj' hgood hkind, State.decide303_single (s := s.atRing r) hkind hlists hfits] at hturn
    have hb1 := State.headNext_bounded hb' r
    refine ⟨_, hturn.trans (congrArg _ hframe), hjobs, ?_, ?_, rfl, rfl, rfl, rfl, rfl⟩
    · exact (State.seqNext_head hb1 r).trans (State.headNext_head hb' r)
    · exact (State.seqNext_seq hb1 r).trans (by rw [State.headNext_seq hb' r]; rfl)

end Sys2Proof.Machine
end

section
/-! SUPPORT. Ageing of held descriptors and ready items (11 R304, 12 R344), budgets (09 R252), batching rounds and windows (12 R345, R346).
The statement on ageing, rounds and windows. -/

namespace Sys2Proof.Machine

open Sys2Proof.Safety

/-! ### Ageing of descriptors (11 R304) -/

section
variable {s : State} {r : Nat}

/-- A held descriptor gains ageing priority behind those that have it. -/
theorem State.ageRing_ages (haged : (s.ring r).aged = false) (hheld : (s.ring r).heldTrk = true ∨ (s.ring r).heldCpl = true) :
    s.ageRing r = { s with sched := { s.sched with
      agedSeq := s.sched.agedSeq + 1
      rings := tset {} s.sched.rings r { s.ring r with aged := true, agedAt := s.sched.agedSeq + 1 } } } := by
  have hages : ((s.ring r).heldTrk || (s.ring r).heldCpl) && !(s.ring r).aged := by simp [haged, hheld]
  unfold State.ageRing
  exact if_pos hages

theorem State.ageRing_idle (h : (s.ring r).aged = true ∨ ((s.ring r).heldTrk = false ∧ (s.ring r).heldCpl = false)) :
    s.ageRing r = s := by
  unfold State.ageRing
  refine if_neg ?_
  obtain h | ⟨htrk, hcpl⟩ := h
  · simp [h]
  · simp [htrk, hcpl]

end

/-! ### Ageing of items, and budgets (12 R344, R345, 09 R252) -/

section
variable {s : State} {id k : Nat}

theorem State.ageItem_none (h : s.item id k = none) : s.ageItem id k = s := by
  unfold State.ageItem
  simp only [h]

variable {i : Item} (hi : s.item id k = some i)
include hi

/-- An item of no open round gains ageing priority once. -/
theorem State.ageItem_ages (hage : s.ageable id k i = true) (hnew : i.aged = 0) (hrounds : s.roundsOf id k = []) :
    s.ageItem id k = ({ s with sched := { s.sched with agedSeq := s.sched.agedSeq + 1 } } : State).modItem id k
      (fun i => { i.foundReady s.now with aged := s.sched.agedSeq + 1 }) := by
  unfold State.ageItem
  simp only [hi, hage, hnew, and_self, if_true]
  exact congrArg (List.foldl State.closeRound _) hrounds

/-- One that cannot age any more closes its open round all the same. -/
theorem State.ageItem_closes {r : Round} (hno : s.ageable id k i = false ∨ i.aged ≠ 0) (hrounds : s.roundsOf id k = [r]) :
    s.ageItem id k = s.closeRound r := by
  have hnot : ¬ (s.ageable id k i = true ∧ i.aged = 0) := fun ⟨hage, hnew⟩ => by
    obtain hno | hno := hno
    · exact Bool.false_ne_true (hno.symm.trans hage)
    · exact hno hnew
  unfold State.ageItem
  simp only [hi, if_neg hnot, hrounds, List.foldl_cons, List.foldl_nil]

end

/-- An item whose budget of evictions is over (09 R252). -/
def Item.budgetEnds (i : Item) : Item := if i.st = .evictWait then { i with st := .waiting, budgetOut := true } else i

theorem exec_evictBudgetElapsed (s : State) (id k : Nat) :
    exec (.evictBudgetElapsed id k) s = .next (s.modItem id k Item.budgetEnds) := rfl

/-! ### Rounds that close (12 R345) -/

/-- Only lines of cores' caches differ. -/
def CacheOnly (s t : State) : Prop := t = { s with cores := { s.cores with cache := t.cores.cache } }

theorem CacheOnly.trans {s t u : State} (h : CacheOnly s t) (k : CacheOnly t u) : CacheOnly s u := by
  unfold CacheOnly at *
  refine k.trans ?_
  rw [h]

theorem CacheOnly.foldl {α : Type} {f : State → α → State} (hf : ∀ s a, CacheOnly s (f s a)) (l : List α) (s : State) :
    CacheOnly s (l.foldl f s) := by
  induction l generalizing s with
  | nil => exact rfl
  | cons a l ih => exact (hf s a).trans (ih (f s a))

theorem State.fillLine_cacheOnly (s : State) (core f gen n : Nat) : CacheOnly s (s.fillLine core f gen n) := by
  unfold State.fillLine
  dsimp only
  split
  · exact rfl
  · exact rfl

theorem State.fillCache_cacheOnly (s : State) (f core : Nat) : CacheOnly s (s.fillCache f core) := by
  unfold State.fillCache
  dsimp only
  split
  · exact CacheOnly.foldl (fun s n => State.fillLine_cacheOnly s core f _ n) _ s
  · exact rfl

/-- The counts of a tile's rounds and rows since its last adaptation, with one more round. -/
def Sched.countRound (x : Sched) (r : Round) : Sched :=
  { x with rounds := x.rounds.erase r
           adaptRounds := tset 0 x.adaptRounds r.tile (tget 0 x.adaptRounds r.tile + 1)
           adaptRows := tset 0 x.adaptRows r.tile (tget 0 x.adaptRows r.tile + r.rows.length) }

/-- A state in which a round has been counted: in its tile's window too (20 R510). -/
def State.countRound (s : State) (r : Round) : State :=
  (({ s with sched := s.sched.countRound r } : State).bumpTile r.tile 0x180 1).bumpTile r.tile 0x184 r.rows.length

/-- A round that closes is counted; its multicast, if any, is counted and fills caches. -/
theorem State.closeRound_cacheOnly (s : State) (r : Round) : CacheOnly (s.countRound r) (s.closeRound r) ∨
    ∃ n, CacheOnly ((s.countRound r).bumpTile r.tile 0x12C n) (s.closeRound r) := by
  unfold State.closeRound State.countRound
  dsimp only
  split
  · exact .inl (CacheOnly.foldl (fun s c => State.fillCache_cacheOnly s _ c) _ _)
  · exact .inr ⟨_, CacheOnly.foldl (fun s c => State.fillCache_cacheOnly s _ c) _ _⟩

theorem State.bump_reg_self {s : State} (h : tabOk 0#32 s.regs = true) (off n : Nat) :
    (s.bump off n).reg off = min 0xFFFFFFFF (s.reg off + n) := by
  unfold State.bump
  rw [State.setReg_reg_self h]
  omega

theorem State.bump_reg_ne {s : State} (h : tabOk 0#32 s.regs = true) {off o : Nat} (n : Nat) (ho : o ≠ off) :
    (s.bump off n).reg o = s.reg o :=
  State.setReg_reg_ne h _ ho

theorem State.bump_ok {s : State} (h : tabOk 0#32 s.regs = true) (off n : Nat) : tabOk 0#32 (s.bump off n).regs = true :=
  State.setReg_ok h _ _

theorem win_inj {t w x : Nat} : win t w = win t x ↔ w = x := by
  unfold win
  omega

section
variable {s : State} (h : tabOk 0#32 s.regs = true) (r : Round)
include h

theorem State.countRound_rounds : (s.countRound r).reg (win r.tile 0x180) = min 0xFFFFFFFF (s.reg (win r.tile 0x180) + 1) :=
  (State.bump_reg_ne (State.bump_ok h _ _) _ (by simp [win_inj])).trans (State.bump_reg_self h _ _)

theorem State.countRound_rows :
    (s.countRound r).reg (win r.tile 0x184) = min 0xFFFFFFFF (s.reg (win r.tile 0x184) + r.rows.length) := by
  refine (State.bump_reg_self (State.bump_ok h _ _) _ _).trans ?_
  rw [State.bump_reg_ne h _ (by simp [win_inj])]

theorem State.countRound_ok : tabOk 0#32 (s.countRound r).regs = true := State.bump_ok (State.bump_ok h _ _) _ _

end

/-- What the close of a round changes: the scheduler's counts, its tile's counters, and caches. -/
structure Closes (s t : State) (r : Round) : Prop where
  sched : t.sched = s.sched.countRound r
  frame : t = { s with sched := t.sched, regs := t.regs, cores := { s.cores with cache := t.cores.cache } }
  regs : tabOk 0#32 s.regs = true → t.reg (win r.tile 0x180) = min 0xFFFFFFFF (s.reg (win r.tile 0x180) + 1) ∧
    t.reg (win r.tile 0x184) = min 0xFFFFFFFF (s.reg (win r.tile 0x184) + r.rows.length)

theorem State.closeRound_closes (s : State) (r : Round) : Closes s (s.closeRound r) r := by
  obtain hc | ⟨n, hc⟩ := State.closeRound_cacheOnly s r
  all_goals
    unfold CacheOnly at hc
    generalize s.closeRound r = t at hc
    rw [hc]
  · exact ⟨rfl, rfl, fun h => ⟨State.countRound_rounds h r, State.countRound_rows h r⟩⟩
  · refine ⟨rfl, rfl, fun h => ⟨?_, ?_⟩⟩
    · exact (State.bump_reg_ne (State.countRound_ok h r) n (by simp [win_inj])).trans (State.countRound_rounds h r)
    · exact (State.bump_reg_ne (State.countRound_ok h r) n (by simp [win_inj])).trans (State.countRound_rows h r)

/-- The open round of a frame whose time has come. -/
def State.dueRound (s : State) (tile f : Nat) : Option Round :=
  s.sched.rounds.find? (fun r => r.tile = tile && r.frame = f && decide (r.closeAt ≤ s.now))

section
variable {s : State} {tile : BitVec 5} {f : BitVec 24} (ht : s.hasTile tile.toNat = true)
include ht

theorem exec_batchRoundClose_due {r : Round} (h : s.dueRound tile.toNat f.toNat = some r) :
    exec (.batchRoundClose tile f) s = .next (s.closeRound r) := by
  refine (onTile_of_hasTile ht).trans ?_
  unfold State.dueRound at h
  simp only [h]

theorem exec_batchRoundClose_none (h : s.dueRound tile.toNat f.toNat = none) : exec (.batchRoundClose tile f) s = .next s := by
  refine (onTile_of_hasTile ht).trans ?_
  unfold State.dueRound at h
  simp only [h]

end

/-! ### Windows (12 R346, R348) -/

section
variable {s : State} {t : Nat}

theorem State.adaptWindow_early (h : tget 0 s.sched.adaptRounds t < 1024) : s.adaptWindow t = s := by
  unfold State.adaptWindow
  exact if_pos h

/-- The window that follows `w` after `n` rounds of `rows` rows, within the bounds. -/
def nextWindow (lo hi n rows w : Nat) : Nat :=
  if rows * 4 < 32 * n then (if w = 0 then min hi 1 else min hi (2 * w)) else if 96 * n ≤ rows * 4 then max lo (w / 2) else w

theorem State.adaptWindow_adapts (h : 1024 ≤ tget 0 s.sched.adaptRounds t) :
    s.adaptWindow t = { s with sched := { s.sched with
      window := tset 0 s.sched.window t (nextWindow (bits (s.liveFor t 0x3104) 15 0)
        (max (bits (s.liveFor t 0x3104) 15 0) (bits (s.liveFor t 0x3104) 31 16))
        (tget 0 s.sched.adaptRounds t) (tget 0 s.sched.adaptRows t) (s.windowOf t))
      adaptRounds := tset 0 s.sched.adaptRounds t 0, adaptRows := tset 0 s.sched.adaptRows t 0 } } := by
  unfold State.adaptWindow
  exact if_neg (Nat.not_lt.2 h)

end

section
variable {lo hi n rows w : Nat}

theorem nextWindow_doubles (h : rows * 4 < 32 * n) : nextWindow lo hi n rows w = min hi (if w = 0 then 1 else 2 * w) := by
  unfold nextWindow
  rw [if_pos h, apply_ite (min hi)]

theorem nextWindow_stays (h : 32 * n ≤ rows * 4) (k : rows * 4 < 96 * n) : nextWindow lo hi n rows w = w := by
  unfold nextWindow
  rw [if_neg (Nat.not_lt.2 h), if_neg (Nat.not_le.2 k)]

theorem nextWindow_halves (h : 96 * n ≤ rows * 4) : nextWindow lo hi n rows w = max lo (w / 2) := by
  unfold nextWindow
  rw [if_neg (by omega), if_pos h]

end

/-- Settles O33: descriptors, items and budgets by their cases; a round by what its close changes; a window by how full its rounds were. -/
theorem ageingRoundsAndWindows : Obligations.AgeingRoundsAndWindows := by
  refine ⟨fun s => ⟨fun ring => ⟨fun haged hheld => ?_, fun h => ?_⟩,
    fun id k i hi => ⟨fun hage hnew hrounds => ?_, fun r hno hrounds => ?_, fun hst => ?_, fun hst => ?_⟩, fun id k h => ?_⟩,
    fun s tile ht => ⟨fun f r hr => ?_, fun f hr => exec_batchRoundClose_none ht hr, fun hearly => ?_,
      fun n rows lo hi hn hrows hdue hlo hhi => ?_⟩⟩
  · exact congrArg _ (State.ageRing_ages haged hheld)
  · exact congrArg _ (State.ageRing_idle h)
  · exact congrArg _ (State.ageItem_ages hi hage hnew hrounds)
  · exact congrArg _ (State.ageItem_closes hi hno hrounds)
  · refine ⟨_, exec_evictBudgetElapsed s id k, (State.modItem_item hi _).trans ?_, rfl⟩
    exact congrArg some (if_pos hst)
  · refine ⟨_, exec_evictBudgetElapsed s id k, (State.modItem_item hi _).trans ?_, rfl⟩
    exact congrArg some (if_neg hst)
  · exact congrArg _ (State.ageItem_none h)
  · have hc := State.closeRound_closes s r
    have htile : r.tile = tile.toNat := by
      have hfound := List.find?_some hr
      simp only [Bool.and_eq_true, decide_eq_true_eq] at hfound
      exact hfound.1.1
    rw [← htile]
    exact ⟨_, exec_batchRoundClose_due ht hr, hc.sched, fun hb => hc.regs hb.2, hc.frame⟩
  · exact (onTile_of_hasTile ht).trans (congrArg _ (State.adaptWindow_early hearly))
  · subst hn hrows hhi hlo
    exact ⟨_, (onTile_of_hasTile ht).trans (congrArg _ (State.adaptWindow_adapts hdue)), nextWindow_doubles, nextWindow_stays,
      nextWindow_halves⟩

end Sys2Proof.Machine
end

section
/-! SUPPORT. Writes of the index registers of ring pairs (11 R301, 13 R356) and of the translator's registers (13 R369, R371, R381), where
management writes are taken. The statements on doorbells and indices, on the translator, and on the answers to a fault. -/

namespace Sys2Proof.Machine

open Sys2Proof.Safety

/-! ### Writes of plain registers -/

section
variable {s : State} {off v : Nat} {fs : List Fld}

/-- Where management writes are taken, the write of a register that is no pair goes by that register's own rule. -/
theorem State.mgtWrite_managed (hm : Managed s) (hf : s.fields off = some fs) (hr : fs.any (fun f => f.reserved v) = false)
    (hlow : pairLow off = false) (hhigh : pairHigh off = false) (n : List Byte) :
    s.mgtWrite off v n = if s.writeBarred off v then (s.rejected off, false) else (s.takeWrite fs off v n, true) := by
  obtain ⟨h4, hin⟩ := State.fields_aligned_inside hf
  unfold State.mgtWrite
  rw [State.checkWrite_managed hm hf h4 hin hr, hlow, hhigh]
  rfl

/-- A command that writes a register on a module is answered there with what the write gives. -/
theorem State.writeFrom_mgtWrite {t : State} {q : Req} {ok : Bool} (ha : Arrives s q) (h : s.mgtWrite off v [] = (t, ok)) :
    s.writeFrom q off v = .next (t.answer q ok 0) := by
  obtain ⟨htile, hmode, hroom⟩ := ha
  refine (onTile_of_hasTile htile).trans ?_
  unfold State.hostWrite
  rw [if_neg hmode, hroom, h]
  rfl

/-- A register of one RW field that is not LIVE takes the field. -/
theorem State.writeReg_field {hi lo : Nat} {r : List (Nat × Nat)} (hlive : liveRegs.contains off = false) :
    s.writeReg [⟨hi, lo, .rw, r⟩] off v = s.setReg off (Fld.put ⟨hi, lo, .rw, r⟩ (s.reg off) v) := by
  unfold State.writeReg
  simp only [hlive, Bool.and_false, Bool.false_eq_true, if_false]
  unfold State.applyWrite
  simp only [List.foldl_cons, List.foldl_nil, applyField, Bool.false_eq_true, if_false, if_true]
  rfl

end

/-! ### TAIL and CPL_HEAD (11 R301, 13 R356) -/

section
variable {s : State} {r o v : Nat}

theorem State.mgtWrite_ringIndex (hm : Managed s) (hr : r < s.part.rings) (ho : o = 0x0C ∨ o = 0x20) (hv : v < 2 ^ 32) :
    s.mgtWrite (ringReg r o) v [] = if s.ringBarred r o v then (s.rejected (ringReg r o), false)
      else ({ s with regs := tset 0#32 s.regs (ringReg r o) (BitVec.ofNat 32 v) }, true) := by
  have hr64 : r < 64 := hr.trans_le (Part.rings_le _)
  have hctl : o = 0x0C ∨ o = 0x20 ∨ o = 8 := ho.imp_right .inl
  have hf : s.fields (ringReg r o) = some (whole .rw) := by
    rcases ho with rfl | rfl
    · exact (ringReg_fields hr (by decide) (by decide)).1
    · exact (ringReg_fields hr (by decide) (by decide)).1
  obtain ⟨hlive, hlow, hhigh⟩ := ringReg_plain hr64 (o := o) (by omega) hctl
  rw [State.mgtWrite_managed hm hf rfl hlow hhigh, State.writeBarred_ring hr64 hctl, State.takeWrite_ring hr64 ho,
    State.writeReg_rw hv hlive]

theorem State.ringBarred_tail : s.ringBarred r 0x0C v = true ↔ bit (s.reg (ringReg r 8)) 0 = false ∨
    2 ^ bits (s.reg (ringReg r 8)) 5 1 < ahead (s.reg (ringReg r 0x10)) v := by
  unfold State.ringBarred
  simp

theorem State.ringBarred_cplHead : s.ringBarred r 0x20 v = true ↔
    ahead (s.reg (ringReg r 0x20)) (s.reg (ringReg r 0x1C)) < ahead (s.reg (ringReg r 0x20)) v := by
  unfold State.ringBarred
  simp

/-- A TAIL that is not refused: the pair is enabled, and the index no more than the ring's size ahead of HEAD. -/
theorem State.ringBarred_tail_false (hon : bit (s.reg (ringReg r 8)) 0 = true)
    (hle : ahead (s.reg (ringReg r 0x10)) v ≤ 2 ^ bits (s.reg (ringReg r 8)) 5 1) : s.ringBarred r 0x0C v = false := by
  rw [← Bool.not_eq_true, State.ringBarred_tail, hon]
  simpa using hle

end

/-- The command of a doorbell whose reserved bits are zero is a write of its ring's TAIL. -/
theorem exec_dbell {s : State} {q : Req} {aux : BitVec 32} {addr : BitVec 64} (htile : s.hasTile q.tile.toNat = true)
    (hm : Managed s) (haux : aux.toNat < 64) :
    exec (.dbell q aux addr) s = .next (s.mgtWrite (ringReg aux.toNat 0x0C) (addr.toNat % 2 ^ 32) []).1 := by
  have hmode : s.cfg.mode ≠ .off := by
    rcases hm with h | h | h | h | h <;> simp [h]
  have hresv : bits aux.toNat 31 6 = 0 := by
    simp only [bits, Nat.shiftRight_eq_div_pow]
    omega
  have hring : bits aux.toNat 5 0 = aux.toNat := by
    simp only [bits_low]
    omega
  refine (onTile_of_hasTile htile).trans ?_
  unfold State.doorbell
  rw [if_neg hmode, if_neg (not_not_intro hresv), hring]

/-- Settles O21: the write of an index register, by its rule, as a doorbell's and as the host's. -/
theorem tailAndHeadStayInBounds : Obligations.TailAndHeadStayInBounds := by
  refine ⟨fun s q aux addr htile hm haux hr => ?_, fun s q ring v ha hm hr => ?_⟩
  · have hbell := exec_dbell (q := q) (addr := addr) htile hm haux
    rw [State.mgtWrite_ringIndex hm hr (.inl rfl) (by omega)] at hbell
    refine ⟨fun hon hle => ?_, fun hbad => ?_⟩
    · rw [State.ringBarred_tail_false hon hle] at hbell
      exact hbell
    · rw [State.ringBarred_tail.2 hbad] at hbell
      exact hbell
  · have hindex {o : Nat} (ho : o = 0x0C ∨ o = 0x20) := State.mgtWrite_ringIndex hm hr ho v.isLt
    simp only [BitVec.ofNat_toNat, BitVec.setWidth_eq] at hindex
    refine ⟨fun hon hle => ?_, fun hbad => ?_, fun hle => ?_, fun hlt => ?_⟩
    · exact State.writeFrom_mgtWrite ha ((hindex (.inl rfl)).trans (by rw [State.ringBarred_tail_false hon hle]; rfl))
    · exact State.writeFrom_mgtWrite ha ((hindex (.inl rfl)).trans (if_pos (State.ringBarred_tail.2 hbad)))
    · exact State.writeFrom_mgtWrite ha ((hindex (.inr rfl)).trans (if_neg (mt State.ringBarred_cplHead.1 hle.not_gt)))
    · exact State.writeFrom_mgtWrite ha ((hindex (.inr rfl)).trans (if_pos (State.ringBarred_cplHead.2 hlt)))

/-! ### HAT_CTL.ENABLE and HAT_FQ_HEAD (13 R369, R381, 20 R505) -/

/-- What HAT_CTL refuses: ENABLE = 0b while a pair is busy or a fault is open. -/
theorem State.writeBarred_hatCtl {s : State} {v : Nat} : s.writeBarred 0xC000 v = true ↔
    bit v 0 = false ∧ ((∃ r, r < s.part.rings ∧ s.ringBusy r = true) ∨ s.host.faults ≠ []) := by
  unfold State.writeBarred
  simp

theorem State.writeBarred_fqHead {s : State} {v : Nat} : s.writeBarred 0xC028 v = true ↔
    ahead (s.reg 0xC028) (s.reg 0xC024) < ahead (s.reg 0xC028) v := by
  unfold State.writeBarred
  simp

/-- Bit 0 of a word whose bit 0 was replaced. -/
theorem bit_put_zero {a : AccT} {r : List (Nat × Nat)} (old v : Nat) :
    bit (Fld.put ⟨0, 0, a, r⟩ old v % 2 ^ 32) 0 = bit v 0 := by
  unfold bit Fld.put Fld.get
  simp only [bits_low, Nat.testBit_zero]
  congr 1
  simp only [eq_iff_iff]
  omega

/-- A write of HAT_CTL that is not refused changes that register's ENABLE only. -/
theorem State.writeFrom_hatCtl {s : State} {q : Req} {v : Nat} (ha : Arrives s q) (hm : Managed s)
    (hb : s.writeBarred 0xC000 v = false) :
    ∃ t : State, s.writeFrom q 0xC000 v = .next (t.answer q true 0) ∧ t = { s with regs := t.regs } ∧
      (Bounded s → bit (t.reg 0xC000) 0 = bit v 0 ∧ ∀ o, o ≠ 0xC000 → t.reg o = s.reg o) := by
  have hw := State.mgtWrite_managed (off := 0xC000) (v := v) (fs := [⟨0, 0, .rw, []⟩]) hm rfl rfl rfl rfl []
  rw [hb] at hw
  have htake : s.takeWrite [⟨0, 0, .rw, []⟩] 0xC000 v [] = s.setReg 0xC000 (Fld.put ⟨0, 0, .rw, []⟩ (s.reg 0xC000) v) :=
    State.writeReg_field rfl
  rw [htake] at hw
  refine ⟨_, State.writeFrom_mgtWrite ha hw, rfl, fun hok => ⟨?_, fun o ho => State.setReg_reg_ne hok.2 _ ho⟩⟩
  rw [State.setReg_reg_self hok.2, bit_put_zero]

/-- Settles O25: ENABLE set and cleared by the one rule of HAT_CTL; HAT_FQ_HEAD by its bound. -/
theorem translatorAndFaultQueue : Obligations.TranslatorAndFaultQueue := by
  refine ⟨fun s q ha hm => ⟨?_, fun hidle hfaults => ?_, fun hbusy => ?_⟩, fun s q v ha hm => ?_⟩
  · exact State.writeFrom_hatCtl ha hm rfl
  · refine State.writeFrom_hatCtl ha hm (Bool.eq_false_iff.2 fun hbar => ?_)
    obtain ⟨-, ⟨r, hr, hbusy⟩ | hopen⟩ := State.writeBarred_hatCtl.1 hbar
    · exact Bool.false_ne_true ((hidle r hr).symm.trans hbusy)
    · exact hopen hfaults
  · have hw := State.mgtWrite_managed (off := 0xC000) (v := 0) hm rfl rfl rfl rfl []
    exact State.writeFrom_mgtWrite ha (hw.trans (if_pos (State.writeBarred_hatCtl.2 ⟨rfl, hbusy⟩)))
  · have hw := State.mgtWrite_managed (off := 0xC028) (v := v.toNat) hm rfl rfl rfl rfl []
    refine ⟨fun hle => ?_, fun hlt => ?_⟩
    · have hreg := State.writeReg_rw (s := s) (off := 0xC028) v.isLt rfl
      rw [BitVec.ofNat_toNat, BitVec.setWidth_eq] at hreg
      have htake : s.takeWrite (whole .rw) 0xC028 v.toNat [] = (s.writeReg (whole .rw) 0xC028 v.toNat).fqGoes := rfl
      rw [← hreg, ← htake]
      exact State.writeFrom_mgtWrite ha (hw.trans (if_neg (mt State.writeBarred_fqHead.1 hle.not_gt)))
    · exact State.writeFrom_mgtWrite ha (hw.trans (if_pos (State.writeBarred_fqHead.2 hlt)))

/-! ### HAT_FAULT_RESP (13 R371) -/

section
variable {s : State} {f : HatFault} {id : Nat}

theorem State.retryFault_stale (h : s.host.faultOf id = none) : s.retryFault id = s.staleResp id := by
  unfold State.retryFault
  rw [h]

theorem State.retryFault_open (h : s.host.faultOf id = some f) : s.retryFault id = { s with host := { s.host.closeFault f with
    walks := (s.host.closeFault f).walks ++ [{ tile := f.tile, page := f.page, acc := f.acc, both := f.both
                                               who := f.who.map (fun p => (p.1, some p.2)) }] } } := by
  unfold State.retryFault
  rw [h]

theorem State.failFault_stale (h : s.host.faultOf id = none) : s.failFault id = s.staleResp id := by
  unfold State.failFault
  rw [h]

theorem State.failFault_open (h : s.host.faultOf id = some f) : s.failFault id = { s with host := { s.host.closeFault f with
    failed := (s.host.closeFault f).failed ++ f.who.map (fun p => (p.1, 0x40)) } } := by
  unfold State.failFault HostPort.failAll
  rw [h]
  simp only [List.map_map]
  rfl

/-- An answer to a fault that arrives where management writes are taken is taken. -/
theorem State.writeFrom_faultResp {q : Req} {v : Nat} (ha : Arrives s q) (hm : Managed s) :
    s.writeFrom q 0xC040 v = .next ((s.faultResp v).answer q true 0) :=
  State.writeFrom_mgtWrite ha (State.mgtWrite_managed hm (fs := [⟨23, 0, .wo, []⟩, ⟨24, 24, .wo, []⟩]) rfl rfl rfl rfl [])

/-- A FAULT_ID alone is RETRY. -/
theorem State.faultResp_retry (h : id < 2 ^ 24) : s.faultResp id = (s.retryFault id).pump := by
  have hresp : bit id 24 = false := Nat.testBit_lt_two_pow h
  have hid : bits id 23 0 = id := (bits_low id 23).trans (Nat.mod_eq_of_lt h)
  unfold State.faultResp
  rw [hresp, hid]
  rfl

/-- With bit 24 it is FAIL. -/
theorem State.faultResp_fail (h : id < 2 ^ 24) : s.faultResp (2 ^ 24 + id) = (s.failFault id).pump := by
  have hresp : bit (2 ^ 24 + id) 24 = true := by
    unfold bit
    rw [Nat.testBit_two_pow_add_eq, Nat.testBit_lt_two_pow h]
    rfl
  have hid : bits (2 ^ 24 + id) 23 0 = id := by
    rw [bits_low]
    omega
  unfold State.faultResp
  rw [hresp, hid]
  rfl

end

section
variable {s t : State} {q : Req} {id : BitVec 24} (ha : Arrives s q) (hm : Managed s)
include ha hm

theorem exec_retry (h : s.retryFault id.toNat = t) : exec (.retry q id) s = .next (t.pump.answer q true 0) := by
  refine (State.writeFrom_faultResp ha hm).trans ?_
  rw [State.faultResp_retry id.isLt, h]

theorem exec_fail (h : s.failFault id.toNat = t) : exec (.fail q id) s = .next (t.pump.answer q true 0) := by
  refine (State.writeFrom_faultResp ha hm).trans ?_
  rw [State.faultResp_fail id.isLt, h]

end

/-- Settles O26: RETRY and FAIL of an open fault, and of a FAULT_ID that names none. -/
theorem faultIsRetriedOrFailed : Obligations.FaultIsRetriedOrFailed := by
  refine fun s q id ha hm => ⟨fun f hf => ⟨?_, ?_⟩, fun hstale => ⟨?_, ?_⟩⟩
  · exact exec_retry ha hm (State.retryFault_open hf)
  · exact exec_fail ha hm (State.failFault_open hf)
  · exact exec_retry ha hm (State.retryFault_stale hstale)
  · exact exec_fail ha hm (State.failFault_stale hstale)

end Sys2Proof.Machine
end

section
/-! SUPPORT. Responses and timeouts of host requests (13 R355, R372), INVAL and INVAL_ACK (13 R366 to R368), page-table walks and deadlines
of faults (13 R360 to R364, R371). The statements on responses, invalidation and walks. -/

namespace Sys2Proof.Machine

open Sys2Proof.Safety

/-! ### Responses and timeouts (13 R355, R372) -/

section
variable {s : State} {q : Req} {r : HReq}

theorem State.response_unmatched (h : s.host.match q = none) (write : Bool) (status : Nat) (p : List Byte) :
    s.response q write status p = s.strayResponse q := by
  unfold State.response
  rw [h]

theorem State.response_late (h : s.host.match q = some r) (hd : r.dead = true) (write : Bool) (status : Nat) (p : List Byte) :
    s.response q write status p = ({ s with host := s.host.release r } : State).strayResponse q := by
  unfold State.response
  rw [h]
  exact if_pos hd

theorem State.response_otherKind (h : s.host.match q = some r) (hd : r.dead = false) {write : Bool} (hw : r.write ≠ write)
    (status : Nat) (p : List Byte) : s.response q write status p = s.strayResponse q := by
  unfold State.response
  simp only [h, hd, Bool.false_eq_true, if_false, if_pos hw]

/-- A WACK of STATUS 0h is OK, any other BUS_ERROR. -/
theorem State.response_wack (h : s.host.match q = some r) (hd : r.dead = false) (hw : r.write = true) (st : BitVec 4) :
    s.response q true st.toNat [] = ({ s with host := s.host.release r } : State).ends r (if st = 0 then 0 else 0x41) [] := by
  have hzero : st.toNat = 0 ↔ st = 0 := BitVec.toNat_inj (y := 0)
  unfold State.response busStatus
  simp only [h, hd, hw, hzero, ne_eq, not_true_eq_false, Bool.not_true, Bool.false_and, Bool.false_eq_true, if_false]
  rfl

/-- A CPL of STATUS 0h with all the bytes asked for is OK, any other BUS_ERROR. -/
theorem State.response_cpl (h : s.host.match q = some r) (hd : r.dead = false) (hw : r.write = false) (st : BitVec 4) (p : List Byte) :
    s.response q false st.toNat p = ({ s with host := s.host.release r } : State).ends r
      (if st = 0 ∧ p.length = 64 * unitsOf r.addr r.bytes then 0 else 0x41) p := by
  have hzero : st.toNat = 0 ↔ st = 0 := BitVec.toNat_inj (y := 0)
  have hstatus : (if (decide (st = 0) && decide (p.length ≠ 64 * unitsOf r.addr r.bytes)) = true then stHostBus else
      if st = 0 then 0 else stHostBus) = if st = 0 ∧ p.length = 64 * unitsOf r.addr r.bytes then 0 else 0x41 := by
    by_cases hst : st = 0 <;> by_cases hlen : p.length = 64 * unitsOf r.addr r.bytes <;> simp [hst, hlen, stHostBus]
  rw [← hstatus]
  unfold State.response busStatus
  simp only [h, hd, hw, hzero, ne_eq, not_true_eq_false, Bool.not_false, Bool.true_and, Bool.false_eq_true, if_false]

theorem State.requestTimeout_unmatched (h : s.host.match q = none) : s.requestTimeout q = s := by
  unfold State.requestTimeout
  rw [h]

theorem State.requestTimeout_again (h : s.host.match q = some r) (hd : r.dead = true) :
    s.requestTimeout q = { s with host := s.host.release r } := by
  unfold State.requestTimeout
  rw [h]
  exact if_pos hd

/-- What the log says of a request's owner stands in its job, its ring or its migration, not in the host port. -/
theorem State.ownerInfo_host (s : State) (h : HostPort) (o : Owner) : ({ s with host := h } : State).ownerInfo o = s.ownerInfo o := rfl

theorem State.requestTimeout_waiting (h : s.host.match q = some r) (hd : r.dead = false) : s.requestTimeout q =
    ((({ s with host := { s.host with reqs := s.host.reqs.map (fun x => if x = r then { x with dead := true } else x) } } : State).report
      ((s.ownerInfo r.owner).names { severity := sevJob, cause := 0x23, unit := 0x06, tile := r.tile, index := 1
                                     addr := r.where_ })).ends r 0x40 []) := by
  unfold State.requestTimeout
  simp only [h, hd, Bool.false_eq_true, if_false, State.ownerInfo_host]
  rfl

end

/-- Settles O28: a response and a timeout by what its tag names: nothing, a request that timed out, or one that waits. -/
theorem responsesMatchTags : Obligations.ResponsesMatchTags := by
  intro s q st p htile
  have hrun {t u : State} (h : t = u) : onTile s q.tile.toNat t = .next u := (onTile_of_hasTile htile).trans (congrArg _ h)
  refine ⟨fun hm => ⟨?_, ?_, ?_⟩, fun r hm hd => ⟨?_, ?_, ?_⟩, fun r hm hd => ⟨fun hw => ⟨?_, ?_⟩, fun hw => ⟨?_, ?_⟩, ?_⟩⟩
  · exact hrun (State.response_unmatched hm _ _ _)
  · exact hrun (State.response_unmatched hm _ _ _)
  · exact hrun (State.requestTimeout_unmatched hm)
  · exact hrun (State.response_late hm hd _ _ _)
  · exact hrun (State.response_late hm hd _ _ _)
  · exact hrun (State.requestTimeout_again hm hd)
  · exact hrun (State.response_otherKind hm hd (by simp [hw]) _ _)
  · exact hrun (State.response_cpl hm hd hw st p)
  · exact hrun (State.response_otherKind hm hd (by simp [hw]) _ _)
  · exact hrun (State.response_wack hm hd hw st)
  · exact hrun (State.requestTimeout_waiting hm hd)

/-! ### INVAL and INVAL_ACK (13 R366 to R368) -/

/-- The model's range of an INVAL is the one that the statement spells out. -/
theorem invalRange_eq_some {aux addr first n : Nat} : invalRange aux addr = some (first, n) ↔ Covers aux addr first n := by
  unfold invalRange Covers
  dsimp only
  split
  case h_1 hscope => simp only [hscope]; grind
  case h_2 hscope => simp only [hscope]; grind
  case h_3 hscope => simp [hscope, eq_comm]
  case h_4 hpage hrun hall => grind

theorem invalRange_eq_none {aux addr : Nat} (h : ¬ ∃ first n, Covers aux addr first n) : invalRange aux addr = none :=
  Option.eq_none_iff_forall_ne_some.2 fun x hx => h ⟨x.1, x.2, invalRange_eq_some.1 hx⟩

section
variable {s : State} {q : Req} {aux addr first n : Nat}

theorem State.takeInval_malformed (h : ¬ ∃ first n, Covers aux addr first n) : s.takeInval q aux addr = s.send (invalAckOf q 2) := by
  unfold State.takeInval
  rw [invalRange_eq_none h]
  rfl

theorem State.takeInval_full (h : 64 ≤ waitingInvals s q) : s.takeInval q aux addr = s.send (invalAckOf q 2) := by
  unfold State.takeInval
  cases hrange : invalRange aux addr with
  | none => rfl
  | some x => exact if_pos h

theorem State.takeInval_taken (h : Covers aux addr first n) (hroom : waitingInvals s q < 64) : s.takeInval q aux addr =
    { s.invalidate first n with host := { (s.invalidate first n).host with invals := s.host.invals ++ [⟨q, first, n⟩] } } := by
  unfold State.takeInval
  rw [invalRange_eq_some.2 h]
  exact if_neg (Nat.not_le.2 hroom)

theorem not_inPages {p : Nat} : (!inPages first n p) = true ↔ ¬ (first ≤ p ∧ p < first + n) := by
  simp only [inPages, Bool.not_eq_true', ← Bool.not_eq_true, Bool.and_eq_true, decide_eq_true_iff]

theorem State.invalidate_look (e : Nat × LookEntry) :
    e ∈ (s.invalidate first n).host.look ↔ e ∈ s.host.look ∧ ¬ Meets e.2 first n := by
  refine List.mem_filter.trans (and_congr_right fun _ => ?_)
  simp only [Meets, Bool.not_eq_true', ← Bool.not_eq_true, Bool.and_eq_true, decide_eq_true_iff]

theorem State.invalidate_carried (c : Carry) :
    c ∈ (s.invalidate first n).host.carried ↔ c ∈ s.host.carried ∧ ¬ (first ≤ c.page ∧ c.page < first + n) :=
  List.mem_filter.trans (and_congr_right fun _ => not_inPages)

/-- An item that stands in a job afterwards holds what it held of pages that are not covered. -/
theorem State.invalidate_items {j : Job} {i : Item} {p : Nat × Nat} (hj : j ∈ (s.invalidate first n).sched.jobs) (hi : i ∈ j.items)
    (hp : p ∈ i.trans) : ¬ (first ≤ p.1 ∧ p.1 < first + n) := by
  obtain ⟨x, -, rfl⟩ := List.mem_map.1 hj
  obtain ⟨y, -, rfl⟩ := List.mem_map.1 hi
  exact not_inPages.1 (List.mem_filter.1 hp).2

theorem State.invalidate_migs {m : Mig} {p : Nat × Nat} (hm : m ∈ (s.invalidate first n).store.migs) (hp : p ∈ m.trans) :
    ¬ (first ≤ p.1 ∧ p.1 < first + n) := by
  obtain ⟨x, -, rfl⟩ := List.mem_map.1 hm
  exact not_inPages.1 (List.mem_filter.1 hp).2

end

section
variable {s : State} {q : Req} {i : Inval}

theorem State.ackInval_none (h : s.host.invals.find? (fun x => x.q = q) = none) : s.ackInval q = s := by
  unfold State.ackInval
  rw [h]

theorem State.ackInval_waits (h : s.host.invals.find? (fun x => x.q = q) = some i) (hc : s.host.covered i = true) :
    s.ackInval q = s := by
  unfold State.ackInval
  rw [h]
  exact if_pos hc

theorem State.ackInval_acks (h : s.host.invals.find? (fun x => x.q = q) = some i) (hc : s.host.covered i = false) :
    s.ackInval q = ((({ s with host := { s.host with invals := s.host.invals.erase i } } : State).send (invalAckOf q 0)).bump 0xC048 1) := by
  unfold State.ackInval
  rw [h]
  exact if_neg (Bool.eq_false_iff.1 hc)

end

/-- Settles O29: an INVAL refused or taken, with what it leaves of each list of translations; its acknowledgement. -/
theorem invalidationDropsCovered : Obligations.InvalidationDropsCovered := by
  refine fun s q aux addr => ⟨fun htile => ⟨fun hbad => ?_, fun first n hcov hroom => ?_⟩, fun hnone => ?_,
    fun i hi => ⟨fun hc => ?_, fun hc => ?_⟩⟩
  · refine (onTile_of_hasTile htile).trans (congrArg _ ?_)
    rcases hbad with hbad | hfull
    · exact State.takeInval_malformed hbad
    · exact State.takeInval_full hfull
  · exact ⟨_, (onTile_of_hasTile htile).trans (congrArg _ (State.takeInval_taken hcov hroom)), rfl, State.invalidate_look,
      State.invalidate_carried, fun j hj i hi p hp => State.invalidate_items hj hi hp,
      fun m hm p hp => State.invalidate_migs hm hp, rfl⟩
  · exact congrArg _ (State.ackInval_none hnone)
  · exact congrArg _ (State.ackInval_waits hi hc)
  · exact congrArg _ (State.ackInval_acks hi hc)

/-! ### Walks (13 R360, R363, R364) -/

/-- The state once a walk is no longer in flight. -/
def State.walked (s : State) (k : Walk) : State := { s with host := { s.host with walks := s.host.walks.erase k } }

section
variable {s : State} {k : Walk} {hv : HostView}

/-- The end of a walk by the entries read, from the root table on. -/
def State.walkEnd (s : State) (k : Walk) (hv : HostView) : WalkEnd := walkFrom hv k.page k.acc k.both 4 (s.reg64 0xC008 / 4096)

theorem State.walked_walkEnd : (s.walked k).walkEnd k hv = s.walkEnd k hv := rfl

theorem State.endWalk_leaf {level e table : Nat} (h : s.walkEnd k hv = .leaf level e table) :
    s.endWalk k hv = { s.walked k with host := { (s.walked k).host with
      look := fillLook k.tile (leafRun hv level e table k.page) s.host.look
      carried := s.host.carried ++ k.gives ((leafRun hv level e table k.page).phys k.page) } } := by
  rw [← State.walked_walkEnd] at h
  unfold State.walkEnd State.walked at h
  unfold State.endWalk
  simp only [h]
  rfl

theorem State.endWalk_fault {c l : Nat} (h : s.walkEnd k hv = .fault c l) : s.endWalk k hv = (s.walked k).openFault k c l := by
  rw [← State.walked_walkEnd] at h
  unfold State.walkEnd State.walked at h
  unfold State.endWalk
  simp only [h]
  rfl

theorem State.endWalk_bus (h : s.walkEnd k hv = .bus) : s.endWalk k hv = { s.walked k with host := { (s.walked k).host with
    failed := s.host.failed ++ (k.who.map Prod.fst).map (fun w => (w, 0x41)) } } := by
  rw [← State.walked_walkEnd] at h
  unfold State.walkEnd State.walked at h
  unfold State.endWalk
  simp only [h]
  rfl

end

section
variable {s : State} {tile : BitVec 5} {va : BitVec 48} (hv : HostView) (htile : s.hasTile tile.toNat = true)
include htile

theorem exec_hatWalk_none (h : (s.host.inFlight tile.toNat).filter (fun k => k.page = va.toNat / 4096) = []) :
    exec (.hatWalk tile va hv) s = .next s.pump := by
  refine (onTile_of_hasTile htile).trans ?_
  unfold State.hatWalk
  rw [h]
  rfl

theorem exec_hatWalk_one {k : Walk} {t : State}
    (h : (s.host.inFlight tile.toNat).filter (fun k => k.page = va.toNat / 4096) = [k]) (ht : s.endWalk k hv = t) :
    exec (.hatWalk tile va hv) s = .next t.pump := by
  refine (onTile_of_hasTile htile).trans ?_
  unfold State.hatWalk
  rw [h, List.foldl_cons, List.foldl_nil, ht]

end

/-! ### Deadlines of a fault (13 R371) -/

/-- The requesters whose deadline is the earliest. -/
def HatFault.expired (f : HatFault) : List Waiter := (f.who.filter (fun p => p.2 = f.due)).map Prod.fst

section
variable {s : State} {f : HatFault} {tile place : Nat}

theorem State.faultTimeout_none (h : s.host.faults.find? (fun f => f.tile = tile && f.place = place) = none) :
    s.faultTimeout tile place = s := by
  unfold State.faultTimeout
  rw [h]

theorem State.faultTimeout_closes (h : s.host.faults.find? (fun f => f.tile = tile && f.place = place) = some f)
    (hall : ∀ p ∈ f.who, p.2 = f.due) : s.faultTimeout tile place =
      ({ s with host := { s.host.closeFault f with
        failed := (s.host.closeFault f).failed ++ f.expired.map (fun w => (w, 0x40)) } } : State).timeoutEntry tile f.page f.expired := by
  have hrest : f.who.filter (fun p => p.2 ≠ f.due) = [] := List.filter_eq_nil_iff.2 fun p hp => by simp [hall p hp]
  unfold State.faultTimeout
  simp only [h, hrest, if_true]
  rfl

theorem State.faultTimeout_stays (h : s.host.faults.find? (fun f => f.tile = tile && f.place = place) = some f)
    (hsome : ∃ p ∈ f.who, p.2 ≠ f.due) : s.faultTimeout tile place =
      ({ s with host := { s.host with
        faults := s.host.faults.map (fun g => if g = f then { g with who := f.who.filter (fun p => p.2 ≠ f.due) } else g)
        failed := s.host.failed ++ f.expired.map (fun w => (w, 0x40)) } } : State).timeoutEntry tile f.page f.expired := by
  obtain ⟨p, hp, hlater⟩ := hsome
  have hrest : f.who.filter (fun p => p.2 ≠ f.due) ≠ [] :=
    List.ne_nil_of_mem (List.mem_filter.2 ⟨hp, decide_eq_true hlater⟩)
  unfold State.faultTimeout
  simp only [h, if_neg hrest]
  rfl

end

/-- Settles O31: the one walk of a page by the end that it comes to; a deadline by whether it is the last of its fault. -/
theorem walkFillsFaultsOrExpires : Obligations.WalkFillsFaultsOrExpires := by
  refine ⟨fun s tile va hv htile => ⟨exec_hatWalk_none hv htile, fun k u hk hu => ?_⟩, fun s tile place htile => ⟨fun h => ?_,
    fun f out h hout => ?_⟩⟩
  · subst hu
    refine ⟨fun level e table hend => ?_, fun c l hend => ?_, fun hend => ?_⟩
    · exact exec_hatWalk_one hv htile hk (State.endWalk_leaf hend)
    · exact exec_hatWalk_one hv htile hk (State.endWalk_fault hend)
    · exact exec_hatWalk_one hv htile hk (State.endWalk_bus hend)
  · exact (onTile_of_hasTile htile).trans (congrArg (Host.Outcome.next ∘ State.pump) (State.faultTimeout_none h))
  · subst hout
    refine ⟨fun hall => ?_, fun hsome => ?_⟩
    · exact (onTile_of_hasTile htile).trans (congrArg (Host.Outcome.next ∘ State.pump) (State.faultTimeout_closes h hall))
    · exact (onTile_of_hasTile htile).trans (congrArg (Host.Outcome.next ∘ State.pump) (State.faultTimeout_stays h hsome))

end Sys2Proof.Machine
end

section
/-! SUPPORT. A module that trains (13 R351), in a table of degraded modules that is not canonical and in one that is. The statement on
packets, modules and DMA channels. -/

namespace Sys2Proof.Machine

/-! ### Modules that train (13 R351) -/

theorem State.pump_without_migrations {s : State} (h : s.store.migs = []) : s.pump = s := by
  unfold State.pump
  rw [h, List.foldl_nil]

theorem exec_ucieModuleUp {s : State} {tile : BitVec 5} {m : BitVec 2} (htile : s.hasTile tile.toNat = true)
    (hmode : s.cfg.mode ≠ .off) (hm : m.toNat < s.part.modules) (d : Bool) :
    exec (.ucieModuleUp tile m d) s = .next (s.moduleUp tile.toNat m.toNat d).pump := by
  refine (onTile_of_hasTile htile).trans ?_
  have hrun : (decide (m.toNat < s.part.modules) && s.running) = true := by simp [State.running, hm, hmode]
  rw [hrun, State.whenever_true]

/-- Taking a bit that is set out of a word clears it. -/
theorem bit_sub_two_pow {x m : Nat} (h : bit x m = true) : bit (x - 2 ^ m) m = false := by
  have hx : x = 2 ^ m + (x - 2 ^ m) := (Nat.add_sub_of_le (Nat.ge_two_pow_of_testBit h)).symm
  unfold bit at h ⊢
  rw [hx, Nat.testBit_two_pow_add_eq] at h
  simpa using h

theorem bit_add_two_pow {x m : Nat} (h : bit x m = false) : bit (x + 2 ^ m) m = true := by
  unfold bit at h ⊢
  rw [Nat.add_comm, Nat.testBit_two_pow_add_eq, h]
  rfl

/-- In a canonical table a module that trains is degraded as its event says. -/
theorem State.moduleUp_degraded {s : State} (h : tabOk 0 s.host.degraded = true) (t m : Nat) (d : Bool) :
    bit (tget 0 (s.moduleUp t m d).host.degraded t) m = d := by
  refine (congrArg (bit · m) (tget_tset_self h t _)).trans ?_
  cases d <;> cases hbit : bit (tget 0 s.host.degraded t) m <;> simp [hbit, bit_sub_two_pow, bit_add_two_pow]

/-- A part in READY whose table of degraded modules lists tile 0 twice, module 0 degraded in both: no step from reset leads to it. -/
def twiceDegraded : State :=
  { State.reset with
    cfg := { State.reset.cfg with mode := .ready }
    host := { State.reset.host with degraded := [(0, 1), (0, 1)] } }

/-- The event's write takes out the first listing, and the second is read. -/
theorem twiceDegraded_moduleUp : bit (tget 0 (twiceDegraded.moduleUp 0 0 false).host.degraded 0) 0 = true := by decide

/-- Refutes O30: the clause of UCIE_MODULE_UP has no premise that the table of degraded modules is canonical, as the clause of
UCIE_MODULE_DOWN has for the modules that are up; in `twiceDegraded` a module that trains with all its lanes still reads as degraded.
`State.moduleUp_degraded` is the clause with that premise. -/
theorem not_packetsModulesAndDma : ¬ Obligations.PacketsModulesAndDma := by
  intro h
  obtain ⟨t, hnext, -, hwhole, -, ht⟩ := (h.1 twiceDegraded).2.1 0 0 false (by decide) (by decide) (by decide)
  have hrun : exec (.ucieModuleUp 0 0 false) twiceDegraded = .next (twiceDegraded.moduleUp 0 0 false).pump :=
    exec_ucieModuleUp (by decide) (by decide) (by decide) false
  have hidle : t.store.migs = [] := ht ▸ rfl
  have hsame : t = twiceDegraded.moduleUp 0 0 false :=
    calc t = t.pump := (State.pump_without_migrations hidle).symm
      _ = (twiceDegraded.moduleUp 0 0 false).pump := next_inj (hrun.symm.trans hnext)
      _ = twiceDegraded.moduleUp 0 0 false := State.pump_without_migrations rfl
  exact Bool.false_ne_true (hwhole.symm.trans (hsame ▸ twiceDegraded_moduleUp))

end Sys2Proof.Machine
end

section
/-! SUPPORT. What every command does to straps, fuses, queue and device state (14 R384, R386). The statements on the step. -/

namespace Sys2Proof.Machine

open Sys2Proof.Safety

/-! ### The state table (14 R386) -/

/-- A change inside an operation is one of the table, or leads to HALTED. -/
theorem Inner.follows {a b : Mode} (h : Inner a b) : Follows a b := by
  obtain rfl | ⟨hoff, rfl⟩ | ⟨rfl, rfl⟩ | ⟨rfl, rfl⟩ := h
  · exact .inl rfl
  · exact .inr (.inr (.inl ⟨rfl, hoff⟩))
  · exact .inr (.inr (.inr (.inl (by decide))))
  · exact .inr (.inr (.inr (.inl (by decide))))

theorem Asked.follows {a b : Mode} (h : Asked a b) : Follows a b := by
  obtain h | ⟨rfl, rfl | rfl⟩ | ⟨ha, rfl | rfl⟩ := h
  · exact h.follows
  · exact .inr (.inr (.inr (.inl (by decide))))
  · exact .inr (.inr (.inr (.inr ⟨rfl, rfl⟩)))
  · exact .inr (.inr (.inr (.inl (by obtain rfl | rfl := ha <;> decide))))
  · exact .inr (.inr (.inl ⟨rfl, by obtain rfl | rfl := ha <;> decide⟩))

/-- Every edge of `Edge` is a row of the table of 14 R386, or leads to HALTED or OFF. -/
theorem Edge.follows {a b : Mode} (h : Edge a b) : Follows a b := by
  obtain h | rfl | ⟨rfl, rfl⟩ | ⟨rfl, rfl⟩ | ⟨rfl, rfl⟩ | ⟨rfl, rfl⟩ | ⟨rfl, rfl | rfl⟩ := h
  · exact h.follows
  · exact .inr (.inl rfl)
  all_goals exact .inr (.inr (.inr (.inl (by decide))))

/-- No edge leaves HALTED but the one to OFF. -/
theorem Edge.of_halted {b : Mode} (h : Edge .halted b) : b = .halted ∨ b = .off := by
  simp only [Edge, Asked, Inner] at h
  grind

/-! ### Every step -/

/-- What every command does: straps, fuses and queue stay, and the device state goes along one edge. -/
theorem exec_edge {c : Instr} {s t : State} (e : exec c s = .next t) : SamePart s t ∧ Edge s.cfg.mode t.cfg.mode := by
  have ofMoves (h : Moves s t) : SamePart s t ∧ Edge s.cfg.mode t.cfg.mode := ⟨⟨h.part, h.stepping, h.fuses, h.pending⟩, h.mode⟩
  by_cases h : Instr.beyondGround c = false
  · exact ofMoves (exec_ground h e).moves
  cases c with
  | resetNLow =>
    obtain ⟨hpart, hstep, hfuses, hpending, hoff, -⟩ := execResetNLow_off e
    exact ⟨⟨hpart, hstep, hfuses, hpending⟩, .inr (.inl hoff)⟩
  | pwrOkFall =>
    obtain ⟨hpart, hstep, hfuses, hpending, hoff, -⟩ := execPwrOkFall_off e
    exact ⟨⟨hpart, hstep, hfuses, hpending⟩, .inr (.inl hoff)⟩
  | resetNRise => exact ofMoves (execResetNRise_moves e)
  | bootDone report => exact ofMoves (execBootDone_moves report e)
  | nvmBurst bytes => exact ofMoves (execNvmBurst_moves bytes e)
  | verify => exact ofMoves (execVerify_moves e)
  | init => exact ofMoves (execInit_moves e)
  | lcStep code => exact ofMoves (execLcStep_moves code e)
  | keyWrite slot image => exact ofMoves (execKeyWrite_moves slot image e)
  | _ => exact absurd rfl h

/-- A step is a cycle of the time base, or the command at the front of the queue. -/
theorem step_cases {s t : State} (e : step s = .next t) :
    (s.pending = [] ∧ t = s.tick) ∨ ∃ c rest, s.pending = c :: rest ∧ exec c { s with pending := rest } = .next t := by
  unfold step at e
  split at e
  next hp => exact .inl ⟨hp, next_inj e⟩
  next c rest hp => exact .inr ⟨c, rest, hp, e⟩

theorem step_edge {s t : State} (e : step s = .next t) : Edge s.cfg.mode t.cfg.mode := by
  obtain ⟨-, rfl⟩ | ⟨c, rest, -, he⟩ := step_cases e
  · rw [State.tick_cfg]
    exact .inl (Asked.refl _)
  · exact (exec_edge he).2

/-- Settles O2: every step goes along one edge, each of which is in the table. -/
theorem stepFollowsStateTable : Obligations.StepFollowsStateTable := fun _ _ e =>
  ⟨(step_edge e).follows, fun h => (h ▸ step_edge e).of_halted⟩

/-- Settles O5: a cycle of the time base, or a command, which leaves the queue's rest. -/
theorem stepTakesOneCommand : Obligations.StepTakesOneCommand := by
  intro s t e
  obtain ⟨hp, rfl⟩ | ⟨c, rest, hp, he⟩ := step_cases e
  · exact ⟨by simp [hp], State.tick_part s, State.tick_stepping s, by rw [State.tick_cfg]⟩
  · obtain ⟨hpart, hstep, hfuses, hpending⟩ := (exec_edge he).1
    exact ⟨by rw [hpending, hp]; rfl, hpart, hstep, hfuses⟩

/-- Settles O1: the definition of a step on a queue that is not empty. -/
theorem stepRunsFront : Obligations.StepRunsFront := by
  intro s c rest hp
  unfold step
  rw [hp]

end Sys2Proof.Machine
end

section
/-! SUPPORT. Power, reset and start-up: OFF, BOOT, LOAD and VERIFY (14 R384 to R395). The statements on how each begins and ends. -/

namespace Sys2Proof.Machine

open Sys2Proof.Safety

/-! ### OFF (14 R384, 15 R428) -/

theorem State.fresh_samePart (s : State) : SamePart s s.fresh := ⟨rfl, rfl, rfl, rfl⟩

/-- The log of every configuration is empty after reset. -/
theorem Part.errors_fifo (p : Part) : p.errors.fifo = [] := by
  cases p <;> rfl

theorem State.fresh_volatile (s : State) : Volatile s.fresh :=
  ⟨rfl, rfl, rfl, rfl, rfl, rfl, Part.errors_fifo s.part, rfl, rfl, rfl⟩

theorem State.off_volatile (s : State) (resetN pwrOk : Bool) : Volatile (s.off resetN pwrOk) := s.fresh_volatile

/-- The loss of PWR_OK in any state but OFF: DYING three times over a link that is up. -/
theorem State.powerFails_running {s : State} (h : s.cfg.mode ≠ .off) : s.powerFails = { s.off s.cfg.resetN false with
    twin := { tx := if s.twin.linkUp then s.twin.tx ++ [.dying, .dying, .dying] else s.twin.tx } } := by
  unfold State.powerFails
  rw [State.tell_thrice]
  exact if_neg h

theorem State.powerFails_off {s : State} (h : s.cfg.mode = .off) :
    s.powerFails = { s with cfg := { s.cfg with pwrOk := false } } := if_pos h

/-- Settles O8: OFF and BOOT are the fresh state; with the pins, the mode and DYING as each event leaves them. -/
theorem powerAndResetChangeState : Obligations.PowerAndResetChangeState := by
  refine ⟨fun s => ⟨⟨_, rfl, rfl, rfl, rfl, s.off_volatile _ _, rfl, rfl, s.fresh_samePart⟩, ?_⟩, fun s hoff => ?_⟩
  · by_cases hoff : s.cfg.mode = .off
    · exact ⟨_, congrArg Host.Outcome.next (State.powerFails_off hoff), hoff, rfl, rfl, ⟨rfl, rfl, rfl, rfl⟩, fun h => absurd hoff h⟩
    · exact ⟨_, congrArg Host.Outcome.next (State.powerFails_running hoff), rfl, rfl, rfl, s.fresh_samePart, fun _ => ⟨s.off_volatile _ _, rfl⟩⟩
  · exact ⟨_, congrArg Host.Outcome.next (if_pos hoff : s.boot = s.fresh), rfl, rfl, s.fresh_volatile, rfl, s.fresh_samePart⟩

/-! ### LOAD (14 R389, R390) -/

section
variable {s : State} {b : List Byte} (hm : s.cfg.mode = .load)
include hm

/-- Staged bytes that do not end at a bad header. -/
theorem State.nvmBurst_staged (h : s.cfg.staged ≠ [] ∨ imageHeaderOk b = true) : s.nvmBurst b =
    if imageLength (s.cfg.staged ++ b) ≤ (s.cfg.staged ++ b).length then { s with cfg := { s.cfg with
      staged := (s.cfg.staged ++ b).take (imageLength (s.cfg.staged ++ b)), repeats := 0, mode := .verify } }
    else { s with cfg := { s.cfg with staged := s.cfg.staged ++ b, repeats := 0 } } := by
  have hgood : ¬ (s.cfg.staged = [] ∧ imageHeaderOk (s.cfg.staged ++ b) = false) := by
    rintro ⟨hempty, hbad⟩
    rw [hempty, List.nil_append] at hbad
    exact h.elim (· hempty) (fun hok => Bool.false_ne_true (hbad.symm.trans hok))
  unfold State.nvmBurst
  rw [if_neg (not_not_intro hm)]
  exact if_neg hgood

theorem State.nvmBurst_badHeader (hempty : s.cfg.staged = []) (hbad : imageHeaderOk b = false) : s.nvmBurst b = s.halt 0x04 := by
  unfold State.nvmBurst
  rw [if_neg (not_not_intro hm)]
  exact if_pos ⟨hempty, by rwa [hempty]⟩

theorem State.nvmTimeout_eq : s.nvmTimeout =
    if s.cfg.repeats < 3 then { s with cfg := { s.cfg with repeats := s.cfg.repeats + 1 } } else s.halt 0x03 :=
  if_neg (not_not_intro hm)

end

/-- Settles O10: a burst by what is staged with it, a burst that times out by the repeats before it. -/
theorem loadReadsImage : Obligations.LoadReadsImage := by
  refine fun s hm => ⟨fun b h hlt => ?_, fun b h hle => ?_, fun b hempty hbad => ?_, fun hlt => ?_, fun hle => ?_⟩
  · exact congrArg _ ((State.nvmBurst_staged hm h).trans (if_neg hlt.not_ge))
  · exact congrArg _ ((State.nvmBurst_staged hm h).trans (if_pos hle))
  · exact congrArg _ (State.nvmBurst_badHeader hm hempty hbad)
  · exact congrArg _ ((State.nvmTimeout_eq hm).trans (if_pos hlt))
  · exact congrArg _ ((State.nvmTimeout_eq hm).trans (if_neg hle.not_gt))

end Sys2Proof.Machine
end

section
/-! SUPPORT. The end of BOOT and of PAIR (14 R386, R387, 12 R346), and a part whose first sealed store is damaged in VERIFY (14 R394,
16 R438). The statements on both. -/

namespace Sys2Proof.Machine

open Sys2Proof.Safety

/-! ### Reading the sealed stores (03 R103, R104) -/

theorem State.applyMaps_none {s : State} (h : s.test.repair = []) : s.applyMaps = s :=
  List.foldl_fixed' (fun t => by rw [h]; rfl) _

/-- Reading the stores notes which are good, and nothing else of them. -/
theorem State.checkSeals_good (s : State) (bad : List (BitVec 5)) :
    List.Forall₂ (fun x y : Seal => y = { x with good := y.good }) s.seals (s.checkSeals bad).seals := by
  have mark : ∀ (l : List Seal) (n : Nat), List.Forall₂ (fun x y : Seal => y = { x with good := y.good }) l
      ((l.zipIdx n).map (fun p => { p.1 with good := !bad.any (fun t => t.toNat = p.2) })) := by
    intro l
    induction l with
    | nil => exact fun _ => .nil
    | cons x l ih => exact fun n => .cons rfl (ih (n + 1))
  exact mark s.seals 0

theorem State.checkSeals_wipePending (s : State) (bad : List (BitVec 5)) :
    (s.checkSeals bad).seals.any (fun x => x.wipePending) = s.seals.any (fun x => x.wipePending) := by
  have h := s.checkSeals_good bad
  generalize (s.checkSeals bad).seals = l at h
  generalize s.seals = k at h
  induction h with
  | nil => rfl
  | @cons x y _ _ hxy _ ih =>
    have hsame : y.wipePending = x.wipePending := by rw [hxy]
    rw [List.any_cons, List.any_cons, ih, hsame]

/-- Without a wipe under way the fields of the copy that is read are loaded (16 R438). -/
theorem State.loadSeal_clean {s u : State} {bad : List (BitVec 5)} (h : s.seals.any (fun x => x.wipePending) = false)
    (hu : u = s.checkSeals bad) : s.loadSeal bad = { s with
      seals := u.seals, lcState := u.cleanSeal.lc, tamperSeen := u.cleanSeal.tamperSeen, wipeCount := u.cleanSeal.wipeCount } := by
  subst hu
  unfold State.loadSeal
  dsimp only
  rw [State.checkSeals_wipePending, h]
  rfl

/-! ### The end of BOOT (14 R386) -/

theorem State.halt_halted {s : State} (hoff : s.cfg.mode ≠ .off) (hhalted : s.cfg.mode ≠ .halted) (c : Nat) :
    (s.halt c).cfg.mode = .halted ∧ (s.halt c).cfg.haltCause = c := by
  rw [State.halt_running hoff hhalted]
  exact ⟨rfl, rfl⟩

section
variable {s : State} {r : BootReport} (hm : s.cfg.mode = .boot)
include hm

theorem State.bootDone_clean (hf : r.fuseBad = false) (hmap : s.test.repair = []) (hb : s.cfg.fuses.bootBist = false) :
    s.bootDone r = { s.loadSeal r.sealBad with cfg := { s.cfg with mode := .load, initMet := r.met } } := by
  have hcfg : (s.loadSeal r.sealBad).cfg = s.cfg := by
    unfold State.loadSeal
    dsimp only
    split <;> rfl
  unfold State.bootDone
  rw [if_neg (not_not_intro hm), hf, State.applyMaps_none hmap]
  simp only [hcfg, hb, hm, Bool.false_eq_true, if_false, if_true]

theorem State.halt_boot (c : Nat) : (s.halt c).cfg.mode = .halted ∧ (s.halt c).cfg.haltCause = c :=
  State.halt_halted (by rw [hm]; decide) (by rw [hm]; decide) c

theorem State.bootDone_badFuse (hf : r.fuseBad = true) : s.bootDone r = s.halt 0x01 := by
  unfold State.bootDone
  rw [if_neg (not_not_intro hm), if_pos hf]

/-! ### PLLs that do not lock (14 R387) -/

theorem State.pllTimeout_halts {n : Nat} {p : Pll} (h : n = 0 ∨ p = .mclk) : s.pllTimeout n p = s.halt 0x0D := by
  unfold State.pllTimeout
  rw [if_neg (not_not_intro hm), if_pos h]

theorem State.pllTimeout_quarantines {n : Nat} {p : Pll} (hn : n ≠ 0) (hp : p ≠ .mclk) : s.pllTimeout n p =
    (s.report { severity := sevTile, cause := 0x66, unit := 0x0D, tile := n }).quarantine n := by
  unfold State.pllTimeout
  rw [if_neg (not_not_intro hm), if_neg (not_or.2 ⟨hn, hp⟩)]

end

theorem State.hasTile_zero (s : State) : s.hasTile 0 = true := by
  simp [State.hasTile, Part.tiles]

/-- A part with a tile other than 0 is no AE1. -/
theorem State.part_ne_ae1 {s : State} {n : Nat} (hn : n ≠ 0) (h : s.hasTile n = true) : s.part ≠ .ae1 := by
  intro hp
  simp only [State.hasTile, hp, Part.tiles, Part.tileMax, decide_eq_true_eq] at h
  omega

/-! ### Quarantine of a tile that is not the anchor (16 R457, R458) -/

/-- Configuration, quarantined tiles and anchor are as they were. -/
structure SameTiles (s t : State) : Prop where
  part : t.part = s.part
  cfg : t.cfg = s.cfg
  out : t.errs.tileOut = s.errs.tileOut
  anchor : t.errs.anchor = s.errs.anchor

theorem SameTiles.refl (s : State) : SameTiles s s := ⟨rfl, rfl, rfl, rfl⟩

theorem SameTiles.trans {s t u : State} (h : SameTiles s t) (k : SameTiles t u) : SameTiles s u :=
  ⟨k.part.trans h.part, k.cfg.trans h.cfg, k.out.trans h.out, k.anchor.trans h.anchor⟩

theorem SameTiles.foldl {α : Type} {f : State → α → State} (hf : ∀ s a, SameTiles s (f s a)) (l : List α) (s : State) :
    SameTiles s (l.foldl f s) :=
  List.foldlRecOn l f (SameTiles.refl s) fun _ h a _ => h.trans (hf _ a)

/-- A report changes the log and its signals. -/
theorem Errors.add_tiles (x : Errors) (a i : Nat) (e : LogEntry) (q : Bool) :
    (x.add a i e q).1.tileOut = x.tileOut ∧ (x.add a i e q).1.anchor = x.anchor := by
  unfold Errors.add
  split
  · exact ⟨rfl, rfl⟩
  · split <;> exact ⟨rfl, rfl⟩

theorem State.report_sameTiles (s : State) (e : LogEntry) (q : Bool) : SameTiles s (s.report e q) :=
  ⟨rfl, rfl, (Errors.add_tiles _ _ _ _ _).1, (Errors.add_tiles _ _ _ _ _).2⟩

theorem State.failContext_sameTiles (s : State) (row page : Nat) : SameTiles s (s.failContext row page) := by
  unfold State.failContext
  dsimp only
  split
  · exact ⟨rfl, rfl, rfl, rfl⟩
  · split <;> exact ⟨rfl, rfl, rfl, rfl⟩

theorem State.sendGroup_sameTiles (s : State) (bases : List Base) (before : Store) (g : GroupId) :
    SameTiles s (s.sendGroup bases before g) := by
  unfold State.sendGroup State.sendDeltas
  split <;> exact ⟨rfl, rfl, rfl, rfl⟩

theorem State.bandFails_sameTiles (s : State) (t b : Nat) : SameTiles s (s.bandFails t b) := by
  unfold State.bandFails
  extract_lets before _ noted failed
  have hnoted : SameTiles s noted := ⟨rfl, rfl, rfl, rfl⟩
  have hfailed : SameTiles noted failed :=
    .foldl (fun s r => (State.failContext_sameTiles s r 0).trans (State.report_sameTiles _ _ _)) _ _
  exact (hnoted.trans hfailed).trans (State.sendGroup_sameTiles failed _ _ _)

theorem State.anchorAfter_other {s : State} {t : Nat} (h : t ≠ s.errs.anchor) :
    (s.anchorAfter t).cfg = s.cfg ∧ (s.anchorAfter t).errs.tileOut = s.errs.tileOut := by
  unfold State.anchorAfter State.buildSpare
  rw [if_neg h]
  split
  · split <;> exact ⟨rfl, rfl⟩
  · exact ⟨rfl, rfl⟩

theorem mem_insertKey_self (k : Nat) (l : List Nat) : k ∈ insertKey k l := by
  induction l with
  | nil => exact List.mem_singleton_self k
  | cons a l ih => grind [insertKey]

/-- A tile in service that is not the anchor goes out, and the configuration, the device state with it, stays. -/
theorem State.quarantine_other {s : State} {t : Nat} (hin : s.errs.tileOut.contains t = false) (hp : s.part ≠ .ae1)
    (ha : t ≠ s.errs.anchor) : (s.quarantine t).cfg = s.cfg ∧ t ∈ (s.quarantine t).errs.tileOut := by
  unfold State.quarantine
  rw [hin, if_neg Bool.false_ne_true, if_neg hp]
  extract_lets logged others remap _ out failed _ lost
  have hlogged : SameTiles s logged := State.report_sameTiles s _ _
  have hfailed : SameTiles out failed := by
    unfold failed
    split
    · exact .refl _
    · have hstopped : SameTiles out (out.stopItems t) := ⟨rfl, rfl, rfl, rfl⟩
      exact hstopped.trans (.foldl (fun s b => State.bandFails_sameTiles s t b) _ _)
  have hlost : SameTiles out lost := by
    unfold lost
    split
    · exact hfailed
    · exact hfailed.trans ⟨rfl, rfl, rfl, rfl⟩
  have hanchor : (lost.gate t).errs.anchor = s.errs.anchor := hlost.anchor.trans hlogged.anchor
  obtain ⟨hcfg, htiles⟩ := State.anchorAfter_other (s := lost.gate t) (hanchor ▸ ha)
  refine ⟨hcfg.trans (hlost.cfg.trans hlogged.cfg), ?_⟩
  rw [htiles]
  exact (hlost.out : lost.errs.tileOut = insertKey t logged.errs.tileOut) ▸ mem_insertKey_self t _

/-! ### READY (12 R346, 14 R397) -/

/-- The batching windows of all tiles at MIN. -/
def State.minWindows (s : State) : Tab Nat :=
  (List.range s.part.tiles).foldl (fun w k => tset 0 w k (bits (s.reg 0x3104) 15 0)) s.sched.window

theorem State.windows_foldl (l : List Nat) (s : State) :
    l.foldl (fun (s : State) t =>
      { s with sched := { s.sched with window := tset 0 s.sched.window t (bits (s.reg 0x3104) 15 0) } }) s =
    { s with sched := { s.sched with
      window := l.foldl (fun w k => tset 0 w k (bits (s.reg 0x3104) 15 0)) s.sched.window } } := by
  induction l generalizing s with
  | nil => rfl
  | cons k l ih => exact ih _

theorem State.goReady_eq (s : State) : s.goReady = { s with
    sched := { s.sched with window := s.minWindows }
    cfg := { s.cfg with mode := .ready, bootMs := min 0xFFFF (s.now / 1000000) } } := by
  unfold State.goReady
  rw [State.windows_foldl]
  rfl

/-- Settles O9: the equations of BOOT_DONE, of a PLL that does not lock, and of READY. -/
theorem bootAndPairEnd : Obligations.BootAndPairEnd := by
  refine ⟨fun s hm => ⟨fun r u hf hmap hwipe hb hu => ⟨?_, ?_⟩, fun r hf => ?_, fun n p h => ?_, fun n p hn hp htile hanchor hin => ?_⟩,
    fun s hm => ?_⟩
  · exact congrArg Host.Outcome.next ((State.bootDone_clean hm hf hmap hb).trans (by rw [State.loadSeal_clean hwipe hu]))
  · exact hu ▸ s.checkSeals_good r.sealBad
  · have hhalt := State.halt_keeps (Keeps.refl s) 0x01
    exact ⟨_, congrArg Host.Outcome.next (State.bootDone_badFuse hm hf), (State.halt_boot hm _).1, (State.halt_boot hm _).2,
      hhalt.samePart, hhalt.sameSeals⟩
  · have htile : s.hasTile n.toNat = true := h.elim (fun h0 => h0 ▸ s.hasTile_zero) And.right
    exact ⟨_, (onTile_of_hasTile htile).trans (congrArg _ (State.pllTimeout_halts hm (h.imp_right And.left))),
      State.halt_boot hm _⟩
  · have hrun : exec (.pllLockTimeout n p) s = _ :=
      (onTile_of_hasTile htile).trans (congrArg Host.Outcome.next (State.pllTimeout_quarantines hm hn hp))
    have hkeeps := execPllLockTimeout_keeps n p hrun
    have hlogged := State.report_sameTiles s { severity := sevTile, cause := 0x66, unit := 0x0D, tile := n.toNat } false
    generalize s.report { severity := sevTile, cause := 0x66, unit := 0x0D, tile := n.toNat } = logged at *
    obtain ⟨hcfg, hout⟩ := State.quarantine_other (s := logged) (hlogged.out ▸ hin) (hlogged.part ▸ State.part_ne_ae1 hn htile)
      (hlogged.anchor ▸ hanchor)
    exact ⟨_, hrun, by rw [hcfg, hlogged.cfg, hm], hout, hkeeps.samePart, hkeeps.sameSeals⟩
  · exact ⟨_, congrArg Host.Outcome.next ((if_pos hm).trans s.goReady_eq), rfl, rfl, rfl, rfl, ⟨rfl, rfl, rfl, rfl⟩,
      ⟨rfl, rfl, rfl, rfl, rfl⟩, rfl⟩

/-! ### VERIFY reads the lowest-numbered good copy of the sealed store (14 R394, 16 R438) -/

/-- A key whose hash is neither fused nor in that copy halts the part with SIG_KEY. -/
theorem State.verify_unknownKey {s : State} (hm : s.cfg.mode = .verify) (hlc : s.lcState ≠ 4)
    (hfuse : sha384 ((sigBlock s.cfg.staged).take 96) ≠ s.cfg.fuses.keyHash)
    (hseal : sha384 ((sigBlock s.cfg.staged).take 96) ∉ s.cleanSeal.hashes) : s.verify = s.halt 0x05 := by
  have hfails : s.authFails s.cfg.staged = some 0x05 := by
    unfold State.authFails
    simp [hlc, hfuse, hseal]
  unfold State.verify
  simp [hm, hfails]

/-- A part in VERIFY and PROVISION whose store on tile 0 does not read back with good ECC: it lists the hash of the image's key, the
good copy on tile 1 does not. -/
def damagedStore : State :=
  { State.reset with
    cfg := { State.reset.cfg with mode := .verify }
    lcState := 2
    seals := [{ good := false, hashes := [sha384 ((sigBlock []).take 96)] }, {}] }

theorem damagedStore_keyKnown : KeyKnown damagedStore := .inr ⟨.inl rfl, List.mem_singleton_self _⟩

theorem damagedStore_unsigned : ¬ Signed damagedStore := by
  unfold Signed
  decide +kernel

theorem damagedStore_verify : exec .verify damagedStore = .next (damagedStore.halt 0x05) :=
  congrArg Host.Outcome.next (State.verify_unknownKey rfl (by decide) (by decide +kernel) (List.not_mem_nil))

/-- Refutes O11: `KeyKnown` looks for the key's hash in the store of tile 0, VERIFY in the lowest-numbered store that reads back clean
(16 R438). In `damagedStore` the statement asks for the cause of a bad signature, and the key is not known. -/
theorem not_verifyAuthenticatesThenChecks : ¬ Obligations.VerifyAuthenticatesThenChecks := by
  intro h
  obtain ⟨-, -, hsig, -⟩ := h damagedStore rfl
  have hhalt := next_inj (damagedStore_verify.symm.trans (hsig (by decide) damagedStore_keyKnown damagedStore_unsigned))
  have hcause (c : Nat) : (damagedStore.halt c).cfg.haltCause = c := (State.halt_halted (by decide) (by decide) c).2
  have hequal : 6 = 5 := by rw [← hcause 6, hhalt, hcause 5]
  exact absurd hequal (by decide)

end Sys2Proof.Machine
end

section
/-! SUPPORT. INIT: what the memories meet, the registers of the image, the reserves and the next state (14 R396, 09 R253). The statement
on INIT. -/

namespace Sys2Proof.Machine

open Sys2Proof.Safety

/-! ### What the memories meet (03 R76) -/

theorem State.conflict_cfg (s : State) (c : CoreId) (a : PortAccess) : (s.conflict c a).cfg = s.cfg := by
  unfold State.conflict
  extract_lets t counted _ tested
  have htested : tested.cfg = s.cfg := by
    unfold tested
    split <;> rfl
  split
  · exact htested
  · exact htested

theorem State.portCycle_cfg (s : State) (c : CoreId) (accs : List PortAccess) : (s.portCycle c accs).cfg = s.cfg := by
  have hlost (l : List PortAccess) : (l.foldl (fun s a => s.conflict c a) s).cfg = s.cfg :=
    List.foldlRecOn (motive := fun t : State => t.cfg = s.cfg) l _ rfl fun t h a _ => (t.conflict_cfg c a).trans h
  unfold State.portCycle
  dsimp only
  exact hlost _

theorem State.memEvent_cfg (s : State) (e : MemEvent) : (s.memEvent e).cfg = s.cfg := by
  unfold State.memEvent
  split
  · rfl
  · cases e with
    | cycle c accs => exact s.portCycle_cfg c accs
    | delays c ds => rfl
    | corrected c addr => rfl
    | lineLost c addr => rfl

theorem State.memEvents_cfg (s : State) (l : List MemEvent) : (s.memEvents l).cfg = s.cfg :=
  List.foldlRecOn (motive := fun t : State => t.cfg = s.cfg) _ _ rfl fun t h e _ => (t.memEvent_cfg e).trans h

/-- With nothing reported, nothing comes before INIT. -/
theorem State.initEvents_none {s : State} (h : s.cfg.initMet = []) : s.initEvents = s := by
  unfold State.initEvents
  split
  · rw [h]
    have hcfg : ({ s.cfg with initMet := [] } : Cfg) = s.cfg := by rw [← h]
    exact congrArg (fun c : Cfg => ({ s with cfg := c } : State)) hcfg
  · rfl

/-! ### Operations that write registers, configuration and the log -/

/-- Part, scheduler, store and twin are as they were. -/
structure SameWork (s t : State) : Prop where
  part : t.part = s.part
  sched : t.sched = s.sched
  store : t.store = s.store
  twin : t.twin = s.twin

theorem SameWork.refl (s : State) : SameWork s s := ⟨rfl, rfl, rfl, rfl⟩

theorem SameWork.trans {s t u : State} (h : SameWork s t) (k : SameWork t u) : SameWork s u :=
  ⟨k.part.trans h.part, k.sched.trans h.sched, k.store.trans h.store, k.twin.trans h.twin⟩

theorem SameWork.foldl {α : Type} {f : State → α → State} (hf : ∀ s a, SameWork s (f s a)) (l : List α) (s : State) :
    SameWork s (l.foldl f s) :=
  List.foldlRecOn l f (.refl s) fun _ h a _ => h.trans (hf _ a)

theorem State.applyWrite_sameWork (s : State) (fs : List Fld) (off v : Nat) : SameWork s (s.applyWrite fs off v) := by
  unfold State.applyWrite
  dsimp only
  split <;> exact ⟨rfl, rfl, rfl, rfl⟩

theorem State.writeReg_sameWork (s : State) (fs : List Fld) (off v : Nat) : SameWork s (s.writeReg fs off v) := by
  have hwritten := s.applyWrite_sameWork fs off v
  unfold State.writeReg
  extract_lets written
  split
  · exact hwritten.trans ⟨rfl, rfl, rfl, rfl⟩
  · exact hwritten

theorem State.applyRecords_sameWork (s : State) (img : List Byte) : SameWork s (s.applyRecords img) := by
  refine SameWork.foldl (fun s r => ?_) _ s
  split
  · exact s.writeReg_sameWork _ _ _
  · exact .refl s

/-! ### Reserves (09 R253) -/

/-- A tile's reserve changes the store only. -/
def StoreOnly (s t : State) : Prop := t = { s with store := t.store }

theorem StoreOnly.trans {s t u : State} (h : StoreOnly s t) (k : StoreOnly t u) : StoreOnly s u := by
  unfold StoreOnly at *
  refine k.trans ?_
  rw [h]

/-- The frames of a tile's reserve, as the image gives their count. -/
def State.reserveFrames (s : State) (t : Nat) : List Nat := (List.range (s.reg 0x8014)).map (frameNum t)

theorem State.fillReserve_effect (s : State) (t : Nat) : StoreOnly s (s.fillReserve t) ∧
    (s.fillReserve t).store.reserve = tset [] s.store.reserve t (s.reserveFrames t) := by
  unfold State.fillReserve
  extract_lets n fs filled
  have hfilled : StoreOnly s filled ∧ filled.store.reserve = s.store.reserve :=
    List.foldlRecOn (motive := fun t : State => StoreOnly s t ∧ t.store.reserve = s.store.reserve) fs _ ⟨rfl, rfl⟩
      fun _ h _ _ => ⟨h.1.trans rfl, h.2⟩
  exact ⟨hfilled.1.trans rfl, congrArg (fun r => tset [] r t fs) hfilled.2⟩

theorem State.fillReserves_effect (l : List Nat) (s : State) : StoreOnly s (l.foldl State.fillReserve s) ∧
    (l.foldl State.fillReserve s).store.reserve = l.foldl (fun r k => tset [] r k (s.reserveFrames k)) s.store.reserve := by
  induction l generalizing s with
  | nil => exact ⟨rfl, rfl⟩
  | cons t l ih =>
    obtain ⟨hone, hreserve⟩ := s.fillReserve_effect t
    obtain ⟨hrest, hreserves⟩ := ih (s.fillReserve t)
    have hsame : (s.fillReserve t).reserveFrames = s.reserveFrames := by
      rw [hone]
      rfl
    rw [hreserve, hsame] at hreserves
    exact ⟨hone.trans hrest, hreserves⟩

/-! ### Tiles out of service before INIT (16 R458) -/

/-- Only the error handler and the twin differ. -/
def OutOnly (s t : State) : Prop := t = { s with errs := t.errs, twin := t.twin }

theorem OutOnly.trans {s t u : State} (h : OutOnly s t) (k : OutOnly t u) : OutOnly s u := by
  unfold OutOnly at *
  refine k.trans ?_
  rw [h]

theorem State.settleOut_outOnly (s : State) (t : Nat) : OutOnly s (s.settleOut t) := by
  unfold State.settleOut
  dsimp only
  split <;> rfl

theorem State.settleOuts_outOnly (l : List Nat) (s : State) : OutOnly s (l.foldl State.settleOut s) :=
  List.foldlRecOn l _ rfl fun t h k _ => h.trans (t.settleOut_outOnly k)

/-! ### INIT (14 R396) -/

/-- The image's tables, nests and resident regions are taken, and the ring registers read zero. -/
def State.takeImage (s : State) (img : List Byte) : State :=
  let x := s.clearRings
  { x with
    cfg := { x.cfg with
      nests := imageNests img, selects := imageSelects img, tables := imageTables img, verified := []
      resident := (sectionsOf img 6).map (fun (y : Section) => (y.target, y.mask, y.bytes img)) }
    store := { x.store with mirrorGen := b2n (x.cfg.image.pairing = 2) } }

/-- Every tile gets its reserve. -/
def State.fillReserves (s : State) : State := (List.range s.part.tiles).foldl State.fillReserve s

/-- The quarantined tiles meet the band map. -/
def State.settleOuts (s : State) : State := s.errs.tileOut.foldl State.settleOut s

/-- INIT up to the choice of the next state. -/
def State.initBuilt (s : State) : State := ((s.applyRecords s.cfg.verified).takeImage s.cfg.verified).fillReserves.settleOuts

theorem State.init_eq {s : State} (hm : s.cfg.mode = .init) : s.init = if s.initBuilt.cfg.image.pairing = 0 then s.initBuilt.goReady
    else { s.initBuilt with
      cfg := { s.initBuilt.cfg with mode := .pair }
      twin := { s.initBuilt.twin with
        st := .pending, mode := s.initBuilt.cfg.image.pairing, role := bit (s.initBuilt.reg 0xE000) 2 } } := by
  unfold State.init State.initBuilt State.fillReserves State.settleOuts State.takeImage
  rw [if_neg (not_not_intro hm)]

theorem State.takeImage_calm {u s : State} (h : Calm u s) (img : List Byte) : Calm u (s.takeImage img) :=
  (h.step (State.clearRings_keeps (Keeps.refl s))).upd rfl rfl rfl

theorem State.fillReserves_keeps (s : State) : Keeps s s.fillReserves :=
  Keeps.foldl (fun _ t k => State.fillReserve_keeps k t) (Keeps.refl s) _

theorem State.settleOuts_keeps (s : State) : Keeps s s.settleOuts :=
  Keeps.foldl (fun _ t k => State.settleOut_keeps k t) (Keeps.refl s) _

theorem State.initBuilt_calm (s : State) : Calm s s.initBuilt :=
  ((State.takeImage_calm (State.applyRecords_keeps (Keeps.refl s) s.cfg.verified).calm s.cfg.verified).step
    (State.fillReserves_keeps _)).step (State.settleOuts_keeps _)

theorem samePart_of_still {s t : State} (h : t.still = s.still) : SamePart s t :=
  ⟨congrArg Still.part h, congrArg Still.stepping h, congrArg Still.fuses h, congrArg Still.pending h⟩

theorem sameSeals_of_still {s t : State} (h : t.still = s.still) : SameSeals s t :=
  ⟨congrArg Still.seals h, congrArg Still.lcState h, congrArg Still.wiped h, congrArg Still.tamperSeen h, congrArg Still.wipeCount h⟩

/-- What INIT has built of an image, from the registers, reserves and windows before it. -/
structure Built (s t : State) (img : List Byte) : Prop where
  part : t.part = s.part
  sched : t.sched = s.sched
  tables : t.cfg.tables = imageTables img
  nests : t.cfg.nests = imageNests img
  selects : t.cfg.selects = imageSelects img
  rings : ∀ p ∈ t.regs, p.1 < 0x2000 ∨ 0x3000 ≤ p.1
  reserve : t.store.reserve = (List.range s.part.tiles).foldl (fun r k => tset [] r k (t.reserveFrames k)) s.store.reserve

theorem State.takeImage_rings (s : State) (img : List Byte) : ∀ p ∈ (s.takeImage img).regs, p.1 < 0x2000 ∨ 0x3000 ≤ p.1 := by
  intro p hp
  simpa using (List.mem_filter.1 hp).2

/-- Reserves and tiles out of service leave what the image has given. -/
theorem State.takeImage_built (s : State) (img : List Byte) : Built s (s.takeImage img).fillReserves.settleOuts img := by
  have hrings := s.takeImage_rings img
  have himage : (s.takeImage img).cfg.tables = imageTables img ∧ (s.takeImage img).cfg.nests = imageNests img ∧
      (s.takeImage img).cfg.selects = imageSelects img := ⟨rfl, rfl, rfl⟩
  have hframe : (s.takeImage img).part = s.part ∧ (s.takeImage img).sched = s.sched ∧
      (s.takeImage img).store.reserve = s.store.reserve := ⟨rfl, rfl, rfl⟩
  obtain ⟨htables, hnests, hselects⟩ := himage
  obtain ⟨hpart, hsched, hstore⟩ := hframe
  generalize s.takeImage img = x at *
  obtain ⟨hfilled, hreserve⟩ : StoreOnly x x.fillReserves ∧ _ := State.fillReserves_effect (List.range x.part.tiles) x
  have hout : OutOnly x.fillReserves x.fillReserves.settleOuts := State.settleOuts_outOnly _ _
  unfold StoreOnly at hfilled
  unfold OutOnly at hout
  rw [hout, hfilled]
  exact ⟨hpart, hsched, htables, hnests, hselects, hrings, by rw [← hpart, ← hstore]; exact hreserve⟩

theorem State.initBuilt_built (s : State) : Built s s.initBuilt s.cfg.verified := by
  have hrecords := s.applyRecords_sameWork s.cfg.verified
  obtain ⟨hpart, hsched, htables, hnests, hselects, hrings, hreserve⟩ :=
    (s.applyRecords s.cfg.verified).takeImage_built s.cfg.verified
  rw [hrecords.part, hrecords.store] at hreserve
  unfold State.initBuilt
  exact ⟨hpart.trans hrecords.part, hsched.trans hrecords.sched, htables, hnests, hselects, hrings, hreserve⟩

/-- Settles O12: the events before INIT once; then INIT by the state that it builds. -/
theorem initBuildsTables : Obligations.InitBuildsTables := by
  refine ⟨fun s u hm hu => ?_, fun s hm hmet => ?_⟩
  · have hevents : s.initEvents = u := (if_pos hm).trans hu.symm
    have hmet : u.cfg.initMet = [] := by rw [hu, State.memEvents_cfg]
    exact congrArg Host.Outcome.next (by rw [hevents, State.initEvents_none hmet])
  · have hrun : exec .init s = .next s.init := congrArg Host.Outcome.next (by rw [State.initEvents_none hmet])
    rw [State.init_eq hm] at hrun
    have hcalm := s.initBuilt_calm
    obtain ⟨hpart, hsched, htables, hnests, hselects, hrings, hreserve⟩ := s.initBuilt_built
    generalize s.initBuilt = x at *
    have himage : x.cfg.image.pairing = s.cfg.image.pairing := congrArg (fun y => y.image.pairing) hcalm.still
    rw [himage] at hrun
    by_cases hsolo : s.cfg.image.pairing = 0
    · rw [if_pos hsolo, State.goReady_eq] at hrun
      refine ⟨_, hrun, samePart_of_still hcalm.still, sameSeals_of_still hcalm.still, congrArg Still.test hcalm.still,
        (if_pos hsolo).symm, htables, hnests, hselects, hrings, hreserve, fun _ => ?_, fun h => absurd hsolo h⟩
      rw [← hpart, ← hsched]
      rfl
    · rw [if_neg hsolo] at hrun
      exact ⟨_, hrun, samePart_of_still hcalm.still, sameSeals_of_still hcalm.still, congrArg Still.test hcalm.still,
        (if_neg hsolo).symm, htables, hnests, hselects, hrings, hreserve, fun h => absurd h hsolo, fun _ => ⟨rfl, rfl⟩⟩

end Sys2Proof.Machine
end

section
/-! SUPPORT. Commits and their adoption (14 R400, 12 R345, R346). The statement on commits. -/

namespace Sys2Proof.Machine

open Sys2Proof.Safety

/-! ### One register of a commit -/

/-- A LIVE register takes what the commit of `s` captures for it, clamped; a clamp is logged. -/
def State.takeLive (s a : State) (off : Nat) : State :=
  if clamp off (s.captured off) = s.captured off then a.setReg off (clamp off (s.captured off))
  else (a.setReg off (clamp off (s.captured off))).clampEntry off

section
variable {s a : State}

theorem State.takeLive_sameTiles (off : Nat) : SameTiles a (s.takeLive a off) := by
  unfold State.takeLive
  split
  · exact ⟨rfl, rfl, rfl, rfl⟩
  · exact SameTiles.trans (t := a.setReg off _) ⟨rfl, rfl, rfl, rfl⟩ (State.report_sameTiles _ _ _)

theorem State.takeLive_sameWork (off : Nat) : SameWork a (s.takeLive a off) := by
  unfold State.takeLive
  split <;> exact ⟨rfl, rfl, rfl, rfl⟩

theorem State.takeLive_ok (h : tabOk 0#32 a.regs = true) (off : Nat) : tabOk 0#32 (s.takeLive a off).regs = true := by
  unfold State.takeLive
  split
  · exact State.setReg_ok h _ _
  · exact State.bump_ok (State.setReg_ok h _ _) _ _

/-- Of the other registers only the count of lost entries may rise with it (16 R446). -/
theorem State.takeLive_reg (h : tabOk 0#32 a.regs = true) {off o : Nat} (ho : o ≠ 0x10004) : (s.takeLive a off).reg o =
    if o = off then clamp off (s.captured off) % 2 ^ 32 else a.reg o := by
  have hset : (a.setReg off (clamp off (s.captured off))).reg o = if o = off then clamp off (s.captured off) % 2 ^ 32 else a.reg o := by
    split
    next hsame => rw [hsame, State.setReg_reg_self h]
    next hother => exact State.setReg_reg_ne h _ hother
  unfold State.takeLive
  split
  · exact hset
  · exact (State.bump_reg_ne (State.setReg_ok h _ _) _ ho).trans hset

end

/-! ### A commit (14 R400) -/

/-- The registers that a commit of `s` leaves, one LIVE register after the other. -/
theorem State.takeLives_reg (s : State) (l : List Nat) {a : State} (h : tabOk 0#32 a.regs = true) {o : Nat} (ho : o ≠ 0x10004) :
    (l.foldl s.takeLive a).reg o = if o ∈ l then clamp o (s.captured o) % 2 ^ 32 else a.reg o := by
  induction l generalizing a with
  | nil => simp
  | cons off l ih =>
    rw [List.foldl_cons, ih (State.takeLive_ok h off), State.takeLive_reg h ho]
    by_cases hin : o ∈ l
    · simp [hin]
    · by_cases hsame : o = off <;> simp [hin, hsame]

/-- What a commit works on: SEQ has risen. -/
def State.seqRisen (s : State) : State := { s with cfg := { s.cfg with seq := (s.cfg.seq + 1) % 65536 } }

/-- The LIVE registers as they were, which units keep until they adopt. -/
def State.oldLive (s : State) : Tab Word := liveRegs.foldl (fun (t : Tab Word) o => tset 0#32 t o (BitVec.ofNat 32 (s.reg o))) []

/-- From READY on the LIVE registers take their values, and each unit keeps the old ones. -/
theorem State.commit_late {s x : State} (he : s.early = false) (hx : x = liveRegs.foldl s.seqRisen.takeLive s.seqRisen) :
    s.commit = { x with cfg := { x.cfg with
      pendingUnits := x.units, adopted := x.units.foldl (fun (t : Tab (Tab Word)) u => tset [] t u s.seqRisen.oldLive) x.cfg.adopted } } := by
  subst hx
  exact if_neg (Bool.eq_false_iff.1 he)

/-- A risen SEQ captures the same values. -/
theorem State.seqRisen_captured (s : State) (off : Nat) : s.seqRisen.captured off = s.captured off := rfl

theorem State.units_congr {s t : State} (h : SameTiles s t) : t.units = s.units := by
  have hin : t.inService = s.inService := by
    funext k
    unfold State.inService State.hasTile
    rw [h.part, h.out]
  unfold State.units
  rw [h.part, hin]

/-- What a commit changes and what it leaves. -/
structure Commits (s t : State) : Prop where
  seq : t.cfg.seq = (s.cfg.seq + 1) % 65536
  units : t.cfg.pendingUnits = s.units
  live : ∀ off ∈ liveRegs, t.reg off = clamp off (s.captured off) % 2 ^ 32
  other : ∀ off, off ∉ liveRegs → off ≠ 0x10004 → t.reg off = s.reg off
  shadow : t.cfg.shadow = s.cfg.shadow
  mode : t.cfg.mode = s.cfg.mode
  work : SameWork s t

theorem State.commit_commits {s : State} (he : s.early = false) (hb : Bounded s) : Commits s s.commit := by
  have htiles : SameTiles s.seqRisen (liveRegs.foldl s.seqRisen.takeLive s.seqRisen) :=
    .foldl (fun _ off => State.takeLive_sameTiles off) _ _
  have hwork : SameWork s.seqRisen (liveRegs.foldl s.seqRisen.takeLive s.seqRisen) :=
    .foldl (fun _ off => State.takeLive_sameWork off) _ _
  have hreg (o : Nat) (ho : o ≠ 0x10004) := State.takeLives_reg s.seqRisen liveRegs (a := s.seqRisen) hb.2 ho
  rw [State.commit_late he rfl]
  generalize liveRegs.foldl s.seqRisen.takeLive s.seqRisen = x at htiles hwork hreg
  simp only [State.seqRisen_captured] at hreg
  refine ⟨congrArg Cfg.seq htiles.cfg, State.units_congr (s := s.seqRisen) htiles, fun o ho => ?_, fun o ho hlost => ?_,
    (congrArg Cfg.shadow htiles.cfg :), (congrArg Cfg.mode htiles.cfg :), ⟨hwork.part, hwork.sched, hwork.store, hwork.twin⟩⟩
  · exact (hreg o fun h => absurd (h ▸ ho) (by decide)).trans (if_pos ho)
  · exact (hreg o hlost).trans (if_neg ho)

/-- A write of COMMIT is taken where management writes are. -/
theorem exec_cfgCommit {s : State} {q : Req} {v : BitVec 32} (ha : Arrives s q) (hm : Managed s) :
    exec (.cfgCommit q v) s = .next ((s.commitWrite v.toNat).answer q true 0) :=
  State.writeFrom_mgtWrite ha (State.mgtWrite_managed (off := 0x1000) hm rfl rfl rfl rfl [])

/-! ### Adoption (14 R400, 12 R345, R346) -/

/-- What closing rounds leaves: configuration, host port, jobs, store, twin and errors. -/
structure RoundsOnly (s t : State) : Prop where
  cfg : t.cfg = s.cfg
  host : t.host = s.host
  jobs : t.sched.jobs = s.sched.jobs
  store : t.store = s.store
  twin : t.twin = s.twin
  errs : t.errs = s.errs

theorem RoundsOnly.refl (s : State) : RoundsOnly s s := ⟨rfl, rfl, rfl, rfl, rfl, rfl⟩

theorem RoundsOnly.trans {s t u : State} (h : RoundsOnly s t) (k : RoundsOnly t u) : RoundsOnly s u :=
  ⟨k.cfg.trans h.cfg, k.host.trans h.host, k.jobs.trans h.jobs, k.store.trans h.store, k.twin.trans h.twin, k.errs.trans h.errs⟩

theorem State.closeRound_roundsOnly (s : State) (r : Round) : RoundsOnly s (s.closeRound r) := by
  obtain ⟨hsched, hframe, -⟩ := s.closeRound_closes r
  generalize s.closeRound r = t at *
  rw [hframe]
  exact ⟨rfl, rfl, by rw [hsched]; rfl, rfl, rfl, rfl⟩

/-- Rounds that close are taken from the open ones. -/
theorem State.closeRounds_effect (l : List Round) (s : State) : RoundsOnly s (l.foldl State.closeRound s) ∧
    (l.foldl State.closeRound s).sched.rounds = s.sched.rounds.diff l := by
  induction l generalizing s with
  | nil => exact ⟨.refl s, rfl⟩
  | cons r l ih =>
    obtain ⟨hrest, hrounds⟩ := ih (s.closeRound r)
    have hone : (s.closeRound r).sched.rounds = s.sched.rounds.erase r := congrArg Sched.rounds (s.closeRound_closes r).sched
    rw [hone] at hrounds
    exact ⟨(s.closeRound_roundsOnly r).trans hrest, hrounds.trans (List.diff_cons ..).symm⟩

/-- Nothing that a predicate holds of is left of a list without all of which it holds. -/
theorem not_mem_diff_filter {α : Type} [DecidableEq α] {p : α → Bool} {l : List α} {x : α} (hx : x ∈ l.diff (l.filter p)) :
    p x = false := by
  by_contra hp
  rw [Bool.not_eq_false] at hp
  have hcount := List.count_pos_iff.2 hx
  rw [List.count_diff, List.count_filter hp] at hcount
  omega

section
variable {s : State} {u : Nat} {changed : Bool}

/-- The window of a tile without open round follows a change of JOB_BATCH_WIN to MIN. -/
theorem State.windowFollows_idle (h : ∀ r ∈ s.sched.rounds, r.tile ≠ u) : s.windowFollows u changed =
    if changed then { s with sched := { s.sched with window := tset 0 s.sched.window u (bits (s.reg 0x3104) 15 0) } } else s := by
  have hnone : s.sched.rounds.filter (fun r => decide (r.tile = u)) = [] :=
    List.filter_eq_nil_iff.2 fun r hr => by simpa using h r hr
  unfold State.windowFollows
  simp only [hnone, if_true, List.foldl_nil, ite_self]
  rfl

/-- Under BATCH_EN = 0b the tile's open rounds close. -/
theorem State.windowFollows_effect (s : State) (u : Nat) (changed : Bool) : RoundsOnly s (s.windowFollows u changed) ∧
    (bit (s.reg 0x310C) 0 = false → ∀ r ∈ (s.windowFollows u changed).sched.rounds, r.tile ≠ u) := by
  unfold State.windowFollows
  extract_lets bounds opened w _ windowed
  have hwin : RoundsOnly s windowed ∧ windowed.sched.rounds = s.sched.rounds ∧ windowed.regs = s.regs := by
    unfold windowed
    split <;> exact ⟨⟨rfl, rfl, rfl, rfl, rfl, rfl⟩, rfl, rfl⟩
  obtain ⟨hframe, hrounds, hregs⟩ := hwin
  obtain ⟨hclosed, hleft⟩ := State.closeRounds_effect opened windowed
  have hreg : windowed.reg 0x310C = s.reg 0x310C := by
    unfold State.reg
    rw [hregs]
  rw [hreg]
  split
  next hen => exact ⟨hframe, fun hdis => absurd hen (by simp [hdis])⟩
  · refine ⟨hframe.trans hclosed, fun _ r hr => ?_⟩
    rw [hleft, hrounds] at hr
    simpa using not_mem_diff_filter hr

end

/-- A unit that has taken over the new values, before its windows and rounds follow. -/
def State.adopted (s : State) (u : Nat) : State :=
  { s with cfg := { s.cfg with pendingUnits := s.cfg.pendingUnits.erase u, adopted := tset [] s.cfg.adopted u [] } }

/-- Whether a commit changes JOB_BATCH_WIN for a unit. -/
def State.winChanged (s : State) (u : Nat) : Bool := decide ((tget 0#32 (tget [] s.cfg.adopted u) 0x3104).toNat ≠ s.reg 0x3104)

/-- With no commit waiting, the windows and rounds of a tile that adopts follow, and nothing else happens. -/
theorem State.adopt_pending {s : State} {u : Nat} (h : u ∈ s.cfg.pendingUnits) (ha : s.cfg.commitAgain = 0) :
    s.adopt u = if u < 32 then (s.adopted u).windowFollows u (s.winChanged u) else s.adopted u := by
  have hcfg : (if u < 32 then (s.adopted u).windowFollows u (s.winChanged u) else s.adopted u).cfg = (s.adopted u).cfg := by
    split
    · exact ((s.adopted u).windowFollows_effect u (s.winChanged u)).1.cfg
    · rfl
  unfold State.adopt
  rw [if_neg (by simp [h])]
  refine if_neg fun hagain => ?_
  have hwaits : 0 < (if u < 32 then (s.adopted u).windowFollows u (s.winChanged u) else s.adopted u).cfg.commitAgain := hagain.2
  rw [hcfg] at hwaits
  exact absurd (ha ▸ hwaits : 0 < 0) (Nat.lt_irrefl 0)

theorem State.adopt_done {s : State} {u : Nat} (h : u ∉ s.cfg.pendingUnits) : s.adopt u = s := by
  unfold State.adopt
  exact if_pos (by simp [h])

/-- Settles O24: a commit by the registers that it takes one by one; an adoption by what follows the new window. -/
theorem commitRunsAndIsAdopted : Obligations.CommitRunsAndIsAdopted := by
  refine ⟨fun s q v ha hb hop hnone => ⟨fun hset => ?_, fun hclear => ?_⟩,
    fun s unit => ⟨fun hin hagain u changed hchanged hu => ⟨fun hidle => ?_, ?_⟩, fun hout => ?_⟩⟩
  · obtain ⟨hm, he⟩ := managed_late hop
    have hwrite : s.commitWrite v.toNat = s.commit := by
      unfold State.commitWrite
      rw [hset, if_pos hnone]
      rfl
    have hkeeps := State.answer_keeps (State.commit_keeps (Keeps.refl s)) q true 0
    obtain ⟨hseq, hunits, hlive, hother, hshadow, hmode, hwork⟩ := State.commit_commits he hb
    have hrun := exec_cfgCommit (v := v) ha hm
    rw [hwrite] at hrun
    exact ⟨_, hrun, hseq, hunits, hlive, hother, hshadow, hmode, hwork.store, hwork.sched, hwork.twin,
      hkeeps.samePart, hkeeps.sameSeals⟩
  · rw [exec_cfgCommit ha (managed_late hop).1]
    unfold State.commitWrite
    rw [hclear]
    rfl
  · have hadopt := State.adopt_pending hin hagain
    by_cases htile : unit.toNat < 32
    · rw [if_pos htile, State.windowFollows_idle (s := s.adopted unit.toNat) hidle] at hadopt
      have hwin : s.winChanged unit.toNat = true ↔ changed :=
        decide_eq_true_iff.trans (by rw [hchanged]; exact (and_iff_right htile).symm)
      rw [hu]
      refine ⟨fun hno => ?_, fun hyes => ?_⟩
      · exact congrArg Host.Outcome.next (hadopt.trans (if_neg (mt hwin.1 hno)))
      · exact congrArg Host.Outcome.next (hadopt.trans (if_pos (hwin.2 hyes)))
    · rw [if_neg htile] at hadopt
      exact ⟨fun _ => congrArg Host.Outcome.next (hadopt.trans hu.symm), fun hyes => absurd (hchanged.1 hyes).1 htile⟩
  · have hrun : exec (.commitAdoption unit) s = .next (s.adopt unit.toNat) := rfl
    have hkeeps := execCommitAdoption_keeps unit hrun
    obtain ⟨hrounds, hclosed⟩ := (s.adopted unit.toNat).windowFollows_effect unit.toNat (s.winChanged unit.toNat)
    have heffect : RoundsOnly (s.adopted unit.toNat) (s.adopt unit.toNat) := by
      rw [State.adopt_pending hin hagain]
      split
      · exact hrounds
      · exact .refl _
    refine ⟨_, hrun, heffect.cfg.trans (by rw [hu]; rfl), heffect.store, heffect.jobs, heffect.host, heffect.twin, heffect.errs,
      hkeeps.samePart, hkeeps.sameSeals, fun htile hdis => ?_⟩
    rw [State.adopt_pending hin hagain, if_pos htile]
    exact hclosed hdis
  · exact congrArg Host.Outcome.next (State.adopt_done hout)

end Sys2Proof.Machine
end

section
/-! SUPPORT. The twin's control channel and the Worlek link (15 R408 to R410, R427). The statement on the link. -/

namespace Sys2Proof.Machine

/-! ### Events that cannot occur -/

section
variable {s t u : State} {c : Bool}

theorem next_whenever_on (h : c = true) (e : t = u) : (.next (s.whenever c t) : Out) = .next u :=
  congrArg Host.Outcome.next ((if_pos h).trans e)

theorem next_whenever_off (h : c = false) : (.next (s.whenever c t) : Out) = .next s :=
  congrArg Host.Outcome.next (if_neg (Bool.eq_false_iff.1 h))

end

/-! ### Messages to the twin (15 R409) -/

/-- A message goes out while the link is up, and nothing else changes. -/
theorem State.tell_eq (s : State) (m : TwinMsg) :
    s.tell m = { s with twin := { s.twin with tx := if s.twin.linkUp then s.twin.tx ++ [m] else s.twin.tx } } := by
  unfold State.tell
  split <;> rfl

/-- What sending sequenced messages changes: the frames sent, the replay buffer, what waits. -/
def Twin.SendsOnly (x y : Twin) : Prop :=
  y = { x with tx := y.tx, replay := y.replay, txSeq := y.txSeq, unsent := y.unsent }

theorem Twin.SendsOnly.refl (x : Twin) : x.SendsOnly x := rfl

theorem Twin.SendsOnly.trans {x y z : Twin} (h : x.SendsOnly y) (k : y.SendsOnly z) : x.SendsOnly z := by
  unfold Twin.SendsOnly at *
  rw [k, h]

theorem Twin.push_sendsOnly (x : Twin) (m : TwinMsg) : x.SendsOnly (x.push m) := by
  unfold Twin.push
  split <;> rfl

theorem Twin.drain_sendsOnly (n : Nat) (x : Twin) : x.SendsOnly (x.drain n) := by
  induction n generalizing x with
  | zero => rfl
  | succ n ih =>
    unfold Twin.drain
    split
    next m rest _ =>
      split
      · exact Twin.SendsOnly.trans (y := ({ x with unsent := rest } : Twin).sendFrame m) rfl (ih _)
      · rfl
    · rfl

/-- Sending messages of the ledger leaves all but the channel as it was. -/
theorem State.ledgerSend_sendsOnly (s : State) (l : List TwinMsg) : s.twin.SendsOnly (s.ledgerSend l).twin :=
  List.foldlRecOn (motive := s.twin.SendsOnly) l _ (.refl _) fun _ h m _ => h.trans (Twin.push_sendsOnly _ m)

/-! ### The link comes up (15 R408, R410, R427) -/

section
variable {s : State} {nonce : List Byte}

theorem State.startHello_elsewhere (h : s.twin.linkUp = false ∨ s.twin.st ≠ .pending) : s.startHello nonce = s := by
  unfold State.startHello
  exact if_pos (h.imp_left fun h => by rw [h]; rfl)

/-- A hello that starts asks for no retry: whether one was due makes no difference. -/
theorem State.startHello_retryAt (hup : s.twin.linkUp = true) (hst : s.twin.st = .pending) (b : Bool) :
    ({ s with twin := { s.twin with retryAt := b } } : State).startHello nonce = s.startHello nonce := by
  have hon : ¬ ((!s.twin.linkUp) = true ∨ s.twin.st ≠ .pending) := by simp [hup, hst]
  have hkeys : ({ s with twin := { s.twin with retryAt := b } } : State).linkKeys = s.linkKeys := rfl
  unfold State.startHello
  rw [if_neg hon, if_neg hon, hkeys]
  cases s.linkKeys with
  | nil => rfl
  | cons k rest => rfl

theorem State.linkComesUp_stays (b : Bool) (h : s.twin.linkUp = true ∨ s.pickLanes = []) : s.linkComesUp b nonce = s := if_pos h

/-- The twin controller when the link has come up, before what waits goes out: a retrain that restarts SEQ starts an epoch. -/
def State.linked (s : State) (restarts : Bool) : Twin :=
  if restarts then { s.twin with linkUp := true, lanes := s.pickLanes, epoch := (s.twin.epoch + 1) % 2 ^ 32, replay := [], unsent := []
                                 txSeq := 0, rxSeq := 0 }
  else { s.twin with linkUp := true, lanes := s.pickLanes }

/-- The twin controller when what waited has gone out. -/
def State.drained (s : State) (restarts : Bool) : Twin := (s.linked restarts).drain (s.linked restarts).unsent.length

theorem State.linkComesUp_drained (b : Bool) (hdown : s.twin.linkUp = false) (hlanes : s.pickLanes ≠ []) : s.linkComesUp b nonce =
    if s.twin.helloing then { s with twin := s.drained b } else ({ s with twin := s.drained b } : State).startHello nonce := by
  have hno : ¬ (s.twin.linkUp = true ∨ s.pickLanes = []) := by simp [hdown, hlanes]
  have hhello : (s.drained b).helloing = s.twin.helloing := by
    refine (congrArg Twin.helloing (Twin.drain_sendsOnly _ _)).trans ?_
    cases b <;> rfl
  rw [← hhello]
  unfold State.linkComesUp
  rw [if_neg hno]
  cases b <;> rfl

theorem State.drained_linkUp (s : State) (b : Bool) : (s.drained b).linkUp = true := by
  refine (congrArg Twin.linkUp (Twin.drain_sendsOnly _ _)).trans ?_
  cases b <;> rfl

theorem State.drained_st (s : State) (b : Bool) : (s.drained b).st = s.twin.st := by
  refine (congrArg Twin.st (Twin.drain_sendsOnly _ _)).trans ?_
  cases b <;> rfl

/-- With a hello under way, or outside PENDING, the link comes up and no more. -/
theorem State.linkComesUp_quiet (b : Bool) (hdown : s.twin.linkUp = false) (hlanes : s.pickLanes ≠ [])
    (h : s.twin.helloing = true ∨ s.twin.st ≠ .pending) : s.linkComesUp b nonce = { s with twin := s.drained b } := by
  rw [State.linkComesUp_drained b hdown hlanes]
  split
  · rfl
  next hno => exact State.startHello_elsewhere (.inr ((s.drained_st b).trans_ne (h.resolve_left hno)))

/-- In PENDING a hello starts, as it does at a retry. -/
theorem State.linkComesUp_hello (b : Bool) (hdown : s.twin.linkUp = false) (hlanes : s.pickLanes ≠ []) (hh : s.twin.helloing = false)
    (hst : s.twin.st = .pending) : s.linkComesUp b nonce =
      ({ s with twin := { s.drained b with retryAt := true } } : State).startHello nonce := by
  rw [State.linkComesUp_drained b hdown hlanes, if_neg (by simp [hh])]
  exact (State.startHello_retryAt (s := { s with twin := s.drained b }) (s.drained_linkUp b) ((s.drained_st b).trans hst) true).symm

/-! ### Lanes (15 R410) -/

theorem State.pickLanes_all (h : s.part.lanes ≤ s.goodLanes.length) : s.pickLanes = s.goodLanes.take s.part.lanes := if_pos h

theorem State.pickLanes_half (h : s.goodLanes.length < s.part.lanes) (k : s.part.lanes / 2 ≤ s.goodLanes.length) :
    s.pickLanes = s.goodLanes.take (s.part.lanes / 2) := (if_neg h.not_ge).trans (if_pos k)

theorem State.pickLanes_none (h : s.goodLanes.length < s.part.lanes / 2) : s.pickLanes = [] :=
  (if_neg (h.trans_le (Nat.div_le_self _ _)).not_ge).trans (if_neg h.not_ge)

theorem mem_insertKey {k x : Nat} {l : List Nat} : x ∈ insertKey k l ↔ x = k ∨ x ∈ l := by
  induction l with
  | nil => simp [insertKey]
  | cons a l ih => grind [insertKey]

theorem mem_foldl_insertKey {x : Nat} {l m : List Nat} : x ∈ l.foldl (fun l x => insertKey x l) m ↔ x ∈ l ∨ x ∈ m := by
  induction l generalizing m with
  | nil => simp
  | cons a l ih => rw [List.foldl_cons, ih, mem_insertKey, List.mem_cons, or_assoc, or_left_comm]

theorem State.retrain_up (h : s.twin.linkUp = true) : s.retrain = s := if_pos h

theorem State.retrain_down (h : s.twin.linkUp = false) : s.retrain =
    { s with twin := { s.twin with badLanes := s.mappedLanes.foldl (fun l x => insertKey x l) [] } } := if_neg (by simp [h])

section
variable {l : Nat}

theorem State.loseLane_stays (h : s.part.lanes + 2 ≤ l ∨ s.twin.badLanes.contains l = true) : s.loseLane l = s := if_pos h

/-- The state in which a lane is noted as failed. -/
def State.badLane (s : State) (l : Nat) : State := { s with twin := { s.twin with badLanes := insertKey l s.twin.badLanes } }

/-- A lane that fails is noted; a link that is up goes down, or goes on with the lanes that it keeps, logged when they are fewer. -/
theorem State.loseLane_fails (hl : l < s.part.lanes + 2) (hgood : s.twin.badLanes.contains l = false) : s.loseLane l =
    if s.twin.linkUp = false then s.badLane l
    else if (s.badLane l).keepLanes = [] then (s.badLane l).linkDown
    else if (s.badLane l).keepLanes.length < s.twin.lanes.length then
      ({ s.badLane l with twin := { (s.badLane l).twin with lanes := (s.badLane l).keepLanes } } : State).twinEntry sevDegrade 0x46
    else { s.badLane l with twin := { (s.badLane l).twin with lanes := (s.badLane l).keepLanes } } := by
  unfold State.loseLane
  rw [if_neg (not_or.2 ⟨hl.not_ge, by rw [hgood]; exact Bool.false_ne_true⟩)]
  cases hup : s.twin.linkUp <;> simp [hup, State.badLane]

end
end

/-! ### Frames (15 R408, R409) -/

section
variable {s : State} {b : List Byte}

theorem State.takeFrame_down (h : s.twin.linkUp = false) (good : Bool) : s.takeFrame b good = s := if_pos (by rw [h]; rfl)

/-- A frame that the FEC did not correct is counted and dropped. -/
theorem State.takeFrame_uncorrected (h : s.twin.linkUp = true) :
    s.takeFrame b false = (s.bump 0xE044 1).tell (.ack s.twin.rxSeq true) := by
  unfold State.takeFrame
  simp [h]

/-- A frame whose check fails is dropped, on VC 2 without a NAK. -/
theorem State.takeFrame_bad (h : s.twin.linkUp = true) (hb : frameGood b = false) : s.takeFrame b true =
    if bits (fieldAt b 0 4) 25 24 = 2 then s else s.tell (.ack s.twin.rxSeq true) := by
  unfold State.takeFrame
  simp [h, hb]

/-- What the acknowledgement that a good frame carries does. -/
def State.heardAck (s : State) (b : List Byte) : State :=
  if bit (fieldAt b 4 4) 28 then s.takeNak (bits (fieldAt b 4 4) 23 0) else s.takeAck (bits (fieldAt b 4 4) 23 0)

theorem Twin.acked_rxSeq (x : Twin) (seq : Nat) : (x.acked seq).rxSeq = x.rxSeq := by
  unfold Twin.acked
  split
  · rfl
  · split <;> rfl

theorem State.takeAck_rxSeq (s : State) (seq : Nat) : (s.takeAck seq).twin.rxSeq = s.twin.rxSeq :=
  (congrArg Twin.rxSeq (Twin.drain_sendsOnly _ (s.twin.acked seq))).trans (Twin.acked_rxSeq _ _)

theorem State.resendAll_rxSeq (s : State) : s.resendAll.twin.rxSeq = s.twin.rxSeq := by
  unfold State.resendAll
  split <;> rfl

theorem State.takeNak_rxSeq (s : State) (seq : Nat) : (s.takeNak seq).twin.rxSeq = s.twin.rxSeq := by
  have hack := s.takeAck_rxSeq seq
  unfold State.takeNak
  dsimp only
  split
  · exact (State.resendAll_rxSeq _).trans hack
  · exact hack

theorem State.heardAck_rxSeq (s : State) (b : List Byte) : (s.heardAck b).twin.rxSeq = s.twin.rxSeq := by
  unfold State.heardAck
  split
  · exact s.takeNak_rxSeq _
  · exact s.takeAck_rxSeq _

/-- A good frame: its acknowledgement is heard; of VC 0 and 1, the one in order advances the SEQ expected, any other gets a NAK. -/
theorem State.takeFrame_good (h : s.twin.linkUp = true) (hb : frameGood b = true) : s.takeFrame b true =
    if 2 ≤ bits (fieldAt b 0 4) 25 24 then s.heardAck b
    else if bits (fieldAt b 0 4) 23 0 = s.twin.rxSeq then
      ({ s.heardAck b with twin := { (s.heardAck b).twin with rxSeq := (s.twin.rxSeq + 1) % 2 ^ 24 } } : State).tell
        (.ack ((s.twin.rxSeq + 1) % 2 ^ 24) false)
    else (s.heardAck b).tell (.ack s.twin.rxSeq true) := by
  rw [← s.heardAck_rxSeq b]
  unfold State.takeFrame State.heardAck
  simp [h, hb]

theorem State.resendAll_up (h : s.twin.linkUp = true) : s.resendAll =
    ({ s with twin := { s.twin with tx := s.twin.tx ++ s.twin.replay.map Prod.snd } } : State).bump 0xE040 s.twin.replay.length :=
  if_neg (by simp [h])

/-- The twin controller after an acknowledgement: what waited for room in the replay buffer has gone out. -/
def Twin.ackedDrained (x : Twin) (seq : Nat) : Twin := (x.acked seq).drain (x.acked seq).unsent.length

theorem Twin.acked_linkUp (x : Twin) (seq : Nat) : (x.acked seq).linkUp = x.linkUp := by
  unfold Twin.acked
  split
  · rfl
  · split <;> rfl

/-- A NAK acknowledges what comes before its SEQ, and the frames from there on are sent again. -/
theorem State.takeNak_up (h : s.twin.linkUp = true) (seq : Nat) : s.takeNak seq =
    if (s.twin.ackedDrained seq).replay.head?.map Prod.fst = some seq then
      ({ s with twin := { s.twin.ackedDrained seq with
        tx := (s.twin.ackedDrained seq).tx ++ (s.twin.ackedDrained seq).replay.map Prod.snd } } : State).bump 0xE040
          (s.twin.ackedDrained seq).replay.length
    else { s with twin := s.twin.ackedDrained seq } := by
  have hup : (s.twin.ackedDrained seq).linkUp = true :=
    (congrArg Twin.linkUp (Twin.drain_sendsOnly _ _)).trans ((s.twin.acked_linkUp seq).trans h)
  unfold State.takeNak
  exact if_congr Iff.rfl (State.resendAll_up (s := { s with twin := s.twin.ackedDrained seq }) hup) rfl

end

/-- Without a twin link nothing happens on it. -/
theorem exec_link_twinOff {s : State} (h : s.twinOn = false) {c : Instr} (hc : (∃ b n, c = .linkUp b n) ∨ c = .linkRetrain ∨
    (∃ l, c = .laneLoss l) ∨ (∃ b g, c = .linkFrame b g) ∨ (∃ n, c = .nak n) ∨ c = .replayTimeout) : exec c s = .next s := by
  obtain ⟨b, n, rfl⟩ | rfl | ⟨l, rfl⟩ | ⟨b, g, rfl⟩ | ⟨n, rfl⟩ | rfl := hc
  case inr.inr.inr.inr.inl => exact next_whenever_off (by rw [h, Bool.false_and])
  all_goals exact next_whenever_off h

/-- Settles O55: each event of the link by what the link, its lanes and the SEQ expected make of it. -/
theorem worlekLinkRecovers : Obligations.WorlekLinkRecovers := by
  refine fun s => ⟨fun hoff c => exec_link_twinOff hoff, fun hon => ⟨fun restarts nonce => ⟨fun h => ?_, fun x y hdown hlanes hx hy => ?_⟩,
    State.pickLanes_all, State.pickLanes_half, State.pickLanes_none, fun hup => ?_, fun hdown => ?_, fun lane => ⟨fun h => ?_, ?_⟩,
    fun hdown b g n => ?_, fun hup => ⟨fun b => ?_, fun b hbad => ?_, ?_, ?_, ?_⟩⟩⟩
  · exact next_whenever_on hon (State.linkComesUp_stays restarts h)
  · obtain rfl : x = s.linked restarts := hx
    obtain rfl : y = s.drained restarts := hy
    exact ⟨fun h => next_whenever_on hon (State.linkComesUp_quiet restarts hdown hlanes h),
      fun hh hst => (next_whenever_on hon (State.linkComesUp_hello restarts hdown hlanes hh hst)).trans (next_whenever_on hon rfl).symm⟩
  · exact next_whenever_on hon (State.retrain_up hup)
  · exact ⟨_, next_whenever_on hon (State.retrain_down hdown), fun l => by simp [mem_foldl_insertKey], rfl⟩
  · exact next_whenever_on hon (State.loseLane_stays h)
  · intro u v hl hgood hu hv
    obtain rfl : u = s.badLane lane.toNat := hu
    subst hv
    have hlost := State.loseLane_fails hl hgood
    refine ⟨fun hdown => ?_, fun hup hnone => ?_, fun hup hsome hle => ?_, fun hup hsome hlt => ?_⟩
    · exact next_whenever_on hon (hlost.trans (if_pos hdown))
    all_goals
      rw [if_neg (by simp [hup])] at hlost
    · exact next_whenever_on hon (hlost.trans (if_pos hnone))
    all_goals
      rw [if_neg hsome] at hlost
    · exact next_whenever_on hon (hlost.trans (if_neg hle.not_gt))
    · exact next_whenever_on hon (hlost.trans (if_pos hlt))
  · exact ⟨next_whenever_on hon (State.takeFrame_down hdown g), next_whenever_off (by rw [hdown, Bool.and_false]),
      next_whenever_on hon (if_pos (by rw [hdown]; rfl))⟩
  · exact next_whenever_on hon (State.takeFrame_uncorrected hup)
  · have hframe := State.takeFrame_bad hup hbad
    exact ⟨fun h => next_whenever_on hon (hframe.trans (if_pos h)), fun h => next_whenever_on hon (hframe.trans (if_neg h))⟩
  · intro b u hgood hu
    obtain rfl : u = s.heardAck b := hu
    have hframe := State.takeFrame_good hup hgood
    exact ⟨fun h => next_whenever_on hon (hframe.trans (if_pos h)),
      fun h hseq => next_whenever_on hon (hframe.trans ((if_neg h.not_ge).trans (if_pos hseq))),
      fun h hseq => next_whenever_on hon (hframe.trans ((if_neg h.not_ge).trans (if_neg hseq)))⟩
  · intro seq x y hall hsome hnone hy
    obtain rfl : x = s.twin.acked seq.toNat := by
      unfold Twin.acked
      split
      next h => exact hall h
      next h =>
        split
        next hin => exact hsome h hin
        next hin => exact hnone h (Bool.eq_false_iff.2 hin)
    obtain rfl : y = s.twin.ackedDrained seq.toNat := hy
    have hnak := State.takeNak_up hup seq.toNat
    have hboth : (s.twinOn && s.twin.linkUp) = true := by rw [hon, hup]; rfl
    exact ⟨fun h => next_whenever_on hboth (hnak.trans (if_pos h)), fun h => next_whenever_on hboth (hnak.trans (if_neg h))⟩
  · exact next_whenever_on hon (State.resendAll_up hup)

end Sys2Proof.Machine
end

section
/-! SUPPORT. Hello, roles and modes, synchronization and heartbeats (15 R412 to R414, R425 to R427, R435). The statement on them. -/

namespace Sys2Proof.Machine

/-! ### STATE of the twin controller (15 R425) -/

section
variable (s : State) (st : TwinSt)

@[simp] theorem State.setTwin_twin : (s.setTwin st).twin = { s.twin with st := st } := by
  unfold State.setTwin
  split
  next h =>
    subst h
    rfl
  · rfl

@[simp] theorem State.setTwin_cfg : (s.setTwin st).cfg = s.cfg := by unfold State.setTwin; split <;> rfl
@[simp] theorem State.setTwin_store : (s.setTwin st).store = s.store := by unfold State.setTwin; split <;> rfl
@[simp] theorem State.setTwin_sched : (s.setTwin st).sched = s.sched := by unfold State.setTwin; split <;> rfl
@[simp] theorem State.setTwin_regs : (s.setTwin st).regs = s.regs := by unfold State.setTwin; split <;> rfl

variable {s st} in
/-- Another state asks for a message under IRQ_EN. -/
theorem State.setTwin_change (h : st ≠ s.twin.st) : s.setTwin st = { s with
    twin := { s.twin with st := st }, errs := { s.errs with irqTwin := s.errs.irqTwin || bit (s.reg 0xE000) 3 } } := if_neg h

end

/-! ### Roles and modes (15 R413, R414) -/

theorem ownRow_low (row : Nat) : ownRow false row = true ↔ row < 8192 := decide_eq_true_iff

theorem ownRow_high (row : Nat) : ownRow true row = true ↔ 8192 ≤ row := decide_eq_true_iff

theorem State.claim_rowless {s : State} (h : s.rowsInUse = []) : s.claim = bit (s.reg 0xE000) 2 := if_pos h

theorem State.claim_rows {s : State} (h : s.rowsInUse ≠ []) : s.claim = true ↔ ∃ r ∈ s.rowsInUse, 8192 ≤ r := by
  unfold State.claim
  rw [if_neg h, List.any_eq_true]
  simp only [decide_eq_true_iff]

section
variable {a b : Hello}

theorem mirrorsAlike_iff : mirrorsAlike a b = true ↔ a.pageFmtLevel = b.pageFmtLevel ∧ a.np = b.np ∧ a.config = b.config ∧
    a.partnerPct = b.partnerPct ∧ a.bandCrc = b.bandCrc ∧ a.coldSlots = b.coldSlots := by
  simp [mirrorsAlike, and_assoc]

theorem modeFor_apart (h : a.linkLevel.toNat + 1 < b.linkLevel.toNat ∨ b.linkLevel.toNat + 1 < a.linkLevel.toNat) : modeFor a b = none :=
  if_pos h

/-- Levels that are at most one apart allow LEDGER when one part asks for it, else MIRROR, else LEDGER with FALLBACK. -/
theorem modeFor_near (ha : a.linkLevel.toNat ≤ b.linkLevel.toNat + 1) (hb : b.linkLevel.toNat ≤ a.linkLevel.toNat + 1) : modeFor a b =
    if a.pairing = 1 ∨ b.pairing = 1 then some (1, false) else if mirrorsAlike a b then some (2, false) else some (1, true) :=
  if_neg (by omega)

end

/-! ### The hello (15 R411, R412) -/

section
variable {s : State} {h p : Hello} {k nonce : List Byte}

theorem State.sendAuth_key (hk : s.keyFor p.keyId.toNat = some k) : s.sendAuth h p = s.tell (.auth (authCode k h p h.serial.toNat)) := by
  unfold State.sendAuth
  rw [hk]

theorem State.sendAuth_noKey (hk : s.keyFor p.keyId.toNat = none) : s.sendAuth h p = s.helloFails 0x40 := by
  unfold State.sendAuth
  rw [hk]

theorem State.takeHello_stays (h : s.twin.st ≠ .pending ∨ s.twin.linkUp = false) : s.takeHello p = s :=
  if_pos (h.imp_right fun h => by rw [h]; rfl)

/-- The state in which the partner's HELLO has been taken. -/
def State.greeted (s : State) (p : Hello) : State := { s with twin := { s.twin with peer := some p, peerEpoch := p.epoch.toNat } }

/-- A HELLO in PENDING is answered when the part has sent its own. -/
theorem State.takeHello_pending (hst : s.twin.st = .pending) (hup : s.twin.linkUp = true) : s.takeHello p =
    match s.twin.mine with
    | some h => (s.greeted p).sendAuth h p
    | none => s.greeted p := if_neg (by simp [hst, hup])

theorem State.takeHello_first (hst : s.twin.st = .pending) (hup : s.twin.linkUp = true) (hm : s.twin.mine = none) :
    s.takeHello p = s.greeted p := by
  rw [State.takeHello_pending hst hup, hm]

theorem State.takeHello_answered (hst : s.twin.st = .pending) (hup : s.twin.linkUp = true) (hm : s.twin.mine = some h) :
    s.takeHello p = (s.greeted p).sendAuth h p := by
  rw [State.takeHello_pending hst hup, hm]

theorem State.helloRetry_stays (h : s.twin.retryAt = false ∨ s.twin.linkUp = false ∨ s.twin.st ≠ .pending) : s.helloRetry nonce = s := by
  unfold State.helloRetry
  obtain h | h := h
  · rw [h, if_neg Bool.false_ne_true]
  · rw [State.startHello_elsewhere h, ite_self]

theorem State.helloRetry_noKeys (hr : s.twin.retryAt = true) (hup : s.twin.linkUp = true) (hst : s.twin.st = .pending)
    (hk : s.linkKeys = []) : s.helloRetry nonce = s.helloFails 0x40 := by
  unfold State.helloRetry State.startHello
  simp [hr, hup, hst, hk]

/-- A retry sends a HELLO under the lowest KEY_ID; the partner's has not come. -/
theorem State.helloRetry_sends {key : Nat × List Byte} {rest : List (Nat × List Byte)} (hr : s.twin.retryAt = true)
    (hup : s.twin.linkUp = true) (hst : s.twin.st = .pending) (hk : s.linkKeys = key :: rest)
    (hh : h = s.ownHello key.1 (padTo 32 nonce)) (hp : s.twin.peer = none) : s.helloRetry nonce =
      { s with twin := { s.twin with mine := some h, helloing := true, retryAt := false, tx := s.twin.tx ++ [.hello h] } } := by
  subst hh
  unfold State.helloRetry State.startHello
  simp [hr, hup, hst, hk, hp, State.tell_eq]

end

/-! ### Synchronization (15 R435) -/

/-- What sending the next row's group changes: the channel, and that a group is under way. -/
def Twin.SyncsOnly (x y : Twin) : Prop :=
  y = { x with syncOut := y.syncOut, tx := y.tx, replay := y.replay, txSeq := y.txSeq, unsent := y.unsent }

theorem Twin.SyncsOnly.kept {x y : Twin} (h : x.SyncsOnly y) : y.st = x.st ∧ y.syncLeft = x.syncLeft ∧ y.peerSynced = x.peerSynced ∧
    y.groups = x.groups ∧ y.peerEpoch = x.peerEpoch ∧ y.hbLast = x.hbLast := by
  rw [h]
  exact ⟨rfl, rfl, rfl, rfl, rfl, rfl⟩

theorem Twin.SyncsOnly.sends {x y z : Twin} (h : x.SyncsOnly y) (k : y.SendsOnly z) : x.SyncsOnly z := by
  unfold Twin.SyncsOnly Twin.SendsOnly at *
  rw [k, h]

theorem State.syncNext_syncsOnly (s : State) : s.twin.SyncsOnly s.syncNext.twin := by
  unfold State.syncNext
  split
  · rfl
  · split
    · rfl
    · split
      · rfl
      · exact (congrArg (fun x : Twin => ({ x with syncOut := true } : Twin)) (s.ledgerSend_sendsOnly _) :)

theorem State.syncNext_cfg (s : State) : s.syncNext.cfg = s.cfg := by
  unfold State.syncNext
  split
  · rfl
  · split
    · rfl
    · split <;> rfl

/-- SYNCING with every row of the part's half to be sent, and none of the partner's applied. -/
def State.unsynced (s : State) : State :=
  let s := s.setTwin .syncing
  { s with twin := { s.twin with syncLeft := halfRows s.twin.role, peerSynced := [], syncOut := false } }

theorem State.startSync_eq (s : State) : s.startSync = s.unsynced.syncNext := rfl

theorem State.unsynced_twin (s : State) : s.unsynced.twin =
    { s.twin with st := .syncing, syncLeft := halfRows s.twin.role, peerSynced := [], syncOut := false } := by
  unfold State.unsynced
  simp only [State.setTwin_twin]

theorem State.startSync_syncsOnly (s : State) : s.unsynced.twin.SyncsOnly s.startSync.twin := by
  rw [State.startSync_eq]
  exact s.unsynced.syncNext_syncsOnly

theorem State.startSync_cfg (s : State) : s.startSync.cfg = s.cfg := by
  rw [State.startSync_eq, State.syncNext_cfg]
  simp only [State.unsynced, State.setTwin_cfg]

/-! ### The AUTH (15 R412 to R414) -/

theorem State.releaseMirror_twin (s : State) : s.releaseMirror.twin = s.twin := by
  unfold State.releaseMirror
  split <;> rfl

theorem State.releaseMirror_cfg (s : State) : s.releaseMirror.cfg = s.cfg := by
  unfold State.releaseMirror
  split <;> rfl

/-- The terms that two parts agree on: role, mode, level and AUTO_CASTLE, FALLBACK logged. -/
def State.agreed (s : State) (a b : Hello) (role : Bool) (mode : Nat) (fallback : Bool) : State :=
  let s := if mode = 2 then s else s.releaseMirror
  let s := { s with twin := { s.twin with
    role := role, mode := mode, fallback := fallback, auto := bit a.flags.toNat 0 && bit b.flags.toNat 0
    level := min a.linkLevel.toNat b.linkLevel.toNat, mine := none, peer := none, helloing := false, retryAt := false } }
  if fallback then ({ s with errs := { s.errs with alertFallback := true } }).twinEntry sevDegrade 0x43 else s

/-- With rows on either part they are synchronized, else the parts are PAIRED. -/
def State.joined (s : State) (a b : Hello) : State := if a.holdsRows ∨ b.holdsRows then s.startSync else s.setTwin .paired

theorem State.helloPasses_joined (s : State) (a b : Hello) (role : Bool) (mode : Nat) (fallback : Bool) :
    s.helloPasses a b role mode fallback = if ((s.agreed a b role mode fallback).joined a b).cfg.mode = .pair then
      ((s.agreed a b role mode fallback).joined a b).goReady else (s.agreed a b role mode fallback).joined a b := rfl

section
variable (s : State) (a b : Hello) (role : Bool) (mode : Nat) (fallback : Bool)

theorem State.agreed_twin : (s.agreed a b role mode fallback).twin = { s.twin with
    role := role, mode := mode, fallback := fallback, auto := bit a.flags.toNat 0 && bit b.flags.toNat 0
    level := min a.linkLevel.toNat b.linkLevel.toNat, mine := none, peer := none, helloing := false, retryAt := false } := by
  have hmirror : (if mode = 2 then s else s.releaseMirror).twin = s.twin := by
    split
    · rfl
    · exact s.releaseMirror_twin
  rw [← hmirror]
  unfold State.agreed
  dsimp only
  cases fallback <;> rfl

theorem State.agreed_cfg : (s.agreed a b role mode fallback).cfg = s.cfg := by
  have hmirror : (if mode = 2 then s else s.releaseMirror).cfg = s.cfg := by
    split
    · rfl
    · exact s.releaseMirror_cfg
  rw [← hmirror]
  unfold State.agreed
  dsimp only
  cases fallback <;> rfl

end

/-- The terms in force in a twin controller. -/
structure Twin.Terms (x : Twin) (a b : Hello) (role : Bool) (mode : Nat) (fallback : Bool) : Prop where
  role : x.role = role
  mode : x.mode = mode
  fallback : x.fallback = fallback
  level : x.level = min a.linkLevel.toNat b.linkLevel.toNat
  auto : x.auto = (bit a.flags.toNat 0 && bit b.flags.toNat 0)

theorem State.joined_cfg (s : State) (a b : Hello) : (s.joined a b).cfg = s.cfg := by
  unfold State.joined
  split
  · exact s.startSync_cfg
  · exact s.setTwin_cfg .paired

/-- Pairing goes on under the terms. -/
theorem State.joined_terms {s : State} {a b : Hello} {role fallback : Bool} {mode : Nat} (h : s.twin.Terms a b role mode fallback) :
    (s.joined a b).twin.Terms a b role mode fallback := by
  obtain ⟨hrole, hmode, hfallback, hlevel, hauto⟩ := h
  unfold State.joined
  split
  · rw [s.startSync_syncsOnly, s.unsynced_twin]
    exact ⟨hrole, hmode, hfallback, hlevel, hauto⟩
  · rw [s.setTwin_twin]
    exact ⟨hrole, hmode, hfallback, hlevel, hauto⟩

/-- What a hello that passes decides; PAIR ends in READY. -/
structure Agrees (s t : State) (a b : Hello) (role : Bool) (mode : Nat) (fallback : Bool) : Prop where
  terms : t.twin.Terms a b role mode fallback
  paired : a.holdsRows = false → b.holdsRows = false → t.twin.st = .paired
  ready : s.cfg.mode = .pair → t.cfg.mode = .ready
  mode : s.cfg.mode ≠ .pair → t.cfg.mode = s.cfg.mode

theorem State.helloPasses_agrees (s : State) (a b : Hello) (role : Bool) (mode : Nat) (fallback : Bool) :
    Agrees s (s.helloPasses a b role mode fallback) a b role mode fallback := by
  rw [State.helloPasses_joined]
  have hagreed : (s.agreed a b role mode fallback).twin.Terms a b role mode fallback := by
    rw [State.agreed_twin]
    exact ⟨rfl, rfl, rfl, rfl, rfl⟩
  have hterms := State.joined_terms hagreed
  have hcfg := ((s.agreed a b role mode fallback).joined_cfg a b).trans (s.agreed_cfg a b role mode fallback)
  have hpaired (ha : a.holdsRows = false) (hb : b.holdsRows = false) :
      ((s.agreed a b role mode fallback).joined a b).twin.st = .paired := by
    unfold State.joined
    rw [if_neg (by simp [ha, hb]), State.setTwin_twin]
  generalize (s.agreed a b role mode fallback).joined a b = u at *
  split
  next hpair =>
    rw [State.goReady_eq]
    exact ⟨hterms, hpaired, fun _ => rfl, fun hno => absurd (hcfg ▸ hpair) hno⟩
  next hno => exact ⟨hterms, hpaired, fun hpair => absurd (hcfg ▸ hpair) hno, fun _ => congrArg Cfg.mode hcfg⟩

section
variable {s : State} {code key : List Byte} {a b : Hello}

theorem State.takeAuth_stays (h : s.twin.mine = none ∨ s.twin.peer = none ∨ s.twin.st ≠ .pending) : s.takeAuth code = s := by
  unfold State.takeAuth
  split
  next hm hp => exact if_pos ((h.resolve_left (by simp [hm])).resolve_left (by simp [hp]))
  · rfl

variable (hm : s.twin.mine = some a) (hp : s.twin.peer = some b) (hst : s.twin.st = .pending)
include hm hp hst

theorem State.takeAuth_noKey (hk : s.keyFor a.keyId.toNat = none) : s.takeAuth code = s.helloFails 0x40 := by
  simp [State.takeAuth, hm, hp, hst, hk]

theorem State.takeAuth_wrong (hk : s.keyFor a.keyId.toNat = some key) (hc : authCode key a b b.serial.toNat ≠ code) :
    s.takeAuth code = s.helloFails 0x40 := by
  simp [State.takeAuth, hm, hp, hst, hk, hc]

/-! A right AUTH: the claims and the levels decide. -/

variable (hk : s.keyFor a.keyId.toNat = some key) (hc : authCode key a b b.serial.toNat = code)
include hk hc

theorem State.takeAuth_conflict (hr : roleFor a b = none) : s.takeAuth code = s.helloFails 0x41 := by
  simp [State.takeAuth, hm, hp, hst, hk, hc, hr]

theorem State.takeAuth_levels {r : Bool} (hr : roleFor a b = some r) (hmode : modeFor a b = none) :
    s.takeAuth code = s.helloFails 0x42 := by
  simp [State.takeAuth, hm, hp, hst, hk, hc, hr, hmode]

theorem State.takeAuth_passes {r : Bool} {m : Nat × Bool} (hr : roleFor a b = some r) (hmode : modeFor a b = some m) :
    s.takeAuth code = s.helloPasses a b r m.1 m.2 := by
  simp [State.takeAuth, hm, hp, hst, hk, hc, hr, hmode]

end

/-! ### Heartbeats (15 R425 to R427) -/

/-- What asking the partner again for pages changes: the channel, and the pages asked for. -/
structure OnlyAsked (s t : State) : Prop where
  twin : s.twin.SendsOnly t.twin
  store : t.store = s.store
  sched : t.sched = s.sched
  cfg : t.cfg = s.cfg

theorem OnlyAsked.refl (s : State) : OnlyAsked s s := ⟨.refl _, rfl, rfl, rfl⟩

theorem OnlyAsked.trans {s t u : State} (h : OnlyAsked s t) (k : OnlyAsked t u) : OnlyAsked s u :=
  ⟨h.twin.trans k.twin, k.store.trans h.store, k.sched.trans h.sched, k.cfg.trans h.cfg⟩

theorem OnlyAsked.foldl {α : Type} {f : State → α → State} (hf : ∀ s a, OnlyAsked s (f s a)) (l : List α) (s : State) :
    OnlyAsked s (l.foldl f s) :=
  List.foldlRecOn l f (.refl s) fun _ h a _ => h.trans (hf _ a)

theorem State.askRefetch_onlyAsked (s : State) (f : Nat) : OnlyAsked s (s.askRefetch f) := by
  unfold State.askRefetch
  split
  · exact .refl s
  · exact ⟨s.ledgerSend_sendsOnly _, rfl, rfl, rfl⟩

theorem State.askResend_onlyAsked (s : State) (f : Nat) : OnlyAsked s (s.askResend f) :=
  ⟨State.ledgerSend_sendsOnly _ _, rfl, rfl, rfl⟩

theorem State.askAgain_onlyAsked (s : State) : OnlyAsked s s.askAgain := by
  refine (OnlyAsked.foldl (fun s p => s.askRefetch_onlyAsked p.1) s.errs.refetching s).trans (.foldl (fun s f => ?_) _ _)
  split
  · exact s.askResend_onlyAsked f
  · exact .refl s

section
variable {s : State} {time epoch : Nat}

theorem State.beats_iff : s.beats = true ↔ s.twin.st ∈ [TwinSt.pending, .syncing, .paired, .suspect] := by
  unfold State.beats
  cases s.twin.st <;> simp

/-- A heartbeat that counts sets TWN_HB_LAST and the clamped TWN_PEER_OFFSET. -/
def State.heard (s : State) (time : Nat) : State := { s with twin := { s.twin with
  hbLast := s.now, peerOffset := max (-2147483648) (min 2147483647 ((time : Int) - (s.now : Int))) } }

theorem State.takeBeat_quiet (h : s.beats = false) : s.takeBeat time epoch = s := if_pos (by rw [h]; rfl)

theorem State.takeBeat_known (h : s.twin.st ∈ [TwinSt.pending, .syncing, .paired]) : s.takeBeat time epoch =
    { s.heard time with twin := { (s.heard time).twin with peerEpoch := epoch } } := by
  have hbeats : s.beats = true := State.beats_iff.2 (List.mem_append_left [TwinSt.suspect] h :)
  have hno : s.twin.st ≠ .suspect := fun hs => absurd (hs ▸ h) (by decide)
  unfold State.takeBeat
  rw [if_neg (by simp [hbeats])]
  exact if_neg hno

theorem State.takeBeat_suspect (h : s.twin.st = .suspect) : s.takeBeat time epoch = (s.heard time).resumes epoch := by
  have hbeats : s.beats = true := State.beats_iff.2 (by rw [h]; decide)
  unfold State.takeBeat
  rw [if_neg (by simp [hbeats])]
  exact if_pos h

/-- The same LINK_EPOCH: back to the state before, and what waited is asked for again. -/
theorem State.resumes_same (h : epoch = s.twin.peerEpoch) : ({ s.twin with st := s.twin.before } : Twin).SendsOnly (s.resumes epoch).twin ∧
    (s.resumes epoch).store = s.store ∧ (s.resumes epoch).sched = s.sched ∧ (s.resumes epoch).cfg = s.cfg := by
  obtain ⟨htwin, hstore, hsched, hcfg⟩ := (s.setTwin s.twin.before).askAgain_onlyAsked
  rw [State.setTwin_twin] at htwin
  unfold State.resumes
  rw [if_pos h]
  exact ⟨htwin, hstore.trans (s.setTwin_store _), hsched.trans (s.setTwin_sched _), hcfg.trans (s.setTwin_cfg _)⟩

theorem State.keepAll_without_migrations (h : s.store.migs = []) : s.keepAll = s := by
  unfold State.keepAll
  rw [h, List.filter_nil, List.foldl_nil]

theorem State.emptyMirror_twin (s : State) : s.emptyMirror.twin = s.twin := by
  unfold State.emptyMirror
  split <;> rfl

/-- The state in which every row is to be synchronized under a new LINK_EPOCH. -/
def State.newEpoch (s : State) (epoch : Nat) : State :=
  { s.emptyMirror with twin := { s.emptyMirror.twin with groups := [], peerEpoch := epoch } }

theorem State.newEpoch_twin (s : State) (epoch : Nat) : (s.newEpoch epoch).twin = { s.twin with groups := [], peerEpoch := epoch } := by
  unfold State.newEpoch
  rw [s.emptyMirror_twin]

/-- Another LINK_EPOCH: every row of both halves is synchronized anew. -/
theorem State.resumes_other (h : epoch ≠ s.twin.peerEpoch) (hm : s.store.migs = []) :
    (s.resumes epoch).twin.st = .syncing ∧ (s.resumes epoch).twin.syncLeft = halfRows s.twin.role ∧
    (s.resumes epoch).twin.peerSynced = [] ∧ (s.resumes epoch).twin.groups = [] ∧ (s.resumes epoch).twin.peerEpoch = epoch ∧
    (s.resumes epoch).twin.hbLast = s.twin.hbLast := by
  have hsync := ((s.newEpoch epoch).startSync_syncsOnly.sends (s.newEpoch epoch).startSync.askAgain_onlyAsked.twin).kept
  have hrun : s.resumes epoch = (s.newEpoch epoch).startSync.askAgain := by
    unfold State.resumes
    rw [if_neg h, State.keepAll_without_migrations hm]
    rfl
  rw [hrun]
  simpa only [State.unsynced_twin, State.newEpoch_twin] using hsync

theorem State.missBeats_paired (h : s.twin.st = .paired) : s.missBeats = (({ s with
    twin := { s.twin with before := .paired, st := .suspect }
    errs := { s.errs with irqTwin := s.errs.irqTwin || bit (s.reg 0xE000) 3 } } : State).bump 0xE03C 1).twinEntry sevNote 0x44 := by
  have hst : TwinSt.suspect ≠ s.twin.st := by rw [h]; decide
  unfold State.missBeats
  rw [if_neg (not_not.2 h), State.setTwin_change (by exact hst), h]
  rfl

theorem TwinSt.code_of_mem {st : TwinSt} {n : Nat} (h : (st, n) ∈ [(TwinSt.pending, 1), (.syncing, 2), (.paired, 3), (.suspect, 4)]) :
    st.code = n ∧ st ∈ [TwinSt.pending, .syncing, .paired, .suspect] := by
  simp only [List.mem_cons, Prod.mk.injEq, List.not_mem_nil, or_false] at h
  obtain ⟨rfl, rfl⟩ | ⟨rfl, rfl⟩ | ⟨rfl, rfl⟩ | ⟨rfl, rfl⟩ := h <;> decide

end

/-! ### The commands -/

/-- Without a twin link no hello and no heartbeat counts. -/
theorem exec_hello_twinOff {s : State} (h : s.twinOn = false) {c : Instr} (hc : (∃ m, c = .hello m) ∨ (∃ m, c = .auth m) ∨
    c = .helloTimeout ∨ (∃ n, c = .helloRetry n)) : exec c s = .next s := by
  obtain ⟨m, rfl⟩ | ⟨m, rfl⟩ | rfl | ⟨n, rfl⟩ := hc
  all_goals exact next_whenever_off h

theorem exec_heartbeat_twinOff {s : State} (h : s.twinOn = false) {c : Instr} (hc : c = .heartbeatSend ∨
    (∃ x y z, c = .heartbeat x y z) ∨ c = .heartbeatMiss) : exec c s = .next s := by
  obtain rfl | ⟨x, y, z, rfl⟩ | rfl := hc
  case inl => exact next_whenever_off (by rw [h, Bool.false_and])
  all_goals exact next_whenever_off h

theorem exec_heartbeatSend {s : State} (hon : s.twinOn = true) (hb : s.beats = true) :
    exec .heartbeatSend s = .next (s.tell (.heartbeat s.now s.twin.st.code s.twin.epoch)) :=
  next_whenever_on (by rw [hon, hb]; rfl) rfl

/-- Settles O56: claims, roles and modes by their definitions; the hello by what each of its steps finds; heartbeats by the state that they
find, and what SUSPECT makes of their LINK_EPOCH. -/
theorem helloAndHeartbeats : Obligations.HelloAndHeartbeats := by
  refine ⟨⟨fun row => ⟨ownRow_low row, ownRow_high row⟩, fun s id nonce => ⟨decide_eq_true_iff, State.claim_rowless, State.claim_rows⟩,
    fun a b => ⟨fun ha hb => ?_, fun ha hb => ?_, fun ha hb => ?_, fun ha hb => ?_, modeFor_apart, fun hab hba => ⟨fun hp => ?_,
      fun ha hb => ⟨fun h => ?_, fun h => ?_⟩⟩⟩, fun s fails hfails => ?_⟩, fun s => ⟨fun hoff c => exec_heartbeat_twinOff hoff, fun hon => ?_⟩⟩
  · simp only [roleFor, ha, hb]
  · simp only [roleFor, ha, hb]
  · simp only [roleFor, ha, hb]
  · simp only [roleFor, ha, hb]
  · exact (modeFor_near hab hba).trans (if_pos hp)
  · exact (modeFor_near hab hba).trans ((if_neg (not_or.2 ⟨ha, hb⟩)).trans (if_pos (mirrorsAlike_iff.2 h)))
  · exact (modeFor_near hab hba).trans ((if_neg (not_or.2 ⟨ha, hb⟩)).trans (if_neg (mt mirrorsAlike_iff.1 h)))
  · obtain rfl : fails = State.helloFails := funext fun u => funext fun c => hfails u c
    refine ⟨fun hoff c => exec_hello_twinOff hoff, fun hon => ⟨fun p => ⟨fun h => ?_, fun u hst hup hu => ⟨fun hm => ?_,
      fun h k hm hk => ?_, fun h hm hk => ?_⟩⟩, fun h => ?_, fun h => ?_, fun nonce => ⟨fun h => ?_, fun hr hup hst => ⟨fun hk => ?_,
      fun k rest h hk hh hp => ?_⟩⟩, fun code h => ?_, fun code a b hm hp hst => ⟨fun hk => ?_, fun k hk => ⟨fun hc => ?_,
      fun hc => ⟨fun hr => ?_, fun r hr hmode => ?_, fun r m hr hmode => ?_⟩⟩⟩⟩⟩
    · exact next_whenever_on hon (State.takeHello_stays h)
    · exact next_whenever_on hon ((State.takeHello_first hst hup hm).trans hu.symm)
    · exact next_whenever_on hon ((State.takeHello_answered hst hup hm).trans (hu ▸ State.sendAuth_key hk))
    · exact next_whenever_on hon ((State.takeHello_answered hst hup hm).trans (hu ▸ State.sendAuth_noKey hk))
    · exact next_whenever_on hon (if_pos h)
    · exact next_whenever_on hon (if_neg (Bool.eq_false_iff.1 h))
    · exact next_whenever_on hon (State.helloRetry_stays h)
    · exact next_whenever_on hon (State.helloRetry_noKeys hr hup hst hk)
    · exact next_whenever_on hon (State.helloRetry_sends hr hup hst hk hh hp)
    · exact next_whenever_on hon (State.takeAuth_stays h)
    · exact next_whenever_on hon (State.takeAuth_noKey hm hp hst hk)
    · exact next_whenever_on hon (State.takeAuth_wrong hm hp hst hk hc)
    · exact next_whenever_on hon (State.takeAuth_conflict hm hp hst hk hc hr)
    · exact next_whenever_on hon (State.takeAuth_levels hm hp hst hk hc hr hmode)
    · obtain ⟨⟨hrole, hm', hfallback, hlevel, hauto⟩, hpaired, hready, hkept⟩ := s.helloPasses_agrees a b r m.1 m.2
      exact ⟨_, next_whenever_on hon (State.takeAuth_passes hm hp hst hk hc hr hmode), hrole, hm', hfallback, hlevel, hauto, hpaired,
        hready, hkept⟩
  · refine ⟨fun hst => ?_, fun n hn => ?_, fun time st epoch u hu => ?_, fun hst => ?_, fun hst => ?_⟩
    · have hquiet : s.beats = false := Bool.eq_false_iff.2 (mt State.beats_iff.1 hst)
      exact ⟨next_whenever_off (by rw [hquiet, Bool.and_false]), fun x y z => next_whenever_on hon (State.takeBeat_quiet hquiet)⟩
    · obtain ⟨rfl, hmem⟩ := TwinSt.code_of_mem hn
      rw [exec_heartbeatSend hon (State.beats_iff.2 hmem), State.tell_eq]
      exact ⟨fun hup => by rw [if_pos hup], fun hdown => by rw [hdown, if_neg Bool.false_ne_true]⟩
    · obtain rfl : u = s.heard time.toNat := hu
      refine ⟨fun hst => next_whenever_on hon (State.takeBeat_known hst), fun hst he => ?_, fun hst he hm => ?_⟩
      · obtain ⟨htwin, hstore, hsched, hcfg⟩ := State.resumes_same (s := s.heard time.toNat) he
        exact ⟨_, next_whenever_on hon (State.takeBeat_suspect hst), congrArg Twin.st htwin, congrArg Twin.hbLast htwin,
          (congrArg Twin.peerOffset htwin :), hstore, hsched, hcfg⟩
      · exact ⟨_, next_whenever_on hon (State.takeBeat_suspect hst), State.resumes_other (s := s.heard time.toNat) he hm⟩
    · exact next_whenever_on hon (if_pos hst)
    · exact next_whenever_on hon (State.missBeats_paired hst)

end Sys2Proof.Machine
end

section
/-! SUPPORT. ATTACH and DETACH: the writes of TWN_CTL, and the rows that the end of a pairing releases (15 R425, R433, R435, R436). The
statement on them. -/

namespace Sys2Proof.Machine

open Sys2Proof.Safety

/-! ### Writes of TWN_CTL (15 R435, R436) -/

/-- The fields of TWN_CTL: REQ, HALF, IRQ_EN. -/
def twnCtlFields : List Fld := [⟨1, 0, .wo, [(3, 3)]⟩, ⟨2, 2, .rw, []⟩, ⟨3, 3, .rw, []⟩]

/-- Putting a field's own bits into a word changes nothing. -/
theorem Fld.put_own (f : Fld) {old v : Nat} (h : f.get v = f.get old) : f.put old v = old := by
  have hle : f.get old * 2 ^ f.lo ≤ old := by
    unfold Fld.get bits
    rw [Nat.shiftRight_eq_div_pow]
    exact (Nat.mul_le_mul_right _ (Nat.mod_le _ _)).trans (Nat.div_mul_le_self _ _)
  unfold Fld.put
  rw [h, Nat.sub_add_cancel hle]

section
variable {s : State} {req : Nat}

/-- The word that ATTACH and DETACH write: their REQ, with HALF and IRQ_EN as they stand. -/
theorem State.twnReq_bits (h : req < 3) : bits (s.twnReq req) 1 0 = req ∧ bits (s.twnReq req) 2 2 = bits (s.reg 0xE000) 2 2 ∧
    bits (s.twnReq req) 3 3 = bits (s.reg 0xE000) 3 3 := by
  simp only [State.twnReq, bits, Nat.shiftRight_eq_div_pow]
  norm_num
  omega

theorem State.twnReq_legal (h : req < 3) : twnCtlFields.any (fun f => f.reserved (s.twnReq req)) = false := by
  have hreq : ¬ 3 ≤ req := h.not_ge
  simp [twnCtlFields, Fld.reserved, Fld.get, (State.twnReq_bits h).1, hreq]

/-- Such a write leaves the register as it is. -/
theorem State.writeReg_twnReq (hb : Bounded s) (h : req < 3) : s.writeReg twnCtlFields 0xE000 (s.twnReq req) = s := by
  obtain ⟨-, hhalf, hirq⟩ := State.twnReq_bits (s := s) h
  have hhalf' : Fld.put ⟨2, 2, .rw, []⟩ (s.reg 0xE000) (s.twnReq req) = s.reg 0xE000 := Fld.put_own _ hhalf
  have hirq' : Fld.put ⟨3, 3, .rw, []⟩ (s.reg 0xE000) (s.twnReq req) = s.reg 0xE000 := Fld.put_own _ hirq
  have hlive : liveRegs.contains 0xE000 = false := rfl
  unfold State.writeReg
  simp only [hlive, Bool.and_false, Bool.false_eq_true, if_false]
  unfold State.applyWrite twnCtlFields
  simp only [List.foldl_cons, List.foldl_nil, applyField, hhalf', hirq', State.tset_own_reg hb, Bool.false_eq_true, if_false, if_true]

theorem State.writeBarred_twnCtl {v : Nat} : s.writeBarred 0xE000 v = (decide (bits v 1 0 = 1) && s.attachRefused) := rfl

/-- The state with the half that a write of TWN_CTL in PENDING claims (15 R413). -/
def State.halved (s : State) (v : Nat) : State :=
  if s.twin.st = .pending ∧ s.rowsInUse = [] then { s with twin := { s.twin with role := bit v 2 } } else s

theorem State.takeWrite_attach (hb : Bounded s) (n : List Byte) :
    s.takeWrite twnCtlFields 0xE000 (s.twnReq 1) n = (s.halved (s.twnReq 1)).attach n := by
  have hw : s.takeWrite twnCtlFields 0xE000 (s.twnReq 1) n = s.writeTwn twnCtlFields (s.twnReq 1) n := rfl
  rw [hw]
  unfold State.writeTwn
  rw [State.writeReg_twnReq hb (by decide), (State.twnReq_bits (by decide)).1]
  rfl

theorem State.takeWrite_detach (hb : Bounded s) (n : List Byte) :
    s.takeWrite twnCtlFields 0xE000 (s.twnReq 2) n = (s.halved (s.twnReq 2)).sendDetach := by
  have hw : s.takeWrite twnCtlFields 0xE000 (s.twnReq 2) n = s.writeTwn twnCtlFields (s.twnReq 2) n := rfl
  rw [hw]
  unfold State.writeTwn
  rw [State.writeReg_twnReq hb (by decide), (State.twnReq_bits (by decide)).1]
  rfl

variable {q : Req}

theorem exec_attach_refused (ha : Arrives s q) (hm : Managed s) (h : s.attachRefused = true) (n : List Byte) :
    exec (.attach q n) s = .next (s.refuse q 0xE000) := by
  have hc : s.checkWrite 0xE000 (s.twnReq 1) = .take twnCtlFields :=
    State.checkWrite_managed hm rfl rfl (by decide) (State.twnReq_legal (by decide))
  have hbar : s.writeBarred 0xE000 (s.twnReq 1) = true := by
    rw [State.writeBarred_twnCtl, (State.twnReq_bits (by decide)).1, h]
    rfl
  exact (onTile_of_hasTile ha.1).trans (congrArg Host.Outcome.next (State.hostWrite_barred ha hc rfl rfl hbar))

theorem exec_attach_taken (ha : Arrives s q) (hm : Managed s) (hb : Bounded s) (h : s.attachRefused = false) (n : List Byte) :
    exec (.attach q n) s = .next (((s.halved (s.twnReq 1)).attach n).answer q true 0) := by
  have hc : s.checkWrite 0xE000 (s.twnReq 1) = .take twnCtlFields :=
    State.checkWrite_managed hm rfl rfl (by decide) (State.twnReq_legal (by decide))
  have hbar : s.writeBarred 0xE000 (s.twnReq 1) = false := by rw [State.writeBarred_twnCtl, h, Bool.and_false]
  rw [← State.takeWrite_attach hb n]
  exact (onTile_of_hasTile ha.1).trans (congrArg Host.Outcome.next (State.hostWrite_taken ha hc rfl rfl hbar))

theorem exec_detach_written (ha : Arrives s q) (hm : Managed s) (hb : Bounded s) :
    exec (.detach (some q)) s = .next ((s.halved (s.twnReq 2)).sendDetach.answer q true 0) := by
  have hw := State.mgtWrite_managed (off := 0xE000) (v := s.twnReq 2) hm rfl (State.twnReq_legal (by decide)) rfl rfl []
  rw [State.writeBarred_twnCtl, (State.twnReq_bits (by decide)).1] at hw
  rw [← State.takeWrite_detach hb []]
  exact State.writeFrom_mgtWrite ha hw

end

/-! ### ATTACH (15 R413, R435) -/

/-- What the start of a hello changes: of the twin controller the hello and the channel; of the rest no work. -/
structure OnlyGreets (s t : State) : Prop where
  twin : t.twin = { s.twin with mine := t.twin.mine, peer := t.twin.peer, helloing := t.twin.helloing, retryAt := t.twin.retryAt
                                tx := t.twin.tx }
  store : t.store = s.store
  sched : t.sched = s.sched

theorem State.helloFails_onlyGreets (s : State) (c : Nat) : OnlyGreets s (s.helloFails c) := ⟨rfl, rfl, rfl⟩

theorem State.tell_onlyGreets (s : State) (m : TwinMsg) : OnlyGreets s (s.tell m) := by
  rw [State.tell_eq]
  exact ⟨rfl, rfl, rfl⟩

theorem OnlyGreets.trans {s t u : State} (h : OnlyGreets s t) (k : OnlyGreets t u) : OnlyGreets s u :=
  ⟨by rw [k.twin, h.twin], k.store.trans h.store, k.sched.trans h.sched⟩

theorem State.sendAuth_onlyGreets (s : State) (a b : Hello) : OnlyGreets s (s.sendAuth a b) := by
  unfold State.sendAuth
  split
  · exact s.tell_onlyGreets _
  · exact s.helloFails_onlyGreets _

theorem State.startHello_onlyGreets (s : State) (nonce : List Byte) : OnlyGreets s (s.startHello nonce) := by
  unfold State.startHello
  split
  · exact ⟨rfl, rfl, rfl⟩
  · split
    · exact s.helloFails_onlyGreets _
    next k _ _ =>
      extract_lets h _ sent
      have hsent : OnlyGreets s sent :=
        OnlyGreets.trans (t := { s with twin := { s.twin with mine := some h, helloing := true, retryAt := false } }) ⟨rfl, rfl, rfl⟩
          (State.tell_onlyGreets _ _)
      split
      · exact hsent.trans (State.sendAuth_onlyGreets _ _ _)
      · exact hsent

/-- The state in which ATTACH has set its mirror aside and claims its half, before the hello. -/
def State.attaching (s : State) : State :=
  let s := s.setMirror.setTwin .pending
  { s with twin := { s.twin.unpair with mode := s.cfg.image.pairing, role := s.claim, deadTiles := [] } }

theorem State.attach_attaching (s : State) (nonce : List Byte) : s.attach nonce = s.attaching.startHello nonce := rfl

theorem State.setMirror_frames (s : State) :
    s.setMirror = { s with store := { s.store with frames := s.setMirror.store.frames, mirrorGen := s.setMirror.store.mirrorGen } } := by
  unfold State.setMirror
  split <;> rfl

/-- What ATTACH leaves: the claims and limits of a pairing that begins, the rows and jobs as they were. -/
structure Attaches (s t : State) : Prop where
  st : t.twin.st = .pending
  mode : t.twin.mode = s.cfg.image.pairing
  role : t.twin.role = s.claim
  deadTiles : t.twin.deadTiles = []
  sched : t.sched = s.sched
  rows : t.store.rows = s.store.rows

theorem State.attaching_attaches (s : State) : Attaches s s.attaching := by
  have hclaim : (s.setMirror.setTwin .pending).claim = s.claim := by
    unfold State.claim State.rowsInUse State.reg
    rw [State.setTwin_store, State.setTwin_regs, s.setMirror_frames]
  refine ⟨?_, ?_, hclaim, rfl, ?_, ?_⟩
  · exact congrArg Twin.st (s.setMirror.setTwin_twin .pending)
  · refine (congrArg (fun c : Cfg => c.image.pairing) (s.setMirror.setTwin_cfg .pending)).trans ?_
    rw [s.setMirror_frames]
  · refine (s.setMirror.setTwin_sched .pending).trans ?_
    rw [s.setMirror_frames]
  · refine (congrArg Store.rows (s.setMirror.setTwin_store .pending)).trans ?_
    rw [s.setMirror_frames]

theorem State.attach_attaches (s : State) (nonce : List Byte) : Attaches s (s.attach nonce) := by
  obtain ⟨htwin, hstore, hsched⟩ := s.attaching.startHello_onlyGreets nonce
  obtain ⟨hst, hmode, hrole, hdead, hjobs, hrows⟩ := s.attaching_attaches
  rw [State.attach_attaching]
  exact ⟨(congrArg Twin.st htwin).trans hst, (congrArg Twin.mode htwin).trans hmode, (congrArg Twin.role htwin).trans hrole,
    (congrArg Twin.deadTiles htwin).trans hdead, hsched.trans hjobs, (congrArg Store.rows hstore).trans hrows⟩

/-- A part that may attach is not in PENDING: its write of TWN_CTL claims no half anew. -/
theorem State.halved_attachable {s : State} (h : s.attachRefused = false) (v : Nat) : s.halved v = s := by
  refine if_neg fun hp => ?_
  unfold State.attachRefused at h
  simp [hp.1] at h

/-! ### DETACH (15 R425, R436) -/

section
variable {s : State} {v : Nat}

theorem State.detachable_iff : s.detachable = true ↔ s.twin.st = .pending ∨ s.twin.st = .syncing ∨ s.twin.st = .paired := by
  simp [State.detachable, or_assoc]

theorem State.halved_undetachable (h : s.detachable = false) (v : Nat) : s.halved v = s :=
  if_neg fun hp => absurd (State.detachable_iff.2 (.inl hp.1)) (by simp [h])

theorem State.sendDetach_stays (h : s.detachable = false) : s.sendDetach = s := if_neg (by simp [h])

theorem State.sendDetach_sends (h : s.detachable = true) : s.sendDetach = { s with twin := { s.twin with
    detaching := true, tx := if s.twin.linkUp then s.twin.tx ++ [.detach] else s.twin.tx } } := by
  unfold State.sendDetach
  rw [if_pos h, State.tell_eq]

theorem State.halved_role (s : State) (v : Nat) : ∃ r, s.halved v = { s with twin := { s.twin with role := r } } := by
  unfold State.halved
  split
  · exact ⟨_, rfl⟩
  · exact ⟨s.twin.role, rfl⟩

end

/-! ### The end of a pairing (15 R433, R436) -/

/-- An entry that is no default is listed. -/
theorem mem_of_tget_ne {α : Type} {d : α} {t : Tab α} {k : Nat} (h : tget d t k ≠ d) : (k, tget d t k) ∈ t := by
  induction t with
  | nil => exact absurd rfl h
  | cons a t ih => grind [tget]

theorem State.mem_rowsInUse {s : State} {r : Nat} (h : (s.row r).state ≠ 0) : r ∈ s.rowsInUse := by
  have hlisted : (r, s.row r) ∈ s.store.rows := mem_of_tget_ne fun hd => h (congrArg CtxRow.state hd)
  exact List.mem_map.2 ⟨_, List.mem_filter.2 ⟨hlisted, decide_eq_true h⟩, rfl⟩

/-- Rows that are released one after the other are FREE, and the others as they were. -/
theorem State.freeRows_row (l : List Nat) {s : State} (h : tabOk {} s.store.rows = true) :
    (∀ r ∈ l, ((l.foldl State.freeRow s).row r).state = 0) ∧ ∀ r, r ∉ l → (l.foldl State.freeRow s).row r = s.row r := by
  induction l generalizing s with
  | nil => exact ⟨fun r hr => absurd hr List.not_mem_nil, fun _ _ => rfl⟩
  | cons a l ih =>
    obtain ⟨hin, hout⟩ := ih (s := s.freeRow a) (tabOk_tset h a _)
    refine ⟨fun r hr => ?_, fun r hr => ?_⟩
    · by_cases hl : r ∈ l
      · exact hin r hl
      · obtain rfl : r = a := (List.mem_cons.1 hr).resolve_right hl
        refine (congrArg CtxRow.state (hout r hl)).trans ?_
        rw [State.freeRow, State.setRow_row h]
    · obtain ⟨hne, hl⟩ := not_or.1 (mt List.mem_cons.2 hr)
      exact (hout r hl).trans (State.setRow_row_ne h _ hne)

/-- The partner's rows are released, the part's own stay. -/
theorem State.releasePartner_row {s : State} (h : tabOk {} s.store.rows = true) :
    (∀ r, ownRow s.twin.role r = false → (s.releasePartner.row r).state = 0) ∧
    ∀ r, ownRow s.twin.role r = true → s.releasePartner.row r = s.row r := by
  obtain ⟨hin, hout⟩ := State.freeRows_row s.partnerRows h
  refine ⟨fun r hr => ?_, fun r hr => hout r fun hp => ?_⟩
  · by_cases hp : r ∈ s.partnerRows
    · exact hin r hp
    · by_contra hne
      have hrow : s.releasePartner.row r = s.row r := hout r hp
      rw [hrow] at hne
      exact hp (List.mem_filter.2 ⟨State.mem_rowsInUse hne, by rw [hr]; rfl⟩)
  · have hown := (List.mem_filter.1 hp).2
    rw [hr] at hown
    exact absurd hown Bool.false_ne_true

theorem State.refetchesFail_without_refetches {s : State} (h : s.errs.refetching = []) : s.refetchesFail = s := by
  unfold State.refetchesFail
  rw [h, List.foldl_nil]

theorem State.releaseMirror_rows (s : State) : s.releaseMirror.store.rows = s.store.rows := by
  unfold State.releaseMirror
  split <;> rfl

section
variable {s : State}

/-- UNPAIRED in mode SOLO, with nothing of the pairing left. -/
theorem State.detached_twin (s : State) :
    s.detached.twin.st = .unpaired ∧ s.detached.twin.mode = 0 ∧ s.detached.twin.groups = [] ∧ s.detached.twin.detaching = false := by
  unfold State.detached
  rw [State.setTwin_twin]
  exact ⟨rfl, rfl, rfl, rfl⟩

/-- With no page in transit the end of a pairing releases the partner's rows and leaves the part's own. -/
theorem State.detached_row (hm : s.store.migs = []) (hr : s.errs.refetching = []) (ht : tabOk {} s.store.rows = true) :
    (∀ r, ownRow s.twin.role r = false → (s.detached.row r).state = 0) ∧
    ∀ r, ownRow s.twin.role r = true → s.detached.row r = s.row r := by
  have hrow (r : Nat) : s.detached.row r = s.releaseMirror.releasePartner.row r := by
    unfold State.detached State.row
    rw [State.keepAll_without_migrations hm, State.refetchesFail_without_refetches hr, State.setTwin_store]
    rfl
  have hsame (r : Nat) : s.releaseMirror.row r = s.row r := by
    unfold State.row
    rw [s.releaseMirror_rows]
  have hpartner := State.releasePartner_row (s := s.releaseMirror) (by rw [s.releaseMirror_rows]; exact ht)
  simpa only [hrow, ← hsame, s.releaseMirror_twin] using hpartner

/-- The partner's DETACH ends the pairing, answered first when the part has sent none. -/
theorem State.takeDetach_detached (h : s.detachable = true) :
    ∃ u : State, s.takeDetach = u.detached ∧ u.store = s.store ∧ u.errs = s.errs ∧ u.twin.role = s.twin.role := by
  unfold State.takeDetach
  rw [if_neg (by simp [h])]
  split
  · exact ⟨s, rfl, rfl, rfl, rfl⟩
  · refine ⟨_, rfl, s.tell_store _, s.tell_errs _, ?_⟩
    rw [State.tell_eq]

end

/-- A DETACH that arrives, and one that is not answered in time. -/
theorem exec_detach_ends {s : State} {c : Instr} (hon : s.twinOn = true)
    (h : (c = .detach none ∧ s.detachable = true) ∨ (c = .detachTimeout ∧ s.twin.detaching = true)) :
    ∃ u : State, exec c s = .next u.detached ∧ u.store = s.store ∧ u.errs = s.errs ∧ u.twin.role = s.twin.role := by
  obtain ⟨rfl, hd⟩ | ⟨rfl, hd⟩ := h
  · obtain ⟨u, hu, hsame⟩ := State.takeDetach_detached hd
    exact ⟨u, next_whenever_on hon hu, hsame⟩
  · exact ⟨s, next_whenever_on (by rw [hon, hd]; rfl) rfl, rfl, rfl, rfl⟩

/-- Settles O57: ATTACH by whether it is refused, DETACH written by whether STATE allows it, and the end of a pairing by what it
releases. -/
theorem attachAndDetach : Obligations.AttachAndDetach := by
  refine fun s => ⟨fun q nonce ha hm hb => ⟨fun h => exec_attach_refused ha hm h nonce, fun h => ?_, fun h => ?_, fun h => ?_⟩,
    fun hoff => ⟨next_whenever_off hoff, next_whenever_off (by rw [hoff, Bool.false_and])⟩, fun h => ?_, fun h => ?_, fun c hon h => ?_⟩
  · have hrun := exec_attach_taken ha hm hb h nonce
    rw [State.halved_attachable h] at hrun
    have hkeeps := State.attach_keeps (Keeps.refl s) nonce
    obtain ⟨hst, hmode, hrole, hdead, hsched, hrows⟩ := s.attach_attaches nonce
    exact ⟨_, hrun, hst, hmode, hrole, hdead, hsched, hrows, hkeeps.samePart, hkeeps.sameSeals⟩
  · have hrun := exec_detach_written ha hm hb
    obtain ⟨r, hr⟩ := s.halved_role (s.twnReq 2)
    rw [hr, State.sendDetach_sends (by exact h)] at hrun
    exact ⟨_, hrun, rfl, rfl, rfl, rfl, rfl, ⟨rfl, rfl, rfl, rfl⟩, ⟨rfl, rfl, rfl, rfl, rfl⟩⟩
  · have hrun := exec_detach_written ha hm hb
    rw [State.halved_undetachable h, State.sendDetach_stays h] at hrun
    exact ⟨_, hrun, rfl, rfl, rfl, ⟨rfl, rfl, rfl, rfl⟩, ⟨rfl, rfl, rfl, rfl, rfl⟩⟩
  · cases hon : s.twinOn with
    | false => exact next_whenever_off hon
    | true => exact next_whenever_on hon (if_pos (by rw [h]; rfl))
  · exact next_whenever_off (by rw [h, Bool.and_false])
  · obtain ⟨u, hrun, hstore, herrs, hrole⟩ := exec_detach_ends hon h
    obtain ⟨hst, hmode, hgroups, hdetaching⟩ := u.detached_twin
    refine ⟨_, hrun, hst, hmode, hgroups, hdetaching, fun hmigs hrefetch ht => ?_⟩
    have hrows := State.detached_row (s := u) (by rw [hstore, hmigs]) (by rw [herrs, hrefetch]) (by rw [hstore, ht])
    have hsame (r : Nat) : u.row r = s.row r := by
      unfold State.row
      rw [hstore]
    simpa only [hrole, hsame] using hrows

end Sys2Proof.Machine
end

section
/-! SUPPORT. Castling: its confirmation, the promotion of the partner's rows, the castle record (15 R427 to R433). The statement on it. -/

namespace Sys2Proof.Machine

open Sys2Proof.Safety

/-! ### Confirmation (15 R427 to R429) -/

section
variable {s : State}

/-- The state in which castling is confirmed, where no page was in transit. -/
def State.confirmed (s : State) (n : Nat) : State := { s with
  twin := { s.twin with
    st := .castling, castleCause := n, castleTime := s.now, discarded := s.twin.groups.length, groups := [], syncLeft := []
    syncOut := false, unsent := [], before := if s.twin.st = .suspect then s.twin.before else s.twin.st }
  sched := { s.sched with jobs := s.sched.jobs.map (fun j => { j with groups := [] }) }
  errs := { s.errs with irqTwin := s.errs.irqTwin || bit (s.reg 0xE000) 3 } }

theorem State.mayCastle_iff : s.mayCastle = true ↔ s.twin.st = .syncing ∨ s.twin.st = .paired ∨ s.twin.st = .suspect := by
  simp [State.mayCastle, or_assoc]

theorem State.dropPartnerEvicts_without_migrations (h : s.store.migs = []) : s.dropPartnerEvicts = s := by
  unfold State.dropPartnerEvicts
  rw [h, List.filter_nil, List.foldl_nil]

/-- The twin controller when castling is confirmed, before STATE says so. -/
def Twin.stopped (x : Twin) (n now : Nat) : Twin := { x with
  castleCause := n, castleTime := now, discarded := x.groups.length, groups := [], syncLeft := [], syncOut := false, unsent := []
  before := if x.st = TwinSt.suspect then x.before else x.st }

theorem State.confirm_confirmed (hm : s.store.migs = []) (hr : s.errs.refetching = []) (h : s.mayCastle = true) (n : Nat) :
    s.confirm n = s.confirmed n := by
  have hst : TwinSt.castling ≠ s.twin.st := by
    intro hc
    simp [State.mayCastle, ← hc] at h
  have hrun : s.confirm n =
      (((({ s with twin := s.twin.stopped n s.now } : State).dropPartnerEvicts.releaseRecords).setTwin .castling).keepAll).refetchesFail := rfl
  rw [hrun, State.dropPartnerEvicts_without_migrations (by exact hm), State.setTwin_change (by exact hst),
    State.keepAll_without_migrations (by exact hm), State.refetchesFail_without_refetches (by exact hr)]
  rfl

theorem State.fence_confirms (h : s.twinOn = true) (k : s.mayCastle = true) : s.fence 0xCA57 = s.confirm 2 := if_pos ⟨rfl, h, k⟩

theorem State.fence_ignored {key : Nat} (h : key ≠ 0xCA57 ∨ s.twinOn = false ∨ s.mayCastle = false) :
    s.fence key = s.twinEntry sevNote 0x33 := by
  refine if_neg fun ⟨hkey, hon, hmay⟩ => ?_
  obtain h | h | h := h
  · exact h hkey
  · exact Bool.false_ne_true (h.symm.trans hon)
  · exact Bool.false_ne_true (h.symm.trans hmay)

theorem exec_twnFence {q : Req} (ha : Arrives s q) (hm : Managed s) (v : BitVec 32) :
    exec (.twnFence q v) s = .next ((s.fence (v.toNat % 65536)).answer q true 0) :=
  State.writeFrom_mgtWrite ha (State.mgtWrite_managed (off := 0xE004) hm rfl rfl rfl rfl [])

/-- Role 1 yields: YIELDED in mode SOLO. -/
theorem State.yield_twin (s : State) : s.yield.twin.st = .yielded ∧ s.yield.twin.mode = 0 := by
  unfold State.yield
  rw [State.setTwin_twin]
  exact ⟨rfl, rfl⟩

theorem State.autoTimeout_stays (h : s.twin.st ≠ .suspect ∨ s.twin.auto = false) : s.autoTimeout = s :=
  if_pos (h.imp_right fun h => by rw [h]; rfl)

theorem State.autoTimeout_acts (h : s.twin.st = .suspect) (k : s.twin.auto = true) :
    s.autoTimeout = if s.twin.role then s.yield else s.confirm 3 := if_neg (by simp [h, k])

end

/-! ### Promotion (15 R430) -/

section
variable {s : State} {row : Nat}

theorem State.promoteRow_empty (h : s.twin.mode ≠ 2 ∨ (s.twin.before = .syncing ∧ row ∉ s.twin.peerSynced)) :
    s.promoteRow row = .empty := if_pos (by simpa using h)

section
variable (hm : s.twin.mode = 2) (h : s.twin.before ≠ .syncing ∨ row ∈ s.twin.peerSynced)
include hm h

/-! Under MIRROR a row that was synchronized goes by its state. -/

theorem State.not_promoteRow_empty : ¬ (s.twin.mode ≠ 2 ∨ (s.twin.before = .syncing ∧ !s.twin.peerSynced.contains row)) := by
  simpa [hm, imp_iff_not_or] using h

theorem State.promoteRow_closing (hst : (s.row row).state = 2) : s.promoteRow row = .close := by
  unfold State.promoteRow
  rw [if_neg (State.not_promoteRow_empty hm h)]
  simp only [hst]

theorem State.promoteRow_kept (hst : (s.row row).state = 1 ∨ (s.row row).state = 3) (hl : s.lostPage row = none) :
    s.promoteRow row = .keep := by
  unfold State.promoteRow
  rw [if_neg (State.not_promoteRow_empty hm h)]
  obtain hst | hst := hst <;> simp only [hst, hl]

theorem State.promoteRow_lost (hst : (s.row row).state = 1 ∨ (s.row row).state = 3) {p : Nat} (hl : s.lostPage row = some p) :
    s.promoteRow row = .fail p := by
  unfold State.promoteRow
  rw [if_neg (State.not_promoteRow_empty hm h)]
  obtain hst | hst := hst <;> simp only [hst, hl]

end

/-- A row of the partner under LEDGER: FAILED from its first page on. -/
def CtxRow.emptied (x : CtxRow) : CtxRow := { x with state := 4, lostPage := 0 }

theorem State.setDirs_dirOnly (row : Nat) (f : Nat × DirEntry → DirEntry) (l : List (Nat × DirEntry)) (s : State) :
    ∃ dir, l.foldl (fun s d => s.setDir row d.1 (f d)) s = { s with store := { s.store with dir := dir } } := by
  induction l generalizing s with
  | nil => exact ⟨s.store.dir, rfl⟩
  | cons a l ih => exact ih (s.setDir row a.1 (f a))

/-- Emptying a row writes it, and of the rest directory entries only. -/
theorem State.applyPromote_empty (s : State) (row : Nat) : (s.applyPromote (row, .empty)).twin = s.twin ∧
    (s.applyPromote (row, .empty)).store.frames = s.store.frames ∧
    (s.applyPromote (row, .empty)).store.rows = tset {} s.store.rows row (s.row row).emptied := by
  obtain ⟨dir, hdir⟩ : ∃ dir, s.applyPromote (row, .empty) =
      { s.setRow row (s.row row).emptied with store := { (s.setRow row (s.row row).emptied).store with dir := dir } } :=
    State.setDirs_dirOnly row _ _ _
  rw [hdir]
  exact ⟨rfl, rfl, rfl⟩

/-- The partner's rows emptied, one after the other. -/
def State.emptyRows (s : State) (l : List Nat) : State := (l.map (fun r => (r, Promote.empty))).foldl State.applyPromote s

theorem State.emptyRows_cons (s : State) (a : Nat) (l : List Nat) : s.emptyRows (a :: l) = (s.applyPromote (a, .empty)).emptyRows l := rfl

theorem State.emptyRows_other (s : State) (l : List Nat) : (s.emptyRows l).twin = s.twin ∧ (s.emptyRows l).store.frames = s.store.frames := by
  induction l generalizing s with
  | nil => exact ⟨rfl, rfl⟩
  | cons a l ih =>
    obtain ⟨htwin, hframes, -⟩ := s.applyPromote_empty a
    rw [s.emptyRows_cons]
    exact ⟨(ih _).1.trans htwin, (ih _).2.trans hframes⟩

theorem State.emptyRows_row {s : State} (h : tabOk {} s.store.rows = true) (l : List Nat) (q : Nat) :
    (s.emptyRows l).row q = if q ∈ l then (s.row q).emptied else s.row q := by
  induction l generalizing s with
  | nil => rfl
  | cons a l ih =>
    obtain ⟨-, -, hrows⟩ := s.applyPromote_empty a
    have hrow : (s.applyPromote (a, .empty)).row q = if q = a then (s.row q).emptied else s.row q := by
      unfold State.row
      rw [hrows]
      split
      next hqa => rw [hqa, tget_tset_self h, State.row]
      next hqa => rw [tget_tset_ne h _ hqa]
    rw [s.emptyRows_cons, ih (by rw [hrows]; exact tabOk_tset h a _), hrow]
    by_cases hqa : q = a <;> by_cases hl : q ∈ l <;> simp [hqa, hl, CtxRow.emptied]

theorem State.sweep_ledger (h : s.twin.mode = 1) : s.sweep = s := if_pos (by simp [State.mirrored, h])

/-- Under LEDGER every row of the partner is emptied, and told as FAILED. -/
theorem State.promote_ledger {p : State} {rows : List (Nat × Bool)} {n : Nat} (hp : (p, rows, n) = s.promote) (hmode : s.twin.mode = 1)
    (h : tabOk {} s.store.rows = true) : p.twin = { s.twin with st := .castled } ∧ p.store.frames = s.store.frames ∧
      (∀ r, p.row r = if r ∈ s.partnerRows then (s.row r).emptied else s.row r) ∧ ∀ r ∈ s.partnerRows, (r, true) ∈ rows := by
  have hplan : s.partnerRows.map (fun r => (r, s.promoteRow r)) = s.partnerRows.map (fun r => (r, Promote.empty)) :=
    List.map_congr_left fun r _ => by rw [State.promoteRow_empty (.inl (by simp [hmode]))]
  unfold State.promote at hp
  rw [hplan, State.sweep_ledger hmode] at hp
  have hpu : p = ({ s with twin := { s.twin with st := .castled } } : State).emptyRows s.partnerRows := congrArg Prod.fst hp
  obtain ⟨htwin, hframes⟩ := State.emptyRows_other { s with twin := { s.twin with st := .castled } } s.partnerRows
  have hrow := State.emptyRows_row (s := { s with twin := { s.twin with st := .castled } }) h s.partnerRows
  rw [← hpu] at htwin hframes hrow
  refine ⟨htwin, hframes, hrow, fun r hr => ?_⟩
  have hstate : (p.row r).state ≠ 0 := by
    rw [hrow, if_pos hr]
    exact (by decide : 4 ≠ 0)
  obtain rfl : rows = _ := congrArg (fun x => x.2.1) hp
  subst hpu
  exact List.mem_map.2 ⟨(r, .empty), List.mem_filter.2 ⟨List.mem_map_of_mem hr, decide_eq_true hstate⟩, rfl⟩

end

/-! ### The castle record (15 R432) -/

theorem leBytes_length (n v : Nat) : (leBytes n v).length = n := by
  rw [leBytes, List.length_map, List.length_range]

theorem zeroBytes_length (n : Nat) : (zeroBytes n).length = n := List.length_replicate

theorem State.castleEntry_length (s : State) (p : Nat × Bool) : (s.castleEntry p).length = 16 := by
  simp only [State.castleEntry, List.length_append, leBytes_length, zeroBytes_length]

theorem State.castleRecord_length (s : State) (rows : List (Nat × Bool)) (n : Nat) :
    (s.castleRecord rows n).length = 64 + 16 * rows.length := by
  simp only [State.castleRecord, List.length_append, leBytes_length, zeroBytes_length, List.length_flatMap, State.castleEntry_length,
    List.map_const', List.sum_replicate, smul_eq_mul]
  omega

/-- The record's header. -/
theorem State.castleRecord_header (s : State) (rows : List (Nat × Bool)) (n : Nat) : (s.castleRecord rows n).take 24 =
    leBytes 4 (s.twin.castleCause + 16 * s.twin.mode) ++ leBytes 4 rows.length ++ leBytes 8 s.twin.castleTime ++ leBytes 4 n ++
      leBytes 4 s.twin.discarded := by
  unfold State.castleRecord
  rw [List.append_assoc _ (zeroBytes 40)]
  exact List.take_left' (by simp only [List.length_append, leBytes_length])

/-! ### CASTLED (15 R429 to R432) -/

section
variable {s : State}

theorem State.castle_stays (h : s.twin.st ≠ .castling ∨ s.store.migs.any Mig.ofPartner = true) : s.castle = s :=
  if_pos (by simpa using h)

/-- What CASTLED asks the translator for: the range that the record will fill. -/
def State.castleRange (s : State) : Translated :=
  s.translateAll s.errs.anchor .castle (needs (s.reg64 0xE010) (64 + 16 * s.promote.2.1.length) 1)

/-- How CASTLED goes on when the translator has answered. -/
def State.castleAfter (s : State) : Translated → State
  | .wait s' => s'
  | .failed _ s' => s'.finishCastle none (s.reg64 0xE010)
  | .ok t s' => s'.finishCastle (some t) (s.reg64 0xE010)

theorem State.castle_asks {x : Translated} (hst : s.twin.st = .castling) (hm : s.store.migs.any Mig.ofPartner = false)
    (hx : s.castleRange = x) : s.castle = s.castleAfter x := by
  subst hx
  unfold State.castle
  rw [if_neg (by simp [hst, hm])]
  rfl

/-- The state in which castling is complete but for the record: CASTLED, counted and logged. -/
def State.completed (p : State) : State :=
  ((({ p with twin := p.twin.unpair } : State).bump 0xE050 1).report
    { severity := sevDegrade, cause := 0x45, unit := 0x08, tile := p.errs.anchor }).pump

variable {p : State} {rows : List (Nat × Bool)} {n : Nat}

theorem State.finishCastle_writes (hp : (p, rows, n) = s.promote) (t : Trans) (va : Nat) : s.finishCastle (some t) va =
    (p.completed.moveVirt p.completed.errs.anchor true .castle t va 0 (64 + 16 * rows.length) (s.castleRecord rows n)).1 := by
  rw [← s.castleRecord_length rows n]
  unfold State.finishCastle
  rw [← hp]
  rfl

theorem State.finishCastle_failed (hp : (p, rows, n) = s.promote) (va : Nat) : s.finishCastle none va = p.completed.castleEnds := by
  unfold State.finishCastle
  rw [← hp]
  rfl

end

/-- Settles O58: confirmation by its one state, the fence and the timeout by what they find; promotion by R430 row by row; CASTLED by how
the translation of its record ends. -/
theorem castlingRuns : Obligations.CastlingRuns := by
  refine ⟨fun s castles hm hr hcastles => ?_, fun s => ⟨fun h => ?_, fun row => ⟨State.promoteRow_empty, fun hmode h =>
    ⟨State.promoteRow_closing hmode h, fun hst => ⟨State.promoteRow_kept hmode h hst, fun _ => State.promoteRow_lost hmode h hst⟩⟩⟩,
    fun p rows n hp hmode ht => ?_, fun hon hst hm x hx => ⟨fun s' hw => ?_, fun s' p u rows n hp hu => ⟨fun t ht => ?_, fun e he => ?_⟩⟩,
    fun rows n => ⟨s.castleRecord_length rows n, s.castleRecord_header rows n⟩⟩⟩
  · obtain rfl : castles = s.confirmed := funext hcastles
    refine ⟨fun hon hmay => ?_, fun h => ?_, State.mayCastle_iff, fun q v ha hq => ⟨fun hkey hon hmay => ?_, fun h => ?_⟩, fun h => ?_,
      fun hon hst hauto => ⟨fun hrole => ?_, fun hrole => ?_⟩⟩
    · exact next_whenever_on hon ((if_pos hmay).trans (State.confirm_confirmed hm hr hmay 1))
    · cases hon : s.twinOn with
      | false => exact next_whenever_off hon
      | true => exact next_whenever_on hon (if_neg (by simpa [hon] using h))
    · rw [exec_twnFence ha hq, hkey, State.fence_confirms hon hmay, State.confirm_confirmed hm hr hmay]
    · rw [exec_twnFence ha hq, State.fence_ignored h]
      rfl
    · cases hon : s.twinOn with
      | false => exact next_whenever_off hon
      | true => exact next_whenever_on hon (State.autoTimeout_stays (by simpa [hon] using h))
    · have hmay : s.mayCastle = true := State.mayCastle_iff.2 (.inr (.inr hst))
      exact next_whenever_on hon ((State.autoTimeout_acts hst hauto).trans ((if_neg (by simp [hrole])).trans
        (State.confirm_confirmed hm hr hmay 3)))
    · exact ⟨_, next_whenever_on hon ((State.autoTimeout_acts hst hauto).trans (if_pos hrole)), s.yield_twin⟩
  · cases hon : s.twinOn with
    | false => exact next_whenever_off hon
    | true => exact next_whenever_on hon (State.castle_stays (by simpa [hon] using h))
  · obtain ⟨htwin, hframes, hrow, htold⟩ := State.promote_ledger hp hmode ht
    refine ⟨congrArg Twin.st htwin, (congrArg Twin.castleTime htwin :), hframes, fun r hr => ?_, fun r hr => (hrow r).trans (if_neg hr)⟩
    have hfailed := (hrow r).trans (if_pos hr)
    exact ⟨congrArg CtxRow.state hfailed, congrArg CtxRow.lostPage hfailed, (congrArg CtxRow.gen hfailed :), htold r hr⟩
  · exact next_whenever_on hon (State.castle_asks hst hm (hx.symm.trans hw))
  · obtain rfl : u = p.completed := hu
    exact next_whenever_on hon ((State.castle_asks hst hm (hx.symm.trans ht)).trans (State.finishCastle_writes hp t _))
  · obtain rfl : u = p.completed := hu
    exact next_whenever_on hon ((State.castle_asks hst hm (hx.symm.trans he)).trans
      (State.finishCastle_failed hp (s.reg64 0xE010)))

end Sys2Proof.Machine
end

section
/-! SUPPORT. Deltas of the partner: staging, the deltas that act on arrival, COMMIT and its acknowledgement (15 R416, R419 to R423, R435).
The statement on the ledger. -/

namespace Sys2Proof.Machine

/-! ### Staging (15 R419, R420) -/

section
variable {s : State} {g : GroupId} {d : Delta}

/-- The first delta of a group opens it. -/
theorem State.stageDelta_opens (h : s.twin.groups.any (fun x => decide (x.id = g)) = false) : s.stageDelta g d =
    { s with twin := { s.twin with groups := s.twin.groups ++ [{ id := g, deltas := [d] }] } } := by
  unfold State.stageDelta
  dsimp only
  rw [h, if_neg Bool.false_ne_true]

/-- A delta of an open group stands at its end. -/
theorem State.stageDelta_joins {before after : List Group} {x : Group} (hg : s.twin.groups = before ++ x :: after) (hx : x.id = g)
    (hother : ∀ y ∈ before ++ after, y.id ≠ g) : s.stageDelta g d =
      { s with twin := { s.twin with groups := before ++ { x with deltas := x.deltas ++ [d] } :: after } } := by
  have hknown : s.twin.groups.any (fun x => decide (x.id = g)) = true := by simp [hg, hx]
  have hsame (l : List Group) (hl : ∀ y ∈ l, y.id ≠ g) :
      l.map (fun y => if y.id = g then ({ y with deltas := y.deltas ++ [d] } : Group) else y) = l :=
    (List.map_congr_left fun y hy => if_neg (hl y hy)).trans l.map_id'
  unfold State.stageDelta
  dsimp only
  rw [hknown, if_pos rfl, hg, List.map_append, List.map_cons, if_pos hx,
    hsame before fun y hy => hother y (List.mem_append_left _ hy), hsame after fun y hy => hother y (List.mem_append_right _ hy)]

/-- ROW, DIR, MAP, FRAME, COPY and RECALL are staged. -/
theorem exec_delta_staged {c : Instr} (h : (∃ r b, c = .rowDelta g r b ∧ d = .row r b) ∨ (∃ r st w, c = .dirDelta g r st w ∧ d = .dir r st w) ∨
    (∃ t b slot w, c = .mapDelta g t b slot w ∧ d = .map t b slot w) ∨ (∃ f w n, c = .frameDelta g f w n ∧ d = .frame f w n) ∨
    (∃ x y n, c = .copyDelta g x y n ∧ d = .copy x y n) ∨ (∃ f t r b slot, c = .recallDelta g f t r b slot ∧ d = .recall f t r b slot)) :
    exec c s = .next (s.whenever s.receives (s.stageDelta g d)) := by
  obtain ⟨r, b, rfl, rfl⟩ | ⟨r, st, w, rfl, rfl⟩ | ⟨t, b, slot, w, rfl, rfl⟩ | ⟨f, w, n, rfl, rfl⟩ | ⟨x, y, n, rfl, rfl⟩ |
    ⟨f, t, r, b, slot, rfl, rfl⟩ := h
  all_goals rfl

end

/-! ### BYTES (15 R420) -/

section
variable {s : State} {g : GroupId} {f : BitVec 24} {off : BitVec 17} {data : List Byte} {m : Nat}

theorem State.takeDelta_bytes_unmirrored (h : s.mirrorOf f.toNat = none) : s.takeDelta g (.bytes f off data) = s := by
  simp only [State.takeDelta, h]

theorem State.takeDelta_bytes (h : s.mirrorOf f.toNat = some m) : s.takeDelta g (.bytes f off data) =
    if (s.frame m).takesBytes off.toNat data.length then s.mirrorBytes m off.toNat data else s.stageDelta g (.bytes f off data) := by
  simp only [State.takeDelta, h]

end

/-! ### EVICT (15 R423) -/

section
variable {s : State} {own t record b slot m : Nat}

theorem State.mirrorEvict_unmirrored (h : s.mirrorOf own = none) : s.mirrorEvict own t record b slot = s.tell (.evictNak own) := by
  unfold State.mirrorEvict
  rw [h]

/-- Whether an EVICT of a mirrored frame is answered NAK. -/
def State.evictBarred (s : State) (m t record : Nat) : Bool :=
  decide ((s.frame m).st ≠ .mirror) || decide ((s.frame m).shadowSt ≠ .isSealed) || s.errs.resending.contains m ||
    decide (s.coldSlots ≤ s.mirrorRecord record) || !s.hasTile t || s.store.migs.any (fun g => g.frame = m)

theorem State.mirrorEvict_barred (h : s.mirrorOf own = some m) (k : s.evictBarred m t record = true) :
    s.mirrorEvict own t record b slot = s.tell (.evictNak own) := by
  unfold State.mirrorEvict
  rw [h]
  exact if_pos k

/-- The write of a sealed mirror to the part's own pool slot. -/
def State.mirrorMig (s : State) (own t record b slot m : Nat) : Mig :=
  { slot := s.store.nextMig, evict := true, frame := m, loc := mirrorKey t b slot, stream := 0, page := 0, home := t
    record := s.mirrorRecord record, host := s.coldAddr t (s.mirrorRecord record), why := .mirror own, acked := true }

/-- The state in which a mirror is pinned and its write is a migration. -/
def State.evicting (s : State) (own t record b slot m : Nat) : State :=
  let u := s.setFrame m { s.frame m with pincnt := (s.frame m).pincnt + 1 }
  { u with store := { u.store with migs := s.store.migs ++ [s.mirrorMig own t record b slot m], nextMig := s.store.nextMig + 1 } }

theorem State.mirrorEvict_starts (h : s.mirrorOf own = some m) (k : s.evictBarred m t record = false) :
    s.mirrorEvict own t record b slot = (s.evicting own t record b slot m).pump := by
  unfold State.mirrorEvict
  rw [h]
  exact if_neg (by rw [← State.evictBarred, k]; exact Bool.false_ne_true)

end

/-! ### COMMIT (15 R416, R420, R432) -/

section
variable {s u : State} {g : GroupId} {d : Delta}

theorem State.checkSynced_elsewhere (h : s.twin.st ≠ .syncing) : s.checkSynced = s := if_neg fun hs => h hs.1

/-- What a COMMIT notes of its group: the row's LAST_SEQ, unless the group is of a background action. -/
def Twin.noted (x : Twin) (g : GroupId) : Twin :=
  if isBackground g then { x with groups := [] }
  else { x with groups := [], lastSeq := tset 0 x.lastSeq (rowOf g) (2 ^ 38 + 2 ^ 32 * g.ring.toNat + g.seq.toNat) }

/-- A COMMIT of the one group that is staged, of one delta, no row being synchronized. -/
theorem State.commitGroup_one (hg : s.twin.groups = [{ id := g, deltas := [d] }]) (hsync : isSync g = false) (hst : s.twin.st ≠ .syncing)
    (hd : State.applyDelta false { s with twin := { s.twin with groups := [] } } d = { u with twin := { s.twin with groups := [] } })
    (hm : u.store.migs = []) : s.commitGroup g = ({ u with twin := s.twin.noted g } : State).tell (.groupAck g) := by
  have hone : ((s.twin.groups.find? (fun x => x.id = g)).map (fun x => x.deltas)).getD [] = [d] := by simp [hg]
  have hnone : s.twin.groups.filter (fun x => x.id ≠ g) = [] := by simp [hg]
  have hrun : s.commitGroup g = ((({ u with twin := s.twin.noted g } : State).tell (.groupAck g)).checkSynced).pump := by
    unfold State.commitGroup Twin.noted
    dsimp only
    rw [hone, hnone, hsync, List.foldl_cons, List.foldl_nil, hd]
    cases isBackground g <;> rfl
  have htold : (({ u with twin := s.twin.noted g } : State).tell (.groupAck g)).twin.st = s.twin.st := by
    rw [State.tell_eq]
    unfold Twin.noted
    split <;> rfl
  rw [hrun, State.checkSynced_elsewhere (by rw [htold]; exact hst), State.pump_without_migrations (by rw [State.tell_store]; exact hm)]

/-- A ROW or DIR delta is applied with the staging area emptied: a row of the part's own half is not the partner's to write. -/
theorem State.applyDelta_rowOrDir (hkind : (∃ r b, d = .row r b) ∨ (∃ r st w, d = .dir r st w))
    (hrow : ∀ r b, d = .row r b → u = if ownRow s.twin.role r.toNat then s else s.setRow r.toNat (ctxRowOfBytes b))
    (hdir : ∀ r st w, d = .dir r st w → u = if ownRow s.twin.role r.toNat then s else s.setDir r.toNat st.toNat (s.mirrorDir w.toNat)) :
    State.applyDelta false { s with twin := { s.twin with groups := [] } } d = { u with twin := { s.twin with groups := [] } } ∧
      u.store.migs = s.store.migs := by
  obtain ⟨r, b, rfl⟩ | ⟨r, st, w, rfl⟩ := hkind
  · rw [hrow r b rfl]
    unfold State.applyDelta
    dsimp only
    split <;> exact ⟨rfl, rfl⟩
  · rw [hdir r st w rfl]
    unfold State.applyDelta
    dsimp only
    split <;> exact ⟨rfl, rfl⟩

end

/-! ### Acknowledgements (15 R422, R435) -/

section
variable {s : State} {g : GroupId}

theorem State.takeGroupAck_job (h : isSync g = false) : s.takeGroupAck g = { s with sched := { s.sched with
    jobs := s.sched.jobs.map (fun j => { j with groups := j.groups.filter (fun x => decide (x ≠ g)) }) } } := by
  simp [State.takeGroupAck, h]

/-- The state in which a row's synchronization is done, before the next row's group. -/
def State.rowSynced (s : State) (g : GroupId) : State :=
  let drop (j : Job) : Job := { j with groups := j.groups.filter (fun x => x ≠ g && !(isSync g && rowOf x = rowOf g)) }
  { s with sched := { s.sched with jobs := s.sched.jobs.map drop }
           twin := { s.twin with syncLeft := s.twin.syncLeft.erase (rowOf g), syncOut := false } }

/-- The acknowledgement of a row's synchronization: the row is done, and the next one goes out. -/
theorem State.takeGroupAck_sync {r : Nat} {rest : List Nat} (h : isSync g = true) (hl : s.twin.syncLeft = r :: rest) (hr : rowOf g = r)
    (hst : s.twin.st = .syncing) (hrest : rest ≠ []) :
    (s.takeGroupAck g).twin.syncLeft = rest ∧ (s.takeGroupAck g).twin.st = .syncing := by
  obtain ⟨hst', hleft', -⟩ := (s.rowSynced g).syncNext_syncsOnly.kept
  have hleft : (s.rowSynced g).syncNext.twin.syncLeft = rest := by
    rw [hleft']
    exact (congrArg (fun l => l.erase (rowOf g)) hl).trans (by rw [hr, List.erase_cons_head])
  have hrun : s.takeGroupAck g = (s.rowSynced g).syncNext.checkSynced := if_neg (by rw [h]; decide)
  have hstays : (s.rowSynced g).syncNext.checkSynced = (s.rowSynced g).syncNext := if_neg fun hdone => hrest (hleft.symm.trans hdone.2.1)
  rw [hrun, hstays]
  exact ⟨hleft, hst'.trans hst⟩

end

/-- Settles O59: a delta by its kind and what is staged or mirrored, a COMMIT by its one delta, an acknowledgement by its group. -/
theorem ledgerWaitsForCommit : Obligations.LedgerWaitsForCommit := by
  refine ⟨fun s g => ⟨fun c d h => ⟨fun hoff => ?_, fun hon hnew => ?_, fun before x after hon hg hx hother => ?_⟩,
    fun f off data => ⟨fun h => ?_, fun m hon hm => ⟨fun htakes hst => ?_, fun htakes hst => ?_, fun hwaits hnew => ?_⟩⟩,
    fun f tile r b slot => ⟨fun h => ?_, fun hon hmirrored => ⟨fun hm => ?_, fun m hm h => ?_,
      fun m mig u hm hst hshadow hresend hrecord htile hmigs hmig hu => ?_⟩⟩⟩,
    fun s g => ⟨fun hoff => ⟨next_whenever_off hoff, next_whenever_off hoff⟩,
      fun d u v hon hg hsync hm hst hrow hdir hkind hback hjob => ?_, fun hon hsync => ?_, fun r rest hon hsync hl hr hst hrest => ?_⟩⟩
  · rw [exec_delta_staged h]
    exact next_whenever_off hoff
  · rw [exec_delta_staged h]
    exact next_whenever_on hon (State.stageDelta_opens hnew)
  · rw [exec_delta_staged h]
    exact next_whenever_on hon (State.stageDelta_joins hg hx hother)
  · cases hon : s.receives with
    | false => exact next_whenever_off hon
    | true => exact next_whenever_on hon (State.takeDelta_bytes_unmirrored (h.resolve_left (by simp [hon])))
  · exact next_whenever_on hon ((State.takeDelta_bytes hm).trans ((if_pos htakes).trans (if_pos hst)))
  · exact next_whenever_on hon ((State.takeDelta_bytes hm).trans ((if_pos htakes).trans (if_neg hst)))
  · exact next_whenever_on hon ((State.takeDelta_bytes hm).trans ((if_neg (by simp [hwaits])).trans (State.stageDelta_opens hnew)))
  · cases hon : s.receives with
    | false => exact next_whenever_off hon
    | true => exact next_whenever_on hon (if_neg (by simpa [hon] using h))
  · exact next_whenever_on hon ((if_pos hmirrored).trans (State.mirrorEvict_unmirrored hm))
  · have hbarred : s.evictBarred m tile.toNat r.toNat = true := by
      simp only [State.evictBarred, Bool.or_eq_true, decide_eq_true_iff]
      tauto
    exact next_whenever_on hon ((if_pos hmirrored).trans (State.mirrorEvict_barred hm hbarred))
  · have hfree : s.evictBarred m tile.toNat r.toNat = false := by
      simpa [State.evictBarred, hst, hshadow, htile, hrecord] using ⟨by simpa using hresend, hmigs⟩
    subst hmig hu
    exact next_whenever_on hon ((if_pos hmirrored).trans (State.mirrorEvict_starts hm hfree))
  · have hnoted : v = { u with twin := s.twin.noted g } := by
      unfold Twin.noted
      split
      next h => exact hback h
      next h => exact hjob (Bool.eq_false_iff.2 h)
    have hsyncing : s.twin.st ≠ .syncing := by obtain hst | hst := hst <;> rw [hst] <;> decide
    obtain ⟨hd, hmigs⟩ := State.applyDelta_rowOrDir hkind hrow hdir
    rw [hnoted]
    exact next_whenever_on hon (State.commitGroup_one hg hsync hsyncing hd (hmigs.trans hm))
  · exact next_whenever_on hon (State.takeGroupAck_job hsync)
  · exact ⟨_, next_whenever_on hon rfl, State.takeGroupAck_sync hsync hl hr hst hrest⟩

end Sys2Proof.Machine
end

section
/-! SUPPORT. The bounds of the error log and the register store (16 R446), and what a report and ERR_LOG_POP do to the log. The
statements on them. -/

namespace Sys2Proof.Machine

open Sys2Proof.Safety

/-! ### Every step keeps the bounds -/

/-- Every command keeps the bounds; OFF has them whatever stood before. -/
theorem exec_bounded {c : Instr} {s t : State} (e : exec c s = .next t) (hb : Bounded s) : Bounded t := by
  by_cases h : Instr.beyondGround c = false
  · exact (exec_ground h e).bounded hb
  cases c with
  | resetNLow =>
    obtain ⟨-, -, -, -, -, hoff⟩ := execResetNLow_off e
    exact hoff
  | pwrOkFall =>
    obtain ⟨-, -, -, -, -, hoff⟩ := execPwrOkFall_off e
    exact hoff hb
  | resetNRise => exact (execResetNRise_moves e).bounded hb
  | bootDone report => exact (execBootDone_moves report e).bounded hb
  | nvmBurst bytes => exact (execNvmBurst_moves bytes e).bounded hb
  | verify => exact (execVerify_moves e).bounded hb
  | init => exact (execInit_moves e).bounded hb
  | lcStep code => exact (execLcStep_moves code e).bounded hb
  | keyWrite slot image => exact (execKeyWrite_moves slot image e).bounded hb
  | _ => exact absurd rfl h

/-- Settles O3: a cycle of the time base writes neither log nor registers, and every command keeps the bounds. -/
theorem stepKeepsBounds : Obligations.StepKeepsBounds := by
  intro s t hb e
  obtain ⟨-, rfl⟩ | ⟨c, rest, -, he⟩ := step_cases e
  · exact (State.tick_keeps (Keeps.refl s)).bounded hb
  · exact exec_bounded he hb

/-- Settles O4: State.reset holds what the loss of power leaves, an empty log and the reset registers. -/
theorem resetBounded : Obligations.ResetBounded := State.reset.fresh_bounded

/-! ### Reports (16 R446 rules 1, 2 and 5) -/

/-- Only a report of ECC_CORRECTED or SPD_CONFLICT merges into an entry (16 R446 rule 3). -/
theorem any_mergesInto {e : LogEntry} (h1 : e.cause ≠ 0x01) (h2 : e.cause ≠ 0x11) (l : List LogEntry) :
    l.any (mergesInto e) = false := by
  simp [mergesInto, h1, h2]

theorem Errors.add_room {x : Errors} {e : LogEntry} (hm : x.fifo.any (mergesInto e) = false) (h : x.fifo.length < 64)
    (a i : Nat) (q : Bool) : x.add a i e q = (({ x with fifo := x.fifo ++ [e] }).signal a i e.severity true q, 0) := by
  unfold Errors.add
  rw [hm, if_neg Bool.false_ne_true, if_neg h.not_ge]

theorem Errors.add_full {x : Errors} {e : LogEntry} (hm : x.fifo.any (mergesInto e) = false) (h : 64 ≤ x.fifo.length)
    (a i : Nat) (q : Bool) : x.add a i e q =
      (({ x with lost := true, lostSev := max x.lostSev e.severity }).signal a i e.severity false q, 1) := by
  unfold Errors.add
  rw [hm, if_neg Bool.false_ne_true, if_pos h]

section
variable {s : State} {e : LogEntry} (h1 : e.cause ≠ 0x01) (h2 : e.cause ≠ 0x11) {q : Bool}
include h1 h2

/-- A report that finds room. -/
theorem State.report_room (h : s.errs.fifo.length < 64) : s.report e q =
    ({ s with
        errs := ({ s.errs with fifo := s.errs.fifo ++ [{ e with time := s.now }] }).signal
          (s.reg 0x10010) (s.reg 0x10014) e.severity true q }).bump 0x10004 0 := by
  unfold State.report
  rw [Errors.add_room (e := { e with time := s.now }) (any_mergesInto h1 h2 _) h]

/-- A report that finds 64 entries. -/
theorem State.report_full (h : 64 ≤ s.errs.fifo.length) : s.report e q =
    ({ s with
        errs := ({ s.errs with lost := true, lostSev := max s.errs.lostSev e.severity }).signal
          (s.reg 0x10010) (s.reg 0x10014) e.severity false q }).bump 0x10004 1 := by
  unfold State.report
  rw [Errors.add_full (e := { e with time := s.now }) (any_mergesInto h1 h2 _) h]

theorem State.report_alertLog : (s.report e q).errs.alertLog = (s.errs.alertLog || bit (s.reg 0x10010) e.severity) := by
  rcases Nat.lt_or_ge s.errs.fifo.length 64 with h | h
  · rw [State.report_room h1 h2 h]
    rfl
  · rw [State.report_full h1 h2 h]
    rfl

end

theorem State.report_samePart (s : State) (e : LogEntry) (q : Bool) : SamePart s (s.report e q) := ⟨rfl, rfl, rfl, rfl⟩

theorem State.report_sameSeals (s : State) (e : LogEntry) (q : Bool) : SameSeals s (s.report e q) := ⟨rfl, rfl, rfl, rfl, rfl⟩

/-! ### ERR_LOG_POP (16 R446) -/

/-- Writes of the error log's block are taken in HALTED too (14 R398). -/
theorem State.checkWrite_errLogPop {s : State} (h : Managed s ∨ s.cfg.mode = .halted) (v : Nat) :
    s.checkWrite 0x10008 v = .take [⟨0, 0, .wo, []⟩] := by
  rcases h with hm | hh
  · exact State.checkWrite_managed hm rfl rfl (by decide) rfl
  · unfold State.checkWrite State.writeRefused
    rw [hh]
    rfl

theorem exec_errLogPop {s : State} {q : Req} {v : BitVec 32} (ha : Arrives s q) (h : Managed s ∨ s.cfg.mode = .halted) :
    exec (.errLogPop q v) s = .next ((s.popLog v.toNat).answer q true 0) :=
  (State.writeFrom_arrives ha).trans
    (congrArg _ (State.hostWrite_taken ha (State.checkWrite_errLogPop h v.toNat) rfl rfl rfl))

/-- Settles O14: the two equations of a report, by the room that it finds, and the one of ERR_LOG_POP, by POP. -/
theorem errorLogTakesAndGivesEntries : Obligations.ErrorLogTakesAndGivesEntries := by
  refine ⟨fun s e h1 h2 => ⟨fun h => ?_, fun h => ?_, State.report_alertLog h1 h2, rfl, rfl, rfl, rfl, rfl, rfl, rfl,
    State.report_samePart s e false, State.report_sameSeals s e false⟩, fun s q v ha hm => ⟨fun hpop => ?_, fun hpop => ?_⟩⟩
  · rw [State.report_room h1 h2 h]
    exact ⟨rfl, rfl⟩
  · rw [State.report_full h1 h2 h]
    exact ⟨rfl, rfl, rfl, fun hb => State.bump_reg_self hb.2 0x10004 1⟩
  · rw [exec_errLogPop ha hm, State.popLog, if_pos hpop]
  · rw [exec_errLogPop ha hm, State.popLog, if_neg (ne_true_of_eq_false hpop)]

end Sys2Proof.Machine
end

section
/-! SUPPORT. Core faults and spare cores (16 R449 to R451). The statement on them. -/

namespace Sys2Proof.Machine

/-! ### Cores out of service (16 R449, R450) -/

/-- A report leaves the cores in service as they are. -/
@[simp] theorem State.report_coresOut (s : State) (e : LogEntry) (q : Bool) : (s.report e q).errs.coresOut = s.errs.coresOut := by
  unfold State.report Errors.add
  dsimp only
  split
  · rfl
  · split <;> rfl

/-- A staged append is undone in the job list alone. -/
@[simp] theorem State.unstage_errs (s : State) (id entry : Nat) : (s.unstage id entry).errs = s.errs := by
  unfold State.unstage
  split
  · split <;> rfl
  · rfl

/-- A retry changes items, windows, rounds, a counter and, the third time, the log. -/
theorem State.retryItem_coresOut (s : State) (id k t : Nat) : (s.retryItem id k t).errs.coresOut = s.errs.coresOut := by
  unfold State.retryItem
  split
  · rfl
  · extract_lets closed left unstaged job
    have herrs : unstaged.errs = s.errs := by
      unfold unstaged
      split
      · rfl
      · exact State.unstage_errs left _ _
    split
    · rfl
    · split
      · exact congrArg Errors.coresOut herrs
      · exact (State.report_coresOut _ _ _).trans (congrArg Errors.coresOut herrs)

theorem State.retryItems_coresOut (t : Nat) (l : List (Nat × Nat)) (s : State) :
    (l.foldl (fun s o => s.retryItem o.1 o.2 t) s).errs.coresOut = s.errs.coresOut := by
  induction l generalizing s with
  | nil => rfl
  | cons o l ih => exact (ih _).trans (State.retryItem_coresOut s _ _ _)

/-- A core fault takes a core that was in service out of it. -/
theorem State.mem_coreFault_coresOut {s : State} {c : CoreId} (hin : s.errs.coresOut.contains c.key = false) (kind : Nat) :
    c.key ∈ (s.coreFault c kind).errs.coresOut := by
  unfold State.coreFault
  extract_lets items known counted raised out recovering
  have hout : recovering.errs.coresOut = insertKey c.key raised.errs.coresOut :=
    congrArg (fun u : State => u.errs.coresOut) (if_neg (ne_true_of_eq_false hin))
  rw [State.retryItems_coresOut, hout]
  exact mem_insertKey_self _ _

/-! ### Spare cores (01 R25, 16 R451) -/

/-- A core is back in service. -/
def State.coreBack (s : State) (core : Nat) : State :=
  { s with errs := { s.errs with coresOut := s.errs.coresOut.erase core } }

/-- The entry of a substitution: CORE_SPARED or, without a spare, CORE_RETIRED. -/
def spareEntry (c : CoreId) (cause : Nat) : LogEntry :=
  { severity := sevDegrade, cause := cause, unit := 0x00, tile := c.tile.toNat, index := c.index }

section
variable {s : State} {c : CoreId}

theorem State.substitute_other (h : c.key ∉ s.errs.coresOut ∨ c.key ∈ s.errs.coresRetired) (pass : Bool) :
    s.substitute c pass = s := by
  unfold State.substitute
  rw [if_pos]
  rcases h with h | h <;> simp [h]

variable (hout : c.key ∈ s.errs.coresOut) (hret : c.key ∉ s.errs.coresRetired)
include hout hret

theorem State.substitute_passed : s.substitute c true = (s.finish (coreRef c.key)).coreBack c.key := by
  unfold State.substitute
  rw [if_neg (by simp [hout, hret])]
  rfl

/-- The lowest spare of the rank that is free takes the address of a core whose test fails. -/
theorem State.substitute_spared {i : Nat}
    (hi : lowestClear 2 (tget 0 s.errs.sparesUsed (c.tile.toNat * 64 + c.rank.toNat)) = some i) :
    s.substitute c false = ((((s.finish (coreRef c.key)).clearCore c.key).coreBack c.key).bindSpare
      (c.tile.toNat * 64 + c.rank.toNat) (c.key % 4096) i).report (spareEntry c 0x07) := by
  unfold State.substitute State.finish
  rw [if_neg (by simp [hout, hret])]
  simp only [Bool.false_eq_true, if_false, sparesPerRank, hi]
  rfl

theorem State.substitute_retired (hi : lowestClear 2 (tget 0 s.errs.sparesUsed (c.tile.toNat * 64 + c.rank.toNat)) = none)
    {u : State} (hu : u = s.finish (coreRef c.key)) : s.substitute c false =
      ({ u with errs := { u.errs with coresRetired := insertKey c.key s.errs.coresRetired } } : State).report (spareEntry c 0x08) := by
  subst hu
  unfold State.substitute State.finish
  rw [if_neg (by simp [hout, hret])]
  simp only [Bool.false_eq_true, if_false, sparesPerRank, hi]
  rfl

end

theorem withBit_testBit_self (mask i : Nat) : (withBit mask i).testBit i = true := by
  unfold withBit
  split
  · assumption
  next h => rw [Nat.add_comm, Nat.testBit_two_pow_add_eq, Bool.eq_false_iff.2 h, Bool.not_false]

/-- A spare that is bound counts as used. -/
theorem State.bindSpare_used (s : State) (k core i : Nat) : bit (tget 0 (s.bindSpare k core i).errs.sparesUsed k) i = true := by
  have hset := withBit_testBit_self (tget 0 s.errs.sparesUsed k) i
  have hne : withBit (tget 0 s.errs.sparesUsed k) i ≠ 0 := fun h => by simp [h] at hset
  unfold State.bindSpare bit
  rw [tget_tset_listed hne, hset]

/-- The binding of a core's address stands under the core's key (01 R25). -/
theorem coreKey_bound (c : CoreId) : (c.tile.toNat * 64 + c.rank.toNat) / 64 * 4096 + c.key % 4096 = c.key := by
  have hrank : c.rank.toNat < 64 := c.rank.isLt
  have hfile : c.file.toNat < 64 := c.file.isLt
  unfold CoreId.key CoreId.index
  omega

theorem State.bindSpare_bound (s : State) (c : CoreId) (i : Nat) :
    tget none (s.bindSpare (c.tile.toNat * 64 + c.rank.toNat) (c.key % 4096) i).errs.bound c.key = some i := by
  unfold State.bindSpare
  rw [coreKey_bound, tget_tset_listed (Option.some_ne_none i)]

/-- Settles O46: a core fault puts its core on the list; a substitution by its test, and by the spares left. -/
theorem coreFaultsAndSpares : Obligations.CoreFaultsAndSpares := by
  intro s c ht
  have on {v : State} (hc : s.hasCore c = true) : onTile s c.tile.toNat (s.whenever (s.hasCore c) v) = .next v :=
    (onTile_of_hasTile ht).trans (next_whenever_on hc rfl)
  have off {v : State} (hc : s.hasCore c = false) : onTile s c.tile.toNat (s.whenever (s.hasCore c) v) = .next s :=
    (onTile_of_hasTile ht).trans (next_whenever_off hc)
  refine ⟨fun hc => ⟨fun kind => ⟨on hc, fun hin => State.mem_coreFault_coresOut hin kind.toNat⟩, on hc, on hc⟩,
    fun hc => ⟨fun _ => off hc, off hc, off hc⟩, fun pass h => ?_, fun u v hc hout hret hu hv => ?_⟩
  · cases hc : s.hasCore c with
    | false => exact off hc
    | true => exact (on hc).trans (congrArg _ (State.substitute_other h pass))
  · refine ⟨(on hc).trans (congrArg _ ?_), fun i k hk hi => ?_, fun hi => ?_⟩
    · subst hu hv
      exact State.substitute_passed hout hret
    · subst hu hv hk
      refine ⟨_, (on hc).trans (congrArg _ (State.substitute_spared hout hret hi)), rfl, State.bindSpare_used _ _ _ _,
        State.bindSpare_bound _ c i, fun p hp => ?_, fun p hp => ?_, rfl, rfl, rfl⟩
      · exact of_decide_eq_true (List.mem_filter.1 hp).2
      · exact List.mem_filter.trans (and_iff_left (decide_eq_true hp))
    · exact (on hc).trans (congrArg _ (State.substitute_retired hout hret hi hu))

end Sys2Proof.Machine
end

section
/-! SUPPORT. Page memory's scrubber, repair tests, relocation and anchor roles (16 R440, R452, R453, R459, R460). The statement on
self-repair. -/

namespace Sys2Proof.Machine

/-! ### The page-memory scrubber (16 R440, R452) -/

section
variable {s : State} {t ch : Nat} {r : ScrubReport}

theorem State.scrubBurst_clean (hrow : r.rowFailing = false) (hf : r.finding = .clean) :
    s.scrubBurst t ch r = if r.passEnd then s.bumpTile t 0x1C4 1 else s := by
  unfold State.scrubBurst
  simp only [hrow, hf, Bool.false_eq_true, if_false]

theorem State.scrubBurst_corrected (hrow : r.rowFailing = false) (hf : r.finding = .corrected) (hend : r.passEnd = false) :
    s.scrubBurst t ch r = (s.bumpTile t 0x1AC 1).raise
      { severity := sevNote, cause := 0x01, unit := 0x03, tile := t,
        index := ch + 64 * r.layer.toNat + 256 * r.bank.toNat, addr := r.row.toNat } none := by
  unfold State.scrubBurst
  simp only [hrow, hf, hend, Bool.false_eq_true, if_false]

theorem State.scrubBurst_uncorrectable (hrow : r.rowFailing = false) (hf : r.finding = .uncorrectable) (hend : r.passEnd = false) :
    s.scrubBurst t ch r = s.scrubLost t ch r := by
  unfold State.scrubBurst
  simp only [hrow, hf, hend, Bool.false_eq_true, if_false]

theorem State.scrubBurst_rowFailing (hrow : r.rowFailing = true) (hf : r.finding = .clean) (hend : r.passEnd = false) :
    s.scrubBurst t ch r = s.spareRow t ch r := by
  unfold State.scrubBurst
  simp only [hrow, hf, hend, Bool.false_eq_true, if_false, if_true]

end

/-! ### Repair tests (08 R226, 16 R453) -/

section
variable {s u : State} {f : Nat}

theorem State.repairEnds_untested (h : f ∉ s.errs.repairTests) (pass : Bool) : s.repairEnds f pass = s := by
  unfold State.repairEnds
  rw [if_pos (by simp [h])]

variable (h : f ∈ s.errs.repairTests)
  (hu : u = { s.finish f with errs := { (s.finish f).errs with repairTests := s.errs.repairTests.erase f } })
include h hu

/-- The end of a repair test under way: it is none any more, and the frame is retired, asked for again or handed out. -/
theorem State.repairEnds_tested (pass : Bool) : s.repairEnds f pass =
    if !pass then { u with errs := { u.errs with
      retired := insertKey f s.errs.retired, resending := s.errs.resending.erase f } }
    else if s.errs.resending.contains f then (u.setFrame f { (s.frame f).next with st := .mirror, raw := [] }).askResend f
    else if (s.frame f).st = .free then u.offer f
    else u.settle f := by
  subst hu
  exact if_neg (by simp [h])

theorem State.repairEnds_failed : s.repairEnds f false = { u with errs := { u.errs with
    retired := insertKey f s.errs.retired, resending := s.errs.resending.erase f } } :=
  State.repairEnds_tested h hu false

theorem State.repairEnds_passed (hr : f ∉ s.errs.resending) :
    s.repairEnds f true = if (s.frame f).st = .free then u.offer f else u.settle f := by
  rw [State.repairEnds_tested h hu, Bool.not_true, if_neg Bool.false_ne_true, if_neg (by simp [hr])]

theorem State.repairEnds_resent (hr : f ∈ s.errs.resending) : s.repairEnds f true =
    (u.setFrame f { (s.frame f).next with st := .mirror, raw := [] }).askResend f := by
  rw [State.repairEnds_tested h hu, Bool.not_true, if_neg Bool.false_ne_true, if_pos (by simp [hr])]

end

/-! ### Relocation (16 R459) -/

section
variable {s u : State} {t : Nat}

theorem State.relocate_other (h : tget 0 s.errs.tileState t ≠ 1) : s.relocate t = s := if_pos h

variable (hu : u = { s with errs := { s.errs with relocated := insertKey t s.errs.relocated } }) (h : tget 0 s.errs.tileState t = 1)
include hu h

theorem State.relocate_busy (hb : s.relocationBusy t (s.rehomed u) = true) : s.relocate t = s := by
  subst hu
  unfold State.relocate
  rw [if_neg (not_not.2 h)]
  exact if_pos hb

/-- A relocation that ends leaves its tile quarantined, whatever its frames, streams and items have become. -/
theorem State.relocate_ended (hb : s.relocationBusy t (s.rehomed u) = false) : ∃ v : State,
    s.relocate t = (v.sendGroup [] s.store (backgroundGroup 0xFFFFFFFF)).pump ∧ tget 0 v.errs.tileState t = 2 := by
  subst hu
  unfold State.relocate
  rw [if_neg (not_not.2 h)]
  exact ⟨_, if_neg (ne_true_of_eq_false hb), tget_tset_listed (by decide) _ _⟩

end

/-! ### Anchor roles (16 R460) -/

/-- An item of the old anchor goes on, on the new one. -/
def Item.onAnchor (old new : Nat) (i : Item) : Item := if i.tile = old then { i with tile := new } else i

/-- Jobs that run on no tile's batch schedule follow the anchor with their items. -/
def Job.onAnchor (old new : Nat) (j : Job) : Job :=
  if isBatch j.kind then j else { j with items := j.items.map (Item.onAnchor old new) }

/-- The spare anchor has the role, and the anchor's jobs. -/
def State.anchorMoved (s : State) : State :=
  { s with errs := { s.errs with anchor := s.errs.spare, takeover := false }
           sched := { s.sched with jobs := s.sched.jobs.map (Job.onAnchor s.errs.anchor s.errs.spare) } }

theorem State.takeOver_idle {s : State} (h : s.errs.takeover = false) : s.takeOver = s := if_pos (by simp [h])

theorem State.takeOver_due {s : State} (h : s.errs.takeover = true) : s.takeOver =
    (s.anchorMoved.report { severity := sevDegrade, cause := 0x0E, unit := 0x0B, tile := s.errs.spare }).buildSpare :=
  if_neg (by simp [h])

/-- No item of a job that follows the anchor stays on the old one. -/
theorem Job.onAnchor_left {old new : Nat} {j : Job} (hk : isBatch (j.onAnchor old new).kind = false) {i : Item}
    (hi : i ∈ (j.onAnchor old new).items) (ht : i.tile = old) : old = new := by
  cases hb : isBatch j.kind with
  | true => simp [Job.onAnchor, hb] at hk
  | false =>
    simp only [Job.onAnchor, hb, Bool.false_eq_true, if_false, List.mem_map] at hi
    obtain ⟨i, -, rfl⟩ := hi
    unfold Item.onAnchor at ht
    split at ht
    · exact ht.symm
    · exact absurd ht ‹_›

theorem State.spareBuilt_building {s : State} (h : s.errs.spareBuilding = true) :
    s.spareBuilt = { s with errs := { s.errs with spareBuilding := false, spareValid := true } } := if_pos h

theorem State.spareBuilt_idle {s : State} (h : s.errs.spareBuilding = false) : s.spareBuilt = s := if_neg (by simp [h])

/-- Settles O50: the equations of a burst, of a repair test's end, of a relocation's end and of the anchor roles. -/
theorem selfRepair : Obligations.SelfRepair := by
  intro s
  refine ⟨fun tile ch r ht => ?_, fun f pass => ⟨fun h => ?_, fun u h hu => ⟨?_, fun hr => ?_, fun hr => ?_⟩⟩, fun tile ht => ?_,
    fun h => ?_, fun h => ⟨s.anchorMoved, ?_, rfl, fun j hj hk i hi hold => ?_, rfl⟩, fun h => ?_, fun h => ?_⟩
  · have on {v : State} (hs : s.scrubsPages tile.toNat = true) (hv : s.scrubBurst tile.toNat ch.toNat r = v) :
        exec (.pageMemoryScrub tile ch r) s = .next v := (onTile_of_hasTile ht).trans (next_whenever_on hs hv)
    exact ⟨fun hs => (onTile_of_hasTile ht).trans (next_whenever_off hs),
      fun hs hrow => ⟨fun hf => on hs (State.scrubBurst_clean hrow hf), fun hf hend => on hs (State.scrubBurst_corrected hrow hf hend),
        fun hf hend => on hs (State.scrubBurst_uncorrectable hrow hf hend)⟩,
      fun hs hrow hf hend => on hs (State.scrubBurst_rowFailing hrow hf hend)⟩
  · exact congrArg _ (State.repairEnds_untested h pass)
  · exact congrArg _ (State.repairEnds_failed h hu)
  · exact congrArg _ (State.repairEnds_passed h hu hr)
  · exact congrArg _ (State.repairEnds_resent h hu hr)
  · have run {v : State} (hv : s.relocate tile.toNat = v) : exec (.relocationDone tile) s = .next v :=
      (onTile_of_hasTile ht).trans (congrArg _ hv)
    refine ⟨fun h => run (State.relocate_other h), fun u hu h => ⟨fun hb => run (State.relocate_busy hu h hb), fun hb => ?_⟩⟩
    obtain ⟨v, hv, hstate⟩ := State.relocate_ended hu h hb
    exact ⟨v, run hv, hstate⟩
  · exact congrArg _ (State.takeOver_idle h)
  · exact congrArg _ (State.takeOver_due h)
  · obtain ⟨j, -, rfl⟩ := List.mem_map.1 hj
    exact Job.onAnchor_left hk hi hold
  · exact congrArg _ (State.spareBuilt_building h)
  · exact congrArg _ (State.spareBuilt_idle h)

end Sys2Proof.Machine
end

section
/-! SUPPORT. The time base and its PPS input (17 R469, R470), and the clocks of a tile (17 R467, R468, R473). The statements on them. -/

namespace Sys2Proof.Machine

open Sys2Proof.Safety

/-! ### One TBCLK cycle (17 R469) -/

section
variable {s : State}

theorem State.tick_off (h : s.cfg.mode = .off) : s.tick = s := if_pos h

/-- A hold counts down. -/
theorem State.tick_held (hm : s.cfg.mode ≠ .off) (h : 0 < s.health.holdNs) : s.tick = { s with health := { s.health with
    sincePps := s.health.sincePps.map (· + 1), holdNs := s.health.holdNs - 1 } } :=
  (if_neg hm).trans (if_pos h)

/-- Without a hold TIM_NOW counts. -/
theorem State.tick_counts (hm : s.cfg.mode ≠ .off) (h : s.health.holdNs = 0) : s.tick = { s with health := { s.health with
    sincePps := s.health.sincePps.map (· + 1), now := (s.health.now + 1) % 2 ^ 64 } } :=
  (if_neg hm).trans (if_neg (Nat.not_lt.2 h.le))

theorem step_idle (h : s.pending = []) : step s = .next s.tick := by
  unfold step
  rw [h]

end

/-- Settles O54: a step without command is a tick, which counts down the hold or counts TIM_NOW. -/
theorem idleStepTicks : Obligations.IdleStepTicks := by
  intro s hp
  rw [step_idle hp]
  refine ⟨fun hm => by rw [State.tick_off hm], fun hm => ⟨s.tick, rfl, ?_⟩⟩
  rcases Nat.eq_zero_or_pos s.health.holdNs with h | h
  · rw [State.tick_counts hm h]
    refine ⟨rfl, rfl, rfl, rfl, fun _ => ⟨?_, h⟩, fun hh => absurd h hh.ne'⟩
    simp only [State.now]
    omega
  · rw [State.tick_held hm h]
    exact ⟨rfl, rfl, rfl, rfl, fun hh => absurd hh h.ne', fun _ => ⟨rfl, rfl⟩⟩

/-! ### Missed edges (17 R470) -/

/-- The two fields of TIM_PPS_MISS. -/
theorem bits_halves {a b : Nat} (ha : a < 2 ^ 16) (hb : b < 2 ^ 16) :
    bits ((a * 0x10000 + b) % 2 ^ 32) 31 16 = a ∧ bits ((a * 0x10000 + b) % 2 ^ 32) 15 0 = b := by
  simp only [bits, Nat.shiftRight_eq_div_pow]
  omega

theorem bits_lt (v hi lo : Nat) : bits v hi lo < 2 ^ (hi + 1 - lo) := Nat.mod_lt _ (Nat.two_pow_pos _)

section
variable {s : State} (hb : Bounded s)
include hb

theorem State.missCount_high : bits ((s.missCount true).reg 0xF01C) 31 16 = min 0xFFFF (bits (s.reg 0xF01C) 31 16 + 1) ∧
    bits ((s.missCount true).reg 0xF01C) 15 0 = bits (s.reg 0xF01C) 15 0 := by
  rw [State.missCount, if_pos rfl, State.setReg_reg_self hb.2]
  exact bits_halves (by omega) (bits_lt _ 15 0)

theorem State.missCount_low : bits ((s.missCount false).reg 0xF01C) 15 0 = min 0xFFFF (bits (s.reg 0xF01C) 15 0 + 1) ∧
    bits ((s.missCount false).reg 0xF01C) 31 16 = bits (s.reg 0xF01C) 31 16 := by
  rw [State.missCount, if_neg Bool.false_ne_true, State.setReg_reg_self hb.2]
  exact (bits_halves (bits_lt _ 31 16) (by omega)).symm

/-- No other register counts a missed edge. -/
theorem State.missCount_reg_ne (high : Bool) {o : Nat} (ho : o ≠ 0xF01C) : (s.missCount high).reg o = s.reg o := by
  cases high with
  | false => exact State.setReg_reg_ne hb.2 _ ho
  | true => exact State.setReg_reg_ne hb.2 _ ho

end

theorem State.missCount_regsOnly (s : State) (high : Bool) : s.missCount high = { s with regs := (s.missCount high).regs } := by
  cases high <;> rfl

/-! ### Accepted edges (17 R470) -/

/-- The part after an accepted edge that TIM_NEXT should have met: TIM_NOW is held or set, the edge counted, deadlines start again
after a jump of more than 1,000 ns. -/
def State.ppsSynced (s : State) (next : Nat) : State :=
  let u := ({ s with health := { s.health with
    sincePps := some 0, ppsOffset := (s.now : Int) - (next : Int), holdNs := if s.now < next then next - s.now else 0
    now := if s.now < next then s.health.now else (next + 2) % 2 ^ 64 } } : State).bump 0xF018 1
  if 1000 + next < s.now then u.restartDeadlines else u

/-- TIM_NEXT takes a value. -/
def State.setNext (s : State) (n : Nat) : State := (s.setReg 0xF008 (n % 2 ^ 32)).setReg 0xF00C (n / 2 ^ 32 % 2 ^ 32)

theorem State.setNext_reg64 {s : State} (h : tabOk 0#32 s.regs = true) (n : Nat) : (s.setNext n).reg64 0xF008 = n % 2 ^ 64 := by
  have hlow : (s.setNext n).reg 0xF008 = n % 2 ^ 32 % 2 ^ 32 :=
    (State.setReg_reg_ne (State.setReg_ok h _ _) _ (by decide)).trans (State.setReg_reg_self h _ _)
  have hhigh : (s.setNext n).reg (0xF008 + 4) = n / 2 ^ 32 % 2 ^ 32 % 2 ^ 32 := State.setReg_reg_self (State.setReg_ok h _ _) _ _
  rw [State.reg64, hlow, hhigh]
  omega

theorem State.setNext_reg_ne {s : State} (h : tabOk 0#32 s.regs = true) (n : Nat) {o : Nat} (hlow : o ≠ 0xF008) (hhigh : o ≠ 0xF00C) :
    (s.setNext n).reg o = s.reg o :=
  (State.setReg_reg_ne (State.setReg_ok h _ _) _ hhigh).trans (State.setReg_reg_ne h _ hlow)

section
variable {s : State} {next : Nat}

theorem State.ppsSynced_regs (s : State) (next : Nat) : (s.ppsSynced next).regs = (s.bump 0xF018 1).regs := by
  unfold State.ppsSynced
  dsimp only
  split <;> rfl

theorem State.ppsSynced_reg (s : State) (next o : Nat) : (s.ppsSynced next).reg o = (s.bump 0xF018 1).reg o := by
  unfold State.reg
  rw [State.ppsSynced_regs]

theorem State.ppsSynced_ok (hb : Bounded s) : tabOk 0#32 (s.ppsSynced next).regs = true := by
  rw [State.ppsSynced_regs]
  exact State.bump_ok hb.2 _ _

theorem State.ppsSynced_reg64_next (hb : Bounded s) : (s.ppsSynced next).reg64 0xF008 = s.reg64 0xF008 := by
  simp only [State.reg64, State.ppsSynced_reg]
  rw [State.bump_reg_ne hb.2 _ (by decide), State.bump_reg_ne hb.2 _ (by decide)]

theorem State.ppsSynced_health (s : State) (next : Nat) : (s.ppsSynced next).health = { s.health with
    sincePps := some 0, ppsOffset := (s.now : Int) - (next : Int), holdNs := if s.now < next then next - s.now else 0
    now := if s.now < next then s.health.now else (next + 2) % 2 ^ 64 } := by
  unfold State.ppsSynced
  dsimp only
  split <;> rfl

/-- Only a jump of more than 1,000 ns reaches the host port. -/
theorem State.ppsSynced_host (h : s.now ≤ 1000 + next) : (s.ppsSynced next).host = s.host := by
  unfold State.ppsSynced
  dsimp only
  rw [if_neg h.not_gt]
  rfl

/-- Registers, health and the host port are all that one state has of its own against another. -/
def State.TimeOnly (s t : State) : Prop := t = { s with regs := t.regs, health := t.health, host := t.host }

theorem State.TimeOnly.frame {s t : State} (h : s.TimeOnly t) : t.store = s.store ∧ t.sched = s.sched ∧ t.errs = s.errs ∧
    t.cfg = s.cfg ∧ t.cores = s.cores ∧ t.twin = s.twin ∧ t.test = s.test ∧ SamePart s t ∧ SameSeals s t := by
  rw [h]
  exact ⟨rfl, rfl, rfl, rfl, rfl, rfl, rfl, ⟨rfl, rfl, rfl, rfl⟩, rfl, rfl, rfl, rfl, rfl⟩

theorem State.ppsSynced_timeOnly (s : State) (next : Nat) : s.TimeOnly (s.ppsSynced next) := by
  unfold State.ppsSynced State.TimeOnly
  dsimp only
  split <;> rfl

theorem State.setNext_timeOnly {s t : State} (h : s.TimeOnly t) (n : Nat) : s.TimeOnly (t.setNext n) :=
  Eq.trans (congrArg (State.setNext · n) h) rfl

end

section
variable {s : State} {falling : Bool}

theorem State.ppsEdge_ignored (h : bit (s.reg 0xF010) 0 = false ∨ bit (s.reg 0xF010) 1 ≠ falling) : s.ppsEdge falling = s :=
  if_pos (by simpa using h)

variable (hen : bit (s.reg 0xF010) 0 = true) (hpol : bit (s.reg 0xF010) 1 = falling)
include hen hpol

/-- An edge within 500 ms of the last. -/
theorem State.ppsEdge_early {n : Nat} (hn : s.health.sincePps = some n) (h : n ≤ 500000000) : s.ppsEdge falling = s.missCount true :=
  (if_neg (by simp [hen, hpol])).trans (if_pos (by simp [hn, h]))

/-- An edge that is accepted. -/
theorem State.ppsEdge_accepted (h : ∀ n, s.health.sincePps = some n → 500000000 < n) : s.ppsEdge falling =
    if bit (s.reg 0xF010) 2 then (s.ppsSynced (s.reg64 0xF008)).setNext (1000000000 + s.reg64 0xF008)
    else s.ppsSynced (s.reg64 0xF008) := by
  have hearly : ((s.now : Int) - (s.reg64 0xF008 : Int) < 0) ↔ s.now < s.reg64 0xF008 := by omega
  have hjump : (1000 < (s.now : Int) - (s.reg64 0xF008 : Int)) ↔ 1000 + s.reg64 0xF008 < s.now := by omega
  have hhold : (-((s.now : Int) - (s.reg64 0xF008 : Int))).toNat = s.reg64 0xF008 - s.now := by omega
  unfold State.ppsEdge
  rw [if_neg (by simp [hen, hpol]), if_neg (by simpa [Option.any_eq_true] using h)]
  simp only [hearly, hjump, hhold]
  rfl

end

theorem State.ppsMissed_on {s : State} (h : bit (s.reg 0xF010) 0 = true) : s.ppsMissed = s.missCount false := if_pos h

theorem State.ppsMissed_off {s : State} (h : bit (s.reg 0xF010) 0 = false) : s.ppsMissed = s := if_neg (by simp [h])

theorem State.running_iff {s : State} : s.running = true ↔ s.cfg.mode ≠ .off := decide_eq_true_iff

theorem State.running_off {s : State} (h : s.cfg.mode = .off) : s.running = false := decide_eq_false (not_not_intro h)

/-- A command of clocks, monitors or the time base that changes nothing where it runs changes nothing in OFF either. -/
theorem next_whenever_same {s t : State} {c : Bool} (h : c = false ∨ t = s) : (.next (s.whenever c t) : Out) = .next s := by
  rcases h with h | rfl
  · exact next_whenever_off h
  · cases c <;> rfl

/-- Settles O53: an edge is ignored, counted as missed, or accepted; a second without one is counted. -/
theorem ppsDisciplinesTime : Obligations.PpsDisciplinesTime := by
  intro s falling hb
  refine ⟨fun h => next_whenever_same (h.imp State.running_off State.ppsEdge_ignored), fun hm hen hpol => ⟨fun n hn hle => ?_,
    fun next hlate hnext => ?_⟩, fun hm hen => ?_, fun h => next_whenever_same (h.imp State.running_off State.ppsMissed_off)⟩
  · exact ⟨_, next_whenever_on (State.running_iff.2 hm) (State.ppsEdge_early hen hpol hn hle), State.missCount_regsOnly s true,
      (State.missCount_high hb).1, (State.missCount_high hb).2, fun o ho => State.missCount_reg_ne hb true ho⟩
  · subst hnext
    have hcount : (s.ppsSynced (s.reg64 0xF008)).reg 0xF018 = min 0xFFFFFFFF (s.reg 0xF018 + 1) :=
      (State.ppsSynced_reg s _ _).trans (State.bump_reg_self hb.2 _ _)
    have htime := State.ppsSynced_timeOnly s (s.reg64 0xF008)
    refine ⟨_, next_whenever_on (State.running_iff.2 hm) (State.ppsEdge_accepted hen hpol hlate), ?_⟩
    split
    next hauto =>
      exact ⟨State.ppsSynced_health s _, (State.setNext_reg_ne (State.ppsSynced_ok hb) _ (by decide) (by decide)).trans hcount,
        fun _ => State.setNext_reg64 (State.ppsSynced_ok hb) _, fun hno => absurd hauto (ne_true_of_eq_false hno),
        State.ppsSynced_host, (State.setNext_timeOnly htime _).frame⟩
    next hauto =>
      exact ⟨State.ppsSynced_health s _, hcount, fun hyes => absurd hyes hauto, fun _ => State.ppsSynced_reg64_next hb,
        State.ppsSynced_host, htime.frame⟩
  · exact ⟨_, next_whenever_on (State.running_iff.2 hm) (State.ppsMissed_on hen), State.missCount_regsOnly s false,
      (State.missCount_low hb).1, (State.missCount_low hb).2, fun o ho => State.missCount_reg_ne hb false ho⟩

/-! ### Clocks and monitors of a tile -/

/-- A write below every key listed goes to the front. -/
theorem tset_below {α : Type} [DecidableEq α] {d : α} {t : Tab α} {k : Nat} (h : ∀ p ∈ t, k < p.1) (v : α) :
    tset d t k v = if v = d then t else (k, v) :: t := by
  cases t with
  | nil => rfl
  | cons a rest => exact if_pos (h a List.mem_cons_self)

/-- The last write of a key stands. -/
theorem tset_tset {α : Type} [DecidableEq α] {d : α} {t : Tab α} (h : tabOk d t = true) (k : Nat) (v w : α) :
    tset d (tset d t k v) k w = tset d t k w := by
  induction t with
  | nil => grind [tset]
  | cons a rest ih => grind [tset, tabOk_cons, tset_below]

section
variable {s : State} (h : tabOk {} s.health.tiles = true) (t : Nat) (x : TileHealth)
include h

theorem State.setHealth_tileHealth : (s.setHealth t x).tileHealth t = x := tget_tset_self h t x

theorem State.setHealth_tileHealth_ne {k : Nat} (hk : k ≠ t) : (s.setHealth t x).tileHealth k = s.tileHealth k := tget_tset_ne h x hk

theorem State.setHealth_setHealth (y : TileHealth) : (s.setHealth t x).setHealth t y = s.setHealth t y := by
  simp only [State.setHealth, tset_tset h]

/-- Writing a tile's clocks and monitors writes nothing else. -/
theorem State.setHealth_only : (s.setHealth t x).tileHealth t = x ∧ (∀ k, k ≠ t → (s.setHealth t x).tileHealth k = s.tileHealth k) ∧
    s.setHealth t x = { s with health := { s.health with tiles := (s.setHealth t x).health.tiles } } :=
  ⟨State.setHealth_tileHealth h t x, fun _ hk => State.setHealth_tileHealth_ne h t x hk, rfl⟩

end

/-! ### The target of a window (17 R467) -/

section
variable {s : State} {t cool : Nat} (hp : s.part ≠ .aeS)
include hp

theorem State.nextTarget_volt (h : (s.tileHealth t).voltAlert = true ∨ s.now < (s.tileHealth t).voltUntil) : s.nextTarget t cool = 0 :=
  (if_neg hp).trans (if_pos h)

variable (hv : (s.tileHealth t).voltAlert = false) (hu : (s.tileHealth t).voltUntil ≤ s.now)
include hv hu

theorem State.nextTarget_calm : s.nextTarget t cool =
    if (s.tempThr t).2.2.1 ≤ (s.tileHealth t).hot then (s.tileHealth t).target - 1
    else if (s.tempThr t).1 ≤ (s.tileHealth t).hot then
      s.inRange t (max (bits (s.liveFor t 0x14000) 7 4) ((s.tileHealth t).target - 1))
    else if 10 ≤ cool then s.inRange t ((s.tileHealth t).target + 1)
    else s.inRange t (s.tileHealth t).target :=
  (if_neg hp).trans (if_neg (by simp [hv, hu]))

theorem State.nextTarget_alert (ha : (s.tempThr t).2.2.1 ≤ (s.tileHealth t).hot) : s.nextTarget t cool = (s.tileHealth t).target - 1 :=
  (State.nextTarget_calm hp hv hu).trans (if_pos ha)

variable (ha : (s.tileHealth t).hot < (s.tempThr t).2.2.1)
include ha

theorem State.nextTarget_step (hs : (s.tempThr t).1 ≤ (s.tileHealth t).hot) : s.nextTarget t cool =
    s.inRange t (max (bits (s.liveFor t 0x14000) 7 4) ((s.tileHealth t).target - 1)) :=
  (State.nextTarget_calm hp hv hu).trans ((if_neg ha.not_ge).trans (if_pos hs))

variable (hs : (s.tileHealth t).hot < (s.tempThr t).1)
include hs

theorem State.nextTarget_up (hc : 10 ≤ cool) : s.nextTarget t cool = s.inRange t ((s.tileHealth t).target + 1) :=
  (State.nextTarget_calm hp hv hu).trans ((if_neg ha.not_ge).trans ((if_neg hs.not_ge).trans (if_pos hc)))

theorem State.nextTarget_same (hc : cool < 10) : s.nextTarget t cool = s.inRange t (s.tileHealth t).target :=
  (State.nextTarget_calm hp hv hu).trans ((if_neg ha.not_ge).trans ((if_neg hs.not_ge).trans (if_neg hc.not_ge)))

end

/-! ### Steps and wakes (17 R467, R468, R473) -/

/-- How many windows in a row have been cool with the one that ends. -/
def State.coolWindows (s : State) (t : Nat) : Nat :=
  if (s.tileHealth t).hotWindow = true ∨ (s.tempThr t).1 - (s.tempThr t).2.1 ≤ (s.tileHealth t).hot then 0
  else min 10 ((s.tileHealth t).cool + 1)

section
variable {s : State} {t : Nat}

theorem State.stepWindow_stays (h : s.part = .aeS ∨ s.nextTarget t (s.coolWindows t) = (s.tileHealth t).target) :
    s.stepWindow t = s.setHealth t { s.tileHealth t with cool := s.coolWindows t, hotWindow := false } := if_pos h

theorem State.stepWindow_steps (hp : s.part ≠ .aeS) (h : s.nextTarget t (s.coolWindows t) ≠ (s.tileHealth t).target) :
    s.stepWindow t = s.setHealth t { s.tileHealth t with
      cool := s.coolWindows t, hotWindow := false, target := s.nextTarget t (s.coolWindows t), switching := true, locked := false
      holders := [] } := if_neg (not_or.2 ⟨hp, h⟩)

theorem State.pllLocked_idle (h : (s.tileHealth t).switching = false ∨ (s.tileHealth t).locked = true) : s.pllLocked t = s :=
  if_pos (by simpa using h)

/-- The lock of a tile that runs no item completes the step at once. -/
theorem State.pllLocked_switches (hs : (s.tileHealth t).switching = true) (hl : (s.tileHealth t).locked = false)
    (hok : tabOk {} s.health.tiles = true) (hi : s.itemsWhere (fun _ i => decide (i.tile = t) && i.active) = []) :
    s.pllLocked t = (s.setHealth t { s.tileHealth t with
      cur := (s.tileHealth t).target, switching := false, locked := false, holders := [] }).bumpTile t 0x1D0 1 := by
  unfold State.pllLocked State.clockSwitch
  rw [if_neg (by simp [hs, hl]), hi, State.setHealth_tileHealth hok, if_pos (by simp [hs]), State.setHealth_setHealth hok]

theorem State.pllUnlock_faults (h : ((s.tileHealth t).switching = true ∧ (s.tileHealth t).locked = false) ∨ (s.tileHealth t).power = 3) :
    s.pllUnlock t = s.tileFault { severity := sevTile, cause := 0x66, unit := 0x0D, tile := t } := if_pos (by simpa using h)

theorem State.pllUnlock_idle (h : (s.tileHealth t).switching = false ∨ (s.tileHealth t).locked = true) (hw : (s.tileHealth t).power ≠ 3) :
    s.pllUnlock t = s := if_neg (by rcases h with h | h <;> simp [h, hw])

theorem State.tileFault_ae1 (h : s.part = .ae1) (e : LogEntry) : s.tileFault e = s.block e 0x0B := if_pos h

theorem State.tileFault_others (h : s.part ≠ .ae1) (e : LogEntry) :
    s.tileFault e = (s.report { e with severity := sevTile }).quarantine e.tile := if_neg h

theorem State.tileWakes_waking (h : (s.tileHealth t).power = 3) : s.tileWakes t = s.setHealth t { s.tileHealth t with power := 0 } :=
  if_pos h

theorem State.tileWakes_other (h : (s.tileHealth t).power ≠ 3) : s.tileWakes t = s := if_neg h

end

/-- A command of a tile that the configuration has. -/
theorem onTile_next_of_eq {s t u : State} {n : Nat} (h : s.hasTile n = true) (e : t = u) : onTile s n t = .next u :=
  (onTile_of_hasTile h).trans (congrArg _ e)

/-- A command of a tile that the configuration has, in a state in which clocks and monitors run. -/
theorem onTile_running {s t u : State} {n : Nat} (h : s.hasTile n = true) (hm : s.cfg.mode ≠ .off) (e : t = u) :
    onTile s n (s.whenever s.running t) = .next u :=
  (onTile_of_hasTile h).trans (next_whenever_on (State.running_iff.2 hm) e)

/-- Settles O51: the target by the rows of R467; a window's end, a lock, the want of one, and a wake by the equations of each. -/
theorem clockStepsAndWakes : Obligations.ClockStepsAndWakes := by
  rintro s tile h ht rfl
  refine ⟨fun cool thr hp hthr => ?_, fun cool c hm hcool hc => ?_, fun hi => onTile_next_of_eq ht (State.pllLocked_idle hi),
    fun hs hl hok hi => ⟨_, onTile_next_of_eq ht (State.pllLocked_switches hs hl hok hi), State.setHealth_only hok _ _⟩,
    fun hf => ⟨fun hp => ?_, fun hp => ?_⟩, fun hi hw => onTile_next_of_eq ht (State.pllUnlock_idle hi hw),
    fun hw => onTile_next_of_eq ht (State.tileWakes_waking hw), fun hw => onTile_next_of_eq ht (State.tileWakes_other hw)⟩
  · subst hthr
    exact ⟨State.nextTarget_volt hp, fun hv hu => ⟨State.nextTarget_alert hp hv hu, State.nextTarget_step hp hv hu,
      State.nextTarget_up hp hv hu, State.nextTarget_same hp hv hu⟩⟩
  · subst hcool hc
    exact ⟨fun hstay => onTile_running ht hm (State.stepWindow_stays hstay),
      fun hp hstep => onTile_running ht hm (State.stepWindow_steps hp hstep)⟩
  · exact onTile_next_of_eq ht ((State.pllUnlock_faults hf).trans (State.tileFault_others hp _))
  · exact onTile_next_of_eq ht ((State.pllUnlock_faults hf).trans (State.tileFault_ae1 hp _))

end Sys2Proof.Machine
end

section
/-! SUPPORT. Temperature, voltage and process monitors (17 R471). The statement on them. -/

namespace Sys2Proof.Machine

/-! ### Alerts and halts of monitors -/

@[simp] theorem State.block_errs_thermTrip (s : State) (e : LogEntry) (c : Nat) :
    (s.block e c).errs.thermTrip = s.errs.thermTrip := by
  simp only [State.block, State.halt_errs, State.report, State.bump_errs, Errors.add]
  split_ifs <;> rfl

/-- A BLOCK error halts the part, with its cause where the part is not halted. -/
theorem State.block_halts {s : State} (hm : s.cfg.mode ≠ .off) (e : LogEntry) (c : Nat) :
    (s.block e c).cfg.mode = .halted ∧ (s.cfg.mode ≠ .halted → (s.block e c).cfg.haltCause = c) :=
  ⟨State.halt_mode _ c hm, fun hh => (State.halt_halted (s := s.report { e with severity := sevBlock }) hm hh c).2⟩

/-- A new reading of a tile stands, and an alert that it raises is logged. -/
def State.alerts (s : State) (t : Nat) (x : TileHealth) (alert : Bool) (c k n : Nat) : State :=
  if alert then (s.setHealth t x).monitorAlert c t k n else s.setHealth t x

section
variable (s : State) (t : Nat) (x : TileHealth) (alert : Bool) (c k n : Nat)

theorem State.alerts_cfg : (s.alerts t x alert c k n).cfg = s.cfg := by
  cases alert <;> rfl

theorem State.alerts_tileHealth (hok : tabOk {} s.health.tiles = true) : (s.alerts t x alert c k n).tileHealth t = x := by
  cases alert <;> exact State.setHealth_tileHealth hok t x

end

/-! ### Temperature sensors -/

/-- The sensor of a reading is at TRIP, as it was at the reading before. -/
def tripsTwice (trip : Int) (before : List Int) (p : Nat × Int) : Bool :=
  decide (trip ≤ p.2) && decide (p.1 < before.length) && decide (trip ≤ before.getD p.1 0)

/-- Health with a new reading of temperatures, its window hot and its alert as the reading makes them. -/
def State.tempRead (s : State) (t : Nat) (g : TileHealth) : TileHealth :=
  { g with hotWindow := g.hotWindow || decide ((s.tempThr t).1 - (s.tempThr t).2.1 ≤ g.hot)
           tempAlert := decide ((s.tempThr t).2.2.1 ≤ g.hot) }

/-- The part with a new reading of temperatures, its alert logged as it begins. -/
def State.tempAlerted (s : State) (t : Nat) (g : TileHealth) : State :=
  s.alerts t (s.tempRead t g) (decide ((s.tempThr t).2.2.1 ≤ g.hot) && !g.tempAlert) 0x60 0 ((g.hottest.map Prod.fst).getD 0)

/-- A sensor that reads TRIP twice in a row halts the part. -/
def State.thermTrips (s : State) (t : Nat) (p : Nat × Int) : State :=
  ({ s with errs := { s.errs with thermTrip := true } } : State).block (monitorEntry sevBlock 0x61 t 0 p.1) 0x0C

section
variable {s : State} {t : Nat} {vs : List Int} (hok : tabOk {} s.health.tiles = true) (hvs : ∀ v ∈ vs, v ≤ 150)
include hvs

/-- No sensor reads out of its range. -/
theorem overrange_eq_nil : (List.range 16).filter (fun i => decide (150 < vs.getD i 0)) = [] := by
  refine List.filter_eq_nil_iff.2 fun i _ => ?_
  rw [decide_eq_true_iff, Int.not_lt, List.getD_eq_getElem?_getD]
  rcases h : vs[i]? with _ | v
  · decide
  · exact hvs v (List.mem_of_getElem? h)

variable {g : TileHealth} (hg : g = { s.tileHealth t with temps := vs })
include hok hg

/-- A reading of sensors none of which leaves service. -/
theorem State.tempReading_eq : s.tempReading t vs =
    (g.sensorsIn.find? (tripsTwice (s.tempThr t).2.2.2 (s.tileHealth t).temps)).elim (s.tempAlerted t g)
      ((s.tempAlerted t g).thermTrips t) := by
  unfold State.tempReading
  simp only [overrange_eq_nil hvs, List.foldl_nil, ← hg, State.setHealth_tileHealth hok, State.setHealth_setHealth hok]
  unfold State.tempAlerted State.alerts State.tempRead tripsTwice
  cases g.sensorsIn.find? _ <;> rfl

/-- A reading below ALERT and TRIP. -/
theorem State.tempReading_calm (ha : g.hot < (s.tempThr t).2.2.1) (htrip : ∀ p ∈ g.sensorsIn, p.2 < (s.tempThr t).2.2.2) :
    s.tempReading t vs = s.setHealth t { g with
      hotWindow := g.hotWindow || decide ((s.tempThr t).1 - (s.tempThr t).2.1 ≤ g.hot), tempAlert := false } := by
  have hnone : g.sensorsIn.find? (tripsTwice (s.tempThr t).2.2.2 (s.tileHealth t).temps) = none :=
    List.find?_eq_none.2 fun p hp => by simp [tripsTwice, htrip p hp]
  rw [State.tempReading_eq hok hvs hg, hnone]
  simp only [Option.elim_none, State.tempAlerted, State.alerts, State.tempRead, decide_eq_false ha.not_ge,
    Bool.false_and, Bool.false_eq_true, if_false]

/-- A reading with a sensor at TRIP twice in a row. -/
theorem State.tempReading_trips {p : Nat × Int} (hp : p ∈ g.sensorsIn)
    (h : tripsTwice (s.tempThr t).2.2.2 (s.tileHealth t).temps p = true) :
    ∃ (u : State) (e : LogEntry), s.tempReading t vs = u.block e 0x0C ∧ u.cfg = s.cfg ∧ u.errs.thermTrip = true ∧
      u.tileHealth t = s.tempRead t g := by
  obtain ⟨q, hq⟩ := Option.isSome_iff_exists.1 (List.find?_isSome.2 ⟨p, hp, h⟩)
  rw [State.tempReading_eq hok hvs hg, hq]
  exact ⟨_, _, rfl, State.alerts_cfg .., rfl, State.alerts_tileHealth _ _ _ _ _ _ _ hok⟩

end

/-! ### Voltage sensors -/

/-- A sensor in service reads outside a band. -/
def TileHealth.voltOut (h : TileHealth) (nominal pct : Nat) (vs : List Nat) (i : Nat) : Bool :=
  !h.otherOut.contains (32 + i) && outside nominal pct (vs.getD i nominal)

theorem TileHealth.voltOut_iff {h : TileHealth} {nominal pct : Nat} {vs : List Nat} {i : Nat} : h.voltOut nominal pct vs i = true ↔
    h.otherOut.contains (32 + i) = false ∧ outside nominal pct (vs.getD i nominal) = true := by
  rw [TileHealth.voltOut, Bool.and_eq_true, Bool.not_eq_true']

/-- Readings in a row outside the trip band with the present one. -/
def TileHealth.voltRuns (h : TileHealth) (nominal pct : Nat) (vs : List Nat) : List Nat :=
  (List.range 8).map (fun i => if h.voltOut nominal pct vs i then h.voltRun.getD i 0 + 1 else 0)

theorem TileHealth.voltRuns_quiet {h : TileHealth} {nominal pct : Nat} {vs : List Nat}
    (hq : ∀ i < 8, h.voltOut nominal pct vs i = false) : h.voltRuns nominal pct vs = List.replicate 8 0 :=
  List.map_congr_left (g := fun _ => 0) fun i hi => if_neg (by simp [hq i (List.mem_range.1 hi)])

theorem TileHealth.voltRuns_getD {h : TileHealth} {nominal pct : Nat} {vs : List Nat} {i : Nat} (hi : i < 8)
    (ho : h.voltOut nominal pct vs i = true) : (h.voltRuns nominal pct vs).getD i 0 = h.voltRun.getD i 0 + 1 := by
  simp [TileHealth.voltRuns, hi, ho]

/-- Sensors that read outside a band. -/
def TileHealth.voltsOut (h : TileHealth) (nominal pct : Nat) (vs : List Nat) : List Nat :=
  (List.range 8).filter (h.voltOut nominal pct vs)

theorem TileHealth.voltsOut_quiet {h : TileHealth} {nominal pct : Nat} {vs : List Nat}
    (hq : ∀ i < 8, h.voltOut nominal pct vs i = false) : h.voltsOut nominal pct vs = [] :=
  List.filter_eq_nil_iff.2 fun i hi => by simp [hq i (List.mem_range.1 hi)]

/-- The part with a new reading of voltages, of which some sensors are outside the alert band; the alert is logged as it begins. -/
def State.voltAlerted (s : State) (t nominal : Nat) (vs out : List Nat) : State :=
  let h := s.tileHealth t
  s.alerts t { h with
      volts := vs, voltAlert := decide (out ≠ []), voltRun := h.voltRuns nominal s.cfg.fuses.tripPct vs
      voltUntil := if out = [] ∧ h.voltAlert then 1000000 + s.now else h.voltUntil }
    (decide (out ≠ []) && !h.voltAlert) 0x62 1 (out.headD 0)

theorem State.voltReading_eq (s : State) (t nominal : Nat) (vs : List Nat) : s.voltReading t vs nominal =
    ((List.range 8).find? (fun i => decide (10 ≤ ((s.tileHealth t).voltRuns nominal s.cfg.fuses.tripPct vs).getD i 0))).elim
      (s.voltAlerted t nominal vs ((s.tileHealth t).voltsOut nominal s.cfg.fuses.alertPct vs))
      (fun i => (s.voltAlerted t nominal vs ((s.tileHealth t).voltsOut nominal s.cfg.fuses.alertPct vs)).block
        (monitorEntry sevBlock 0x63 t 1 i) 0x0B) := by
  unfold State.voltReading State.voltAlerted State.alerts TileHealth.voltsOut TileHealth.voltRuns TileHealth.voltOut
  dsimp only
  cases List.find? _ _ <;> rfl

section
variable {s : State} {t nominal : Nat} {vs : List Nat}

/-- A reading within both bands. -/
theorem State.voltReading_calm (ha : ∀ i < 8, (s.tileHealth t).voltOut nominal s.cfg.fuses.alertPct vs i = false)
    (htrip : ∀ i < 8, (s.tileHealth t).voltOut nominal s.cfg.fuses.tripPct vs i = false) :
    s.voltReading t vs nominal = s.setHealth t { s.tileHealth t with
      volts := vs, voltAlert := false, voltRun := List.replicate 8 0
      voltUntil := if (s.tileHealth t).voltAlert then 1000000 + s.now else (s.tileHealth t).voltUntil } := by
  rw [State.voltReading_eq, TileHealth.voltsOut_quiet ha, TileHealth.voltRuns_quiet htrip]
  simp only [State.voltAlerted, State.alerts, TileHealth.voltRuns_quiet htrip, ne_eq, not_true_eq_false, decide_false, Bool.false_and,
    Bool.false_eq_true, if_false, true_and]
  rfl

/-- A reading with a sensor outside the trip band as in the nine readings before. -/
theorem State.voltReading_trips (hok : tabOk {} s.health.tiles = true) {i : Nat} (hi : i < 8)
    (ho : (s.tileHealth t).voltOut nominal s.cfg.fuses.tripPct vs i = true) (h9 : 9 ≤ (s.tileHealth t).voltRun.getD i 0) :
    ∃ (u : State) (e : LogEntry), s.voltReading t vs nominal = u.block e 0x0B ∧ u.cfg = s.cfg ∧ (u.tileHealth t).volts = vs := by
  obtain ⟨j, hj⟩ := Option.isSome_iff_exists.1 (List.find?_isSome (p := fun i => decide
      (10 ≤ ((s.tileHealth t).voltRuns nominal s.cfg.fuses.tripPct vs).getD i 0)).2
    ⟨i, List.mem_range.2 hi, decide_eq_true (by rw [TileHealth.voltRuns_getD hi ho]; omega)⟩)
  rw [State.voltReading_eq, hj]
  exact ⟨_, _, rfl, State.alerts_cfg .., congrArg TileHealth.volts (State.alerts_tileHealth _ _ _ _ _ _ _ hok)⟩

end

/-! ### Process monitors -/

/-- A ring oscillator in service counts below a floor. -/
def TileHealth.oscSlow (h : TileHealth) (floor : Nat) (vs : List Nat) (i : Nat) : Bool :=
  !h.otherOut.contains (64 + i) && decide (vs.getD i floor < floor)

theorem TileHealth.oscSlow_iff {h : TileHealth} {floor : Nat} {vs : List Nat} {i : Nat} : h.oscSlow floor vs i = true ↔
    h.otherOut.contains (64 + i) = false ∧ vs.getD i floor < floor := by
  rw [TileHealth.oscSlow, Bool.and_eq_true, Bool.not_eq_true', decide_eq_true_iff]

/-- A second has passed since FMAX_AGED last fell. -/
def TileHealth.mayAge (h : TileHealth) (now : Nat) : Bool :=
  match h.agedAt with | none => true | some a => decide (1000000000 + a ≤ now)

/-- Health with a new reading of slow oscillators. -/
def TileHealth.aged (h : TileHealth) (now : Nat) (vs : List Nat) : TileHealth :=
  { h with procs := vs, procAlert := true
           fmaxAged := if h.mayAge now && decide (0 < h.fmaxAged) then h.fmaxAged - 1 else h.fmaxAged
           agedAt := if h.mayAge now && decide (0 < h.fmaxAged) then some now else h.agedAt }

section
variable {h : TileHealth} {now : Nat} {vs : List Nat}

/-- FMAX_AGED falls where it can and a second has passed. -/
theorem TileHealth.aged_due (h0 : 0 < h.fmaxAged) (hp : ∀ a, h.agedAt = some a → 1000000000 + a ≤ now) :
    (h.aged now vs).fmaxAged = h.fmaxAged - 1 ∧ (h.aged now vs).agedAt = some now := by
  have hmay : h.mayAge now = true := by
    unfold TileHealth.mayAge
    split
    · rfl
    next a ha => exact decide_eq_true (hp a ha)
  simp [TileHealth.aged, hmay, h0]

/-- FMAX_AGED stays within a second of its last fall. -/
theorem TileHealth.aged_soon {a : Nat} (ha : h.agedAt = some a) (hlt : now < 1000000000 + a) :
    (h.aged now vs).fmaxAged = h.fmaxAged ∧ (h.aged now vs).agedAt = h.agedAt := by
  have hmay : h.mayAge now = false := by
    unfold TileHealth.mayAge
    rw [ha]
    exact decide_eq_false hlt.not_ge
  simp [TileHealth.aged, hmay]

end

section
variable {s : State} {t : Nat} {vs : List Nat}

theorem State.procReading_calm (h : ∀ i < 4, (s.tileHealth t).oscSlow s.cfg.fuses.roFloor vs i = false) :
    s.procReading t vs = s.setHealth t { s.tileHealth t with procs := vs, procAlert := false } := by
  have hlow : (List.range 4).filter ((s.tileHealth t).oscSlow s.cfg.fuses.roFloor vs) = [] :=
    List.filter_eq_nil_iff.2 fun i hi => by simp [h i (List.mem_range.1 hi)]
  unfold TileHealth.oscSlow at hlow
  unfold State.procReading
  simp only [hlow, ne_eq, not_true_eq_false, decide_false, Bool.false_and, Bool.false_eq_true, if_false]

/-- A slow oscillator ages the tile; the alert is logged when it begins. -/
theorem State.procReading_slow {i : Nat} (hi : i < 4) (h : (s.tileHealth t).oscSlow s.cfg.fuses.roFloor vs i = true) :
    s.procReading t vs = if (s.tileHealth t).procAlert then s.setHealth t ((s.tileHealth t).aged s.now vs)
      else (s.setHealth t ((s.tileHealth t).aged s.now vs)).report (monitorEntry sevDegrade 0x64 t 2
        (((List.range 4).filter ((s.tileHealth t).oscSlow s.cfg.fuses.roFloor vs)).headD 0)) := by
  have hlow : (List.range 4).filter ((s.tileHealth t).oscSlow s.cfg.fuses.roFloor vs) ≠ [] :=
    List.ne_nil_of_mem (List.mem_filter.2 ⟨List.mem_range.2 hi, h⟩)
  unfold TileHealth.oscSlow at hlow ⊢
  unfold State.procReading
  simp only [ne_eq, hlow, not_false_eq_true, decide_true, Bool.true_and]
  cases (s.tileHealth t).procAlert <;> rfl

theorem State.procReading_slow_health (hok : tabOk {} s.health.tiles = true) {i : Nat} (hi : i < 4)
    (h : (s.tileHealth t).oscSlow s.cfg.fuses.roFloor vs i = true) :
    (s.procReading t vs).tileHealth t = (s.tileHealth t).aged s.now vs := by
  rw [State.procReading_slow hi h]
  split <;> exact State.setHealth_tileHealth hok t _

end

/-! ### Sensors that fail -/

/-- Sensors of a tile, by the kind that SENSOR_FAIL names. -/
def sensorsOf : Nat → Nat
  | 0 => 16
  | 1 => 8
  | 2 => 4
  | _ => 0

theorem sensorsOf_other : ∀ kind : BitVec 2, kind ≠ 0 → sensorsOf kind.toNat = if kind = 1 then 8 else if kind = 2 then 4 else 0 := by
  decide

/-- A sensor is out of service. -/
def TileHealth.sensorGone (h : TileHealth) (kind sensor : Nat) : Bool :=
  if kind = 0 then h.tempOut.contains sensor else h.otherOut.contains (kind * 32 + sensor)

/-- Health with a sensor out of service. -/
def TileHealth.withoutSensor (h : TileHealth) (kind sensor : Nat) : TileHealth :=
  if kind = 0 then { h with tempOut := insertKey sensor h.tempOut }
  else { h with otherOut := insertKey (kind * 32 + sensor) h.otherOut }

theorem TileHealth.sensorGone_other {kind : Nat} (h0 : kind ≠ 0) (h : TileHealth) (sensor : Nat) :
    h.sensorGone kind sensor = h.otherOut.contains (kind * 32 + sensor) := if_neg h0

theorem TileHealth.withoutSensor_other {kind : Nat} (h0 : kind ≠ 0) (h : TileHealth) (sensor : Nat) :
    h.withoutSensor kind sensor = { h with otherOut := insertKey (kind * 32 + sensor) h.otherOut } := if_neg h0

section
variable {s : State} {t sensor kind : Nat}

theorem State.sensorOut_leaves (h : sensor < sensorsOf kind) (hk : (s.tileHealth t).sensorGone kind sensor = false) :
    s.sensorOut t kind sensor = (s.setHealth t ((s.tileHealth t).withoutSensor kind sensor)).report
      (monitorEntry sevDegrade 0x65 t kind sensor) :=
  if_neg (not_or.2 ⟨Bool.eq_false_iff.1 hk, h.not_ge⟩)

theorem State.sensorOut_same (h : sensorsOf kind ≤ sensor ∨ (s.tileHealth t).sensorGone kind sensor = true) :
    s.sensorOut t kind sensor = s :=
  if_pos h.symm

end

/-! ### The commands -/

section
variable {s : State} {tile : BitVec 5} (ht : s.hasTile tile.toNat = true) (hm : s.cfg.mode ≠ .off)
include ht hm

theorem exec_tempReading {t : State} {vs : List Int} (e : s.tempReading tile.toNat vs = t) : exec (.tempReading tile vs) s = .next t :=
  onTile_running ht hm e

theorem exec_voltReading {t : State} {vs : List (BitVec 16)} {nom : BitVec 16}
    (e : s.voltReading tile.toNat (vs.map BitVec.toNat) nom.toNat = t) : exec (.voltReading tile vs nom) s = .next t :=
  onTile_running ht hm e

theorem exec_processReading {t : State} {vs : List (BitVec 16)} (e : s.procReading tile.toNat (vs.map BitVec.toNat) = t) :
    exec (.processReading tile vs) s = .next t :=
  onTile_running ht hm e

theorem exec_sensorFail {t : State} {kind : BitVec 2} {sensor : BitVec 5} (e : s.sensorOut tile.toNat kind.toNat sensor.toNat = t) :
    exec (.sensorFail tile kind sensor) s = .next t :=
  onTile_running ht hm e

end

section
variable {s u : State} {c : Instr}

/-- A reading that only writes the tile's health. -/
theorem exec_setHealth_only {t : Nat} {x : TileHealth} (hok : tabOk {} s.health.tiles = true) (h : exec c s = .next (s.setHealth t x)) :
    ∃ v : State, exec c s = .next v ∧ v.tileHealth t = x ∧ (∀ k, k ≠ t → v.tileHealth k = s.tileHealth k) ∧
      v = { s with health := { s.health with tiles := v.health.tiles } } :=
  ⟨_, h, State.setHealth_only hok _ _⟩

/-- A reading that halts the part. -/
theorem exec_block_halts {e : LogEntry} {cause : Nat} (hm : s.cfg.mode ≠ .off) (h : exec c s = .next (u.block e cause))
    (hu : u.cfg = s.cfg) : ∃ v : State, exec c s = .next v ∧ v.cfg.mode = .halted ∧ v.errs.thermTrip = u.errs.thermTrip ∧
      (s.cfg.mode ≠ .halted → v.cfg.haltCause = cause) ∧ ∀ k, v.tileHealth k = u.tileHealth k := by
  obtain ⟨hmode, hcause⟩ := State.block_halts (s := u) (by rwa [hu]) e cause
  rw [hu] at hcause
  exact ⟨_, h, hmode, State.block_errs_thermTrip u e cause, hcause, fun k => by simp only [State.tileHealth, State.block_health]⟩

end

/-- Settles O52: a reading by what it finds outside its bands, SENSOR_FAIL by whether the sensor is in service. -/
theorem monitorsAlertAndTrip : Obligations.MonitorsAlertAndTrip := by
  rintro s tile h ht hm rfl hok
  refine ⟨fun vs g hvs hg => ⟨fun ha htrip => ?_, fun ⟨p, hp, h1, h2, h3⟩ => ?_⟩,
    fun vs nom out hout => ⟨fun hq => ?_, fun i hi h9 => ?_⟩, fun vs slow hslow => ⟨fun hq => ?_, fun ⟨i, hi⟩ => ?_⟩,
    fun sensor => ⟨fun hlt hk => ?_, fun hs => ?_, fun kind h0 => ?_⟩⟩
  · exact exec_setHealth_only hok (exec_tempReading ht hm ((State.tempReading_calm hok hvs hg ha htrip).trans (by rw [hg])))
  · have htwice : tripsTwice (s.tempThr tile.toNat).2.2.2 (s.tileHealth tile.toNat).temps p = true := by
      rw [tripsTwice, decide_eq_true h1, decide_eq_true h2, decide_eq_true h3]
      rfl
    obtain ⟨u, e, heq, hcfg, htherm, hhealth⟩ := State.tempReading_trips hok hvs hg hp htwice
    obtain ⟨v, hv, hmode, hvtherm, hcause, hkept⟩ := exec_block_halts hm (exec_tempReading ht hm heq) hcfg
    exact ⟨v, hv, hmode, hvtherm.trans htherm, hcause, by rw [hkept, hhealth, hg]; rfl⟩
  · have quiet (pct : Nat) (hno : ∀ i, ¬ out pct i) (i : Nat) (hi : i < 8) :
        (s.tileHealth tile.toNat).voltOut nom.toNat pct (vs.map BitVec.toNat) i = false :=
      Bool.eq_false_iff.2 fun ho => hno i ((hout pct i).2 ⟨hi, TileHealth.voltOut_iff.1 ho⟩)
    exact exec_setHealth_only hok (exec_voltReading ht hm
      (State.voltReading_calm (quiet _ fun i => (hq i).1) (quiet _ fun i => (hq i).2)))
  · obtain ⟨h8, ho⟩ := (hout _ i).1 hi
    obtain ⟨u, e, heq, hcfg, hvolts⟩ := State.voltReading_trips hok h8 (TileHealth.voltOut_iff.2 ho) h9
    obtain ⟨v, hv, hmode, -, hcause, hkept⟩ := exec_block_halts hm (exec_voltReading ht hm heq) hcfg
    exact ⟨v, hv, hmode, hcause, by rw [hkept, hvolts]⟩
  · exact exec_processReading ht hm (State.procReading_calm fun i hi =>
      Bool.eq_false_iff.2 fun ho => hq i ((hslow i).2 ⟨hi, TileHealth.oscSlow_iff.1 ho⟩))
  · obtain ⟨h4, ho⟩ := (hslow i).1 hi
    refine ⟨_, exec_processReading ht hm rfl, ?_⟩
    rw [State.procReading_slow_health hok h4 (TileHealth.oscSlow_iff.2 ho)]
    exact ⟨rfl, rfl, TileHealth.aged_due, fun a => TileHealth.aged_soon,
      fun hp => by rw [State.procReading_slow h4 (TileHealth.oscSlow_iff.2 ho), if_pos hp]; rfl⟩
  · exact exec_sensorFail ht hm (State.sensorOut_leaves hlt hk)
  · exact exec_sensorFail ht hm (State.sensorOut_same hs)
  · have h0' : kind.toNat ≠ 0 := fun hz => h0 (BitVec.eq_of_toNat_eq hz)
    rw [← sensorsOf_other kind h0, ← TileHealth.sensorGone_other h0', ← TileHealth.withoutSensor_other h0']
    exact ⟨fun hlt hk => exec_sensorFail ht hm (State.sensorOut_leaves hlt hk),
      fun hs => exec_sensorFail ht hm (State.sensorOut_same hs)⟩

end Sys2Proof.Machine
end

section
/-! SUPPORT. The TAP's instructions, its network of instruments and MGT_ACCESS (19 R488 to R492); BIST runs and repair burns (19 R493
to R498). The statements on test access. -/

namespace Sys2Proof.Machine

open Sys2Proof.Safety

/-! ### The TAP's instructions (19 R488, R489) -/

/-- An instruction in the instruction register. -/
def State.irLoaded (s : State) (code : Nat) : State := { s with test := { s.test with ir := code } }

theorem tapAllows_extest {s : State} : s.tapAllows 0x00 = true ↔ s.lcState ≠ 0 ∧ (s.cfg.mode = .boot ∨ s.cfg.mode = .halted) := by
  simp [State.tapAllows]

theorem tapAllows_scan {s : State} : s.tapAllows 0x20 = true ↔ s.lcState = 1 := by
  simp [State.tapAllows]

theorem tapAllows_ijtag {s : State} : s.tapAllows 0x10 = true ↔ s.lcState ≠ 0 := by
  simp [State.tapAllows]

theorem tapAllows_mgtAccess {s : State} : s.tapAllows 0x11 = true ↔ s.lcState ≠ 0 := by
  simp [State.tapAllows]

section
variable {s : State} {v : Nat} (hm : s.cfg.mode ≠ .off)
include hm

theorem exec_idcode : exec .idcode s = .next { s with test := { s.test with ir := 0x02, out := s.idCode } } :=
  congrArg _ (State.tap_allowed hm rfl _)

theorem exec_bypass (code : BitVec 8) :
    exec (.bypass code) s = .next { s with test := { s.test with ir := code.toNat, bypassBit := false, out := 0 } } :=
  next_whenever_on (decide_eq_true hm) rfl

theorem exec_samplePreload : exec (.samplePreload v) s = .next ((s.irLoaded 0x01).boundaryScan v) :=
  congrArg _ (State.tap_allowed hm rfl _)

theorem exec_extest_taken (hlc : s.lcState ≠ 0) (hmode : s.cfg.mode = .boot ∨ s.cfg.mode = .halted) :
    exec (.extest v) s = .next ((s.irLoaded 0x00).boundaryScan v) :=
  congrArg _ (State.tap_allowed hm (tapAllows_extest.2 ⟨hlc, hmode⟩) _)

theorem exec_extest_bypassed (h : s.lcState = 0 ∨ (s.cfg.mode ≠ .boot ∧ s.cfg.mode ≠ .halted)) :
    exec (.extest v) s = .next { s with test := { s.test with ir := 0x00, bypassBit := false, out := 0 } } := by
  have hno : s.tapAllows 0x00 = false := by
    rw [← Bool.not_eq_true, tapAllows_extest]
    tauto
  exact congrArg _ (State.tap_bypassed hm hno _)

theorem exec_scan_taken (h : s.lcState = 1) : exec (.scan v) s = .next (s.irLoaded 0x20).shiftFree :=
  congrArg _ (State.tap_allowed hm (tapAllows_scan.2 h) _)

theorem exec_scan_bypassed (h : s.lcState ≠ 1) :
    exec (.scan v) s = .next { s with test := { s.test with ir := 0x20, bypassBit := false, out := 0 } } := by
  have hno : s.tapAllows 0x20 = false := by
    rwa [← Bool.not_eq_true, tapAllows_scan]
  exact congrArg _ (State.tap_bypassed hm hno _)

end

/-! ### Acceptance of a BIST command (19 R494) -/

section
variable {s : State} {v : Nat}

theorem State.bistAccepts_busy (h : tget 0 s.test.running (cmdTile v) ≠ 0) : s.bistAccepts v = false := by
  simp [State.bistAccepts, h]

/-- A bank in live control planes is not tested: TARGET 010b on a tile in service, in MAINT. -/
theorem State.bistAccepts_liveBank (h2 : cmdTarget v = 2) (hmode : s.cfg.mode = .maint) (hin : cmdTile v ∉ s.errs.tileOut) :
    s.bistAccepts v = false := by
  simp [State.bistAccepts, h2, hmode, hin]

section
variable (ht : s.hasTile (cmdTile v) = true) (hfree : tget 0 s.test.running (cmdTile v) = 0) (hi : s.indexOk v = true)
include ht hfree hi

theorem State.bistAccepts_core (h1 : cmdTarget v ≤ 1)
    (hmode : s.cfg.mode = .ready ∨ s.cfg.mode = .drain ∨ s.cfg.mode = .maint ∨ s.cfg.mode = .halted) : s.bistAccepts v = true := by
  have htarget : cmdTarget v = 0 ∨ cmdTarget v = 1 := by omega
  simp only [State.bistAccepts, ht, hfree, hi, decide_true, Bool.true_and]
  rcases htarget with h | h <;> simp [h, hmode, or_assoc]

theorem State.bistAccepts_link (h4 : cmdTarget v = 4) (hmode : s.cfg.mode = .maint ∨ s.cfg.mode = .halted) :
    s.bistAccepts v = true := by
  simp only [State.bistAccepts, ht, hfree, hi, h4, decide_true, Bool.true_and]
  simp [hmode]

end

/-! ### A BIST command (19 R493, R494) -/

theorem State.startBist_idle (hs : bit v 31 = false) : s.startBist v = s :=
  if_pos (by rw [hs]; rfl)

theorem State.startBist_refused (hs : bit v 31 = true) (h : s.bistAccepts v = false) :
    s.startBist v = { s with test := { s.test with bistRefused := true } } := by
  unfold State.startBist
  rw [hs, h]
  rfl

/-- A run under way on the tile named, its cores out of service. -/
theorem State.startBist_accepted (hs : bit v 31 = true) (h : s.bistAccepts v = true) : ∃ x : Test,
    s.startBist v = { s with test := x, errs := { s.errs with
      coresOut := (s.underTest v).foldl (fun l k => insertKey k l) s.errs.coresOut } } ∧
    x.running = tset 0 s.test.running (cmdTile v) v ∧ x.bistState = 1 ∧ x.bistRefused = s.test.bistRefused ∧
    x.ir = s.test.ir ∧ x.segments = s.test.segments := by
  unfold State.startBist
  rw [hs, h]
  exact ⟨_, rfl, rfl, rfl, rfl, rfl, rfl⟩

theorem State.underTest_link (h4 : cmdTarget v = 4) : s.underTest v = [] := by
  unfold State.underTest
  rw [h4]
  rfl

end

/-! ### A burn (19 R498) -/

section
variable {s : State} {t entry : Nat}

theorem State.startBurn_taken (ht : s.hasTile t = true) (hfree : s.test.repairBusy = none)
    (hroom : (tget [] s.test.repair t).length < repairEntries) :
    s.startBurn t entry true = { s with test := { s.test with repairTile := some t, repairBusy := some (t, entry) } } := by
  refine if_pos ?_
  simp only [hfree, Bool.true_and, Bool.and_eq_true]
  exact ⟨⟨ht, rfl⟩, by simpa using hroom⟩

theorem State.startBurn_failed {allowed : Bool} (h : allowed = false ∨ s.hasTile t = false ∨ s.test.repairBusy ≠ none ∨
      repairEntries ≤ (tget [] s.test.repair t).length) :
    s.startBurn t entry allowed = { s with test := { s.test with repairTile := some t, repairFail := true } } := by
  refine if_neg ?_
  simp only [Bool.and_eq_true, Bool.not_eq_true', decide_eq_false_iff_not, Option.isNone_iff_eq_none]
  rintro ⟨⟨⟨ha, ht⟩, hfree⟩, hroom⟩
  rcases h with h | h | h | h
  · exact Bool.false_ne_true (h.symm.trans ha)
  · exact Bool.false_ne_true (h.symm.trans ht)
  · exact h hfree
  · exact hroom h

end

/-! ### The network of instruments (19 R492) -/

/-- What an instrument may change once its segment is open: the test logic, but not the instruction or the segments, and which
cores are in service. -/
def InstrumentActs (s t : State) : Prop :=
  ∃ (x : Test) (l : List Nat), t = { s with test := x, errs := { s.errs with coresOut := l } } ∧ x.ir = s.test.ir ∧
    x.segments = s.test.segments

theorem State.startBist_acts (s : State) (v : Nat) : InstrumentActs s (s.startBist v) := by
  cases hs : bit v 31 with
  | false => exact ⟨_, _, State.startBist_idle hs, rfl, rfl⟩
  | true =>
    cases ha : s.bistAccepts v with
    | false => exact ⟨_, _, State.startBist_refused hs ha, rfl, rfl⟩
    | true =>
      obtain ⟨x, hx, -, -, -, hir, hseg⟩ := State.startBist_accepted hs ha
      exact ⟨x, _, hx, hir, hseg⟩

theorem State.startBurn_acts (s : State) (t entry : Nat) (allowed : Bool) : InstrumentActs s (s.startBurn t entry allowed) := by
  unfold State.startBurn
  dsimp only
  split
  · exact ⟨_, _, rfl, rfl, rfl⟩
  · exact ⟨_, _, rfl, rfl, rfl⟩

/-- The segment bit of an instrument open, and what the network shifts out. -/
def State.segmentOpened (s : State) (t : Nat) (x : Instrument) : State :=
  ({ s with test := { s.test with segments := insertKey (t * 8 + instrumentPlace x) s.test.segments } } : State).shiftFree

section
variable {s : State} {t : Nat} {x : Instrument}

theorem State.useInstrument_closed (h : s.instrumentOk t x = false) : s.useInstrument t x = s.shiftOut 0 :=
  if_pos (by rw [h]; rfl)

theorem State.useInstrument_acts (h : s.instrumentOk t x = true) : InstrumentActs (s.segmentOpened t x) (s.useInstrument t x) := by
  unfold State.useInstrument
  rw [h]
  cases x with
  | bist c => exact State.startBist_acts _ _
  | repair e => exact State.startBurn_acts _ _ _ _
  | ucie m v => exact ⟨_, _, rfl, rfl, rfl⟩
  | sensors => exact ⟨_, _, rfl, rfl, rfl⟩
  | worlek v => exact ⟨_, _, rfl, rfl, rfl⟩

end

theorem exec_ijtag {s : State} {tile : BitVec 5} (hm : s.cfg.mode ≠ .off) (hlc : s.lcState ≠ 0) (ht : s.hasTile tile.toNat = true)
    (x : Instrument) : exec (.ijtag tile x) s = .next ((s.irLoaded 0x10).useInstrument tile.toNat x) :=
  onTile_next_of_eq ht (State.tap_allowed hm (tapAllows_ijtag.2 hlc) _)

/-- Settles O15: each instruction by the equation of the case that it meets, an open instrument by what it may change. -/
theorem tapIdentifiesScansAndOpens : Obligations.TapIdentifiesScansAndOpens := by
  refine ⟨fun s => ⟨rfl, fun hm => ⟨exec_idcode hm, exec_bypass hm⟩⟩, fun s v hm => ⟨⟨_, exec_samplePreload hm, rfl, rfl, rfl⟩,
    fun hlc hmode => ⟨_, exec_extest_taken hm hlc hmode, rfl, rfl, rfl⟩, exec_extest_bypassed hm,
    fun hlc => ⟨_, exec_scan_taken hm hlc, rfl, rfl, rfl⟩, exec_scan_bypassed hm⟩,
    fun s tile x hm hlc ht => ⟨fun hok => ?_, fun hno => ?_⟩⟩
  · obtain ⟨y, l, heq, hir, hseg⟩ := State.useInstrument_acts (s := s.irLoaded 0x10) (t := tile.toNat) (x := x) hok
    refine ⟨_, (exec_ijtag hm hlc ht x).trans (congrArg _ heq), ?_, hir, ⟨rfl, rfl, rfl, rfl⟩, ⟨rfl, rfl, rfl, rfl, rfl⟩, rfl, rfl,
      rfl, rfl, rfl⟩
    rw [hseg]
    exact mem_insertKey_self _ _
  · exact (exec_ijtag hm hlc ht x).trans (congrArg _ (State.useInstrument_closed (s := s.irLoaded 0x10) hno))

/-! ### MGT_ACCESS (19 R490) -/

theorem exec_mgtAccess {s : State} (hm : s.cfg.mode ≠ .off) (hlc : s.lcState ≠ 0) (word : BitVec 16) (write : Bool) (data : BitVec 32) :
    exec (.mgtAccess word write data) s = .next ((s.irLoaded 0x11).tapAccess word.toNat write data.toNat) :=
  congrArg _ (State.tap_allowed hm (tapAllows_mgtAccess.2 hlc) _)

section
variable {s s1 : State} (word data : Nat) (h1 : s1 = s.shiftOut s.test.captured)
include h1

theorem State.tapAccess_read : s.tapAccess word false data =
    ((s1.mgtRead tapRequester (4 * word)).1).accessDone ((s1.mgtRead tapRequester (4 * word)).2.getD 0)
      (s1.mgtRead tapRequester (4 * word)).2.isSome := by
  subst h1
  rfl

theorem State.tapAccess_retired (h4 : s.lcState = 4) : s.tapAccess word true data = s1.accessDone data false := by
  subst h1
  exact if_pos (decide_eq_true h4)

theorem State.tapAccess_write (h4 : s.lcState ≠ 4) :
    s.tapAccess word true data = ((s1.tapWrite (4 * word) data).1).accessDone data (s1.tapWrite (4 * word) data).2 := by
  subst h1
  have hno : (s.shiftOut s.test.captured).lcState ≠ 4 := h4
  unfold State.tapAccess
  dsimp only
  rw [Bool.true_and, if_neg (mt of_decide_eq_true hno)]
  rfl

end

section
variable {s : State} {off v : Nat}

theorem State.tapWrite_plain (h : isAttach off v = false) : s.tapWrite off v = s.mgtWrite off v [] := by
  unfold State.tapWrite
  rw [h]
  rfl

theorem State.tapWrite_attach (h : isAttach off v = true) : s.tapWrite off v = s.asks.mgtWrite 0xE000 v s.freeNonce := by
  obtain ⟨rfl, -⟩ : off = 0xE000 ∧ bits v 1 0 = 1 := by
    simpa [isAttach] using h
  exact if_pos h

end

/-- Settles O17: a read, and the three ways of a write, each by its equation. -/
theorem mgtAccessReadsAndWrites : Obligations.MgtAccessReadsAndWrites := by
  intro s s1 word data hm hlc h1
  have hexec (write : Bool) := exec_mgtAccess hm hlc word write data
  have hs1 : s1 = (s.irLoaded 0x11).shiftOut (s.irLoaded 0x11).test.captured := h1
  refine ⟨?_, fun h4 => ?_, fun h4 hna => ?_, fun h4 ha => ?_⟩
  · exact (hexec false).trans (congrArg _ (State.tapAccess_read _ _ hs1))
  · exact (hexec true).trans (congrArg _ (State.tapAccess_retired _ _ hs1 h4))
  · rw [hexec true, State.tapAccess_write _ _ hs1 h4, State.tapWrite_plain hna]
  · rw [hexec true, State.tapAccess_write _ _ hs1 h4, State.tapWrite_attach ha]

/-! ### Writes of the test registers (19 R499) -/

/-- Writes of the test block are taken in HALTED too (14 R398). -/
theorem State.checkWrite_test {s : State} {off v : Nat} {fs : List Fld} (h : Managed s ∨ s.cfg.mode = .halted)
    (hf : s.fields off = some fs) (hlo : 0x18000 ≤ off) (hhi : off < 0x20000) (hr : fs.any (fun f => f.reserved v) = false) :
    s.checkWrite off v = .take fs := by
  obtain ⟨h4, hin⟩ := State.fields_aligned_inside hf
  rcases h with hm | hh
  · exact State.checkWrite_managed hm hf h4 hin hr
  · have htaken : s.writeRefused off = false := by
      simp [State.writeRefused, hh, hlo, hhi]
    unfold State.checkWrite
    rw [if_neg (by omega), htaken, hf]
    simp [hr]

section
variable {s : State} {q : Req} {v : BitVec 32} (ha : Arrives s q) (hw : Managed s ∨ s.cfg.mode = .halted)
include ha hw

/-- TARGETs 110b and 111b alone are reserved (19 R493). -/
theorem exec_bistStart (h5 : cmdTarget v.toNat ≤ 5) :
    exec (.bistStart q v) s = .next ((s.startBist v.toNat).answer q true 0) := by
  have hr : Fld.reserved ⟨2, 0, .wo, [(6, 7)]⟩ v.toNat = false := by
    have h6 : ¬ 6 ≤ bits v.toNat 2 0 := Nat.not_le.2 (Nat.lt_succ_of_le h5)
    simp [Fld.reserved, Fld.get, h6]
  have hc := State.checkWrite_test (v := v.toNat) hw (off := 0x18000) rfl (by decide) (by decide)
    (List.any_cons.trans (by rw [hr]; rfl))
  exact (State.writeFrom_arrives ha).trans (congrArg _ (State.hostWrite_taken ha hc rfl rfl rfl))

theorem exec_burn (hb : bit v.toNat 0 = true) : exec (.burn q v) s = .next ((s.startBurn (bits v.toNat 5 1) (s.reg 0x18020)
    (decide (s.cfg.mode = .maint ∨ s.cfg.mode = .halted))).answer q true 0) := by
  have hc := State.checkWrite_test (v := v.toNat) hw (off := 0x18024) rfl (by decide) (by decide) rfl
  rw [Bool.decide_or]
  exact (State.writeFrom_arrives ha).trans (congrArg _ ((State.hostWrite_taken ha hc rfl rfl rfl).trans
    (congrArg (fun t : State => t.answer q true 0) (if_pos hb))))

end

/-! ### The end of a BIST run (19 R495, 03 R76) -/

/-- Whether a run has passed: its own result is good and no core under test has met a conflict. -/
def State.runPasses (u : State) (v : Nat) (r : BistResult) : Bool :=
  bistGood r (cmdTarget v) u.test.bistExp && !(u.underTest v).any (fun k => u.cores.conflicts.contains k)

theorem State.runPasses_iff {u : State} {v : Nat} {r : BistResult} : u.runPasses v r = true ↔
    bistGood r (cmdTarget v) u.test.bistExp = true ∧ ∀ k ∈ u.underTest v, k ∉ u.cores.conflicts := by
  simp [State.runPasses]

/-- A tile's controller free, and the result of its run shown. -/
def Test.runShown (x : Test) (t : Nat) (pass : Bool) (r : BistResult) : Test :=
  { x with
    running := tset 0 x.running t 0, bistState := if pass then 2 else 3, bistTile := t, bistErrors := r.errors.toNat
    bistFail := r.failAddr.toNat, bistSig := r.signature.toNat }

/-- The state that shows it, with the conflict records of the tile dropped. -/
def State.runShown (u : State) (t : Nat) (pass : Bool) (r : BistResult) : State :=
  { u with
    cores := { u.cores with conflicts := u.cores.conflicts.filter (fun k => k / 4096 ≠ t) }
    test := u.test.runShown t pass r }

/-- All that `still` holds but the test logic is as it was. -/
theorem same_of_still_test {s t : State} {x : Test} (h : t.still = { s.still with test := x }) :
    t.test = x ∧ SamePart s t ∧ SameSeals s t :=
  ⟨congrArg Still.test h,
    ⟨congrArg Still.part h, congrArg Still.stepping h, congrArg Still.fuses h, congrArg Still.pending h⟩,
    ⟨congrArg Still.seals h, congrArg Still.lcState h, congrArg Still.wiped h, congrArg Still.tamperSeen h,
      congrArg Still.wipeCount h⟩⟩

section
variable {s u : State} {t v : Nat} {r : BistResult}

theorem State.coresTested_keeps (h : Keeps u s) (l : List Nat) (pass : Nat → Bool) :
    Keeps u (l.foldl (fun s k => s.coreTested (pass k) k) s) :=
  Keeps.foldl (fun _ k h => State.coreTested_keeps h (pass k) k) h l

variable (hv : tget 0 s.test.running t = v) (h0 : v ≠ 0) (hu : u = s.memEvents r.met)
include hv h0 hu

/-- What R495 asks of the target once the result is shown leaves the test logic alone. -/
theorem State.bistEnds_keeps : Keeps (u.runShown t (u.runPasses v r) r) (s.bistEnds t r) := by
  subst hu
  have k := Keeps.refl ((s.memEvents r.met).runShown t ((s.memEvents r.met).runPasses v r) r)
  unfold State.bistEnds
  dsimp only
  rw [hv, if_neg h0]
  split
  · exact State.coresTested_keeps k _ _
  · exact State.coresTested_keeps k _ _
  · exact State.rebuildBank_keeps k _ _
  · exact State.rebuildFrames_keeps k _
  · exact State.rebuildBank_keeps (State.rebuildBank_keeps (State.coresTested_keeps
      (State.rebuildBank_keeps (State.rebuildFrames_keeps k _) _ _) _ _) _ _) _ _
  · exact k

/-- Of a link it asks nothing. -/
theorem State.bistEnds_link (h4 : cmdTarget v = 4) : s.bistEnds t r = u.runShown t (u.runPasses v r) r := by
  subst hu
  unfold State.bistEnds
  dsimp only
  rw [hv, if_neg h0, State.runPasses, h4]
  rfl

theorem State.bistEnds_still :
    (s.bistEnds t r).still = { s.still with test := s.test.runShown t (u.runPasses v r) r } := by
  have hmet : u.still = s.still := hu ▸ (State.memEvents_keeps (Keeps.refl s) r.met).still
  refine (State.bistEnds_keeps hv h0 hu).still.trans ?_
  have hshown : (u.runShown t (u.runPasses v r) r).still =
      { u.still with test := u.still.test.runShown t (u.runPasses v r) r } := rfl
  rw [hshown, hmet]
  rfl

end

/-! ### The end of a burn (19 R498) -/

theorem State.burnEnds_busy {s : State} {b : Nat × Nat} (h : s.test.repairBusy = some b) (good : Bool) :
    s.burnEnds good = { s with test := { s.test with
      repairBusy := none
      repair := tset [] s.test.repair b.1 (tget [] s.test.repair b.1 ++ [if good then b.2 else 2 ^ 32 + b.2])
      repairFail := s.test.repairFail || !good } } := by
  unfold State.burnEnds
  rw [h]

/-- Settles O27: BIST commands and burns by whether they are accepted, the end of a run by what it keeps, that of a burn by its
equation. -/
theorem bistAndBurnsRun : Obligations.BistAndBurnsRun := by
  refine ⟨fun s q v ha hw hs h5 => ⟨fun ht hfree hi => ⟨fun h1 hinit hpair => ?_, fun h4 hmode => ?_, fun h2 hmode hin => ?_⟩,
      fun hbusy => ?_⟩, fun s q v ha hw hb => ⟨fun hmode ht hfree hroom => ?_, fun hno => ?_⟩,
    fun s u tile r ht h0 hu => ?_, fun s tile entry hbusy => ⟨?_, ?_⟩⟩
  · have hmode : s.cfg.mode = .ready ∨ s.cfg.mode = .drain ∨ s.cfg.mode = .maint ∨ s.cfg.mode = .halted := by
      tauto
    obtain ⟨x, heq, hrun, hst, href, -, -⟩ := State.startBist_accepted hs (State.bistAccepts_core ht hfree hi h1 hmode)
    refine ⟨_, exec_bistStart ha hw h5, ?_⟩
    rw [heq]
    exact ⟨hrun, hst, href, fun k hk => mem_foldl_insertKey.2 (.inl hk), rfl⟩
  · obtain ⟨x, heq, hrun, hst, -, -, -⟩ := State.startBist_accepted hs (State.bistAccepts_link ht hfree hi h4 hmode)
    refine ⟨_, exec_bistStart ha hw h5, ?_⟩
    rw [heq, State.underTest_link h4]
    exact ⟨hrun, hst, rfl⟩
  · rw [exec_bistStart ha hw h5, State.startBist_refused hs (State.bistAccepts_liveBank h2 hmode hin)]
  · rw [exec_bistStart ha hw h5, State.startBist_refused hs (State.bistAccepts_busy hbusy)]
  · rw [exec_burn ha hw hb, decide_eq_true hmode, State.startBurn_taken ht hfree hroom]
  · rw [exec_burn ha hw hb, State.startBurn_failed]
    exact hno.imp_left fun hm => decide_eq_false (not_or.2 hm)
  · obtain ⟨hshown, hpart, hseals⟩ := same_of_still_test (State.bistEnds_still rfl h0 hu)
    have htest : u.test = s.test := hu ▸ congrArg Still.test (State.memEvents_keeps (Keeps.refl s) r.met).still
    refine ⟨_, onTile_of_hasTile ht, hshown.trans ?_, hpart, hseals, fun h4 => ?_⟩
    · simp only [Test.runShown, State.runPasses_iff, htest]
    · rw [State.bistEnds_link rfl h0 hu h4]
      rfl
  · exact congrArg _ ((State.burnEnds_busy hbusy true).trans (by rw [Bool.not_true, Bool.or_false]; rfl))
  · exact congrArg _ ((State.burnEnds_busy hbusy false).trans (by rw [Bool.not_false, Bool.or_true]; rfl))

end Sys2Proof.Machine
end
